-- ==== Sys2Proof/Word.lean ====
section
/-! DEFINITION. Bytes, numbers as byte strings, bit fields of a number, and the sparse map every table of the
machine is held in. Section and rule numbers (R<n>) in every file of this package are those of spec/. -/

namespace Sys2Proof

/-- One byte of a shared-memory format, of a fabric beat or of internal memory. -/
abbrev Byte := BitVec 8

/-- A byte string, first byte first. -/
abbrev Bytes := List Byte

/-- A byte with the value of `n` modulo 256. -/
def byteOf (n : Nat) : Byte := BitVec.ofNat 8 n

/-- The number a little-endian byte string spells (R12). -/
def leNat : Bytes → Nat
  | [] => 0
  | b :: bs => b.toNat + 256 * leNat bs

/-- The `n`-byte little-endian string of `v` modulo 256^n (R12). -/
def natLe : Nat → Nat → Bytes
  | 0, _ => []
  | n + 1, v => byteOf v :: natLe n (v / 256)

/-- The number a big-endian byte string spells. -/
def beNat (bs : Bytes) : Nat := leNat bs.reverse

/-- The `n`-byte big-endian string of `v` modulo 256^n. -/
def natBe (n v : Nat) : Bytes := (natLe n v).reverse

/-- Bits [lo + w - 1 : lo] of `v`. -/
def bitsAt (v lo w : Nat) : Nat := v / 2 ^ lo % 2 ^ w

/-- Bit `i` of `v` as a truth value. -/
def bitAt (v i : Nat) : Bool := v / 2 ^ i % 2 == 1

/-- `v` with bit `i` set. -/
def setBit (v i : Nat) : Nat := v ||| 2 ^ i

/-- `v` with bit `i` clear. -/
def clearBit (v i : Nat) : Nat := if bitAt v i then v - 2 ^ i else v

/-- The number of set bits among bits [n-1:0] of `v`. -/
def popCount : Nat → Nat → Nat
  | 0, _ => 0
  | n + 1, v => v % 2 + popCount n (v / 2)

/-- The lowest set bit among bits [n-1:0] of `v`. -/
def lowestBit (n v : Nat) : Option Nat := (List.range n).find? (bitAt v)

/-- `a` divided by `b`, rounded up. -/
def ceilDiv (a b : Nat) : Nat := (a + b - 1) / b

/-- One as the value of a set truth value, zero otherwise. -/
def bit (b : Bool) : Nat := if b then 1 else 0

/-- `n` bytes of value zero. -/
def zeros (n : Nat) : Bytes := List.replicate n 0

/-- The bytes `off` to `off + n - 1` of a string; bytes beyond its end read as zero. -/
def slice (bs : Bytes) (off n : Nat) : Bytes :=
  let t := (bs.drop off).take n
  t ++ zeros (n - t.length)

/-- The exclusive-or of two strings, as long as the shorter. -/
def xorBytes (a b : Bytes) : Bytes := List.zipWith (fun x y => x ^^^ y) a b

/-- `bs` cut into pieces of `n` bytes, the last one possibly shorter; `fuel` bounds the pieces. -/
def chunksFuel (n : Nat) : Nat → Bytes → List Bytes
  | 0, _ => []
  | fuel + 1, bs => if bs.isEmpty then [] else bs.take n :: chunksFuel n fuel (bs.drop n)

/-- `bs` cut into pieces of `n` bytes. -/
def chunks (n : Nat) (bs : Bytes) : List Bytes := chunksFuel n (bs.length / (max n 1) + 1) bs

/-- Replace element `i` of a list. -/
def listSet {α : Type} : List α → Nat → α → List α
  | [], _, _ => []
  | _ :: xs, 0, a => a :: xs
  | x :: xs, i + 1, a => x :: listSet xs i a

/-- `bs` with the bytes `new` written from offset `off` on; bytes beyond the end are dropped. -/
def patch (bs : Bytes) (off : Nat) (new : Bytes) : Bytes :=
  bs.take off ++ (new.take (bs.length - off)) ++ bs.drop (off + new.length)

/-- Two's complement of a signed number in `w` bits. -/
def signedBits (w : Nat) (z : Int) : Nat := (z % (2 ^ w : Int)).toNat

/-- The signed number that `w` bits spell in two's complement. -/
def bitsSigned (w v : Nat) : Int := if v % 2 ^ w < 2 ^ (w - 1) then ((v % 2 ^ w : Nat) : Int) else ((v % 2 ^ w : Nat) : Int) - 2 ^ w

/-- A sparse map by number: pairs with strictly rising keys. -/
abbrev SMap (β : Type) := List (Nat × β)

/-- What a key maps to. -/
def SMap.get? {β : Type} : SMap β → Nat → Option β
  | [], _ => none
  | (k, v) :: m, i => if k = i then some v else SMap.get? m i

/-- What a key maps to, or a default. -/
def SMap.getD {β : Type} (m : SMap β) (i : Nat) (d : β) : β := (SMap.get? m i).getD d

/-- The map with key `i` taken to `b`. -/
def SMap.set {β : Type} : SMap β → Nat → β → SMap β
  | [], i, b => [(i, b)]
  | (k, v) :: m, i, b =>
    if i < k then (i, b) :: (k, v) :: m
    else if i = k then (i, b) :: m
    else (k, v) :: SMap.set m i b

/-- The map without key `i`. -/
def SMap.erase {β : Type} : SMap β → Nat → SMap β
  | [], _ => []
  | (k, v) :: m, i => if k = i then m else (k, v) :: SMap.erase m i

/-- Every key of the map is above `lo`. -/
def SMap.above {β : Type} (lo : Nat) (m : SMap β) : Prop := ∀ p ∈ m, lo < p.1

/-- The canonical form: keys strictly rise. -/
def SMap.Wf {β : Type} : SMap β → Prop
  | [] => True
  | p :: m => SMap.above p.1 m ∧ SMap.Wf m

end Sys2Proof
end

