-- ==== Sys2Proof/Syntax.lean ====
section
/-! DEFINITION. The commands of the block: one constructor for each row of spec/opcode_table.json, in the table's order.
Operands carry what comes from outside: the source port and tag of a register access (R33), addresses and data, fabric
beats, samples, and the outcome of a physical event that the spec leaves to the world (a program attempt that verifies
or not). `src` is TQ_PORT and `id` TQ_ID. A step of a chain is named by its spikelet (`job`, spike × 16 + spikelet) and
its step number. `host` is what the buffer that a command reads holds, as its sender knows it; no meaning reads it, since the bytes
reach the block by READ_BEAT (R24, log entry 11). -/

namespace Sys2Proof

/-- One reading of a junction sensor in 1/8 °C, or none for the sensor's own conversion failure (R176). -/
abbrev SensorReading := Option (BitVec 12)

/-- The commands. -/
inductive Instr where
  | porstNAssert
  | porstNDeassert (strap : BitVec 2)
  | srstNAssert
  | rstDrainDone
  | srstNDeassert
  | supplyLoss
  | clkRatio (edges : BitVec 8)
  | readBeat (port : BitVec 4) (tag : BitVec 9) (beat : BitVec 6) (data : BitVec 512) (err poison : Bool)
  | writeResponse (port : BitVec 4) (tag : BitVec 8) (err : Bool)
  | creditReturn (port : BitVec 4) (req wd : BitVec 2)
  | fabricTimeout (port : BitVec 4) (isWrite : Bool) (tag : BitVec 9)
  | regWrite (src id : BitVec 8) (wide : Bool) (addr : BitVec 25) (data : BitVec 64)
  | peekRead (src id : BitVec 8) (wide : Bool) (addr : BitVec 25)
  | rcRegisterRead (src id : BitVec 8) (wide : Bool) (addr : BitVec 25)
  | swpDataRead (src id : BitVec 8)
  | noticeRead (src id : BitVec 8)
  | logDataRead (src id : BitVec 8)
  | doorbell (src id : BitVec 8) (wide : Bool) (page : BitVec 8) (slot : BitVec 9)
  | stashCopy (line : BitVec 42) (data : BitVec 512) (be : BitVec 64) (port : BitVec 8)
  | stashInval (line : BitVec 42)
  | sntSample (code : BitVec 16)
  | sntStale
  | pfFlushDone
  | unitEnable (src id page : BitVec 8) (ctl : BitVec 32)
  | unitEnableDone (page : BitVec 8) (katFail : BitVec 32)
  | unitDisable (src id page : BitVec 8) (ctl : BitVec 32)
  | unitDisableDone (page : BitVec 8)
  | evtForce (src id page : BitVec 8) (bits : BitVec 32)
  | fecClear (src id : BitVec 8) (addr : BitVec 25)
  | unlock (src id page : BitVec 8) (value : BitVec 32)
  | unlockExpire (page : BitVec 8)
  | ppDbMapWrite (src id port : BitVec 8) (slot : BitVec 9) (value : BitVec 32)
  | ptCtlWrite (src id port : BitVec 8) (value : BitVec 32)
  | ptMsiWrite (src id port : BitVec 8) (value : BitVec 32)
  | sqEnable (src id : BitVec 8) (sq : BitVec 13) (ctl : BitVec 32)
  | sqDisable (src id : BitVec 8) (sq : BitVec 13) (ctl : BitVec 32)
  | sqDrainDone (sq : BitVec 13)
  | sqResume (src id : BitVec 8) (sq : BitVec 13) (ctl : BitVec 32)
  | cqEnable (src id : BitVec 8) (cq : BitVec 13) (ctl : BitVec 32)
  | cqDisable (src id : BitVec 8) (cq : BitVec 13) (ctl : BitVec 32)
  | vecCtlWrite (src id : BitVec 8) (value : BitVec 32)
  | stwSizeWrite (src id : BitVec 8) (n : BitVec 4) (value : BitVec 32)
  | scanVisit
  | entryDispatch
  | binsReserved
  | kccFillDone (fill : BitVec 4)
  | keyRefused (n : BitVec 12)
  | nop (job : BitVec 9) (step : BitVec 3)
  | gate (job : BitVec 9) (step : BitVec 3)
  | move (job : BitVec 9) (step : BitVec 3)
  | fill (job : BitVec 9) (step : BitVec 3)
  | compare (job : BitVec 9) (step : BitVec 3)
  | ecb (job : BitVec 9) (step : BitVec 3) (checks skipped : BitVec 16)
  | cbc (job : BitVec 9) (step : BitVec 3) (checks skipped : BitVec 16)
  | ctr (job : BitVec 9) (step : BitVec 3) (checks skipped : BitVec 16)
  | xts (job : BitVec 9) (step : BitVec 3) (checks skipped : BitVec 16)
  | gcm (job : BitVec 9) (step : BitVec 3) (checks skipped : BitVec 16)
  | gmac (job : BitVec 9) (step : BitVec 3) (checks skipped : BitVec 16)
  | ccm (job : BitVec 9) (step : BitVec 3) (checks skipped : BitVec 16)
  | gcmSiv (job : BitVec 9) (step : BitVec 3) (checks skipped : BitVec 16)
  | cmac (job : BitVec 9) (step : BitVec 3) (checks skipped : BitVec 16)
  | kw (job : BitVec 9) (step : BitVec 3) (checks skipped : BitVec 16)
  | kwp (job : BitVec 9) (step : BitVec 3) (checks skipped : BitVec 16)
  | sha256 (job : BitVec 9) (step : BitVec 3)
  | sha224 (job : BitVec 9) (step : BitVec 3)
  | sha384 (job : BitVec 9) (step : BitVec 3)
  | sha512 (job : BitVec 9) (step : BitVec 3)
  | sha3x256 (job : BitVec 9) (step : BitVec 3)
  | sha3x384 (job : BitVec 9) (step : BitVec 3)
  | sha3x512 (job : BitVec 9) (step : BitVec 3)
  | shake128 (job : BitVec 9) (step : BitVec 3)
  | shake256 (job : BitVec 9) (step : BitVec 3)
  | hmacSha256 (job : BitVec 9) (step : BitVec 3)
  | hmacSha384 (job : BitVec 9) (step : BitVec 3)
  | hmacSha512 (job : BitVec 9) (step : BitVec 3)
  | measureExtend (job : BitVec 9) (step : BitVec 3)
  | srgMac (job : BitVec 9) (step : BitVec 3)
  | modexp (job : BitVec 9) (step : BitVec 3)
  | rsaCrt (job : BitVec 9) (step : BitVec 3)
  | ecdsaSign (job : BitVec 9) (step : BitVec 3)
  | ecdsaVerify (job : BitVec 9) (step : BitVec 3)
  | ecdh (job : BitVec 9) (step : BitVec 3)
  | eddsaSign (job : BitVec 9) (step : BitVec 3)
  | eddsaVerify (job : BitVec 9) (step : BitVec 3)
  | x25519 (job : BitVec 9) (step : BitVec 3)
  | mlkemEncaps (job : BitVec 9) (step : BitVec 3)
  | mlkemDecaps (job : BitVec 9) (step : BitVec 3)
  | mlkemKeygen (job : BitVec 9) (step : BitVec 3)
  | mldsaSign (job : BitVec 9) (step : BitVec 3)
  | mldsaVerify (job : BitVec 9) (step : BitVec 3)
  | nttRaw (job : BitVec 9) (step : BitVec 3)
  | rngGenerate (job : BitVec 9) (step : BitVec 3)
  | rngReseed (job : BitVec 9) (step : BitVec 3)
  | keyDeriveInstall (job : BitVec 9) (step : BitVec 3)
  | keyUnwrapInstall (job : BitVec 9) (step : BitVec 3)
  | keyWrapExport (job : BitVec 9) (step : BitVec 3)
  | keyRevoke (job : BitVec 9) (step : BitVec 3)
  | hmacPrestate (job : BitVec 9) (step : BitVec 3)
  | keyGenerateInstall (job : BitVec 9) (step : BitVec 3)
  | keyStatus (job : BitVec 9) (step : BitVec 3)
  | revokeCommit (slot : BitVec 23)
  | stepEnd (job : BitVec 9) (step : BitVec 3)
  | completionWrite
  | sqReturn (sq : BitVec 13)
  | heldRelease (job : BitVec 9) (step : BitVec 3)
  | inverseCheckDone (job : BitVec 9) (step : BitVec 3) (mismatch : Bool)
  | splInjectWrite (src id : BitVec 8) (lane : BitVec 3) (value : BitVec 32)
  | suspendMove (job : BitVec 9) (step : BitVec 3) (lane : BitVec 3)
  | starveLimitExpire (job : BitVec 9) (step : BitVec 3)
  | holdEccUncorr (job : BitVec 9) (step : BitVec 3)
  | coreParityError (group : BitVec 2) (core : BitVec 5)
  | measBroken (reg : BitVec 6)
  | measSelWrite (src id : BitVec 8) (group : BitVec 2) (value : BitVec 32)
  | bankBind (job : BitVec 9) (step : BitVec 3)
  | bankLoaded (array : BitVec 4) (bank : BitVec 1)
  | bankWipeDone (array : BitVec 4) (bank : BitVec 1) (nonzero : Bool)
  | bankEccError (array : BitVec 4) (bank : BitVec 1)
  | tickBoundary
  | planBuild (s0 s1 s2 s3 s4 s5 s6 s7 : SensorReading)
  | gateTimeout (gate : BitVec 12)
  | overrideMwWrite (src id : BitVec 8) (value : BitVec 32)
  | profileSwitchApply
  | gsPost (src id : BitVec 8) (wide : Bool) (gate : BitVec 12) (value : BitVec 64)
  | gsGrantWrite (src id : BitVec 8) (gate : BitVec 12) (value : BitVec 32)
  | healthWindowEnd (cell : BitVec 4) (samples : BitVec 1024)
  | seedFormed (katFail : Bool)
  | reseedReqWrite (src id : BitVec 8) (value : BitVec 32)
  | cellClrWrite (src id : BitVec 8) (value : BitVec 32)
  | rawEnter (src id : BitVec 8) (value : BitVec 32)
  | rawExit (src id : BitVec 8) (value : BitVec 32)
  | capture (src id : BitVec 8) (value : BitVec 32)
  | captureDone (data : List (BitVec 8))
  | chaffClassify (corrupt : Bool) (kind : BitVec 12)
  | zeroizeDone
  | release (src id : BitVec 8) (value : BitVec 32)
  | ruleValWrite (src id : BitVec 8) (value : BitVec 32)
  | programAttemptDone (bank : BitVec 1) (verified : Bool)
  | logFlush
  | flushAgeExpire
  | flushDone
  | flush (src id : BitVec 8) (value : BitVec 32)
  | clockCheckpoint
  | granaryScanDone
  | logSeek (src id : BitVec 8) (value : BitVec 32)
  | logClear (src id : BitVec 8) (value : BitVec 32)
  | logClearDone
  | glumeStartupDone
  | lcReq (src id : BitVec 8) (value : BitVec 32)
  | lcTransitionDone
  | otpProg (src id : BitVec 8) (value : BitVec 32)
  | otpBurnDone (ok : Bool)
  | arbReq (src id : BitVec 8) (value : BitVec 32)
  | keyLoad (src id : BitVec 8) (value : BitVec 32)
  | challenge (src id : BitVec 8) (value : BitVec 32)
  | submit (src id : BitVec 8) (value : BitVec 32)
  | tokenVerifyDone
  | endGrant (src id : BitVec 8) (value : BitVec 32)
  | grantExpire
  | halt (src id : BitVec 8) (value : BitVec 32)
  | bootRomStart
  | cpBaselineRow
  | baselineWaitTimeout
  | fwInstall (src id : BitVec 8) (host : List (BitVec 8))
  | fwActivate (src id : BitVec 8)
  | fwStatus (src id : BitVec 8)
  | profileSwitch (src id : BitVec 8)
  | profileStore (src id : BitVec 8) (host : List (BitVec 8))
  | settingsWrite (src id : BitVec 8) (host : List (BitVec 8))
  | realmCreate (src id : BitVec 8)
  | realmDestroy (src id : BitVec 8)
  | sealOperand (src id : BitVec 8) (host : List (BitVec 8))
  | logExport (src id : BitVec 8)
  | fwConfirm (src id : BitVec 8) (value : BitVec 32)
  | confirmWindowExpire
  | wdogExpire
  | flitReceive (link : BitVec 2) (flit : BitVec 512)
  | replayTimeout (link : BitVec 2)
  | train (link : BitVec 2) (flit : BitVec 512)
  | nak (link : BitVec 2) (seq : BitVec 16)
  | credit (link : BitVec 2) (c0 c1 c2 : BitVec 16)
  | idle (link : BitVec 2) (c0 c1 c2 : BitVec 16)
  | linkPhyUp (link : BitVec 2)
  | linkPhyDown (link : BitVec 2)
  | hbSend (link : BitVec 2)
  | hbMiss (link : BitVec 2)
  | lostRetrain (link : BitVec 2)
  | job (link : BitVec 2)
  | abort (link : BitVec 2)
  | wread (link : BitVec 2)
  | wwrite (link : BitVec 2)
  | rdata (link : BitVec 2)
  | wack (link : BitVec 2)
  | done (link : BitVec 2)
  | refused (link : BitVec 2)
  | prepare (link : BitVec 2)
  | pack (link : BitVec 2)
  | commit (link : BitVec 2)
  | cancel (link : BitVec 2)
  | cack (link : BitVec 2)
  | revoke (link : BitVec 2)
  | rack (link : BitVec 2)
  | outcomeQ (link : BitVec 2)
  | outcome (link : BitVec 2)
  | keyPull (link : BitVec 2)
  | pullData (link : BitVec 2)
  | hello (link : BitVec 2)
  | hb (link : BitVec 2)
  | realmSync (link : BitVec 2)
  | mirror (link : BitVec 2)
  | leave (link : BitVec 2)
  | clmFenceWrite (src id : BitVec 8) (link : BitVec 2) (value : BitVec 32)
  | yield (src id : BitVec 8) (link : BitVec 2) (n : BitVec 4) (value : BitVec 32)
  | fwdCfgWrite (src id : BitVec 8) (link : BitVec 2) (value : BitVec 32)
  | clmInjectWrite (src id : BitVec 8) (link : BitVec 2) (value : BitVec 32)
  | probeCtlWrite (src id : BitVec 8) (value : BitVec 32)
  | chaffInj (src id : BitVec 8) (value : BitVec 32)
  | poisonInjWrite (src id : BitVec 8) (value : BitVec 32)
  | memtest (src id : BitVec 8) (value : BitVec 32)
  | memtestDone (firstFail fails : BitVec 32)
  | opSecondsAdvance
  | wdogKick
  | pmuCyclesWrap
  | eccCorrected (unit member : BitVec 8)
  | memoryEccUncorr (unit member : BitVec 8) (detail : BitVec 16)
  | chfSelfCheck
  | booksImbalance (unit member : BitVec 8)
deriving DecidableEq, Repr

end Sys2Proof
end

