-- ==== Sys2Proof/Decode.lean ====
section
/-! DEFINITION. The command that a word spells. The table gives no row any bits: the block's commands are transfers and
events on its ports and pins, not words, so no word spells one. -/

namespace Sys2Proof

/-- The command spelt by the `nbits` low bits of `w`: none, as no row of the table has bits. -/
def decodeTableWord (_nbits _w : Nat) : Option Instr := none

end Sys2Proof
end

