-- ==== Sys2Proof/Machine/Aes.lean ====
section
/-! DEFINITION. The AES block cipher (FIPS 197) and the carry-less products the modes need. The algorithms of the
Spelt lanes are named by the spec through their standards (R198 to R209); log entry 5. -/

namespace Sys2Proof.Machine

/-- The AES S-box, byte x at bits [8x+7:8x]. -/
def sboxTable : Nat := 0x16BB54B00F2D99416842E6BF0D89A18CDF2855CEE9871E9B948ED9691198F8E19E1DC186B95735610EF6034866B53E708A8BBD4B1F74DDE8C6B4A61C2E2578BA08AE7A65EAF4566CA94ED58D6D37C8E779E4959162ACD3C25C2406490A3A32E0DB0B5EDE14B8EE4688902A22DC4F816073195D643D7EA7C41744975FEC130CCDD2F3FF1021DAB6BCF5389D928F40A351A89F3C507F02F94585334D43FBAAEFD0CF584C4A39BECB6A5BB1FC20ED00D153842FE329B3D63B52A05A6E1B1A2C830975B227EBE28012079A059618C323C7041531D871F1E5A534CCF73F362693FDB7C072A49CAFA2D4ADF04759FA7DC982CA76ABD7FE2B670130C56F6BF27B777C63

/-- The inverse S-box, packed in the same way. -/
def invSboxTable : Nat := 0x7D0C2155631469E126D677BA7E042B17619953833CBBEBC8B0F52AAE4D3BE0A0EF9CC9939F7AE52D0D4AB519A97F51605FEC8027591012B131C7078833A8DD1FF45ACD78FEC0DB9A2079D2C64B3E56FC1BBE18AA0E62B76F89C5291D711AF1476EDF751CE837F9E28535ADE72274AC9673E6B4F0CECFF297EADC674F4111913A6B8A130103BDAFC1020F3FCA8F1E2CD00645B3B80558E4F70AD3BC8C00ABD890849D8DA75746155EDAB9EDFD5048706C92B6655DCC5CA4D41698688664F6F87225D18B6D49A25B76B224D92866A12E084EC3FA420B954CEE3D23C2A632947B54CBE9DEC444438E3487FF2F9B8239E37CFBD7F3819EA340BF38A53630D56A0952

/-- Substitute a byte. -/
def subByte (x : Byte) : Byte := byteOf (bitsAt sboxTable (8 * x.toNat) 8)

/-- Substitute a byte back. -/
def invSubByte (x : Byte) : Byte := byteOf (bitsAt invSboxTable (8 * x.toNat) 8)

/-- Multiplication by x in the AES field. -/
def xtime (x : Byte) : Byte := (x <<< 1) ^^^ (if x.msb then 0x1B else 0)

/-- Multiplication by a small constant in the AES field, bit by bit. -/
def gmul (x : Byte) (c : Nat) : Byte :=
  (if bitAt c 0 then x else 0) ^^^ (if bitAt c 1 then xtime x else 0) ^^^ (if bitAt c 2 then xtime (xtime x) else 0) ^^^
    (if bitAt c 3 then xtime (xtime (xtime x)) else 0)

/-- A column times the circulant matrix with first row `a b c d`. -/
def mixColumn (a b c d : Nat) (w : Bytes) : Bytes :=
  let x := fun i => w.getD i 0
  [gmul (x 0) a ^^^ gmul (x 1) b ^^^ gmul (x 2) c ^^^ gmul (x 3) d,
   gmul (x 0) d ^^^ gmul (x 1) a ^^^ gmul (x 2) b ^^^ gmul (x 3) c,
   gmul (x 0) c ^^^ gmul (x 1) d ^^^ gmul (x 2) a ^^^ gmul (x 3) b,
   gmul (x 0) b ^^^ gmul (x 1) c ^^^ gmul (x 2) d ^^^ gmul (x 3) a]

/-- The four columns of a block. -/
def columns (b : Bytes) : List Bytes := [slice b 0 4, slice b 4 4, slice b 8 4, slice b 12 4]

def mixColumns (b : Bytes) : Bytes := (columns b).flatMap (mixColumn 2 3 1 1)
def invMixColumns (b : Bytes) : Bytes := (columns b).flatMap (mixColumn 14 11 13 9)
def shiftRows (b : Bytes) : Bytes := (List.range 16).map fun i => b.getD ((i + 4 * (i % 4)) % 16) 0
def invShiftRows (b : Bytes) : Bytes := (List.range 16).map fun i => b.getD ((i + 16 - 4 * (i % 4)) % 16) 0

/-- Key words of the expansion, newest first: `n` more words beyond those given, for a key of `nk` words. -/
def expandWords (nk : Nat) : Nat → Nat → Byte → List Bytes → List Bytes
  | 0, _, _, ws => ws
  | n + 1, i, rc, ws =>
    let prev := ws.headD (zeros 4)
    let old := ws.getD (nk - 1) (zeros 4)
    let t := if i % nk = 0 then
        xorBytes ((prev.drop 1 ++ prev.take 1).map subByte) [rc, 0, 0, 0]
      else if nk > 6 ∧ i % nk = 4 then prev.map subByte else prev
    expandWords nk n (i + 1) (if i % nk = 0 then xtime rc else rc) (xorBytes old t :: ws)

/-- The round keys of a 16-, 24- or 32-byte key. -/
def roundKeys (key : Bytes) : List Bytes :=
  let nk := key.length / 4
  let nr := nk + 6
  chunks 16 (expandWords nk (4 * (nr + 1) - nk) nk 1 (chunks 4 key).reverse).reverse.flatten

/-- The middle and last rounds of encryption. -/
def encRounds : List Bytes → Bytes → Bytes
  | [], b => b
  | [k], b => xorBytes (shiftRows (b.map subByte)) k
  | k :: ks, b => encRounds ks (xorBytes (mixColumns (shiftRows (b.map subByte))) k)

/-- AES forward cipher with expanded keys. -/
def aesEncRk (rks : List Bytes) (b : Bytes) : Bytes :=
  match rks with
  | [] => b
  | k :: ks => encRounds ks (xorBytes b k)

/-- The rounds of decryption over the round keys from last to first. -/
def decRounds : List Bytes → Bytes → Bytes
  | [], b => b
  | [k], b => xorBytes ((invShiftRows b).map invSubByte) k
  | k :: ks, b => decRounds ks (invMixColumns (xorBytes ((invShiftRows b).map invSubByte) k))

/-- AES inverse cipher with expanded keys. -/
def aesDecRk (rks : List Bytes) (b : Bytes) : Bytes :=
  match rks.reverse with
  | [] => b
  | k :: ks => decRounds ks (xorBytes b k)

def aesEnc (key b : Bytes) : Bytes := aesEncRk (roundKeys key) b
def aesDec (key b : Bytes) : Bytes := aesDecRk (roundKeys key) b

/-! ### Products in GF(2^128) -/

/-- One step of the bitwise product of SP 800-38D: accumulator, running multiple, and the bits of the factor still to use. -/
def gfMulBits : Nat → Nat → Nat → Nat → Nat
  | 0, _, _, z => z
  | n + 1, x, v, z =>
    let z1 := if bitAt x n then z ^^^ v else z
    gfMulBits n x (if v % 2 = 1 then (v / 2) ^^^ 0xE1000000000000000000000000000000 else v / 2) z1

/-- The product of GHASH, operands as big-endian 128-bit numbers. -/
def gfMul (x y : Nat) : Nat := gfMulBits 128 x y 0

/-- GHASH over a string of whole blocks. -/
def ghash (h : Nat) (bs : Bytes) : Nat := (chunks 16 bs).foldl (fun y b => gfMul (y ^^^ beNat b) h) 0

/-- A string padded with zeros to whole blocks. -/
def pad16 (bs : Bytes) : Bytes := bs ++ zeros ((16 - bs.length % 16) % 16)

/-- Doubling in the CMAC field (SP 800-38B). -/
def cmacDbl (x : Nat) : Nat := if 2 ^ 127 ≤ x then ((2 * x) % 2 ^ 128) ^^^ 0x87 else 2 * x

/-- Multiplication of an XTS tweak by alpha, the tweak as a little-endian number (IEEE 1619). -/
def xtsDbl (x : Nat) : Nat := if 2 ^ 127 ≤ x then ((2 * x) % 2 ^ 128) ^^^ 0x87 else 2 * x

/-- The dot product of POLYVAL through GHASH (RFC 8452, appendix A): byte-reversed operands, the key multiplied by x. -/
def polyval (h : Bytes) (bs : Bytes) : Bytes :=
  let k := beNat h.reverse
  let k2 := if k % 2 = 1 then (k / 2) ^^^ 0xE1000000000000000000000000000000 else k / 2
  (natBe 16 (ghash k2 ((chunks 16 bs).flatMap List.reverse))).reverse

end Sys2Proof.Machine
end

