-- ==== Sys2Proof/Machine/Hash.lean ====
section
/-! DEFINITION. The digests of the Emmer groups: SHA-2 (FIPS 180-4), Keccak, SHA-3 and SHAKE (FIPS 202), HMAC
(FIPS 198-1), and the CRCs of the formats. The digests are named by the spec through their standards (R281 to R288);
log entry 5. -/

namespace Sys2Proof.Machine

/-- Rotate right in `w` bits. -/
def rotr (w x n : Nat) : Nat := x / 2 ^ n + (x % 2 ^ n) * 2 ^ (w - n)

def k256 : List Nat := [0x428A2F98, 0x71374491, 0xB5C0FBCF, 0xE9B5DBA5, 0x3956C25B, 0x59F111F1, 0x923F82A4, 0xAB1C5ED5] ++
  [0xD807AA98, 0x12835B01, 0x243185BE, 0x550C7DC3, 0x72BE5D74, 0x80DEB1FE, 0x9BDC06A7, 0xC19BF174] ++
  [0xE49B69C1, 0xEFBE4786, 0x0FC19DC6, 0x240CA1CC, 0x2DE92C6F, 0x4A7484AA, 0x5CB0A9DC, 0x76F988DA] ++
  [0x983E5152, 0xA831C66D, 0xB00327C8, 0xBF597FC7, 0xC6E00BF3, 0xD5A79147, 0x06CA6351, 0x14292967] ++
  [0x27B70A85, 0x2E1B2138, 0x4D2C6DFC, 0x53380D13, 0x650A7354, 0x766A0ABB, 0x81C2C92E, 0x92722C85] ++
  [0xA2BFE8A1, 0xA81A664B, 0xC24B8B70, 0xC76C51A3, 0xD192E819, 0xD6990624, 0xF40E3585, 0x106AA070] ++
  [0x19A4C116, 0x1E376C08, 0x2748774C, 0x34B0BCB5, 0x391C0CB3, 0x4ED8AA4A, 0x5B9CCA4F, 0x682E6FF3] ++
  [0x748F82EE, 0x78A5636F, 0x84C87814, 0x8CC70208, 0x90BEFFFA, 0xA4506CEB, 0xBEF9A3F7, 0xC67178F2]

def k512 : List Nat := [0x428A2F98D728AE22, 0x7137449123EF65CD, 0xB5C0FBCFEC4D3B2F, 0xE9B5DBA58189DBBC, 0x3956C25BF348B538, 0x59F111F1B605D019, 0x923F82A4AF194F9B, 0xAB1C5ED5DA6D8118] ++
  [0xD807AA98A3030242, 0x12835B0145706FBE, 0x243185BE4EE4B28C, 0x550C7DC3D5FFB4E2, 0x72BE5D74F27B896F, 0x80DEB1FE3B1696B1, 0x9BDC06A725C71235, 0xC19BF174CF692694] ++
  [0xE49B69C19EF14AD2, 0xEFBE4786384F25E3, 0x0FC19DC68B8CD5B5, 0x240CA1CC77AC9C65, 0x2DE92C6F592B0275, 0x4A7484AA6EA6E483, 0x5CB0A9DCBD41FBD4, 0x76F988DA831153B5] ++
  [0x983E5152EE66DFAB, 0xA831C66D2DB43210, 0xB00327C898FB213F, 0xBF597FC7BEEF0EE4, 0xC6E00BF33DA88FC2, 0xD5A79147930AA725, 0x06CA6351E003826F, 0x142929670A0E6E70] ++
  [0x27B70A8546D22FFC, 0x2E1B21385C26C926, 0x4D2C6DFC5AC42AED, 0x53380D139D95B3DF, 0x650A73548BAF63DE, 0x766A0ABB3C77B2A8, 0x81C2C92E47EDAEE6, 0x92722C851482353B] ++
  [0xA2BFE8A14CF10364, 0xA81A664BBC423001, 0xC24B8B70D0F89791, 0xC76C51A30654BE30, 0xD192E819D6EF5218, 0xD69906245565A910, 0xF40E35855771202A, 0x106AA07032BBD1B8] ++
  [0x19A4C116B8D2D0C8, 0x1E376C085141AB53, 0x2748774CDF8EEB99, 0x34B0BCB5E19B48A8, 0x391C0CB3C5C95A63, 0x4ED8AA4AE3418ACB, 0x5B9CCA4F7763E373, 0x682E6FF3D6B2B8A3] ++
  [0x748F82EE5DEFB2FC, 0x78A5636F43172F60, 0x84C87814A1F0AB72, 0x8CC702081A6439EC, 0x90BEFFFA23631E28, 0xA4506CEBDE82BDE9, 0xBEF9A3F7B2C67915, 0xC67178F2E372532B] ++
  [0xCA273ECEEA26619C, 0xD186B8C721C0C207, 0xEADA7DD6CDE0EB1E, 0xF57D4F7FEE6ED178, 0x06F067AA72176FBA, 0x0A637DC5A2C898A6, 0x113F9804BEF90DAE, 0x1B710B35131C471B] ++
  [0x28DB77F523047D84, 0x32CAAB7B40C72493, 0x3C9EBE0A15C9BEBC, 0x431D67C49C100D4C, 0x4CC5D4BECB3E42B6, 0x597F299CFC657E2A, 0x5FCB6FAB3AD6FAEC, 0x6C44198C4A475817]

def h256 : List Nat := [0x6A09E667, 0xBB67AE85, 0x3C6EF372, 0xA54FF53A, 0x510E527F, 0x9B05688C, 0x1F83D9AB, 0x5BE0CD19]
def h224 : List Nat := [0xC1059ED8, 0x367CD507, 0x3070DD17, 0xF70E5939, 0xFFC00B31, 0x68581511, 0x64F98FA7, 0xBEFA4FA4]
def h512 : List Nat := [0x6A09E667F3BCC908, 0xBB67AE8584CAA73B, 0x3C6EF372FE94F82B, 0xA54FF53A5F1D36F1, 0x510E527FADE682D1, 0x9B05688C2B3E6C1F, 0x1F83D9ABFB41BD6B, 0x5BE0CD19137E2179]
def h384 : List Nat := [0xCBBB9D5DC1059ED8, 0x629A292A367CD507, 0x9159015A3070DD17, 0x152FECD8F70E5939, 0x67332667FFC00B31, 0x8EB44A8768581511, 0xDB0C2E0D64F98FA7, 0x47B5481DBEFA4FA4]

/-- The parameters in which SHA-256 and SHA-512 differ: word bits, round constants, rotations. -/
structure ShaParam where
  w : Nat
  ks : List Nat
  s0 : Nat × Nat × Nat
  s1 : Nat × Nat × Nat
  b0 : Nat × Nat × Nat
  b1 : Nat × Nat × Nat
deriving DecidableEq, Repr

def sha256P : ShaParam := { w := 32, ks := k256, s0 := (7, 18, 3), s1 := (17, 19, 10), b0 := (2, 13, 22), b1 := (6, 11, 25) }
def sha512P : ShaParam := { w := 64, ks := k512, s0 := (1, 8, 7), s1 := (19, 61, 6), b0 := (28, 34, 39), b1 := (14, 18, 41) }

def smallSigma (w : Nat) (r : Nat × Nat × Nat) (x : Nat) : Nat := rotr w x r.1 ^^^ rotr w x r.2.1 ^^^ (x / 2 ^ r.2.2)
def bigSigma (w : Nat) (r : Nat × Nat × Nat) (x : Nat) : Nat := rotr w x r.1 ^^^ rotr w x r.2.1 ^^^ rotr w x r.2.2

/-- Message schedule, newest word first. -/
def shaSchedule (p : ShaParam) : Nat → List Nat → List Nat
  | 0, ws => ws
  | n + 1, ws =>
    let t := (smallSigma p.w p.s1 (ws.getD 1 0) + ws.getD 6 0 + smallSigma p.w p.s0 (ws.getD 14 0) + ws.getD 15 0) % 2 ^ p.w
    shaSchedule p n (t :: ws)

/-- One round on the working variables a to h. -/
def shaRound (p : ShaParam) (v : List Nat) (kw : Nat × Nat) : List Nat :=
  let g := fun i => v.getD i 0
  let m := 2 ^ p.w
  let ch := (g 4 &&& g 5) ^^^ ((m - 1 - g 4) &&& g 6)
  let maj := (g 0 &&& g 1) ^^^ (g 0 &&& g 2) ^^^ (g 1 &&& g 2)
  let t1 := (g 7 + bigSigma p.w p.b1 (g 4) + ch + kw.1 + kw.2) % m
  let t2 := (bigSigma p.w p.b0 (g 0) + maj) % m
  [(t1 + t2) % m, g 0, g 1, g 2, (g 3 + t1) % m, g 4, g 5, g 6]

/-- The compression function on a block. -/
def shaBlock (p : ShaParam) (h : List Nat) (b : Bytes) : List Nat :=
  let ws := (shaSchedule p (p.ks.length - 16) ((chunks (p.w / 8) b).map beNat).reverse).reverse
  let v := (List.zip p.ks ws).foldl (shaRound p) h
  List.zipWith (fun x y => (x + y) % 2 ^ p.w) h v

/-- Message padding for `n` bytes already hashed before `bs` (FIPS 180-4). -/
def shaPad (p : ShaParam) (bs : Bytes) (n : Nat) : Bytes :=
  let blk := p.w * 2
  let tail := p.w / 4
  bs ++ [0x80] ++ zeros ((2 * blk - (bs.length + 1 + tail) % blk) % blk) ++ natBe tail (8 * (n + bs.length))

/-- Chaining value after whole blocks. -/
def shaBlocks (p : ShaParam) (h : List Nat) (bs : Bytes) : List Nat := (chunks (p.w * 2) bs).foldl (shaBlock p) h

/-- The words of a chaining value as bytes. -/
def shaOut (p : ShaParam) (h : List Nat) : Bytes := h.flatMap fun x => natBe (p.w / 8) x

/-- A SHA-2 digest from a chaining value after `n` bytes. -/
def shaFrom (p : ShaParam) (h : List Nat) (n : Nat) (bs : Bytes) : Bytes := shaOut p (shaBlocks p h (shaPad p bs n))

def sha256 (bs : Bytes) : Bytes := shaFrom sha256P h256 0 bs
def sha224 (bs : Bytes) : Bytes := (shaFrom sha256P h224 0 bs).take 28
def sha384 (bs : Bytes) : Bytes := (shaFrom sha512P h384 0 bs).take 48
def sha512 (bs : Bytes) : Bytes := shaFrom sha512P h512 0 bs

/-! ### Keccak -/

def keccakRC : List Nat := [0x0000000000000001, 0x0000000000008082, 0x800000000000808A, 0x8000000080008000, 0x000000000000808B, 0x0000000080000001] ++
  [0x8000000080008081, 0x8000000000008009, 0x000000000000008A, 0x0000000000000088, 0x0000000080008009, 0x000000008000000A] ++
  [0x000000008000808B, 0x800000000000008B, 0x8000000000008089, 0x8000000000008003, 0x8000000000008002, 0x8000000000000080] ++
  [0x000000000000800A, 0x800000008000000A, 0x8000000080008081, 0x8000000000008080, 0x0000000080000001, 0x8000000080008008]
def keccakRot : List Nat := [0, 1, 62, 28, 27, 36, 44, 6, 55, 20, 3, 10, 43] ++ [25, 39, 41, 45, 15, 21, 8, 18, 2, 61, 56, 14]

/-- Rotate left in 64 bits. -/
def rotl64 (x n : Nat) : Nat := (x * 2 ^ n) % 2 ^ 64 + x / 2 ^ (64 - n)

/-- One round of Keccak-f[1600] on 25 lanes, lane x + 5y at that index. -/
def keccakRound (a : List Nat) (rc : Nat) : List Nat :=
  let g := fun (l : List Nat) (i : Nat) => l.getD i 0
  let c := (List.range 5).map fun x => g a x ^^^ g a (x + 5) ^^^ g a (x + 10) ^^^ g a (x + 15) ^^^ g a (x + 20)
  let d := (List.range 5).map fun x => g c ((x + 4) % 5) ^^^ rotl64 (g c ((x + 1) % 5)) 1
  let t := (List.range 25).map fun i => rotl64 (g a i ^^^ g d (i % 5)) (g keccakRot i)
  -- pi: lane (x, y) of the result comes from lane (x + 3y, x)
  let b := (List.range 25).map fun i => g t ((i % 5 + 3 * (i / 5)) % 5 + 5 * (i % 5))
  let e := (List.range 25).map fun i =>
    let y := 5 * (i / 5)
    g b i ^^^ ((2 ^ 64 - 1 - g b (y + (i + 1) % 5)) &&& g b (y + (i + 2) % 5))
  listSet e 0 (g e 0 ^^^ rc)

def keccakF (a : List Nat) : List Nat := keccakRC.foldl keccakRound a

/-- Absorb one block of `rate` bytes. -/
def keccakAbsorb (a : List Nat) (b : Bytes) : List Nat :=
  let ls := (chunks 8 b).map leNat
  keccakF ((List.range 25).map fun i => a.getD i 0 ^^^ ls.getD i 0)

/-- Squeeze `n` blocks of `rate` bytes. -/
def keccakSqueeze (rate : Nat) : Nat → List Nat → Bytes
  | 0, _ => []
  | n + 1, a => (a.flatMap fun x => natLe 8 x).take rate ++ keccakSqueeze rate n (keccakF a)

/-- The sponge with the given rate, domain byte and output length (FIPS 202). -/
def sponge (rate dom : Nat) (bs : Bytes) (out : Nat) : Bytes :=
  let k := rate - bs.length % rate
  let pad := if k = 1 then [byteOf (dom ||| 0x80)] else [byteOf dom] ++ zeros (k - 2) ++ [0x80]
  let a := (chunks rate (bs ++ pad)).foldl keccakAbsorb (List.replicate 25 0)
  (keccakSqueeze rate (ceilDiv out rate) a).take out

def sha3_256 (bs : Bytes) : Bytes := sponge 136 0x06 bs 32
def sha3_384 (bs : Bytes) : Bytes := sponge 104 0x06 bs 48
def sha3_512 (bs : Bytes) : Bytes := sponge 72 0x06 bs 64
def shake128 (bs : Bytes) (n : Nat) : Bytes := sponge 168 0x1F bs n
def shake256 (bs : Bytes) (n : Nat) : Bytes := sponge 136 0x1F bs n

/-! ### HMAC from prestates (R250, R287) -/

/-- The SHA-2 parameters, initial value, block and output bytes of an HMAC kind (R234: 0x08, 0x09, 0x0A). -/
def hmacHash (kind : Nat) : ShaParam × List Nat × Nat × Nat :=
  if kind = 0x08 then (sha256P, h256, 64, 32) else if kind = 0x09 then (sha512P, h384, 128, 48) else (sha512P, h512, 128, 64)

/-- The inner and outer chaining states of a key (R250). -/
def hmacPre (kind : Nat) (key : Bytes) : Bytes :=
  let (p, h, blk, out) := hmacHash kind
  let k := if key.length > blk then (shaFrom p h 0 key).take out else key
  let k0 := k ++ zeros (blk - k.length)
  shaOut p (shaBlocks p h (k0.map fun b => b ^^^ 0x36)) ++ shaOut p (shaBlocks p h (k0.map fun b => b ^^^ 0x5C))

/-- HMAC of a message from the prestates (R287). -/
def hmacFrom (kind : Nat) (pre bs : Bytes) : Bytes :=
  let (p, _, blk, out) := hmacHash kind
  let n := p.w
  let st := fun (x : Bytes) => (chunks (p.w / 8) x).map beNat
  let inner := (shaFrom p (st (pre.take n)) blk bs).take out
  (shaFrom p (st (pre.drop n)) blk inner).take out

/-- HMAC of a message under a key. -/
def hmac (kind : Nat) (key bs : Bytes) : Bytes := hmacFrom kind (hmacPre kind key) bs

/-! ### CRCs -/

/-- A CRC of `w` bits, most significant bit first, with the given polynomial, over bytes. -/
def crcMsb (w poly : Nat) (init : Nat) (bs : Bytes) : Nat :=
  bs.foldl (fun c b => (List.range 8).foldl (fun c _ => if 2 ^ (w - 1) ≤ c then ((2 * c) % 2 ^ w) ^^^ poly else 2 * c)
    (c ^^^ (b.toNat * 2 ^ (w - 8)))) init

/-- A reflected 32-bit CRC. -/
def crcLsb32 (poly init : Nat) (bs : Bytes) : Nat :=
  bs.foldl (fun c b => (List.range 8).foldl (fun c _ => if c % 2 = 1 then (c / 2) ^^^ poly else c / 2) (c ^^^ b.toNat)) init

/-- The T10 guard (R202). -/
def crcT10 (bs : Bytes) : Nat := crcMsb 16 0x8BB7 0 bs

/-- CRC-32C of flits and records: reflected, initial value and final exclusive-or all ones. -/
def crc32c (bs : Bytes) : Nat := crcLsb32 0x82F63B78 0xFFFFFFFF bs ^^^ 0xFFFFFFFF

end Sys2Proof.Machine
end

