-- ==== Sys2Proof/Config.lean ====
section
/-! DEFINITION. What a delivered part fixes (R2, R4), and the values that the spec leaves open as constants without a
body, so that no proof can rest on a number for them. -/

namespace Sys2Proof

/-- The three configurations (R2). -/
inductive Variant where
  | aqsE | aqsM | aqsX
deriving DecidableEq, Repr

/-- A delivered part: the configuration, what its licence leaves in, and its revision numbers. -/
structure Part where
  variant : Variant
  sorghum : Bool
  lattice : Bool
  culm : Bool
  idMajor : Nat
  idMinor : Nat
  mcMin : Nat
  mcMax : Nat
deriving DecidableEq, Repr

/-- Pick by configuration. -/
def Part.pick {α : Type} (p : Part) (e m x : α) : α :=
  match p.variant with
  | .aqsE => e
  | .aqsM => m
  | .aqsX => x

/-- Port count P (R2, R9). -/
def Part.ports (p : Part) : Nat := p.pick 64 128 256

/-- SQ and CQ count (R2). -/
def Part.rings (p : Part) : Nat := p.pick 1024 4096 8192

/-- Stash buffer lines (R2). -/
def Part.stashLines (p : Part) : Nat := p.pick 4096 8192 16384

/-- Holding-store bins of 4 KiB (R2, R227). -/
def Part.bins (p : Part) : Nat := p.pick 256 512 1024

/-- Spelt lanes built (R2). -/
def Part.lanes (p : Part) : Nat := p.pick 2 4 8

/-- Emmer groups built (R2). -/
def Part.groups (p : Part) : Nat := p.pick 1 2 4

/-- Sorghum arrays built (R2); none where the licence omits them. -/
def Part.arrays (p : Part) : Nat := if p.sorghum then p.pick 4 8 16 else 0

/-- Spikes built (R2). -/
def Part.spikes (p : Part) : Nat := p.pick 8 16 32

/-- Culm links built (R2); none where the licence omits them. -/
def Part.links (p : Part) : Nat := if p.culm then p.pick 0 2 4 else 0

/-- Lattice lane mode present (R2). -/
def Part.hasLattice (p : Part) : Bool := p.lattice && p.sorghum && (p.variant != .aqsE)

/-- Whether lanes are masked (R2). -/
def Part.masked (p : Part) : Bool := p.variant != .aqsE

/-- Whether the configuration is AQS-X, the one with a Seedbank (R2). -/
def Part.isX (p : Part) : Bool := p.variant == .aqsX

/-- Lowest and highest power cap of the configuration, in mW (R2). -/
def Part.capRange (p : Part) : Nat × Nat := p.pick (4000, 14000) (8000, 30000) (12000, 60000)

/-- The TAG that a ring-level completion carries when the header of the halting entry could not be read (R102, detail
0x008): the spec states no value. A free value, one for each use (log entry 12). -/
opaque Config.unreadTag : Nat → BitVec 32

/-- The key of Teff's conditioner (R336): fixed and non-secret, and not stated. -/
opaque Config.condKey : BitVec 256

/-- How a word torn by a supply loss or PORST_N reads (R380): 0 its old value, 1 its new value, otherwise flagged. One free
value for each use. -/
opaque Config.tornWord : Nat → Nat

/-- The content of a row whose program failed or was cut short (R385, R396): 64 bytes and, above them, the words flagged
uncorrectable. One free value for each use. -/
opaque Config.failedRow : Nat → BitVec 520

/-- The row in which an internal event of a bank of the Granary finds its error (R386), which no command names: a row number
within the bank. One free value for each use. -/
opaque Config.eccRow : Nat → BitVec 16

/-- The bits that a stopped or failed OTP burn leaves set among those it was to set (R407): a mask, one for each use. -/
opaque Config.burnMask : Nat → BitVec 16

/-- How an ECC word of the OTP that holds no whole codeword reads (R406, R415): 0 good, 1 corrected, otherwise
uncorrectable. A function of its word number and data. -/
opaque Config.otpPartial : Nat → Nat → Nat

/-- The program counter at which the CP halts (R425). One free value for each use. -/
opaque Config.haltPc : Nat → BitVec 24

/-- Array time in sclk of an operation that R318, R319 and R326 give no number for (R315): a function of its opcode, its BITS
or SET, and its operands as a number. -/
opaque Config.srgSclk : Nat → Nat → Nat → Nat

/-- The mode that the microprogram of an opcode and SET runs last (R302), 0 FULL, 1 SPLIT2, 2 SPLIT4, where no rule says. -/
opaque Config.srgMode : Nat → Nat → BitVec 2

/-- The MTYPE codes of link messages (R460, R461), which no rule states: by the message's place in R461's table, requests first,
then responses, then the messages of VC2. -/
opaque Config.mtype : Nat → BitVec 8

/-- The level of the pin CL_RATE of a link when its PHY comes up, which no command gives (R455). One free value for each use. -/
opaque Config.clRate : Nat → Bool

/-- The outcome of the boot ROM's memory test (R434): bit 0 the run area fails, bit 1 the staging area. One for each start. -/
opaque Config.ramTest : Nat → BitVec 2

/-- The fc from the start of the boot ROM to CTL.CTL.EN (R451), which no command gives. One for each start. -/
opaque Config.bootTime : Nat → BitVec 32

/-- The vendor's public keys in the boot ROM (R431): an ECDSA P-384 point, x above y, and an ML-DSA-65 key, its first byte lowest. -/
opaque Config.romEc : BitVec 768
opaque Config.romPq : BitVec 15616

/-- The SHA-512 of the safe microcode (R437). -/
opaque Config.safeMicro : BitVec 512

/-- The Keccak permutations of a lattice operation for which R326 gives no number (R294): a function of its opcode, SET and operands. -/
opaque Config.lattPerms : Nat → Nat → Nat → BitVec 24

/-- The array operations of a microprogram (R302 to R304), which is the vendor's and no rule's: for an opcode, its BITS or SET and its
operands, each sclk's operation code, slice and words. -/
opaque Config.srgMicro : Nat → Nat → Nat → List (Nat × Nat × List Nat)

/-- The spikelet's registers saved in a bank's control area at a pause point (R305). One free value for each pause. -/
opaque Config.srgSaved : Nat → BitVec 64

/-- Whether a sampled check of a decrypting XTS step is one of a tweak block (R190, R215). One free value for each check. -/
opaque Config.tweakCheck : Nat → Bool

/-- The reason code of a command whose reads of host memory failed (R447): no rule gives one. -/
opaque Config.cpReadFail : BitVec 16

/-- The reason code of a command whose writes to host memory failed (R447): no rule gives one. -/
opaque Config.cpWriteFail : BitVec 16

/-- The DETAIL of a chaff message of a kind for which no rule gives one (R355). -/
opaque Config.chaffDetail : Nat → BitVec 32

end Sys2Proof
end

