-- ==== Sys2Proof/Machine/Regs.lean ====
section
/-! DEFINITION. The register fields of the block, one definition for each field of the spec's field tables, under the
name the spec gives it (PAGE.REGISTER.FIELD), and for each kind of page or table entry the list of its fields.
Written from the offset and field tables R57, R65, R69, R72, R74, R107 to R110, R145, R151, R152, R186, R187,
R224 to R227, R258, R259, R299, R300, R328, R329, R351, R352, R371, R372, R401 to R404, R428, R429, R448 to R451,
R481, R482, R517 and R518. An array register's fields carry the stride and the count; `Field.at` picks an element.
A reset value that depends on the configuration stands as 0 here and is put in by `baseRegs` (State.lean) or computed
on a read (Windows.lean). RZ fields need no definition: no definition means reads zero and ignores writes (R52). -/

namespace Sys2Proof.Machine

/-- The register types of R55. -/
inductive FTy where
  | rw | ro | w1c | w1s | wo | rc | rwl | go
deriving DecidableEq, Repr

/-- A register field: byte offset of its register in the page or table entry, low bit, width, type, reset value, stride
and count of an array register, and whether the register is open to port 0 only (R53). -/
structure Field where
  off : Nat
  lo : Nat
  w : Nat
  ty : FTy
  rst : Nat
  step : Nat
  cnt : Nat
  p0 : Bool
deriving DecidableEq, Repr

/-- Element `n` of an array field. -/
def Field.at (f : Field) (n : Nat) : Field := { f with off := f.off + f.step * n, step := 0, cnt := 1 }

/-- The kinds of pages and table entries that hold registers (R50, R53). `vec`, `rng` and `fwd` are the rows behind the
windows RCH.VEC_SEL, KCC.REALM_SEL and CLM.FWD_SEL. -/
inductive PageKind where
  | sys | ctl | tck | chf | grn | glm | tef | kcc | hld | pmu | snt | spl | emr | srg | spk | clm | rch
  | sq | cq | rt | pt | gs | pp
deriving DecidableEq, Repr

/-! ### The common page header, R56 and R57 -/

def HDR.ID.WORD : Field := ⟨0, 0, 32, .ro, 0, 0, 1, false⟩
def HDR.CAP.BITS : Field := ⟨4, 0, 32, .ro, 0, 0, 1, false⟩
def HDR.CTL.EN : Field := ⟨0x8, 0, 1, .rw, 0, 0, 1, false⟩
def HDR.STAT.STATE : Field := ⟨0xC, 0, 4, .ro, 0, 0, 1, false⟩
def HDR.STAT.BUSY : Field := ⟨0xC, 4, 1, .ro, 0, 0, 1, false⟩
def HDR.EVT.BITS : Field := ⟨0x10, 0, 32, .w1c, 0, 0, 1, false⟩
def HDR.EVT_MASK.MASK : Field := ⟨0x14, 0, 32, .rw, 4294967295, 0, 1, false⟩
def HDR.EVT_FORCE.SET : Field := ⟨0x18, 0, 32, .wo, 0, 0, 1, false⟩
def HDR.CHK.REASON : Field := ⟨0x1C, 0, 16, .ro, 0, 0, 1, false⟩
def HDR.FEC_ADDR_LO.ADDR : Field := ⟨0x20, 0, 32, .ro, 0, 0, 1, false⟩
def HDR.FEC_ADDR_HI.ADDR : Field := ⟨0x24, 0, 16, .ro, 0, 0, 1, false⟩
def HDR.FEC_SRC.PORT : Field := ⟨0x28, 0, 8, .ro, 0, 0, 1, false⟩
def HDR.FEC_SRC.UNIT : Field := ⟨0x28, 8, 8, .ro, 0, 0, 1, false⟩
def HDR.FEC_SRC.ACCESS : Field := ⟨0x28, 16, 4, .ro, 0, 0, 1, false⟩
def HDR.FEC_SRC.VALID : Field := ⟨0x28, 31, 1, .w1c, 0, 0, 1, false⟩
def HDR.FEC_TIME_LO.TICK : Field := ⟨0x2C, 0, 32, .ro, 0, 0, 1, false⟩
def HDR.FEC_TIME_HI.TICK : Field := ⟨0x30, 0, 32, .ro, 0, 0, 1, false⟩
def HDR.FEC_MERGE.COUNT : Field := ⟨0x34, 0, 16, .ro, 0, 0, 1, false⟩
def HDR.FEC_MERGE.KINDS : Field := ⟨0x34, 16, 16, .ro, 0, 0, 1, false⟩
/-- Bit number of EVT.CHK_REJECT (R57). -/
def HDR.EVT.CHK_REJECT : Nat := 0
/-- Bit number of EVT.FEC_CAPTURED (R57). -/
def HDR.EVT.FEC_CAPTURED : Nat := 1

/-! ### The unlock register, R65 -/

def HDR.UNLOCK.TARGET : Field := ⟨0x40, 0, 12, .rw, 0, 0, 1, false⟩
def HDR.UNLOCK.STATE : Field := ⟨0x40, 16, 1, .ro, 0, 0, 1, false⟩
def HDR.UNLOCK.EXPIRED : Field := ⟨0x40, 24, 8, .ro, 0, 0, 1, false⟩

/-- The fields of the common header. -/
def hdrFields : List Field :=
  [HDR.ID.WORD, HDR.CAP.BITS, HDR.CTL.EN, HDR.STAT.STATE, HDR.STAT.BUSY, HDR.EVT.BITS, HDR.EVT_MASK.MASK, HDR.EVT_FORCE.SET, HDR.CHK.REASON] ++
  [HDR.FEC_ADDR_LO.ADDR, HDR.FEC_ADDR_HI.ADDR, HDR.FEC_SRC.PORT, HDR.FEC_SRC.UNIT, HDR.FEC_SRC.ACCESS, HDR.FEC_SRC.VALID,
   HDR.FEC_TIME_LO.TICK, HDR.FEC_TIME_HI.TICK, HDR.FEC_MERGE.COUNT, HDR.FEC_MERGE.KINDS]

/-- The fields of the unlock register. -/
def unlockFields : List Field := [HDR.UNLOCK.TARGET, HDR.UNLOCK.STATE, HDR.UNLOCK.EXPIRED]

/-! ### RCH, R110 -/

def RCH.CTL.STASH_EN : Field := ⟨0x8, 1, 1, .rwl, 1, 0, 1, false⟩
def RCH.EVT.RING_HALT : Nat := 2
def RCH.EVT.RING_CHK : Nat := 3
def RCH.EVT.DB_IDLE : Nat := 4
def RCH.EVT.CQ_FAULT : Nat := 5
def RCH.EVT.VEC_ERR : Nat := 6
def RCH.SCAN_STAT.PENDING : Field := ⟨0x40, 0, 14, .ro, 0, 0, 1, false⟩
def RCH.SCAN_STAT.EXPRESS_SQS : Field := ⟨0x40, 16, 7, .ro, 0, 0, 1, false⟩
def RCH.MALFORMED_COUNT.COUNT : Field := ⟨0x44, 0, 32, .ro, 0, 0, 1, false⟩
def RCH.ENTRIES_TAKEN.COUNT : Field := ⟨0x48, 0, 64, .ro, 0, 0, 1, false⟩
def RCH.COMPLETIONS.COUNT : Field := ⟨0x50, 0, 64, .ro, 0, 0, 1, false⟩
def RCH.STASH_HITS.COUNT : Field := ⟨0x58, 0, 64, .ro, 0, 0, 1, false⟩
def RCH.STASH_MISSES.COUNT : Field := ⟨0x60, 0, 64, .ro, 0, 0, 1, false⟩
def RCH.STASH_STAT.LINES : Field := ⟨0x68, 0, 15, .ro, 0, 0, 1, false⟩
def RCH.STASH_DROPPED.COUNT : Field := ⟨0x6C, 0, 32, .ro, 0, 0, 1, false⟩
def RCH.VEC_SEL.VECTOR : Field := ⟨0x80, 0, 10, .rw, 0, 0, 1, false⟩
def RCH.VEC_ADDR_LO.ADDR : Field := ⟨0x84, 2, 30, .rw, 0, 0, 1, false⟩
def RCH.VEC_ADDR_HI.ADDR : Field := ⟨0x88, 0, 16, .rw, 0, 0, 1, false⟩
def RCH.VEC_DATA.DATA : Field := ⟨0x8C, 0, 32, .rw, 0, 0, 1, false⟩
def RCH.VEC_CTL.MASK : Field := ⟨0x90, 0, 1, .rw, 1, 0, 1, false⟩
def RCH.VEC_CTL.PENDING : Field := ⟨0x90, 1, 1, .ro, 0, 0, 1, false⟩
def RCH.VEC_CTL.INFLIGHT : Field := ⟨0x90, 2, 1, .ro, 0, 0, 1, false⟩
def RCH.VEC_CTL.ERR : Field := ⟨0x90, 3, 1, .w1c, 0, 0, 1, false⟩
def RCH.STW_BASE_LO.BASE : Field := ⟨0x100, 16, 16, .rw, 0, 16, 16, false⟩
def RCH.STW_BASE_HI.BASE : Field := ⟨0x104, 0, 16, .rw, 0, 16, 16, false⟩
def RCH.STW_SIZE.LOG2_SIZE : Field := ⟨0x108, 0, 6, .rw, 16, 16, 16, false⟩
def RCH.STW_SIZE.EN : Field := ⟨0x108, 31, 1, .rw, 0, 16, 16, false⟩

/-- The fields of RCH, beyond the common header. -/
def RCH.fields : List Field :=
  [RCH.CTL.STASH_EN, RCH.SCAN_STAT.PENDING, RCH.SCAN_STAT.EXPRESS_SQS, RCH.MALFORMED_COUNT.COUNT, RCH.ENTRIES_TAKEN.COUNT, RCH.COMPLETIONS.COUNT, RCH.STASH_HITS.COUNT, RCH.STASH_MISSES.COUNT, RCH.STASH_STAT.LINES, RCH.STASH_DROPPED.COUNT, RCH.VEC_SEL.VECTOR, RCH.VEC_ADDR_LO.ADDR, RCH.VEC_ADDR_HI.ADDR, RCH.VEC_DATA.DATA, RCH.VEC_CTL.MASK, RCH.VEC_CTL.PENDING] ++
  [RCH.VEC_CTL.INFLIGHT, RCH.VEC_CTL.ERR, RCH.STW_BASE_LO.BASE, RCH.STW_BASE_HI.BASE, RCH.STW_SIZE.LOG2_SIZE, RCH.STW_SIZE.EN]

/-! ### SPK, R152 -/

def SPK.CTL.EXPRESS_RSV : Field := ⟨0x8, 1, 3, .rwl, 1, 0, 1, false⟩
def SPK.STAT.FREE : Field := ⟨0xC, 5, 5, .ro, 0, 0, 1, false⟩
def SPK.STAT.SAFE_MC : Field := ⟨0xC, 10, 1, .ro, 0, 0, 1, false⟩
def SPK.EVT.MALFORMED : Nat := 2
def SPK.EVT.SPKL_FAULT : Nat := 3
def SPK.ALLOC.BUSY : Field := ⟨0x40, 0, 16, .ro, 0, 0, 1, false⟩
def SPK.ALLOC.EXPRESS_ONLY : Field := ⟨0x40, 16, 16, .ro, 1, 0, 1, false⟩
def SPK.MC_VER.INTERFACE : Field := ⟨0x44, 0, 16, .ro, 0, 0, 1, false⟩
def SPK.MC_VER.BUILD : Field := ⟨0x44, 16, 16, .ro, 0, 0, 1, false⟩
def SPK.WINDOWS.IN_USE : Field := ⟨0x48, 0, 5, .ro, 0, 0, 1, false⟩
def SPK.ENTRIES.COUNT : Field := ⟨0x50, 0, 64, .ro, 0, 0, 1, false⟩
def SPK.MALFORMED_COUNT.COUNT : Field := ⟨0x58, 0, 32, .ro, 0, 0, 1, false⟩
def SPK.PARAM_COUNT.COUNT : Field := ⟨0x5C, 0, 32, .ro, 0, 0, 1, false⟩
def SPK.BIN_WAITS.COUNT : Field := ⟨0x60, 0, 32, .ro, 0, 0, 1, false⟩
def SPK.SPKL.STATE : Field := ⟨0x80, 0, 2, .ro, 0, 4, 16, false⟩
def SPK.SPKL.STEP : Field := ⟨0x80, 2, 3, .ro, 0, 4, 16, false⟩
def SPK.SPKL.WAIT : Field := ⟨0x80, 5, 3, .ro, 0, 4, 16, false⟩
def SPK.SPKL.SQ : Field := ⟨0x80, 8, 13, .ro, 0, 4, 16, false⟩

/-- The fields of SPK, beyond the common header. -/
def SPK.fields : List Field :=
  [SPK.CTL.EXPRESS_RSV, SPK.STAT.FREE, SPK.STAT.SAFE_MC, SPK.ALLOC.BUSY, SPK.ALLOC.EXPRESS_ONLY, SPK.MC_VER.INTERFACE, SPK.MC_VER.BUILD, SPK.WINDOWS.IN_USE, SPK.ENTRIES.COUNT, SPK.MALFORMED_COUNT.COUNT, SPK.PARAM_COUNT.COUNT, SPK.BIN_WAITS.COUNT, SPK.SPKL.STATE, SPK.SPKL.STEP, SPK.SPKL.WAIT, SPK.SPKL.SQ]

/-! ### TCK, R187 -/

def TCK.CTL.OVERDRAW_EN : Field := ⟨0x8, 1, 1, .rw, 1, 0, 1, false⟩
def TCK.STAT.DERATING : Field := ⟨0xC, 5, 1, .ro, 0, 0, 1, false⟩
def TCK.STAT.FLOOR : Field := ⟨0xC, 6, 1, .ro, 0, 0, 1, false⟩
def TCK.STAT.TRIPPED : Field := ⟨0xC, 7, 1, .ro, 0, 0, 1, false⟩
def TCK.STAT.DEBT : Field := ⟨0xC, 8, 1, .ro, 0, 0, 1, false⟩
def TCK.STAT.SENSOR_SHORT : Field := ⟨0xC, 9, 1, .ro, 0, 0, 1, false⟩
def TCK.EVT.DERATE_START : Nat := 2
def TCK.EVT.TRIP : Nat := 3
def TCK.EVT.TRIP_END : Nat := 4
def TCK.EVT.EXPRESS_DEFERRED : Nat := 5
def TCK.EVT.SENSOR_DROP : Nat := 6
def TCK.EVT.CAP_OVERRIDE : Nat := 7
def TCK.TICK.LOG2_KC : Field := ⟨0x40, 0, 4, .ro, 10, 0, 1, false⟩
def TCK.POWER_CAP.PROFILE_MW : Field := ⟨0x44, 0, 16, .ro, 0, 0, 1, false⟩
def TCK.POWER_CAP.OVERRIDE_MW : Field := ⟨0x44, 16, 16, .rw, 0, 0, 1, false⟩
def TCK.EXPRESS.BLOCKS : Field := ⟨0x48, 0, 8, .ro, 64, 0, 1, false⟩
def TCK.EXPRESS.EMR_BLOCKS : Field := ⟨0x48, 8, 8, .ro, 16, 0, 1, false⟩
def TCK.EXPRESS.GRAINS : Field := ⟨0x48, 16, 16, .ro, 1024, 0, 1, false⟩
def TCK.THERM_CFG.THROTTLE_C : Field := ⟨0x4C, 0, 8, .ro, 100, 0, 1, false⟩
def TCK.THERM_CFG.FLOORT_C : Field := ⟨0x4C, 8, 8, .ro, 105, 0, 1, false⟩
def TCK.THERM_CFG.TRIP_C : Field := ⟨0x4C, 16, 8, .ro, 115, 0, 1, false⟩
def TCK.THERM_CFG.HYST_C : Field := ⟨0x4C, 24, 4, .ro, 10, 0, 1, false⟩
def TCK.THERM_CFG.LEAD : Field := ⟨0x4C, 28, 4, .ro, 8, 0, 1, false⟩
def TCK.LIMITS.FLOOR_FRAC : Field := ⟨0x50, 0, 9, .ro, 64, 0, 1, false⟩
def TCK.LIMITS.OVERDRAW_MAX : Field := ⟨0x50, 16, 16, .ro, 768, 0, 1, false⟩
def TCK.BULK_MIN.GRAINS : Field := ⟨0x54, 0, 16, .ro, 0, 0, 1, false⟩
def TCK.TICK_COUNT.COUNT : Field := ⟨0x58, 0, 64, .ro, 0, 0, 1, false⟩
def TCK.BOOK_CAPG.MGR : Field := ⟨0x60, 0, 32, .ro, 0, 0, 1, false⟩
def TCK.BOOK_BASE.MGR : Field := ⟨0x64, 0, 32, .ro, 0, 0, 1, false⟩
def TCK.BOOK_DYN.MGR : Field := ⟨0x68, 0, 32, .ro, 0, 0, 1, false⟩
def TCK.BOOK_RESERVE.MGR : Field := ⟨0x6C, 0, 32, .ro, 0, 0, 1, false⟩
def TCK.BOOK_REPAY.MGR : Field := ⟨0x70, 0, 32, .ro, 0, 0, 1, false⟩
def TCK.BOOK_GRANTED.MGR : Field := ⟨0x74, 0, 32, .ro, 0, 0, 1, false⟩
def TCK.BOOK_CARRY.MGR : Field := ⟨0x78, 0, 32, .ro, 0, 0, 1, false⟩
def TCK.EXPRESS_USED.MGR : Field := ⟨0x7C, 0, 32, .ro, 0, 0, 1, false⟩
def TCK.DERATE.FACTOR : Field := ⟨0x80, 0, 9, .ro, 256, 0, 1, false⟩
def TCK.DERATE.TMODEL : Field := ⟨0x80, 16, 12, .ro, 0, 0, 1, false⟩
def TCK.TEMP_HOT.T : Field := ⟨0x84, 0, 12, .ro, 0, 0, 1, false⟩
def TCK.TEMP_HOT.SENSOR : Field := ⟨0x84, 12, 3, .ro, 0, 0, 1, false⟩
def TCK.TEMP_HOT.VALID : Field := ⟨0x84, 16, 4, .ro, 0, 0, 1, false⟩
def TCK.SENSOR_EN.MASK : Field := ⟨0x88, 0, 8, .rwl, 255, 0, 1, true⟩
def TCK.SENSOR_EN.DROPPED : Field := ⟨0x88, 8, 8, .ro, 0, 0, 1, false⟩
def TCK.OVERDRAWS.COUNT : Field := ⟨0x90, 0, 32, .ro, 0, 0, 1, false⟩
def TCK.SHORTENED.COUNT : Field := ⟨0x94, 0, 32, .ro, 0, 0, 1, false⟩
def TCK.EXPRESS_DEFERRED.COUNT : Field := ⟨0x98, 0, 32, .ro, 0, 0, 1, false⟩
def TCK.DERATED_TICKS.COUNT : Field := ⟨0xA0, 0, 64, .ro, 0, 0, 1, false⟩
def TCK.TRIPPED_TICKS.COUNT : Field := ⟨0xA8, 0, 64, .ro, 0, 0, 1, false⟩
def TCK.PLANNED_QUANTA.COUNT : Field := ⟨0xB0, 0, 64, .ro, 0, 0, 1, false⟩
def TCK.COST_SEL.INDEX : Field := ⟨0xB8, 0, 6, .rw, 0, 0, 1, false⟩
def TCK.COST_VAL.VALUE : Field := ⟨0xBC, 0, 32, .ro, 0, 0, 1, false⟩
def TCK.SENSOR.TEMP : Field := ⟨0xC0, 0, 12, .ro, 0, 4, 8, false⟩
def TCK.SENSOR.VALID : Field := ⟨0xC0, 12, 1, .ro, 0, 4, 8, false⟩
def TCK.SENSOR.DROPPED : Field := ⟨0xC0, 13, 1, .ro, 0, 4, 8, false⟩

/-- The fields of TCK, beyond the common header. -/
def TCK.fields : List Field :=
  [TCK.CTL.OVERDRAW_EN, TCK.STAT.DERATING, TCK.STAT.FLOOR, TCK.STAT.TRIPPED, TCK.STAT.DEBT, TCK.STAT.SENSOR_SHORT, TCK.TICK.LOG2_KC, TCK.POWER_CAP.PROFILE_MW, TCK.POWER_CAP.OVERRIDE_MW, TCK.EXPRESS.BLOCKS, TCK.EXPRESS.EMR_BLOCKS, TCK.EXPRESS.GRAINS, TCK.THERM_CFG.THROTTLE_C, TCK.THERM_CFG.FLOORT_C, TCK.THERM_CFG.TRIP_C, TCK.THERM_CFG.HYST_C] ++
  [TCK.THERM_CFG.LEAD, TCK.LIMITS.FLOOR_FRAC, TCK.LIMITS.OVERDRAW_MAX, TCK.BULK_MIN.GRAINS, TCK.TICK_COUNT.COUNT, TCK.BOOK_CAPG.MGR, TCK.BOOK_BASE.MGR, TCK.BOOK_DYN.MGR, TCK.BOOK_RESERVE.MGR, TCK.BOOK_REPAY.MGR, TCK.BOOK_GRANTED.MGR, TCK.BOOK_CARRY.MGR, TCK.EXPRESS_USED.MGR, TCK.DERATE.FACTOR, TCK.DERATE.TMODEL, TCK.TEMP_HOT.T] ++
  [TCK.TEMP_HOT.SENSOR, TCK.TEMP_HOT.VALID, TCK.SENSOR_EN.MASK, TCK.SENSOR_EN.DROPPED, TCK.OVERDRAWS.COUNT, TCK.SHORTENED.COUNT, TCK.EXPRESS_DEFERRED.COUNT, TCK.DERATED_TICKS.COUNT, TCK.TRIPPED_TICKS.COUNT, TCK.PLANNED_QUANTA.COUNT, TCK.COST_SEL.INDEX, TCK.COST_VAL.VALUE, TCK.SENSOR.TEMP, TCK.SENSOR.VALID, TCK.SENSOR.DROPPED]

/-! ### SPL, R225 -/

def SPL.CTL.MASK_EN : Field := ⟨0x8, 1, 1, .rwl, 0, 0, 1, false⟩
def SPL.CTL.DUMMY_EN : Field := ⟨0x8, 2, 1, .rwl, 0, 0, 1, false⟩
def SPL.CTL.EXPRESS_CTX : Field := ⟨0x8, 8, 3, .rwl, 4, 0, 1, false⟩
def SPL.STAT.STARVED : Field := ⟨0xC, 5, 1, .ro, 0, 0, 1, false⟩
def SPL.STAT.GRACE : Field := ⟨0xC, 6, 1, .ro, 0, 0, 1, false⟩
def SPL.STAT.UNPROTECTED : Field := ⟨0xC, 7, 1, .ro, 0, 0, 1, false⟩
def SPL.EVT.CHECK_FAIL : Nat := 2
def SPL.EVT.STARVED : Nat := 3
def SPL.EVT.STARVE_END : Nat := 4
def SPL.EVT.SUSPEND_WAIT : Nat := 5
def SPL.EVT.UNPROTECTED : Nat := 6
def SPL.MASK_CFG.GRACE : Field := ⟨0x40, 0, 4, .rw, 4, 0, 1, false⟩
def SPL.MASK_CFG.STARVE_LIMIT : Field := ⟨0x40, 8, 8, .rw, 64, 0, 1, false⟩
def SPL.CHECK_CFG.RATE_LOG2 : Field := ⟨0x44, 0, 4, .rw, 0, 0, 1, false⟩
def SPL.CHECK_CFG.INJECT_ENC : Field := ⟨0x44, 8, 1, .wo, 0, 0, 1, false⟩
def SPL.CHECK_CFG.INJECT_DEC : Field := ⟨0x44, 9, 1, .wo, 0, 0, 1, false⟩
def SPL.CTX_STAT.USED : Field := ⟨0x48, 0, 7, .ro, 0, 0, 1, false⟩
def SPL.CTX_STAT.EXPRESS_USED : Field := ⟨0x48, 8, 7, .ro, 0, 0, 1, false⟩
def SPL.CTX_STAT.SUSPENDED : Field := ⟨0x48, 16, 12, .ro, 0, 0, 1, false⟩
def SPL.SEED_AGE.TICKS : Field := ⟨0x4C, 0, 5, .ro, 0, 0, 1, false⟩
def SPL.BLOCKS_ENC.COUNT : Field := ⟨0x50, 0, 64, .ro, 0, 0, 1, false⟩
def SPL.BLOCKS_DEC.COUNT : Field := ⟨0x58, 0, 64, .ro, 0, 0, 1, false⟩
def SPL.DUMMY_BLOCKS.COUNT : Field := ⟨0x60, 0, 64, .ro, 0, 0, 1, false⟩
def SPL.CHECKED.COUNT : Field := ⟨0x68, 0, 64, .ro, 0, 0, 1, false⟩
def SPL.CHECK_SKIPPED.COUNT : Field := ⟨0x70, 0, 32, .ro, 0, 0, 1, false⟩
def SPL.CHECK_FAILS.COUNT : Field := ⟨0x74, 0, 32, .ro, 0, 0, 1, false⟩
def SPL.SUSPENDS.COUNT : Field := ⟨0x78, 0, 32, .ro, 0, 0, 1, false⟩
def SPL.RESUMES.COUNT : Field := ⟨0x7C, 0, 32, .ro, 0, 0, 1, false⟩
def SPL.TAG_FAILS.COUNT : Field := ⟨0x80, 0, 32, .ro, 0, 0, 1, false⟩
def SPL.GUARD_FAILS.COUNT : Field := ⟨0x84, 0, 32, .ro, 0, 0, 1, false⟩
def SPL.MASK_MISSED.COUNT : Field := ⟨0x88, 0, 32, .ro, 0, 0, 1, false⟩
def SPL.STARVED_TICKS.COUNT : Field := ⟨0x8C, 0, 32, .ro, 0, 0, 1, false⟩

/-- The fields of SPL, beyond the common header. -/
def SPL.fields : List Field :=
  [SPL.CTL.MASK_EN, SPL.CTL.DUMMY_EN, SPL.CTL.EXPRESS_CTX, SPL.STAT.STARVED, SPL.STAT.GRACE, SPL.STAT.UNPROTECTED, SPL.MASK_CFG.GRACE, SPL.MASK_CFG.STARVE_LIMIT, SPL.CHECK_CFG.RATE_LOG2, SPL.CHECK_CFG.INJECT_ENC, SPL.CHECK_CFG.INJECT_DEC, SPL.CTX_STAT.USED, SPL.CTX_STAT.EXPRESS_USED, SPL.CTX_STAT.SUSPENDED, SPL.SEED_AGE.TICKS, SPL.BLOCKS_ENC.COUNT] ++
  [SPL.BLOCKS_DEC.COUNT, SPL.DUMMY_BLOCKS.COUNT, SPL.CHECKED.COUNT, SPL.CHECK_SKIPPED.COUNT, SPL.CHECK_FAILS.COUNT, SPL.SUSPENDS.COUNT, SPL.RESUMES.COUNT, SPL.TAG_FAILS.COUNT, SPL.GUARD_FAILS.COUNT, SPL.MASK_MISSED.COUNT, SPL.STARVED_TICKS.COUNT]

/-! ### HLD, R227 -/

def HLD.STAT.BINS_EMPTY : Field := ⟨0xC, 5, 1, .ro, 0, 0, 1, false⟩
def HLD.STAT.SUSPEND_FULL : Field := ⟨0xC, 6, 1, .ro, 0, 0, 1, false⟩
def HLD.EVT.ECC_CORR : Nat := 2
def HLD.EVT.ECC_UNCORR : Nat := 3
def HLD.EVT.BIN_WAIT : Nat := 4
def HLD.EVT.SUSPEND_WAIT : Nat := 5
def HLD.BIN_STAT.FREE : Field := ⟨0x40, 0, 12, .ro, 0, 0, 1, false⟩
def HLD.BIN_STAT.JOBS : Field := ⟨0x40, 16, 11, .ro, 0, 0, 1, false⟩
def HLD.SUSPEND_STAT.FREE : Field := ⟨0x44, 0, 12, .ro, 2048, 0, 1, false⟩
def HLD.BIN_LOW.LOW : Field := ⟨0x48, 0, 12, .rc, 0, 0, 1, false⟩
def HLD.SUSPEND_LOW.LOW : Field := ⟨0x4C, 0, 12, .rc, 2048, 0, 1, false⟩
def HLD.RELEASED.BYTES : Field := ⟨0x50, 0, 64, .ro, 0, 0, 1, false⟩
def HLD.WITHHELD.BYTES : Field := ⟨0x58, 0, 64, .ro, 0, 0, 1, false⟩
def HLD.SUSPEND_MOVES.COUNT : Field := ⟨0x60, 0, 64, .ro, 0, 0, 1, false⟩
def HLD.ECC_CORR.COUNT : Field := ⟨0x68, 0, 32, .ro, 0, 0, 1, false⟩
def HLD.ECC_UNCORR.COUNT : Field := ⟨0x6C, 0, 32, .ro, 0, 0, 1, false⟩

/-- The fields of HLD, beyond the common header. -/
def HLD.fields : List Field :=
  [HLD.STAT.BINS_EMPTY, HLD.STAT.SUSPEND_FULL, HLD.BIN_STAT.FREE, HLD.BIN_STAT.JOBS, HLD.SUSPEND_STAT.FREE, HLD.BIN_LOW.LOW, HLD.SUSPEND_LOW.LOW, HLD.RELEASED.BYTES, HLD.WITHHELD.BYTES, HLD.SUSPEND_MOVES.COUNT, HLD.ECC_CORR.COUNT, HLD.ECC_UNCORR.COUNT]

/-! ### KCC, R259 -/

def KCC.STAT.FILLS_BUSY : Field := ⟨0xC, 5, 1, .ro, 0, 0, 1, false⟩
def KCC.STAT.HUSK_HIGH : Field := ⟨0xC, 6, 1, .ro, 0, 0, 1, false⟩
def KCC.STAT.HUSK_FULL : Field := ⟨0xC, 7, 1, .ro, 0, 0, 1, false⟩
def KCC.STAT.RNG_SHORT : Field := ⟨0xC, 8, 1, .ro, 0, 0, 1, false⟩
def KCC.EVT.FILL_TAG_FAIL : Nat := 2
def KCC.EVT.HUSK_HIGH : Nat := 3
def KCC.EVT.HUSK_FULL : Nat := 4
def KCC.EVT.WRITEBACK_ERR : Nat := 5
def KCC.EVT.PIN_WAIT : Nat := 6
def KCC.EVT.RNG_SHORT : Nat := 7
def KCC.EVT.SHARED_LOST : Nat := 8
def KCC.GEOM.SETS_LOG2 : Field := ⟨0x40, 0, 5, .ro, 0, 0, 1, false⟩
def KCC.GEOM.WAYS_ON : Field := ⟨0x40, 5, 5, .ro, 16, 0, 1, false⟩
def KCC.CFG.WAYS : Field := ⟨0x44, 0, 2, .rwl, 3, 0, 1, false⟩
def KCC.CFG.HASH : Field := ⟨0x44, 2, 1, .rwl, 1, 0, 1, false⟩
def KCC.SB_BASE_LO.BASE : Field := ⟨0x48, 12, 20, .rwl, 0, 0, 1, true⟩
def KCC.SB_BASE_HI.BASE : Field := ⟨0x4C, 0, 16, .rwl, 0, 0, 1, true⟩
def KCC.SB_SLOTS.COUNT : Field := ⟨0x50, 0, 24, .rwl, 0, 0, 1, true⟩
def KCC.FILL_STAT.IN_FLIGHT : Field := ⟨0x54, 0, 5, .ro, 0, 0, 1, false⟩
def KCC.FILL_STAT.WAITING : Field := ⟨0x54, 16, 12, .ro, 0, 0, 1, false⟩
def KCC.HUSK_STAT.USED : Field := ⟨0x58, 0, 14, .ro, 0, 0, 1, false⟩
def KCC.HUSK_STAT.CAPACITY : Field := ⟨0x58, 16, 14, .ro, 0, 0, 1, false⟩
def KCC.REFUSE_DELAY.KC : Field := ⟨0x5C, 0, 8, .ro, 40, 0, 1, false⟩
def KCC.LOOKUPS.COUNT : Field := ⟨0x60, 0, 64, .ro, 0, 0, 1, false⟩
def KCC.HITS.COUNT : Field := ⟨0x68, 0, 64, .ro, 0, 0, 1, false⟩
def KCC.FILLS.COUNT : Field := ⟨0x70, 0, 64, .ro, 0, 0, 1, false⟩
def KCC.REFUSALS.COUNT : Field := ⟨0x78, 0, 64, .ro, 0, 0, 1, false⟩
def KCC.EVICTIONS.COUNT : Field := ⟨0x80, 0, 64, .ro, 0, 0, 1, false⟩
def KCC.WRITEBACKS.COUNT : Field := ⟨0x88, 0, 32, .ro, 0, 0, 1, false⟩
def KCC.FILL_TAG_FAILS.COUNT : Field := ⟨0x8C, 0, 32, .ro, 0, 0, 1, false⟩
def KCC.PIN_WAITS.COUNT : Field := ⟨0x90, 0, 32, .ro, 0, 0, 1, false⟩
def KCC.FILL_WAITS.COUNT : Field := ⟨0x94, 0, 32, .ro, 0, 0, 1, false⟩
def KCC.REALM_SEL.REALM : Field := ⟨0x98, 0, 10, .rw, 0, 0, 1, false⟩
def KCC.REALM_KEYS.LOADED : Field := ⟨0x9C, 0, 1, .ro, 0, 0, 1, false⟩
def KCC.REALM_KEYS.MODE : Field := ⟨0x9C, 1, 1, .ro, 0, 0, 1, false⟩
def KCC.REALM_KEYS.COHERENT : Field := ⟨0x9C, 2, 1, .ro, 0, 0, 1, false⟩
def KCC.REALM_KEYS.HUSK_RECORDS : Field := ⟨0x9C, 16, 14, .ro, 0, 0, 1, false⟩
def KCC.RANGE_FIRST.FIRST : Field := ⟨0xA0, 0, 23, .rw, 0, 8, 4, true⟩
def KCC.RANGE_FIRST.EN : Field := ⟨0xA0, 31, 1, .rw, 0, 8, 4, true⟩
def KCC.RANGE_ATTR.KIND : Field := ⟨0xA4, 0, 8, .rw, 0, 8, 4, true⟩
def KCC.RANGE_ATTR.ALG : Field := ⟨0xA4, 8, 8, .rw, 0, 8, 4, true⟩
def KCC.RANGE_ATTR.SHARED : Field := ⟨0xA4, 16, 1, .rw, 0, 8, 4, true⟩
def KCC.RANGE_ATTR.EXPORTABLE : Field := ⟨0xA4, 17, 1, .rw, 0, 8, 4, true⟩
def KCC.LINES_VALID.COUNT : Field := ⟨0xC0, 0, 15, .ro, 0, 0, 1, false⟩
def KCC.LINES_PINNED.COUNT : Field := ⟨0xC4, 0, 15, .ro, 0, 0, 1, false⟩

/-- The fields of KCC, beyond the common header. -/
def KCC.fields : List Field :=
  [KCC.STAT.FILLS_BUSY, KCC.STAT.HUSK_HIGH, KCC.STAT.HUSK_FULL, KCC.STAT.RNG_SHORT, KCC.GEOM.SETS_LOG2, KCC.GEOM.WAYS_ON, KCC.CFG.WAYS, KCC.CFG.HASH, KCC.SB_BASE_LO.BASE, KCC.SB_BASE_HI.BASE, KCC.SB_SLOTS.COUNT, KCC.FILL_STAT.IN_FLIGHT, KCC.FILL_STAT.WAITING, KCC.HUSK_STAT.USED, KCC.HUSK_STAT.CAPACITY, KCC.REFUSE_DELAY.KC] ++
  [KCC.LOOKUPS.COUNT, KCC.HITS.COUNT, KCC.FILLS.COUNT, KCC.REFUSALS.COUNT, KCC.EVICTIONS.COUNT, KCC.WRITEBACKS.COUNT, KCC.FILL_TAG_FAILS.COUNT, KCC.PIN_WAITS.COUNT, KCC.FILL_WAITS.COUNT, KCC.REALM_SEL.REALM, KCC.REALM_KEYS.LOADED, KCC.REALM_KEYS.MODE, KCC.REALM_KEYS.COHERENT, KCC.REALM_KEYS.HUSK_RECORDS, KCC.RANGE_FIRST.FIRST, KCC.RANGE_FIRST.EN] ++
  [KCC.RANGE_ATTR.KIND, KCC.RANGE_ATTR.ALG, KCC.RANGE_ATTR.SHARED, KCC.RANGE_ATTR.EXPORTABLE, KCC.LINES_VALID.COUNT, KCC.LINES_PINNED.COUNT]

/-! ### EMR, R300 -/

def EMR.CTL.EXPRESS_CTX : Field := ⟨0x8, 1, 4, .rwl, 8, 0, 1, false⟩
def EMR.CTL.KECCAK_LAT_MAX : Field := ⟨0x8, 5, 3, .rw, 2, 0, 1, false⟩
def EMR.STAT.CORES_SHORT : Field := ⟨0xC, 5, 1, .ro, 0, 0, 1, false⟩
def EMR.STAT.CTX_FULL : Field := ⟨0xC, 6, 1, .ro, 0, 0, 1, false⟩
def EMR.EVT.KAT_FAIL : Nat := 2
def EMR.EVT.PARITY : Nat := 3
def EMR.EVT.PAIR_MISMATCH : Nat := 4
def EMR.EVT.CTX_WAIT : Nat := 5
def EMR.EVT.ECC_CORR : Nat := 6
def EMR.EVT.ECC_UNCORR : Nat := 7
def EMR.EVT.MEAS_BROKEN : Nat := 8
def EMR.CORE_OFF.SHA2 : Field := ⟨0x40, 0, 16, .ro, 0, 0, 1, false⟩
def EMR.CORE_OFF.KECCAK : Field := ⟨0x40, 16, 4, .ro, 0, 0, 1, false⟩
def EMR.CTX_STAT.USED : Field := ⟨0x44, 0, 8, .ro, 0, 0, 1, false⟩
def EMR.CTX_STAT.EXPRESS_USED : Field := ⟨0x44, 8, 8, .ro, 0, 0, 1, false⟩
def EMR.CTX_STAT.LATTICE_KECCAK : Field := ⟨0x44, 16, 3, .ro, 0, 0, 1, false⟩
def EMR.MEAS_SEL.REG : Field := ⟨0x48, 0, 6, .rw, 0, 0, 1, false⟩
def EMR.MEAS_SEL.BROKEN : Field := ⟨0x48, 31, 1, .ro, 0, 0, 1, false⟩
def EMR.MEAS_COUNT.COUNT : Field := ⟨0x4C, 0, 32, .ro, 0, 0, 1, false⟩
def EMR.BLOCKS_SHA256.COUNT : Field := ⟨0x50, 0, 64, .ro, 0, 0, 1, false⟩
def EMR.BLOCKS_SHA512.COUNT : Field := ⟨0x58, 0, 64, .ro, 0, 0, 1, false⟩
def EMR.PERMS.COUNT : Field := ⟨0x60, 0, 64, .ro, 0, 0, 1, false⟩
def EMR.PERMS_LATTICE.COUNT : Field := ⟨0x68, 0, 64, .ro, 0, 0, 1, false⟩
def EMR.HMAC_FILLS.COUNT : Field := ⟨0x70, 0, 32, .ro, 0, 0, 1, false⟩
def EMR.VERIFY_FAILS.COUNT : Field := ⟨0x74, 0, 32, .ro, 0, 0, 1, false⟩
def EMR.PAIR_MISMATCH.COUNT : Field := ⟨0x78, 0, 32, .ro, 0, 0, 1, false⟩
def EMR.PARITY_ERRS.COUNT : Field := ⟨0x7C, 0, 32, .ro, 0, 0, 1, false⟩
def EMR.CTX_WAITS.COUNT : Field := ⟨0x80, 0, 32, .ro, 0, 0, 1, false⟩
def EMR.ECC_CORR.COUNT : Field := ⟨0x84, 0, 32, .ro, 0, 0, 1, false⟩
def EMR.ECC_UNCORR.COUNT : Field := ⟨0x88, 0, 32, .ro, 0, 0, 1, false⟩
def EMR.MEAS_DATA.BYTES : Field := ⟨0xC0, 0, 32, .ro, 0, 4, 16, false⟩

/-- The fields of EMR, beyond the common header. -/
def EMR.fields : List Field :=
  [EMR.CTL.EXPRESS_CTX, EMR.CTL.KECCAK_LAT_MAX, EMR.STAT.CORES_SHORT, EMR.STAT.CTX_FULL, EMR.CORE_OFF.SHA2, EMR.CORE_OFF.KECCAK, EMR.CTX_STAT.USED, EMR.CTX_STAT.EXPRESS_USED, EMR.CTX_STAT.LATTICE_KECCAK, EMR.MEAS_SEL.REG, EMR.MEAS_SEL.BROKEN, EMR.MEAS_COUNT.COUNT, EMR.BLOCKS_SHA256.COUNT, EMR.BLOCKS_SHA512.COUNT, EMR.PERMS.COUNT, EMR.PERMS_LATTICE.COUNT] ++
  [EMR.HMAC_FILLS.COUNT, EMR.VERIFY_FAILS.COUNT, EMR.PAIR_MISMATCH.COUNT, EMR.PARITY_ERRS.COUNT, EMR.CTX_WAITS.COUNT, EMR.ECC_CORR.COUNT, EMR.ECC_UNCORR.COUNT, EMR.MEAS_DATA.BYTES]

/-! ### SRG, R329 -/

def SRG.CTL.LATTICE_EN : Field := ⟨0x8, 1, 1, .rwl, 0, 0, 1, false⟩
def SRG.CTL.EXPRESS_HOLD : Field := ⟨0x8, 2, 1, .rw, 0, 0, 1, false⟩
def SRG.STAT.RUNNING : Field := ⟨0xC, 5, 1, .ro, 0, 0, 1, false⟩
def SRG.STAT.RUN_BANK : Field := ⟨0xC, 6, 1, .ro, 0, 0, 1, false⟩
def SRG.STAT.WIPING : Field := ⟨0xC, 7, 1, .ro, 0, 0, 1, false⟩
def SRG.EVT.CHECK_FAIL : Nat := 2
def SRG.EVT.ECC_CORR : Nat := 3
def SRG.EVT.ECC_UNCORR : Nat := 4
def SRG.EVT.ABORT : Nat := 5
def SRG.EVT.BANK_WAIT : Nat := 6
def SRG.BANK0.STATE : Field := ⟨0x40, 0, 3, .ro, 0, 0, 1, false⟩
def SRG.BANK1.STATE : Field := ⟨0x44, 0, 3, .ro, 0, 0, 1, false⟩
def SRG.BANK0.EXPRESS : Field := ⟨0x40, 3, 1, .ro, 0, 0, 1, false⟩
def SRG.BANK1.EXPRESS : Field := ⟨0x44, 3, 1, .ro, 0, 0, 1, false⟩
def SRG.BANK0.OPCODE : Field := ⟨0x40, 8, 8, .ro, 0, 0, 1, false⟩
def SRG.BANK1.OPCODE : Field := ⟨0x44, 8, 8, .ro, 0, 0, 1, false⟩
def SRG.BANK0.REALM : Field := ⟨0x40, 16, 10, .ro, 0, 0, 1, false⟩
def SRG.BANK1.REALM : Field := ⟨0x44, 16, 10, .ro, 0, 0, 1, false⟩
def SRG.MODE.CURRENT : Field := ⟨0x48, 0, 2, .ro, 0, 0, 1, false⟩
def SRG.MODE.Q : Field := ⟨0x48, 2, 1, .ro, 0, 0, 1, false⟩
def SRG.MC_VER.INTERFACE : Field := ⟨0x4C, 0, 16, .ro, 0, 0, 1, false⟩
def SRG.MC_VER.BUILD : Field := ⟨0x4C, 16, 16, .ro, 0, 0, 1, false⟩
def SRG.SCLK_FULL.COUNT : Field := ⟨0x50, 0, 64, .ro, 0, 0, 1, false⟩
def SRG.SCLK_LATTICE.COUNT : Field := ⟨0x58, 0, 64, .ro, 0, 0, 1, false⟩
def SRG.OPS.COUNT : Field := ⟨0x60, 0, 64, .ro, 0, 0, 1, false⟩
def SRG.PAUSES.COUNT : Field := ⟨0x68, 0, 64, .ro, 0, 0, 1, false⟩
def SRG.LOADED_BYTES.COUNT : Field := ⟨0x70, 0, 64, .ro, 0, 0, 1, false⟩
def SRG.WIPES.COUNT : Field := ⟨0x78, 0, 32, .ro, 0, 0, 1, false⟩
def SRG.ABORTS.COUNT : Field := ⟨0x7C, 0, 32, .ro, 0, 0, 1, false⟩
def SRG.CHECK_FAILS.COUNT : Field := ⟨0x80, 0, 32, .ro, 0, 0, 1, false⟩
def SRG.EXPRESS_RUNS.COUNT : Field := ⟨0x84, 0, 32, .ro, 0, 0, 1, false⟩
def SRG.BANK_WAITS.COUNT : Field := ⟨0x88, 0, 32, .ro, 0, 0, 1, false⟩
def SRG.ECC_CORR.COUNT : Field := ⟨0x8C, 0, 32, .ro, 0, 0, 1, false⟩
def SRG.ECC_UNCORR.COUNT : Field := ⟨0x90, 0, 32, .ro, 0, 0, 1, false⟩

/-- The fields of SRG, beyond the common header. -/
def SRG.fields : List Field :=
  [SRG.CTL.LATTICE_EN, SRG.CTL.EXPRESS_HOLD, SRG.STAT.RUNNING, SRG.STAT.RUN_BANK, SRG.STAT.WIPING, SRG.BANK0.STATE, SRG.BANK1.STATE, SRG.BANK0.EXPRESS, SRG.BANK1.EXPRESS, SRG.BANK0.OPCODE, SRG.BANK1.OPCODE, SRG.BANK0.REALM, SRG.BANK1.REALM, SRG.MODE.CURRENT, SRG.MODE.Q, SRG.MC_VER.INTERFACE] ++
  [SRG.MC_VER.BUILD, SRG.SCLK_FULL.COUNT, SRG.SCLK_LATTICE.COUNT, SRG.OPS.COUNT, SRG.PAUSES.COUNT, SRG.LOADED_BYTES.COUNT, SRG.WIPES.COUNT, SRG.ABORTS.COUNT, SRG.CHECK_FAILS.COUNT, SRG.EXPRESS_RUNS.COUNT, SRG.BANK_WAITS.COUNT, SRG.ECC_CORR.COUNT, SRG.ECC_UNCORR.COUNT]

/-! ### TEF, R352 -/

def TEF.STAT.POOL_LOW : Field := ⟨0xC, 5, 1, .ro, 0, 0, 1, false⟩
def TEF.STAT.STARTUP : Field := ⟨0xC, 6, 1, .ro, 0, 0, 1, false⟩
def TEF.STAT.RAW : Field := ⟨0xC, 7, 1, .ro, 0, 0, 1, false⟩
def TEF.EVT.HEALTH_FAIL : Nat := 2
def TEF.EVT.CELL_DROP : Nat := 3
def TEF.EVT.POOL_LOW : Nat := 4
def TEF.EVT.STRETCH : Nat := 5
def TEF.EVT.EXP_STOP : Nat := 6
def TEF.EVT.EXP_LIVE : Nat := 7
def TEF.EVT.KAT_FAIL : Nat := 8
def TEF.EVT.RAW_DONE : Nat := 9
def TEF.EVT.SWP_UNDERRUN : Nat := 10
def TEF.CELL_EN.MASK : Field := ⟨0x40, 0, 16, .rwl, 65535, 0, 1, true⟩
def TEF.CELL_STAT.HEALTHY : Field := ⟨0x44, 0, 16, .ro, 0, 0, 1, false⟩
def TEF.CELL_STAT.DROPPED : Field := ⟨0x44, 16, 16, .ro, 0, 0, 1, false⟩
def TEF.CELL_CLR.DROP_CLR : Field := ⟨0x48, 0, 16, .wo, 0, 0, 1, false⟩
def TEF.HT_CFG.RCT_CUTOFF : Field := ⟨0x4C, 0, 8, .rwl, 121, 0, 1, false⟩
def TEF.HT_CFG.APT_CUTOFF : Field := ⟨0x4C, 16, 10, .rwl, 830, 0, 1, false⟩
def TEF.POOL.HEALTHY : Field := ⟨0x50, 0, 5, .ro, 0, 0, 1, false⟩
def TEF.POOL.SEEDS_HELD : Field := ⟨0x50, 8, 3, .ro, 0, 0, 1, false⟩
def TEF.EXP_SUMMARY.SUPPLY : Field := ⟨0x54, 0, 12, .ro, 0, 0, 1, false⟩
def TEF.EXP_SUMMARY.STRETCHED : Field := ⟨0x54, 16, 12, .ro, 0, 0, 1, false⟩
def TEF.RESEED_REQ.REQ : Field := ⟨0x58, 0, 12, .w1s, 0, 0, 1, false⟩
def TEF.PERS.BYTES : Field := ⟨0x60, 0, 32, .rwl, 0, 4, 8, true⟩
def TEF.SWP_DATA.DATA : Field := ⟨0x80, 0, 64, .rc, 0, 0, 1, false⟩
def TEF.SWP_STAT.AVAIL : Field := ⟨0x88, 0, 9, .ro, 0, 0, 1, false⟩
def TEF.SWP_UNDERRUN.COUNT : Field := ⟨0x8C, 0, 32, .ro, 0, 0, 1, false⟩
def TEF.RAW_CTL.RAW_EN : Field := ⟨0x90, 0, 1, .rw, 0, 0, 1, false⟩
def TEF.RAW_CTL.CAPTURE : Field := ⟨0x90, 1, 1, .go, 0, 0, 1, false⟩
def TEF.RAW_CTL.CELL : Field := ⟨0x90, 2, 4, .rw, 0, 0, 1, false⟩
def TEF.RAW_CTL.ALL : Field := ⟨0x90, 6, 1, .rw, 0, 0, 1, false⟩
def TEF.RAW_STAT.FILLED : Field := ⟨0x94, 0, 17, .ro, 0, 0, 1, false⟩
def TEF.RAW_WIN.WINDOW : Field := ⟨0x98, 0, 5, .rw, 0, 0, 1, false⟩
def TEF.SEEDS.COUNT : Field := ⟨0xA0, 0, 64, .ro, 0, 0, 1, false⟩
def TEF.WINDOWS_PASSED.COUNT : Field := ⟨0xA8, 0, 64, .ro, 0, 0, 1, false⟩
def TEF.WINDOWS_FAILED.COUNT : Field := ⟨0xB0, 0, 64, .ro, 0, 0, 1, false⟩
def TEF.CELL_FAILS.RCT : Field := ⟨0x100, 0, 16, .ro, 0, 4, 16, false⟩
def TEF.CELL_FAILS.APT : Field := ⟨0x100, 16, 16, .ro, 0, 4, 16, false⟩
def TEF.EXP.CALLS : Field := ⟨0x140, 0, 25, .ro, 0, 4, 12, false⟩
def TEF.EXP.STATE : Field := ⟨0x140, 25, 3, .ro, 0, 4, 12, false⟩

/-- The fields of TEF, beyond the common header. -/
def TEF.fields : List Field :=
  [TEF.STAT.POOL_LOW, TEF.STAT.STARTUP, TEF.STAT.RAW, TEF.CELL_EN.MASK, TEF.CELL_STAT.HEALTHY, TEF.CELL_STAT.DROPPED, TEF.CELL_CLR.DROP_CLR, TEF.HT_CFG.RCT_CUTOFF, TEF.HT_CFG.APT_CUTOFF, TEF.POOL.HEALTHY, TEF.POOL.SEEDS_HELD, TEF.EXP_SUMMARY.SUPPLY, TEF.EXP_SUMMARY.STRETCHED, TEF.RESEED_REQ.REQ, TEF.PERS.BYTES, TEF.SWP_DATA.DATA] ++
  [TEF.SWP_STAT.AVAIL, TEF.SWP_UNDERRUN.COUNT, TEF.RAW_CTL.RAW_EN, TEF.RAW_CTL.CAPTURE, TEF.RAW_CTL.CELL, TEF.RAW_CTL.ALL, TEF.RAW_STAT.FILLED, TEF.RAW_WIN.WINDOW, TEF.SEEDS.COUNT, TEF.WINDOWS_PASSED.COUNT, TEF.WINDOWS_FAILED.COUNT, TEF.CELL_FAILS.RCT, TEF.CELL_FAILS.APT, TEF.EXP.CALLS, TEF.EXP.STATE]

/-! ### CHF, R372 -/

def CHF.STAT.ANY_FENCED : Field := ⟨0xC, 5, 1, .ro, 0, 0, 1, false⟩
def CHF.STAT.ANY_RETIRED : Field := ⟨0xC, 6, 1, .ro, 0, 0, 1, false⟩
def CHF.EVT.DEGRADED : Nat := 2
def CHF.EVT.SEVERE : Nat := 3
def CHF.EVT.RETIRE_SKIPPED : Nat := 4
def CHF.EVT.BUS_ERR : Nat := 5
def CHF.EVT.RELEASE_DONE : Nat := 6
def CHF.EVT.UNIT_EVT : Nat := 7
def CHF.SUMMARY.UNITS : Field := ⟨0x44, 0, 23, .ro, 0, 0, 1, false⟩
def CHF.RETIRE_POLICY.UNITS : Field := ⟨0x48, 16, 5, .rw, 7, 0, 1, false⟩
def CHF.LOCK_STAT.SOURCE : Field := ⟨0x4C, 0, 16, .ro, 0, 0, 1, false⟩
def CHF.LOCK_STAT.KIND : Field := ⟨0x4C, 16, 12, .ro, 0, 0, 1, false⟩
def CHF.LOCK_STAT.LOCKED : Field := ⟨0x4C, 31, 1, .ro, 0, 0, 1, false⟩
def CHF.MESSAGES.COUNT : Field := ⟨0x50, 0, 64, .ro, 0, 0, 1, false⟩
def CHF.RAISES.COUNT : Field := ⟨0x58, 0, 32, .ro, 0, 0, 1, false⟩
def CHF.BUS_ERRORS.COUNT : Field := ⟨0x5C, 0, 32, .ro, 0, 0, 1, false⟩
def CHF.MERGED.COUNT : Field := ⟨0x60, 0, 32, .ro, 0, 0, 1, false⟩
def CHF.RULE_SEL.KIND : Field := ⟨0x64, 0, 12, .rw, 0, 0, 1, false⟩
def CHF.RULE_VAL.N : Field := ⟨0x68, 0, 8, .rwl, 0, 0, 1, true⟩
def CHF.RULE_VAL.W : Field := ⟨0x68, 8, 20, .rwl, 0, 0, 1, true⟩
def CHF.RULE_VAL.ENTRY : Field := ⟨0x68, 28, 2, .ro, 0, 0, 1, false⟩
def CHF.RULE_VAL.CEIL : Field := ⟨0x68, 30, 2, .ro, 0, 0, 1, false⟩
def CHF.SRC_SEL.SOURCE : Field := ⟨0x6C, 0, 16, .rw, 0, 0, 1, false⟩
def CHF.SRC_STAT.CLASS : Field := ⟨0x70, 0, 2, .ro, 0, 0, 1, false⟩
def CHF.SRC_STAT.RELEASES : Field := ⟨0x70, 2, 2, .ro, 0, 0, 1, false⟩
def CHF.SRC_STAT.CREDITS : Field := ⟨0x70, 4, 3, .ro, 4, 0, 1, false⟩
def CHF.SRC_STAT.HOLDING : Field := ⟨0x70, 7, 1, .ro, 0, 0, 1, false⟩
def CHF.SRC_STAT.MERGE_COUNT : Field := ⟨0x70, 8, 16, .ro, 0, 0, 1, false⟩
def CHF.SRC_MSGS.COUNT : Field := ⟨0x74, 0, 32, .ro, 0, 0, 1, false⟩
def CHF.RELEASE.SOURCE : Field := ⟨0x78, 0, 16, .wo, 0, 0, 1, true⟩

/-- The fields of CHF, beyond the common header. -/
def CHF.fields : List Field :=
  [CHF.STAT.ANY_FENCED, CHF.STAT.ANY_RETIRED, CHF.SUMMARY.UNITS, CHF.RETIRE_POLICY.UNITS, CHF.LOCK_STAT.SOURCE, CHF.LOCK_STAT.KIND, CHF.LOCK_STAT.LOCKED, CHF.MESSAGES.COUNT, CHF.RAISES.COUNT, CHF.BUS_ERRORS.COUNT, CHF.MERGED.COUNT, CHF.RULE_SEL.KIND, CHF.RULE_VAL.N, CHF.RULE_VAL.W, CHF.RULE_VAL.ENTRY, CHF.RULE_VAL.CEIL] ++
  [CHF.SRC_SEL.SOURCE, CHF.SRC_STAT.CLASS, CHF.SRC_STAT.RELEASES, CHF.SRC_STAT.CREDITS, CHF.SRC_STAT.HOLDING, CHF.SRC_STAT.MERGE_COUNT, CHF.SRC_MSGS.COUNT, CHF.RELEASE.SOURCE]

/-! ### GRN, R402 -/

def GRN.STAT.SCAN : Field := ⟨0xC, 5, 1, .ro, 1, 0, 1, false⟩
def GRN.STAT.FLUSHING : Field := ⟨0xC, 6, 1, .ro, 0, 0, 1, false⟩
def GRN.STAT.LOG_RO : Field := ⟨0xC, 7, 1, .ro, 0, 0, 1, false⟩
def GRN.STAT.EXEC_BANK0 : Field := ⟨0xC, 8, 1, .ro, 0, 0, 1, false⟩
def GRN.STAT.PF_REFUSE : Field := ⟨0xC, 9, 1, .ro, 0, 0, 1, false⟩
def GRN.EVT.ROW_RETIRED : Nat := 2
def GRN.EVT.SPARES_OUT : Nat := 3
def GRN.EVT.BANK_RO : Nat := 4
def GRN.EVT.LOG_DROP : Nat := 5
def GRN.EVT.TORN_FOUND : Nat := 6
def GRN.EVT.FLUSH_DONE : Nat := 7
def GRN.EVT.PF_DONE : Nat := 8
def GRN.BANK_STAT.B0_BUSY : Field := ⟨0x44, 0, 1, .ro, 0, 0, 1, false⟩
def GRN.BANK_STAT.B0_RO : Field := ⟨0x44, 1, 1, .ro, 0, 0, 1, false⟩
def GRN.BANK_STAT.B1_BUSY : Field := ⟨0x44, 2, 1, .ro, 0, 0, 1, false⟩
def GRN.BANK_STAT.B1_RO : Field := ⟨0x44, 3, 1, .ro, 0, 0, 1, false⟩
def GRN.PART_STAT.READ_ONLY : Field := ⟨0x48, 0, 8, .ro, 0, 0, 1, false⟩
def GRN.WEAR_CFG.RETRY_WARN : Field := ⟨0x4C, 0, 3, .rw, 3, 0, 1, true⟩
def GRN.SPARE_STAT.USED : Field := ⟨0x50, 0, 12, .ro, 0, 0, 1, false⟩
def GRN.SPARE_STAT.ENTRIES : Field := ⟨0x50, 12, 12, .ro, 0, 0, 1, false⟩
def GRN.LAST_RETIRE.ROW : Field := ⟨0x54, 0, 17, .ro, 0, 0, 1, false⟩
def GRN.LAST_RETIRE.SPARE : Field := ⟨0x54, 17, 12, .ro, 0, 0, 1, false⟩
def GRN.LOG_CFG.HIGH : Field := ⟨0x58, 0, 12, .rw, 64, 0, 1, false⟩
def GRN.LOG_CFG.AGE : Field := ⟨0x58, 16, 8, .rw, 1, 0, 1, false⟩
def GRN.LOG_STAT.UNFLUSHED : Field := ⟨0x5C, 0, 12, .ro, 0, 0, 1, false⟩
def GRN.LOG_OLDEST.SEQ : Field := ⟨0x60, 0, 32, .ro, 0, 0, 1, false⟩
def GRN.LOG_NEWEST.SEQ : Field := ⟨0x64, 0, 32, .ro, 0, 0, 1, false⟩
def GRN.LOG_SEEK.SEQ : Field := ⟨0x68, 0, 32, .wo, 0, 0, 1, false⟩
def GRN.LOG_CUR.READY : Field := ⟨0x6C, 0, 1, .ro, 0, 0, 1, false⟩
def GRN.LOG_CUR.END : Field := ⟨0x6C, 1, 1, .ro, 1, 0, 1, false⟩
def GRN.LOG_CUR.BAD : Field := ⟨0x6C, 2, 1, .ro, 0, 0, 1, false⟩
def GRN.LOG_CUR.STAGED : Field := ⟨0x6C, 3, 1, .ro, 0, 0, 1, false⟩
def GRN.LOG_DATA.BYTES : Field := ⟨0x70, 0, 64, .ro, 0, 8, 4, false⟩
def GRN.LOG_CLEAR.CLEAR : Field := ⟨0x90, 0, 1, .wo, 0, 0, 1, true⟩
def GRN.FLUSH.GO : Field := ⟨0x94, 0, 1, .go, 0, 0, 1, false⟩
def GRN.LOG_DROPPED.COUNT : Field := ⟨0x98, 0, 32, .ro, 0, 0, 1, false⟩
def GRN.TORN.COUNT : Field := ⟨0x9C, 0, 32, .ro, 0, 0, 1, false⟩
def GRN.OP_SECONDS.SECONDS : Field := ⟨0xA0, 0, 32, .ro, 0, 0, 1, false⟩
def GRN.POWER_CYCLES.COUNT : Field := ⟨0xA4, 0, 24, .ro, 0, 0, 1, false⟩
def GRN.SEQ_NEXT.SEQ : Field := ⟨0xA8, 0, 32, .ro, 0, 0, 1, false⟩
def GRN.ECC_CORR.COUNT : Field := ⟨0xAC, 0, 32, .ro, 0, 0, 1, false⟩
def GRN.ECC_UNCORR.COUNT : Field := ⟨0xB0, 0, 32, .ro, 0, 0, 1, false⟩
def GRN.RETIRED.COUNT : Field := ⟨0xB4, 0, 32, .ro, 0, 0, 1, false⟩
def GRN.ATTEMPTS.COUNT : Field := ⟨0xC0, 0, 64, .ro, 0, 8, 8, false⟩
def GRN.PROG_FAILED.COUNT : Field := ⟨0x100, 0, 32, .ro, 0, 0, 1, false⟩
def GRN.FLUSHES_FORCED.COUNT : Field := ⟨0x104, 0, 32, .ro, 0, 0, 1, false⟩
def GRN.ROWS_PROGRAMMED.COUNT : Field := ⟨0x108, 0, 64, .ro, 0, 0, 1, false⟩

/-- The fields of GRN, beyond the common header. -/
def GRN.fields : List Field :=
  [GRN.STAT.SCAN, GRN.STAT.FLUSHING, GRN.STAT.LOG_RO, GRN.STAT.EXEC_BANK0, GRN.STAT.PF_REFUSE, GRN.BANK_STAT.B0_BUSY, GRN.BANK_STAT.B0_RO, GRN.BANK_STAT.B1_BUSY, GRN.BANK_STAT.B1_RO, GRN.PART_STAT.READ_ONLY, GRN.WEAR_CFG.RETRY_WARN, GRN.SPARE_STAT.USED, GRN.SPARE_STAT.ENTRIES, GRN.LAST_RETIRE.ROW, GRN.LAST_RETIRE.SPARE, GRN.LOG_CFG.HIGH] ++
  [GRN.LOG_CFG.AGE, GRN.LOG_STAT.UNFLUSHED, GRN.LOG_OLDEST.SEQ, GRN.LOG_NEWEST.SEQ, GRN.LOG_SEEK.SEQ, GRN.LOG_CUR.READY, GRN.LOG_CUR.END, GRN.LOG_CUR.BAD, GRN.LOG_CUR.STAGED, GRN.LOG_DATA.BYTES, GRN.LOG_CLEAR.CLEAR, GRN.FLUSH.GO, GRN.LOG_DROPPED.COUNT, GRN.TORN.COUNT, GRN.OP_SECONDS.SECONDS, GRN.POWER_CYCLES.COUNT] ++
  [GRN.SEQ_NEXT.SEQ, GRN.ECC_CORR.COUNT, GRN.ECC_UNCORR.COUNT, GRN.RETIRED.COUNT, GRN.ATTEMPTS.COUNT, GRN.PROG_FAILED.COUNT, GRN.FLUSHES_FORCED.COUNT, GRN.ROWS_PROGRAMMED.COUNT]

/-! ### SNT, R404 -/

def SNT.STAT.PF : Field := ⟨0xC, 5, 1, .ro, 0, 0, 1, false⟩
def SNT.STAT.WARN : Field := ⟨0xC, 6, 1, .ro, 0, 0, 1, false⟩
def SNT.STAT.STALE : Field := ⟨0xC, 7, 1, .ro, 0, 0, 1, false⟩
def SNT.STAT.OUT_OF_RANGE : Field := ⟨0xC, 8, 1, .ro, 0, 0, 1, false⟩
def SNT.STAT.UNCALIBRATED : Field := ⟨0xC, 9, 1, .ro, 1, 0, 1, false⟩
def SNT.EVT.TRIP : Nat := 2
def SNT.EVT.RECOVER : Nat := 3
def SNT.EVT.WARN : Nat := 4
def SNT.EVT.STALE : Nat := 5
def SNT.EVT.OUT_OF_RANGE : Nat := 6
def SNT.GAIN.GAIN : Field := ⟨0x40, 0, 20, .rwl, 90000, 0, 1, false⟩
def SNT.OFFSET.OFFSET : Field := ⟨0x44, 0, 16, .rwl, 0, 0, 1, false⟩
def SNT.TRIP.TRIP_MV : Field := ⟨0x48, 0, 17, .rwl, 42000, 0, 1, false⟩
def SNT.TRIP.TRIP_COUNT : Field := ⟨0x48, 24, 8, .rwl, 4, 0, 1, false⟩
def SNT.RECOVER.HYST_MV : Field := ⟨0x4C, 0, 14, .rwl, 3000, 0, 1, false⟩
def SNT.RECOVER.RECOVER_COUNT : Field := ⟨0x4C, 16, 16, .rwl, 1000, 0, 1, false⟩
def SNT.WARN.WARN_MV : Field := ⟨0x50, 0, 17, .rwl, 46000, 0, 1, false⟩
def SNT.WARN.WARN_COUNT : Field := ⟨0x50, 24, 7, .rwl, 4, 0, 1, false⟩
def SNT.WARN.WARN_EN : Field := ⟨0x50, 31, 1, .rwl, 1, 0, 1, false⟩
def SNT.LEVEL.MV : Field := ⟨0x54, 0, 17, .ro, 0, 0, 1, false⟩
def SNT.RAW_AVG.CODE : Field := ⟨0x58, 0, 16, .ro, 0, 0, 1, false⟩
def SNT.RAW_AVG.VALID : Field := ⟨0x58, 16, 1, .ro, 0, 0, 1, false⟩
def SNT.MIN.MV : Field := ⟨0x5C, 0, 17, .rc, 131071, 0, 1, false⟩
def SNT.MAX.MV : Field := ⟨0x60, 0, 17, .rc, 0, 0, 1, false⟩
def SNT.TRIPS.COUNT : Field := ⟨0x64, 0, 32, .ro, 0, 0, 1, false⟩
def SNT.WARNS.COUNT : Field := ⟨0x68, 0, 32, .ro, 0, 0, 1, false⟩
def SNT.STALES.COUNT : Field := ⟨0x6C, 0, 32, .ro, 0, 0, 1, false⟩
def SNT.LAST_PF.FC : Field := ⟨0x70, 0, 32, .ro, 0, 0, 1, false⟩
def SNT.SAMPLES.COUNT : Field := ⟨0x78, 0, 64, .ro, 0, 0, 1, false⟩

/-- The fields of SNT, beyond the common header. -/
def SNT.fields : List Field :=
  [SNT.STAT.PF, SNT.STAT.WARN, SNT.STAT.STALE, SNT.STAT.OUT_OF_RANGE, SNT.STAT.UNCALIBRATED, SNT.GAIN.GAIN, SNT.OFFSET.OFFSET, SNT.TRIP.TRIP_MV, SNT.TRIP.TRIP_COUNT, SNT.RECOVER.HYST_MV, SNT.RECOVER.RECOVER_COUNT, SNT.WARN.WARN_MV, SNT.WARN.WARN_COUNT, SNT.WARN.WARN_EN, SNT.LEVEL.MV, SNT.RAW_AVG.CODE] ++
  [SNT.RAW_AVG.VALID, SNT.MIN.MV, SNT.MAX.MV, SNT.TRIPS.COUNT, SNT.WARNS.COUNT, SNT.STALES.COUNT, SNT.LAST_PF.FC, SNT.SAMPLES.COUNT]

/-! ### GLM, R429 -/

def GLM.STAT.STARTUP : Field := ⟨0xC, 5, 1, .ro, 1, 0, 1, false⟩
def GLM.STAT.BURNING : Field := ⟨0xC, 6, 1, .ro, 0, 0, 1, false⟩
def GLM.STAT.TEST_PERMIT : Field := ⟨0xC, 7, 1, .ro, 0, 0, 1, false⟩
def GLM.STAT.MEMTEST_PERMIT : Field := ⟨0xC, 8, 1, .ro, 0, 0, 1, false⟩
def GLM.EVT.LC_DONE : Nat := 2
def GLM.EVT.LC_FAIL : Nat := 3
def GLM.EVT.GRANT_START : Nat := 4
def GLM.EVT.GRANT_END : Nat := 5
def GLM.EVT.TOKEN_REFUSED : Nat := 6
def GLM.EVT.RESUMED : Nat := 7
def GLM.EVT.ARB_DONE : Nat := 8
def GLM.LC_STAT.STATE : Field := ⟨0x44, 0, 3, .ro, 0, 0, 1, false⟩
def GLM.LC_STAT.PENDING : Field := ⟨0x44, 3, 1, .ro, 0, 0, 1, false⟩
def GLM.LC_STAT.SEGMENTS : Field := ⟨0x44, 4, 3, .ro, 0, 0, 1, false⟩
def GLM.LC_STAT.RESUMED : Field := ⟨0x44, 7, 1, .ro, 0, 0, 1, false⟩
def GLM.LC_STAT.STAGE : Field := ⟨0x44, 8, 3, .ro, 0, 0, 1, false⟩
def GLM.LC_STAT.SEED_SLOT : Field := ⟨0x44, 11, 1, .ro, 0, 0, 1, false⟩
def GLM.LC_REQ.TARGET : Field := ⟨0x48, 0, 3, .wo, 0, 0, 1, false⟩
def GLM.LC_RESULT.REASON : Field := ⟨0x4C, 0, 16, .ro, 0, 0, 1, false⟩
def GLM.DEVID.ID : Field := ⟨0x50, 0, 64, .ro, 0, 0, 1, false⟩
def GLM.OTP_PROG.WORD : Field := ⟨0x58, 0, 10, .wo, 0, 0, 1, false⟩
def GLM.OTP_PROG.DATA : Field := ⟨0x58, 16, 16, .wo, 0, 0, 1, false⟩
def GLM.OTP_STAT.CORR : Field := ⟨0x5C, 0, 10, .ro, 0, 0, 1, false⟩
def GLM.OTP_STAT.BURNING : Field := ⟨0x5C, 10, 1, .ro, 0, 0, 1, false⟩
def GLM.ARB.VALUE : Field := ⟨0x60, 0, 8, .ro, 0, 0, 1, false⟩
def GLM.ARB_REQ.TARGET : Field := ⟨0x64, 0, 8, .wo, 0, 0, 1, false⟩
def GLM.KEY_LOAD.GO : Field := ⟨0x68, 0, 1, .go, 0, 0, 1, false⟩
def GLM.KEY_LOAD.LOADED : Field := ⟨0x68, 1, 1, .ro, 0, 0, 1, false⟩
def GLM.BURNS.COUNT : Field := ⟨0x6C, 0, 32, .ro, 0, 0, 1, false⟩
def GLM.BURN_RETRIES.COUNT : Field := ⟨0x70, 0, 32, .ro, 0, 0, 1, false⟩
def GLM.DBG_CTL.CHALLENGE : Field := ⟨0x80, 0, 1, .go, 0, 0, 1, false⟩
def GLM.DBG_CTL.SUBMIT : Field := ⟨0x80, 1, 1, .go, 0, 0, 1, false⟩
def GLM.DBG_CTL.END : Field := ⟨0x80, 2, 1, .wo, 0, 0, 1, false⟩
def GLM.DBG_CTL.HALT : Field := ⟨0x80, 3, 1, .rw, 0, 0, 1, false⟩
def GLM.DBG_STAT.LEVEL : Field := ⟨0x84, 0, 2, .ro, 0, 0, 1, false⟩
def GLM.DBG_STAT.TOKEN : Field := ⟨0x84, 2, 1, .ro, 0, 0, 1, false⟩
def GLM.DBG_STAT.NONCE_VALID : Field := ⟨0x84, 3, 1, .ro, 0, 0, 1, false⟩
def GLM.DBG_STAT.VERIFYING : Field := ⟨0x84, 4, 1, .ro, 0, 0, 1, false⟩
def GLM.DBG_STAT.REFUSED : Field := ⟨0x84, 5, 1, .ro, 0, 0, 1, false⟩
def GLM.DBG_STAT.COUNT_PEEK : Field := ⟨0x84, 6, 1, .ro, 0, 0, 1, false⟩
def GLM.DBG_STAT.KEY_INDEX : Field := ⟨0x84, 7, 1, .ro, 0, 0, 1, false⟩
def GLM.DBG_EXPIRY.SECONDS : Field := ⟨0x88, 0, 32, .ro, 4294967295, 0, 1, false⟩
def GLM.DBG_CP.PC : Field := ⟨0x8C, 0, 24, .ro, 0, 0, 1, false⟩
def GLM.DBG_CP.HALTED : Field := ⟨0x8C, 24, 1, .ro, 0, 0, 1, false⟩
def GLM.DBG_NONCE_LO.BYTES : Field := ⟨0x90, 0, 64, .ro, 0, 0, 1, false⟩
def GLM.DBG_NONCE_HI.BYTES : Field := ⟨0x98, 0, 64, .ro, 0, 0, 1, false⟩
def GLM.DBG_FAILS.COUNT : Field := ⟨0xA0, 0, 32, .ro, 0, 0, 1, false⟩
def GLM.DBG_TOKEN.BYTES : Field := ⟨0x100, 0, 64, .wo, 0, 8, 32, false⟩

/-- The fields of GLM, beyond the common header. -/
def GLM.fields : List Field :=
  [GLM.STAT.STARTUP, GLM.STAT.BURNING, GLM.STAT.TEST_PERMIT, GLM.STAT.MEMTEST_PERMIT, GLM.LC_STAT.STATE, GLM.LC_STAT.PENDING, GLM.LC_STAT.SEGMENTS, GLM.LC_STAT.RESUMED, GLM.LC_STAT.STAGE, GLM.LC_STAT.SEED_SLOT, GLM.LC_REQ.TARGET, GLM.LC_RESULT.REASON, GLM.DEVID.ID, GLM.OTP_PROG.WORD, GLM.OTP_PROG.DATA, GLM.OTP_STAT.CORR] ++
  [GLM.OTP_STAT.BURNING, GLM.ARB.VALUE, GLM.ARB_REQ.TARGET, GLM.KEY_LOAD.GO, GLM.KEY_LOAD.LOADED, GLM.BURNS.COUNT, GLM.BURN_RETRIES.COUNT, GLM.DBG_CTL.CHALLENGE, GLM.DBG_CTL.SUBMIT, GLM.DBG_CTL.END, GLM.DBG_CTL.HALT, GLM.DBG_STAT.LEVEL, GLM.DBG_STAT.TOKEN, GLM.DBG_STAT.NONCE_VALID, GLM.DBG_STAT.VERIFYING, GLM.DBG_STAT.REFUSED] ++
  [GLM.DBG_STAT.COUNT_PEEK, GLM.DBG_STAT.KEY_INDEX, GLM.DBG_EXPIRY.SECONDS, GLM.DBG_CP.PC, GLM.DBG_CP.HALTED, GLM.DBG_NONCE_LO.BYTES, GLM.DBG_NONCE_HI.BYTES, GLM.DBG_FAILS.COUNT, GLM.DBG_TOKEN.BYTES]

/-! ### CTL, R449 -/

def CTL.STAT.TRIAL : Field := ⟨0xC, 5, 1, .ro, 0, 0, 1, false⟩
def CTL.STAT.SAFE_MC : Field := ⟨0xC, 6, 1, .ro, 0, 0, 1, false⟩
def CTL.STAT.RECOVERY : Field := ⟨0xC, 7, 1, .ro, 0, 0, 1, false⟩
def CTL.STAT.SERVICE : Field := ⟨0xC, 8, 1, .ro, 0, 0, 1, false⟩
def CTL.EVT.CMD_DONE : Nat := 2
def CTL.EVT.REVERTED : Nat := 3
def CTL.EVT.CONFIRMED : Nat := 4
def CTL.EVT.WDOG : Nat := 5
def CTL.EVT.PROFILE_SWITCHED : Nat := 6
def CTL.EVT.SETTINGS_RESET : Nat := 7
def CTL.CMD.CODE : Field := ⟨0x40, 0, 8, .rw, 0, 0, 1, false⟩
def CTL.CMD.GO : Field := ⟨0x40, 31, 1, .go, 0, 0, 1, false⟩
def CTL.CMD_STAT.PORT : Field := ⟨0x44, 0, 8, .ro, 0, 0, 1, false⟩
def CTL.CMD_STAT.BUSY : Field := ⟨0x44, 8, 1, .ro, 0, 0, 1, false⟩
def CTL.CMD_STAT.LAST_CODE : Field := ⟨0x44, 16, 8, .ro, 0, 0, 1, false⟩
def CTL.RESULT.REASON : Field := ⟨0x48, 0, 16, .ro, 0, 0, 1, false⟩
def CTL.ARG.VALUE : Field := ⟨0x50, 0, 64, .rw, 0, 8, 8, false⟩
def CTL.FW_CONFIRM.CONFIRM : Field := ⟨0x90, 0, 1, .wo, 0, 0, 1, true⟩
def CTL.FW_STAT.ACTIVE_BANK : Field := ⟨0x94, 0, 1, .ro, 0, 0, 1, false⟩
def CTL.FW_STAT.TRIAL : Field := ⟨0x94, 1, 1, .ro, 0, 0, 1, false⟩
def CTL.FW_STAT.READY : Field := ⟨0x94, 2, 1, .ro, 0, 0, 1, false⟩
def CTL.FW_STAT.WINDOW : Field := ⟨0x94, 3, 7, .ro, 0, 0, 1, false⟩
def CTL.FW_VER.BANK0 : Field := ⟨0x98, 0, 32, .ro, 0, 0, 1, false⟩
def CTL.FW_VER.BANK1 : Field := ⟨0x98, 32, 32, .ro, 0, 0, 1, false⟩
def CTL.FW_SVN.SVN0 : Field := ⟨0xA0, 0, 8, .ro, 0, 0, 1, false⟩
def CTL.FW_SVN.SVN1 : Field := ⟨0xA0, 8, 8, .ro, 0, 0, 1, false⟩
def CTL.WDOG.KICK : Field := ⟨0xA4, 0, 1, .wo, 0, 0, 1, false⟩
def CTL.WDOG.EXPIRIES : Field := ⟨0xA4, 16, 16, .ro, 0, 0, 1, false⟩
def CTL.NOTICE.REASON : Field := ⟨0xA8, 0, 16, .rc, 0, 0, 1, false⟩
def CTL.NOTICE.PENDING : Field := ⟨0xA8, 16, 16, .ro, 0, 0, 1, false⟩
def CTL.COMMANDS.COUNT : Field := ⟨0xB0, 0, 64, .ro, 0, 0, 1, false⟩

/-- The fields of CTL, beyond the common header. -/
def CTL.fields : List Field :=
  [CTL.STAT.TRIAL, CTL.STAT.SAFE_MC, CTL.STAT.RECOVERY, CTL.STAT.SERVICE, CTL.CMD.CODE, CTL.CMD.GO, CTL.CMD_STAT.PORT, CTL.CMD_STAT.BUSY, CTL.CMD_STAT.LAST_CODE, CTL.RESULT.REASON, CTL.ARG.VALUE, CTL.FW_CONFIRM.CONFIRM, CTL.FW_STAT.ACTIVE_BANK, CTL.FW_STAT.TRIAL, CTL.FW_STAT.READY, CTL.FW_STAT.WINDOW] ++
  [CTL.FW_VER.BANK0, CTL.FW_VER.BANK1, CTL.FW_SVN.SVN0, CTL.FW_SVN.SVN1, CTL.WDOG.KICK, CTL.WDOG.EXPIRIES, CTL.NOTICE.REASON, CTL.NOTICE.PENDING, CTL.COMMANDS.COUNT]

/-! ### SYS, R451 -/

def SYS.STAT.RST_DRAIN : Field := ⟨0xC, 5, 1, .ro, 0, 0, 1, false⟩
def SYS.STAT.SUPPLY_LOSS : Field := ⟨0xC, 6, 1, .ro, 0, 0, 1, false⟩
def SYS.EVT.CLK_RATIO : Nat := 2
def SYS.KCLK_MHZ.MHZ : Field := ⟨0x40, 0, 12, .rwl, 2000, 0, 1, false⟩
def SYS.FABRIC_TMO.FC : Field := ⟨0x44, 0, 25, .rwl, 1000000, 0, 1, false⟩
def SYS.INSTANCES.LANES : Field := ⟨0x48, 0, 4, .ro, 0, 0, 1, false⟩
def SYS.INSTANCES.GROUPS : Field := ⟨0x48, 4, 3, .ro, 0, 0, 1, false⟩
def SYS.INSTANCES.ARRAYS : Field := ⟨0x48, 7, 5, .ro, 0, 0, 1, false⟩
def SYS.INSTANCES.SPIKES : Field := ⟨0x48, 12, 6, .ro, 0, 0, 1, false⟩
def SYS.INSTANCES.LINKS : Field := ⟨0x48, 18, 3, .ro, 0, 0, 1, false⟩
def SYS.INSTANCES.CELLS : Field := ⟨0x48, 21, 5, .ro, 0, 0, 1, false⟩
def SYS.FUSED.FUSES : Field := ⟨0x50, 0, 64, .ro, 0, 0, 1, false⟩
def SYS.FUSED_HI.FUSES : Field := ⟨0x58, 0, 16, .ro, 0, 0, 1, false⟩
def SYS.PROFILE.STRAP : Field := ⟨0x60, 0, 2, .ro, 0, 0, 1, false⟩
def SYS.PROFILE.ACTIVE : Field := ⟨0x60, 2, 2, .ro, 0, 0, 1, false⟩
def SYS.PROFILE.SOURCE : Field := ⟨0x60, 4, 2, .ro, 0, 0, 1, false⟩
def SYS.PROFILE.PENDING : Field := ⟨0x60, 6, 2, .ro, 0, 0, 1, false⟩
def SYS.PROFILE.SWITCHING : Field := ⟨0x60, 8, 1, .ro, 0, 0, 1, false⟩
def SYS.MC_IF.MIN : Field := ⟨0x64, 0, 16, .ro, 0, 0, 1, false⟩
def SYS.MC_IF.MAX : Field := ⟨0x64, 16, 16, .ro, 0, 0, 1, false⟩
def SYS.BOOT.BANK : Field := ⟨0x68, 0, 1, .ro, 0, 0, 1, false⟩
def SYS.BOOT.MODE : Field := ⟨0x68, 1, 3, .ro, 0, 0, 1, false⟩
def SYS.BOOT.SAFE_MC : Field := ⟨0x68, 4, 1, .ro, 0, 0, 1, false⟩
def SYS.BOOT_TIME.FC : Field := ⟨0x6C, 0, 32, .ro, 0, 0, 1, false⟩

/-- The fields of SYS, beyond the common header. -/
def SYS.fields : List Field :=
  [SYS.STAT.RST_DRAIN, SYS.STAT.SUPPLY_LOSS, SYS.KCLK_MHZ.MHZ, SYS.FABRIC_TMO.FC, SYS.INSTANCES.LANES, SYS.INSTANCES.GROUPS, SYS.INSTANCES.ARRAYS, SYS.INSTANCES.SPIKES, SYS.INSTANCES.LINKS, SYS.INSTANCES.CELLS, SYS.FUSED.FUSES, SYS.FUSED_HI.FUSES, SYS.PROFILE.STRAP, SYS.PROFILE.ACTIVE, SYS.PROFILE.SOURCE, SYS.PROFILE.PENDING] ++
  [SYS.PROFILE.SWITCHING, SYS.MC_IF.MIN, SYS.MC_IF.MAX, SYS.BOOT.BANK, SYS.BOOT.MODE, SYS.BOOT.SAFE_MC, SYS.BOOT_TIME.FC]

/-! ### CLM, R482 -/

def CLM.STAT.UP : Field := ⟨0xC, 5, 1, .ro, 0, 0, 1, false⟩
def CLM.EVT.UP : Nat := 2
def CLM.EVT.LOST : Nat := 3
def CLM.EVT.ISOLATED : Nat := 4
def CLM.EVT.FENCED_BY_PEER : Nat := 5
def CLM.EVT.REALM_MISMATCH : Nat := 6
def CLM.EVT.RETRAIN : Nat := 7
def CLM.EVT.MIRROR : Nat := 8
def CLM.LINK_CFG.NODE : Field := ⟨0x44, 0, 2, .rwl, 0, 0, 1, true⟩
def CLM.LINK_CFG.ACCEPT_JOBS : Field := ⟨0x44, 2, 1, .rw, 0, 0, 1, true⟩
def CLM.LINK_STAT.STATE : Field := ⟨0x48, 0, 3, .ro, 0, 0, 1, false⟩
def CLM.LINK_STAT.PHY_UP : Field := ⟨0x48, 3, 1, .ro, 0, 0, 1, false⟩
def CLM.LINK_STAT.RATE : Field := ⟨0x48, 4, 2, .ro, 0, 0, 1, false⟩
def CLM.LINK_STAT.EPOCH : Field := ⟨0x48, 6, 16, .ro, 0, 0, 1, false⟩
def CLM.PROTO.MIN : Field := ⟨0x4C, 0, 8, .ro, 0, 0, 1, false⟩
def CLM.PROTO.MAX : Field := ⟨0x4C, 8, 8, .ro, 0, 0, 1, false⟩
def CLM.PROTO.AGREED : Field := ⟨0x4C, 16, 8, .ro, 0, 0, 1, false⟩
def CLM.PEER_ID.ID : Field := ⟨0x50, 0, 64, .ro, 0, 0, 1, false⟩
def CLM.PEER_STAT.NODE : Field := ⟨0x58, 0, 2, .ro, 0, 0, 1, false⟩
def CLM.PEER_STAT.PROTO_MIN : Field := ⟨0x58, 8, 8, .ro, 0, 0, 1, false⟩
def CLM.PEER_STAT.PROTO_MAX : Field := ⟨0x58, 16, 8, .ro, 0, 0, 1, false⟩
def CLM.PEER_STAT.FENCES_US : Field := ⟨0x58, 24, 1, .ro, 0, 0, 1, false⟩
def CLM.PEER_STAT.LOCKED : Field := ⟨0x58, 25, 1, .ro, 0, 0, 1, false⟩
def CLM.HB_CFG.INTERVAL : Field := ⟨0x5C, 0, 21, .rwl, 16384, 0, 1, false⟩
def CLM.HB_CFG.MISS : Field := ⟨0x5C, 24, 4, .rwl, 4, 0, 1, false⟩
def CLM.FENCE.FENCE : Field := ⟨0x60, 0, 1, .rw, 0, 0, 1, true⟩
def CLM.INJECT.MODE : Field := ⟨0x64, 0, 3, .rw, 0, 0, 1, false⟩
def CLM.INJECT.COUNT : Field := ⟨0x64, 8, 4, .rw, 0, 0, 1, false⟩
def CLM.INJECT.VC : Field := ⟨0x64, 12, 2, .rw, 0, 0, 1, false⟩
def CLM.FWD_SEL.ENTRY : Field := ⟨0x68, 0, 4, .rw, 0, 0, 1, false⟩
def CLM.FWD_SEL.WIN : Field := ⟨0x68, 4, 2, .rw, 0, 0, 1, false⟩
def CLM.FWD_CFG.SQ : Field := ⟨0x6C, 0, 13, .rw, 0, 0, 1, false⟩
def CLM.FWD_CFG.EN : Field := ⟨0x6C, 13, 1, .rw, 0, 0, 1, false⟩
def CLM.WIN_BASE_LO.BASE : Field := ⟨0x70, 12, 20, .rw, 0, 0, 1, false⟩
def CLM.WIN_BASE_HI.BASE : Field := ⟨0x74, 0, 16, .rw, 0, 0, 1, false⟩
def CLM.WIN_SIZE.LOG2 : Field := ⟨0x78, 0, 6, .rw, 12, 0, 1, false⟩
def CLM.WIN_SIZE.READ : Field := ⟨0x78, 6, 1, .rw, 0, 0, 1, false⟩
def CLM.WIN_SIZE.WRITE : Field := ⟨0x78, 7, 1, .rw, 0, 0, 1, false⟩
def CLM.SHR.REALM : Field := ⟨0x80, 0, 10, .rw, 0, 4, 16, true⟩
def CLM.SHR.EN : Field := ⟨0x80, 10, 1, .rw, 0, 4, 16, true⟩
def CLM.SHR.AUTH : Field := ⟨0x80, 11, 1, .ro, 0, 4, 16, true⟩
def CLM.SHR.YIELD : Field := ⟨0x80, 12, 1, .wo, 0, 4, 16, true⟩
def CLM.SHR.PULL : Field := ⟨0x80, 13, 1, .rw, 0, 4, 16, true⟩
def CLM.SHR.COHERENT : Field := ⟨0x80, 14, 1, .ro, 0, 4, 16, true⟩
def CLM.FLITS_TX.COUNT : Field := ⟨0xC0, 0, 64, .ro, 0, 0, 1, false⟩
def CLM.FLITS_RX.COUNT : Field := ⟨0xC8, 0, 64, .ro, 0, 0, 1, false⟩
def CLM.JOBS_SENT.COUNT : Field := ⟨0xD0, 0, 64, .ro, 0, 0, 1, false⟩
def CLM.JOBS_RUN.COUNT : Field := ⟨0xD8, 0, 64, .ro, 0, 0, 1, false⟩
def CLM.CRC_ERRS.COUNT : Field := ⟨0xE0, 0, 32, .ro, 0, 0, 1, false⟩
def CLM.REPLAYS.COUNT : Field := ⟨0xE4, 0, 32, .ro, 0, 0, 1, false⟩
def CLM.RETRAINS.COUNT : Field := ⟨0xE8, 0, 32, .ro, 0, 0, 1, false⟩
def CLM.HB_MISSED.COUNT : Field := ⟨0xEC, 0, 32, .ro, 0, 0, 1, false⟩
def CLM.ORPHANED.COUNT : Field := ⟨0xF0, 0, 32, .ro, 0, 0, 1, false⟩
def CLM.JOBS_REFUSED.COUNT : Field := ⟨0xF4, 0, 32, .ro, 0, 0, 1, false⟩
def CLM.WIN_FAULTS.COUNT : Field := ⟨0xF8, 0, 32, .ro, 0, 0, 1, false⟩
def CLM.MIRRORS.COUNT : Field := ⟨0xFC, 0, 32, .ro, 0, 0, 1, false⟩
def CLM.CREDITS.VC0 : Field := ⟨0x100, 0, 8, .ro, 0, 0, 1, false⟩
def CLM.CREDITS.VC1 : Field := ⟨0x100, 8, 9, .ro, 0, 0, 1, false⟩
def CLM.CREDITS.VC2 : Field := ⟨0x100, 17, 5, .ro, 0, 0, 1, false⟩

/-- The fields of CLM, beyond the common header. -/
def CLM.fields : List Field :=
  [CLM.STAT.UP, CLM.LINK_CFG.NODE, CLM.LINK_CFG.ACCEPT_JOBS, CLM.LINK_STAT.STATE, CLM.LINK_STAT.PHY_UP, CLM.LINK_STAT.RATE, CLM.LINK_STAT.EPOCH, CLM.PROTO.MIN, CLM.PROTO.MAX, CLM.PROTO.AGREED, CLM.PEER_ID.ID, CLM.PEER_STAT.NODE, CLM.PEER_STAT.PROTO_MIN, CLM.PEER_STAT.PROTO_MAX, CLM.PEER_STAT.FENCES_US, CLM.PEER_STAT.LOCKED] ++
  [CLM.HB_CFG.INTERVAL, CLM.HB_CFG.MISS, CLM.FENCE.FENCE, CLM.INJECT.MODE, CLM.INJECT.COUNT, CLM.INJECT.VC, CLM.FWD_SEL.ENTRY, CLM.FWD_SEL.WIN, CLM.FWD_CFG.SQ, CLM.FWD_CFG.EN, CLM.WIN_BASE_LO.BASE, CLM.WIN_BASE_HI.BASE, CLM.WIN_SIZE.LOG2, CLM.WIN_SIZE.READ, CLM.WIN_SIZE.WRITE, CLM.SHR.REALM] ++
  [CLM.SHR.EN, CLM.SHR.AUTH, CLM.SHR.YIELD, CLM.SHR.PULL, CLM.SHR.COHERENT, CLM.FLITS_TX.COUNT, CLM.FLITS_RX.COUNT, CLM.JOBS_SENT.COUNT, CLM.JOBS_RUN.COUNT, CLM.CRC_ERRS.COUNT, CLM.REPLAYS.COUNT, CLM.RETRAINS.COUNT, CLM.HB_MISSED.COUNT, CLM.ORPHANED.COUNT, CLM.JOBS_REFUSED.COUNT, CLM.WIN_FAULTS.COUNT] ++
  [CLM.MIRRORS.COUNT, CLM.CREDITS.VC0, CLM.CREDITS.VC1, CLM.CREDITS.VC2]

/-! ### PMU, R518 -/

def PMU.EVT.OVERFLOW : Nat := 2
def PMU.EVT.PROBE_DONE : Nat := 3
def PMU.EVT.MEMTEST_DONE : Nat := 4
def PMU.CYCLES.COUNT : Field := ⟨0x40, 0, 48, .rw, 0, 0, 1, false⟩
def PMU.OVF.CNT : Field := ⟨0x48, 0, 16, .w1c, 0, 0, 1, false⟩
def PMU.OVF.CYCLES : Field := ⟨0x48, 16, 1, .w1c, 0, 0, 1, false⟩
def PMU.PROBE_T0_KC.KC : Field := ⟨0x4C, 0, 12, .ro, 0, 0, 1, false⟩
def PMU.PROBE_CTL.SQ : Field := ⟨0x50, 0, 13, .rw, 0, 0, 1, false⟩
def PMU.PROBE_CTL.ARM : Field := ⟨0x50, 31, 1, .go, 0, 0, 1, false⟩
def PMU.PROBE_STAT.ARMED : Field := ⟨0x54, 0, 1, .ro, 0, 0, 1, false⟩
def PMU.PROBE_STAT.DONE : Field := ⟨0x54, 1, 1, .ro, 0, 0, 1, false⟩
def PMU.PROBE_T0.TICK : Field := ⟨0x58, 0, 64, .ro, 0, 0, 1, false⟩
def PMU.PROBE_STAMP.KC : Field := ⟨0x60, 0, 32, .ro, 4294967295, 4, 8, false⟩
def PMU.PROBE_SQ_LAT.KC : Field := ⟨0x80, 0, 32, .ro, 4294967295, 0, 1, false⟩
def PMU.PROBE_SB_LAT.KC : Field := ⟨0x84, 0, 32, .ro, 4294967295, 0, 1, false⟩
def PMU.POISON_INJ.PORT : Field := ⟨0x88, 0, 4, .rw, 0, 0, 1, false⟩
def PMU.POISON_INJ.KIND : Field := ⟨0x88, 4, 1, .rw, 0, 0, 1, false⟩
def PMU.POISON_INJ.COUNT : Field := ⟨0x88, 8, 8, .rw, 0, 0, 1, false⟩
def PMU.CHAFF_INJ.SOURCE : Field := ⟨0x8C, 0, 16, .rw, 0, 0, 1, false⟩
def PMU.CHAFF_INJ.KIND : Field := ⟨0x8C, 16, 12, .rw, 0, 0, 1, false⟩
def PMU.CHAFF_INJ.GO : Field := ⟨0x8C, 31, 1, .go, 0, 0, 1, false⟩
def PMU.CHAFF_INJ_DETAIL.DETAIL : Field := ⟨0x90, 0, 32, .rw, 0, 0, 1, false⟩
def PMU.MEMTEST.TARGET : Field := ⟨0x94, 0, 4, .rw, 0, 0, 1, false⟩
def PMU.MEMTEST.UNIT : Field := ⟨0x94, 4, 6, .rw, 0, 0, 1, false⟩
def PMU.MEMTEST.GO : Field := ⟨0x94, 16, 1, .go, 0, 0, 1, false⟩
def PMU.MEMTEST_STAT.RESULT : Field := ⟨0x98, 0, 2, .ro, 0, 0, 1, false⟩
def PMU.MEMTEST_STAT.FAILS : Field := ⟨0x98, 16, 16, .ro, 0, 0, 1, false⟩
def PMU.MEMTEST_ADDR.OFFSET : Field := ⟨0x9C, 0, 32, .ro, 0, 0, 1, false⟩
def PMU.INJECTED.COUNT : Field := ⟨0xA0, 0, 32, .ro, 0, 0, 1, false⟩
def PMU.CNT_CFG.EVENT : Field := ⟨0x100, 0, 8, .rw, 0, 16, 16, false⟩
def PMU.CNT_CFG.UNIT : Field := ⟨0x100, 8, 8, .rw, 255, 16, 16, false⟩
def PMU.CNT_CFG.EN : Field := ⟨0x100, 31, 1, .rw, 0, 16, 16, false⟩
def PMU.CNT.COUNT : Field := ⟨0x108, 0, 48, .rw, 0, 16, 16, false⟩

/-- The fields of PMU, beyond the common header. -/
def PMU.fields : List Field :=
  [PMU.CYCLES.COUNT, PMU.OVF.CNT, PMU.OVF.CYCLES, PMU.PROBE_T0_KC.KC, PMU.PROBE_CTL.SQ, PMU.PROBE_CTL.ARM, PMU.PROBE_STAT.ARMED, PMU.PROBE_STAT.DONE, PMU.PROBE_T0.TICK, PMU.PROBE_STAMP.KC, PMU.PROBE_SQ_LAT.KC, PMU.PROBE_SB_LAT.KC, PMU.POISON_INJ.PORT, PMU.POISON_INJ.KIND, PMU.POISON_INJ.COUNT, PMU.CHAFF_INJ.SOURCE] ++
  [PMU.CHAFF_INJ.KIND, PMU.CHAFF_INJ.GO, PMU.CHAFF_INJ_DETAIL.DETAIL, PMU.MEMTEST.TARGET, PMU.MEMTEST.UNIT, PMU.MEMTEST.GO, PMU.MEMTEST_STAT.RESULT, PMU.MEMTEST_STAT.FAILS, PMU.MEMTEST_ADDR.OFFSET, PMU.INJECTED.COUNT, PMU.CNT_CFG.EVENT, PMU.CNT_CFG.UNIT, PMU.CNT_CFG.EN, PMU.CNT.COUNT]

/-! ### SQ, R107 -/

def SQ.BASE_LO.BASE : Field := ⟨0x0, 12, 20, .rwl, 0, 0, 1, false⟩
def SQ.BASE_HI.BASE : Field := ⟨0x4, 0, 16, .rwl, 0, 0, 1, false⟩
def SQ.CFG.LOG2_DEPTH : Field := ⟨0x8, 0, 5, .rwl, 6, 0, 1, false⟩
def SQ.CFG.PORT : Field := ⟨0x8, 8, 8, .rwl, 0, 0, 1, false⟩
def SQ.CFG.CQ : Field := ⟨0x8, 16, 13, .rwl, 0, 0, 1, false⟩
def SQ.CFG.EXPRESS : Field := ⟨0x8, 29, 1, .rwl, 0, 0, 1, false⟩
def SQ.CTL.EN : Field := ⟨0xC, 0, 1, .rw, 0, 0, 1, false⟩
def SQ.CTL.RESUME : Field := ⟨0xC, 1, 1, .go, 0, 0, 1, false⟩
def SQ.CTL.BATCH_MAX : Field := ⟨0xC, 16, 16, .rw, 64, 0, 1, false⟩
def SQ.STAT.STATE : Field := ⟨0x10, 0, 2, .ro, 0, 0, 1, false⟩
def SQ.STAT.SCAN_PENDING : Field := ⟨0x10, 2, 1, .ro, 0, 0, 1, false⟩
def SQ.STAT.BATCH_OPEN : Field := ⟨0x10, 3, 1, .ro, 0, 0, 1, false⟩
def SQ.STAT.FULL : Field := ⟨0x10, 4, 1, .ro, 0, 0, 1, false⟩
def SQ.STAT.CURSOR : Field := ⟨0x10, 16, 16, .ro, 0, 0, 1, false⟩
def SQ.INFLIGHT.ENTRIES : Field := ⟨0x14, 0, 17, .ro, 0, 0, 1, false⟩
def SQ.ERR.INDEX : Field := ⟨0x18, 0, 16, .ro, 0, 0, 1, false⟩
def SQ.ERR.DETAIL : Field := ⟨0x18, 16, 13, .ro, 0, 0, 1, false⟩
def SQ.CHK.REASON : Field := ⟨0x1C, 0, 16, .ro, 0, 0, 1, false⟩
def SQ.TAKEN.COUNT : Field := ⟨0x20, 0, 64, .ro, 0, 0, 1, false⟩
def SQ.RETURNED.COUNT : Field := ⟨0x28, 0, 64, .ro, 0, 0, 1, false⟩
def SQ.DOORBELLS.COUNT : Field := ⟨0x30, 0, 64, .ro, 0, 0, 1, false⟩
def SQ.POS.OLDEST : Field := ⟨0x38, 0, 16, .ro, 0, 0, 1, false⟩
def SQ.START.INDEX : Field := ⟨0x3C, 0, 16, .rwl, 0, 0, 1, false⟩
def SQ.START.RESUME_INDEX : Field := ⟨0x3C, 16, 16, .rw, 0, 0, 1, false⟩

/-- The fields of SQ, beyond the common header. -/
def SQ.fields : List Field :=
  [SQ.BASE_LO.BASE, SQ.BASE_HI.BASE, SQ.CFG.LOG2_DEPTH, SQ.CFG.PORT, SQ.CFG.CQ, SQ.CFG.EXPRESS, SQ.CTL.EN, SQ.CTL.RESUME, SQ.CTL.BATCH_MAX, SQ.STAT.STATE, SQ.STAT.SCAN_PENDING, SQ.STAT.BATCH_OPEN, SQ.STAT.FULL, SQ.STAT.CURSOR, SQ.INFLIGHT.ENTRIES, SQ.ERR.INDEX] ++
  [SQ.ERR.DETAIL, SQ.CHK.REASON, SQ.TAKEN.COUNT, SQ.RETURNED.COUNT, SQ.DOORBELLS.COUNT, SQ.POS.OLDEST, SQ.START.INDEX, SQ.START.RESUME_INDEX]

/-! ### CQ, R108 -/

def CQ.BASE_LO.BASE : Field := ⟨0x0, 12, 20, .rwl, 0, 0, 1, false⟩
def CQ.BASE_HI.BASE : Field := ⟨0x4, 0, 16, .rwl, 0, 0, 1, false⟩
def CQ.CFG.LOG2_DEPTH : Field := ⟨0x8, 0, 5, .rwl, 6, 0, 1, false⟩
def CQ.CFG.PORT : Field := ⟨0x8, 8, 8, .rwl, 0, 0, 1, false⟩
def CQ.CFG.VECTOR : Field := ⟨0x8, 16, 10, .rwl, 0, 0, 1, false⟩
def CQ.CFG.VEC_EN : Field := ⟨0x8, 26, 1, .rwl, 0, 0, 1, false⟩
def CQ.CTL.EN : Field := ⟨0xC, 0, 1, .rw, 0, 0, 1, false⟩
def CQ.STAT.STATE : Field := ⟨0x10, 0, 2, .ro, 0, 0, 1, false⟩
def CQ.STAT.SQS : Field := ⟨0x10, 2, 7, .ro, 0, 0, 1, false⟩
def CQ.STAT.TAIL : Field := ⟨0x10, 16, 16, .ro, 0, 0, 1, false⟩
def CQ.SEQ.NEXT : Field := ⟨0x14, 0, 16, .rwl, 0, 0, 1, false⟩
def CQ.SEQ.CHK : Field := ⟨0x14, 16, 16, .ro, 0, 0, 1, false⟩
def CQ.WRITTEN.COUNT : Field := ⟨0x18, 0, 48, .ro, 0, 0, 1, false⟩
def CQ.WRITTEN.DISCARDED : Field := ⟨0x18, 48, 16, .ro, 0, 0, 1, false⟩

/-- The fields of CQ, beyond the common header. -/
def CQ.fields : List Field :=
  [CQ.BASE_LO.BASE, CQ.BASE_HI.BASE, CQ.CFG.LOG2_DEPTH, CQ.CFG.PORT, CQ.CFG.VECTOR, CQ.CFG.VEC_EN, CQ.CTL.EN, CQ.STAT.STATE, CQ.STAT.SQS, CQ.STAT.TAIL, CQ.SEQ.NEXT, CQ.SEQ.CHK, CQ.WRITTEN.COUNT, CQ.WRITTEN.DISCARDED]

/-! ### PT, R72 -/

def PT.CTL.EN : Field := ⟨0x0, 0, 1, .rw, 0, 0, 1, true⟩
def PT.CTL.CLASS_MIN : Field := ⟨0x0, 4, 2, .rw, 0, 0, 1, false⟩
def PT.CTL.REALM : Field := ⟨0x0, 16, 10, .rwl, 0, 0, 1, true⟩
def PT.LIMITS.MAX_SQ : Field := ⟨0x4, 0, 14, .rw, 0, 0, 1, false⟩
def PT.LIMITS.MAX_CQ : Field := ⟨0x4, 16, 14, .rw, 0, 0, 1, false⟩
def PT.MSI.VEC_BASE : Field := ⟨0x8, 0, 10, .rw, 0, 0, 1, false⟩
def PT.MSI.VEC_COUNT : Field := ⟨0x8, 16, 11, .rw, 0, 0, 1, false⟩
def PT.MSI.MGMT_VEC_EN : Field := ⟨0x8, 31, 1, .rw, 0, 0, 1, false⟩
def PT.STAT.SQ_BOUND : Field := ⟨0xC, 0, 14, .ro, 0, 0, 1, false⟩
def PT.STAT.CQ_BOUND : Field := ⟨0xC, 16, 14, .ro, 0, 0, 1, false⟩

/-- The fields of PT, beyond the common header. -/
def PT.fields : List Field :=
  [PT.CTL.EN, PT.CTL.CLASS_MIN, PT.CTL.REALM, PT.LIMITS.MAX_SQ, PT.LIMITS.MAX_CQ, PT.MSI.VEC_BASE, PT.MSI.VEC_COUNT, PT.MSI.MGMT_VEC_EN, PT.STAT.SQ_BOUND, PT.STAT.CQ_BOUND]

/-! ### RT, R74 -/

def RT.STATE.STATE : Field := ⟨0x0, 0, 2, .ro, 0, 0, 1, false⟩
def RT.WEIGHT.BULK_WEIGHT : Field := ⟨0x4, 0, 8, .rw, 16, 0, 1, false⟩
def RT.WEIGHT.BG_WEIGHT : Field := ⟨0x4, 8, 8, .rw, 16, 0, 1, false⟩
def RT.LIMITS.MAX_BINS : Field := ⟨0x8, 0, 12, .rw, 0, 0, 1, false⟩
def RT.LIMITS.MAX_SUSPEND : Field := ⟨0x8, 16, 12, .rw, 0, 0, 1, false⟩
def RT.SLOT_BASE.SLOT_BASE : Field := ⟨0xC, 0, 23, .rw, 0, 0, 1, true⟩
def RT.SLOT_COUNT.SLOT_COUNT : Field := ⟨0x10, 0, 24, .rw, 0, 0, 1, true⟩
def RT.GEN.GEN : Field := ⟨0x14, 0, 32, .ro, 0, 0, 1, false⟩
def RT.STAT.SQ_COUNT : Field := ⟨0x18, 0, 14, .ro, 0, 0, 1, false⟩
def RT.STAT.PORTS : Field := ⟨0x18, 16, 9, .ro, 0, 0, 1, false⟩
def RT.USE.BINS_USED : Field := ⟨0x1C, 0, 12, .ro, 0, 0, 1, false⟩
def RT.USE.SUSPEND_USED : Field := ⟨0x1C, 16, 12, .ro, 0, 0, 1, false⟩
def RT.REFUSED.KEY_REFUSED : Field := ⟨0x20, 0, 32, .ro, 0, 0, 1, false⟩

/-- The fields of RT, beyond the common header. -/
def RT.fields : List Field :=
  [RT.STATE.STATE, RT.WEIGHT.BULK_WEIGHT, RT.WEIGHT.BG_WEIGHT, RT.LIMITS.MAX_BINS, RT.LIMITS.MAX_SUSPEND, RT.SLOT_BASE.SLOT_BASE, RT.SLOT_COUNT.SLOT_COUNT, RT.GEN.GEN, RT.STAT.SQ_COUNT, RT.STAT.PORTS, RT.USE.BINS_USED, RT.USE.SUSPEND_USED, RT.REFUSED.KEY_REFUSED]

/-! ### GS, R145 -/

def GS.POST.TOKEN : Field := ⟨0x0, 0, 16, .wo, 0, 0, 1, false⟩
def GS.POST.RESULT : Field := ⟨0x0, 16, 2, .wo, 0, 0, 1, false⟩
def GS.POST.LEN : Field := ⟨0x0, 32, 32, .wo, 0, 0, 1, false⟩
def GS.STAT.STATE : Field := ⟨0x8, 0, 2, .ro, 3, 0, 1, false⟩
def GS.STAT.IGNORED : Field := ⟨0x8, 8, 8, .ro, 0, 0, 1, false⟩
def GS.STAT.TOKEN : Field := ⟨0x8, 16, 16, .ro, 0, 0, 1, false⟩
def GS.GRANT.PORT : Field := ⟨0xC, 0, 8, .rw, 0, 0, 1, false⟩
def GS.GRANT.REALM : Field := ⟨0xC, 8, 10, .rw, 0, 0, 1, false⟩
def GS.GRANT.EN : Field := ⟨0xC, 31, 1, .rw, 0, 0, 1, false⟩

/-- The fields of GS, beyond the common header. -/
def GS.fields : List Field :=
  [GS.POST.TOKEN, GS.POST.RESULT, GS.POST.LEN, GS.STAT.STATE, GS.STAT.IGNORED, GS.STAT.TOKEN, GS.GRANT.PORT, GS.GRANT.REALM, GS.GRANT.EN]

/-! ### PP, R69 -/

def PP.ID.PORT : Field := ⟨0x0, 0, 8, .ro, 0, 0, 1, false⟩
def PP.ID.REALM : Field := ⟨0x0, 16, 10, .ro, 0, 0, 1, false⟩
def PP.ID.EN : Field := ⟨0x0, 31, 1, .ro, 0, 0, 1, false⟩
def PP.STAT.SQ_ENABLED : Field := ⟨0x4, 0, 14, .ro, 0, 0, 1, false⟩
def PP.STAT.SQ_HALTED : Field := ⟨0x4, 16, 14, .ro, 0, 0, 1, false⟩
def PP.EVT.DB_DROP : Field := ⟨0x8, 0, 1, .w1c, 0, 0, 1, false⟩
def PP.EVT.RING_HALT : Field := ⟨0x8, 1, 1, .w1c, 0, 0, 1, false⟩
def PP.EVT.DENIED : Field := ⟨0x8, 2, 1, .w1c, 0, 0, 1, false⟩
def PP.EVT_MASK.MASK : Field := ⟨0xC, 0, 3, .rw, 7, 0, 1, false⟩
def PP.DB_ACCEPTED.COUNT : Field := ⟨0x10, 0, 64, .ro, 0, 0, 1, false⟩
def PP.DB_DROPPED.COUNT : Field := ⟨0x18, 0, 32, .ro, 0, 0, 1, false⟩
def PP.DENIED.COUNT : Field := ⟨0x1C, 0, 32, .ro, 0, 0, 1, false⟩
def PP.DB_MAP.SQ : Field := ⟨0x800, 0, 13, .rw, 0, 4, 512, false⟩
def PP.DB_MAP.VALID : Field := ⟨0x800, 31, 1, .rw, 0, 4, 512, false⟩

/-- The fields of PP, beyond the common header. -/
def PP.fields : List Field :=
  [PP.ID.PORT, PP.ID.REALM, PP.ID.EN, PP.STAT.SQ_ENABLED, PP.STAT.SQ_HALTED, PP.EVT.DB_DROP, PP.EVT.RING_HALT, PP.EVT.DENIED, PP.EVT_MASK.MASK, PP.DB_ACCEPTED.COUNT, PP.DB_DROPPED.COUNT, PP.DENIED.COUNT, PP.DB_MAP.SQ, PP.DB_MAP.VALID]

/-- The EVT bits a unit defines (R57 and the field tables). -/
def evtBits : PageKind → Nat
  | .sys => 0x7
  | .ctl => 0xFF
  | .tck => 0xFF
  | .chf => 0xFF
  | .grn => 0x1FF
  | .glm => 0x1FF
  | .tef => 0x7FF
  | .kcc => 0x1FF
  | .hld => 0x3F
  | .pmu => 0x1F
  | .snt => 0x7F
  | .spl => 0x7F
  | .emr => 0x1FF
  | .srg => 0x7F
  | .spk => 0xF
  | .clm => 0x1FF
  | .rch => 0x7F
  | .sq => 0
  | .cq => 0
  | .rt => 0
  | .pt => 0
  | .gs => 0
  | .pp => 7

/-- Every field of a kind of page or table entry. -/
def kindFields : PageKind → List Field
  | .sys => hdrFields ++ SYS.fields
  | .ctl => hdrFields ++ CTL.fields
  | .tck => hdrFields ++ TCK.fields
  | .chf => hdrFields ++ unlockFields ++ CHF.fields
  | .grn => hdrFields ++ unlockFields ++ GRN.fields
  | .glm => hdrFields ++ unlockFields ++ GLM.fields
  | .tef => hdrFields ++ TEF.fields
  | .kcc => hdrFields ++ KCC.fields
  | .hld => hdrFields ++ HLD.fields
  | .pmu => hdrFields ++ PMU.fields
  | .snt => hdrFields ++ SNT.fields
  | .spl => hdrFields ++ SPL.fields
  | .emr => hdrFields ++ EMR.fields
  | .srg => hdrFields ++ SRG.fields
  | .spk => hdrFields ++ SPK.fields
  | .clm => hdrFields ++ unlockFields ++ CLM.fields
  | .rch => hdrFields ++ RCH.fields
  | .sq => SQ.fields
  | .cq => CQ.fields
  | .rt => RT.fields
  | .pt => PT.fields
  | .gs => GS.fields
  | .pp => PP.fields

end Sys2Proof.Machine
end

