-- ==== Sys2Proof/Machine/Aperture.lean ====
section
/-! DEFINITION. The aperture's layout (R50, R53), the keys of register fields in State.regs, and the register values after a
reset that depend on the configuration. -/

namespace Sys2Proof.Machine

/-! ### Aperture offsets (R50) -/

/-- Base of unit page `n`. -/
def pg (n : Nat) : Nat := n * 4096
def pSYS : Nat := 0x00
def pCTL : Nat := 0x01
def pTCK : Nat := 0x02
def pCHF : Nat := 0x03
def pGRN : Nat := 0x04
def pGLM : Nat := 0x05
def pTEF : Nat := 0x06
def pKCC : Nat := 0x07
def pHLD : Nat := 0x08
def pPMU : Nat := 0x09
def pSNT : Nat := 0x0A
def pSPL (i : Nat) : Nat := 0x10 + i
def pEMR (i : Nat) : Nat := 0x18 + i
def pSRG (i : Nat) : Nat := 0x20 + i
def pSPK (i : Nat) : Nat := 0x30 + i
def pCLM (i : Nat) : Nat := 0x50 + i
def pRCH : Nat := 0x60
/-- Base of SQ table entry `n`. -/
def sqB (n : Nat) : Nat := 0x100000 + n * 64
/-- Base of CQ table entry `n`. -/
def cqB (n : Nat) : Nat := 0x180000 + n * 32
/-- Base of realm table entry `n`. -/
def rtB (n : Nat) : Nat := 0x1C0000 + n * 64
/-- Base of port table entry `n`. -/
def ptB (n : Nat) : Nat := 0x1D0000 + n * 64
/-- Base of gate slot `n`. -/
def gsB (n : Nat) : Nat := 0x1E0000 + n * 16
/-- Base of per-port page `n`. -/
def ppB (n : Nat) : Nat := 0x200000 + n * 4096
/-- Base that gives CHF.FAB_FEC[p] the offsets of a common header's capture (R372). -/
def fecB (p : Nat) : Nat := pg pCHF + 0x90 + 32 * p - 0x20
/-- Where the slot ranges of a realm are kept, behind the window KCC.REALM_SEL (R235, R259). -/
def rngB (r : Nat) : Nat := 0x2000000 + r * 4096
/-- Where a link's forwarding entry and its windows are kept, behind the window CLM.FWD_SEL (R482). -/
def fwdB (link entry win : Nat) : Nat := 0x3000000 + ((link * 16 + entry) * 4 + win) * 4096

/-- The key of a field of the page or table entry at `base`. -/
def fkey (base : Nat) (f : Field) : Nat := (base + f.off) * 64 + f.lo

/-- A unit's registers after a reset that depend on the configuration, by pages 0 to `n - 1` of its kind. -/
def perUnit (n : Nat) (page : Nat → Nat) (f : Field) (v : Nat → Nat) : List (Nat × Nat) :=
  (List.range n).map fun i => (fkey (pg (page i)) f, v i)

/-- The register values after a reset that the configuration fixes (R74, R186, R224, R227, R329): every other register holds
its field's own reset value. -/
def baseRegs (p : Part) : SMap Nat :=
  let l :=
    perUnit p.lanes pSPL SPL.CTL.MASK_EN (fun _ => bit p.masked) ++
    perUnit p.lanes pSPL SPL.CTL.DUMMY_EN (fun _ => bit (!p.masked)) ++
    perUnit p.lanes pSPL SPL.CHECK_CFG.RATE_LOG2 (fun _ => 8) ++
    perUnit p.arrays pSRG SRG.CTL.LATTICE_EN (fun _ => bit p.hasLattice) ++
    perUnit p.arrays pSRG SRG.CTL.EXPRESS_HOLD (fun i => bit (i == 0)) ++
    [(fkey (pg pTCK) TCK.POWER_CAP.PROFILE_MW, p.pick 14000 30000 48000), (fkey (pg pHLD) HLD.BIN_LOW.LOW, p.bins),
     (fkey (rtB 0) RT.STATE.STATE, 1), (fkey (rtB 0) RT.GEN.GEN, 1)]
  l.foldl (fun m e => SMap.set m e.1 e.2) []

end Sys2Proof.Machine
end

