-- ==== Sys2Proof/Machine/State.lean ====
section
/-! DEFINITION. The state of the block as plain data, the ways a command can stop, and the state in reset. A register
field lives in `State.regs` under the key of its register's aperture offset and low bit, and is absent until
it is first written (it then holds its reset value); what the spec gives the machine beside its registers has a field or a record of its own here. -/

namespace Sys2Proof.Machine

/-! ### Pins, phases and the register target port -/

/-- Where the block stands between its resets (R18, R21). -/
inductive Phase where
  /-- PORST_N asserted. -/
  | cold
  /-- SRST_N asserted, transactions issued before it still outstanding. -/
  | drain
  /-- SRST_N asserted, the internal reset complete. -/
  | warm
  /-- A drain that ends in a start: an internal warm restart (R438), or SRST_N released before its drain has ended. -/
  | restart
  /-- No reset asserted. -/
  | run
deriving DecidableEq, Repr

/-- The response of the register target port to the last access (R33): TP_ID, TP_RDATA and TP_ERR. -/
structure TpResp where
  id : Nat
  data : BitVec 64
  err : Nat
deriving DecidableEq, Repr

/-! ### Fabric master ports (R22 to R32) -/

/-- What waits for a fabric transaction. -/
inductive Who where
  /-- Lines of a submission ring: SQ, first unit, number of units (R85), and the visit that reads them (R84). -/
  | sqLines (sq first n visit : Nat)
  /-- Input of a step: job, entry, step, which source (0 IN, 1 the second), offset in the source, leading bytes of the first
  beat to skip (R28), length and fragment position. -/
  | frag (job eid step src off skip len pos : Nat)
  /-- A chained fragment table: job, entry, step, which range (0 IN, 1 the second source, 2 the output), bytes to skip and
  length (R119). -/
  | table (job eid step src skip len : Nat)
  /-- An output write of a job: job, entry, step, fragment position (R26). -/
  | out (job eid step pos : Nat)
  /-- The notify word of a gate (R146). -/
  | notify (job eid step : Nat)
  /-- A line of completion entries: the completions with an entry in it (R96). -/
  | cqe (cids : List Nat)
  /-- A returning write: SQ and the entries it returns (R90). -/
  | ret (sq : Nat) (eids : List Nat)
  /-- An interrupt message of a vector (R41). -/
  | msi (vec : Nat)
  /-- A Seedbank entry read for a fill (R240). -/
  | seedRead (fill : Nat)
  /-- A Seedbank entry write of a line: install, lease or eviction (R240, R243). -/
  | seedWrite (tok : Nat)
  /-- A window read served for a peer's job (R475): link, TAG of the request (with the link's EPOCH above its 16 bits), bytes to skip
  and length. -/
  | peerRead (link tag skip len : Nat)
  /-- A window write served for a peer's job (R475): link and TAG in the same form. -/
  | peerWrite (link tag : Nat)
  /-- A read of a Seedbank entry for a peer's KEY_PULL (R471): link, TAG in the same form, and slot. -/
  | pullRead (link tx slot : Nat)
  /-- A write of the control processor. -/
  | cp
  /-- A read of the control processor (R24): the command's number, offset in its buffer, leading bytes of the first beat to skip, and
  length. -/
  | cpRead (cmd off skip len : Nat)
deriving DecidableEq, Repr

/-- A read request, waiting for credit or presented since an fc. Addresses are byte addresses. -/
structure RdTxn where
  port : Nat
  tag : Nat
  addr : Nat
  beats : Nat
  crit : Nat
  mqPort : Nat
  prio : Bool
  na : Bool
  who : Who
  since : Nat
  got : SMap Bytes
deriving DecidableEq, Repr

/-- A write request, waiting for credit or presented; `cells` are the enabled bytes. -/
structure WrTxn where
  port : Nat
  tag : Nat
  addr : Nat
  beats : Nat
  full : Bool
  mqPort : Nat
  prio : Bool
  na : Bool
  poison : Bool
  who : Who
  cells : List (Nat × Byte)
deriving DecidableEq, Repr

/-- A request that waits for its credits. -/
inductive FabReq where
  | rd (t : RdTxn)
  | wr (t : WrTxn)
deriving DecidableEq, Repr

/-- A quarantined tag: port, whether a write tag, tag (R30). -/
structure Quar where
  port : Nat
  isWrite : Bool
  tag : Nat
  left : Nat
deriving DecidableEq, Repr

/-- The fabric side of the block: credits held by port, write-data beats that a presented MQ_PRIO write still waits to send by port
(R27), waiting requests in order, transactions outstanding, quarantined tags, and whether the ports are held idle (R16). -/
structure Fabric where
  reqCr : SMap Nat
  wdCr : SMap Nat
  owed : SMap Nat
  idle : Bool
  waiting : List FabReq
  reads : List RdTxn
  writes : List WrTxn
  quar : List Quar
deriving DecidableEq, Repr

/-! ### Chaff (R355 to R370) -/

/-- A chaff message (R355), CHECK left out: it is formed and checked on the bus. -/
structure ChaffMsg where
  unit : Nat
  member : Nat
  kind : Nat
  access : Nat
  port : Nat
  addr : Nat
  detail : Nat
deriving DecidableEq, Repr

/-- A window of counted messages of one kind (R359). -/
structure ChaffWin where
  start : Nat
  count : Nat
deriving DecidableEq, Repr

/-- What the collector keeps of one source (R356, R359). `raised` is the kind that last raised the class. -/
structure ChaffSrc where
  cls : Nat
  credits : Nat
  hold : Option ChaffMsg
  merged : Nat
  msgs : Nat
  raised : Nat
  wins : SMap ChaffWin
deriving DecidableEq, Repr

/-- The collector: messages on the bus in order of age, the round-robin position, the sources, the rule changes, and
sources' release counts. `retiring` lists the unit pages whose disable ends in RETIRED (R363). -/
structure Chaff where
  bus : List ChaffMsg
  last : Nat
  srcs : SMap ChaffSrc
  ruleN : SMap Nat
  ruleW : SMap Nat
  releases : SMap Nat
  retiring : List Nat
deriving DecidableEq, Repr

/-! ### Rings (R76 to R113) -/

/-- What is known of a taken or skipped ring entry until it is returned (R90, R91). -/
inductive EntSt where
  /-- Taken, its completion not yet answered. -/
  | live
  /-- Its completion has its write response. -/
  | answered
  /-- Its ownership-clearing write is outstanding; `tries` counts the failed ones. -/
  | returning (tries : Nat)
  /-- Its ownership-clearing write failed once and is due again. -/
  | retry
  /-- Its ownership-clearing write failed twice. -/
  | stuck
  /-- Given back without a write (R105), once its turn comes. -/
  | gift
deriving DecidableEq, Repr

/-- An entry between the ring's oldest unreturned unit and its cursor; `express` says that its class is EXPRESS. -/
structure RingEnt where
  eid : Nat
  index : Nat
  units : Nat
  skip : Bool
  express : Bool
  st : EntSt
deriving DecidableEq, Repr

/-- A member of a batch that has ended OK (R99). -/
structure BatchOk where
  eid : Nat
  index : Nat
  tag : Nat
deriving DecidableEq, Repr

/-- A batch: its number, the members not yet finished, those that ended OK, how many joined, and whether it is closed. -/
structure Batch where
  bid : Nat
  waiting : List Nat
  oks : List BatchOk
  size : Nat
  closed : Bool
deriving DecidableEq, Repr

/-- A visit parked on memory reads (R85): its number, the entry's TAG once its header is known, the lines collected so far by unit,
and the units still to come. -/
structure Park where
  visit : Nat
  tag : Option Nat
  lines : SMap Bytes
  missing : List Nat
  need : Nat
  ready : Bool
  stamp : Nat
  failed : Bool
  failAddr : Nat
deriving DecidableEq, Repr

/-- What a submission ring holds beside its registers; `waitReturn` says that it stopped because it was full (R86, R90). -/
structure SqX where
  waitReturn : Bool
  span : Nat
  ents : List RingEnt
  batches : List Batch
  park : Option Park
  dbInHalt : Bool
  haltDone : Bool
deriving DecidableEq, Repr

/-- A completion from its forming to its write response (R92, R96); `express` says that it is of an EXPRESS-class entry (R267). -/
structure Compl where
  express : Bool
  cid : Nat
  sq : Nat
  cq : Nat
  covers : List Nat
  status : Nat
  index : Nat
  tag : Nat
  step : Nat
  detail : Nat
  result : Bytes
  posted : Bool
  left : Nat
  failed : Bool
  jobs : List Nat
deriving DecidableEq, Repr

/-- An interrupt vector (R41). -/
structure Vec where
  addr : Nat
  data : Nat
  mask : Bool
  pending : Bool
  inflight : Bool
  err : Bool
  recPort : Nat
  recMq : Nat
deriving DecidableEq, Repr

/-- A stash line (R84), in order of installation in `Rachis.stash`. -/
structure StashLine where
  addr : Nat
  data : Bytes
deriving DecidableEq, Repr

/-- A peer's job that this block runs (R474): link, its transaction TAG with the forwarding entry, and realm; `lost` once the peer is (R466). -/
structure PeerRef where
  link : Nat
  tag : Nat
  realm : Nat
  lost : Bool := false
deriving DecidableEq, Repr

/-- A taken entry that waits in the dispatch queue (R148), or a peer's job, whose `sq` is then 16 × link + forwarding entry. `stay`
keeps an entry from being forwarded (R473, R474). -/
structure DqEnt where
  sq : Nat
  eid : Nat
  index : Nat
  units : Nat
  bytes : Bytes
  cls : Nat
  peer : Option PeerRef
  stay : Bool
deriving DecidableEq, Repr

/-- The ring engine beside its registers. -/
structure Rachis where
  sqs : SMap SqX
  vecs : SMap Vec
  stash : List StashLine
  dq : List DqEnt
  compls : List Compl
  nextEid : Nat
  nextCid : Nat
  nextBid : Nat
  stamp : Nat
  rrX : Nat
  rrO : Nat
  cqsOn : List Nat
deriving DecidableEq, Repr

/-! ### Gates (R144 to R147) -/

/-- A post held or used by a gate. -/
structure Post where
  token : Nat
  result : Nat
  len : Nat
deriving DecidableEq, Repr

/-- A gate slot beside its registers: the held post, the job and step that armed it, the boundaries left, the dead token. -/
structure GateX where
  post : Option Post
  armed : Option (Nat × Nat)
  ticksLeft : Nat
  dead : Option Nat
deriving DecidableEq, Repr

/-! ### Chains on the spikes (R114 to R154) -/

/-- How a step or a chain ends (R14, R128): status, detail, location. -/
structure Verdict where
  status : Nat
  detail : Nat
  loc : Nat
deriving DecidableEq, Repr

/-- A fragment still to be read or written: address, length, MQ_NA hint and position in its range (R118). -/
structure Frag where
  addr : Nat
  len : Nat
  na : Bool
  pos : Nat
deriving DecidableEq, Repr

/-- A source or the output range of a step (R115, R119, R120). `opened` says that its reading has begun; `pieces` holds what arrived by
offset; `limit` is the number of bytes the step takes when that is known; `reads` and `tabs` count the data and table reads out; `table`
is a chained fragment table to be read next and `mid` says that it is the rest of one, `mark` is the position at which the fragments of
the table last begun start; `closed` says that no further fragment follows. -/
structure Src where
  opened : Bool
  frags : List Frag
  table : Option (Nat × Nat)
  mid : Bool
  mark : Nat
  pieces : SMap Bytes
  issued : Nat
  reads : Nat
  tabs : Nat
  limit : Option Nat
  count : Nat
  closed : Bool
deriving DecidableEq, Repr

/-- The context that the KCC delivers for a slot: the absolute slot number, kind, algorithm, the key as two shares
(R218), its usage and the HMAC prestates (R250). -/
structure KeyCtx where
  slot : Nat
  kind : Nat
  alg : Nat
  share0 : Bytes
  share1 : Bytes
  pre : Bytes
deriving DecidableEq, Repr

/-- A keyed step's lookup (R124). -/
inductive KeySt where
  /-- No key, or the lookup not yet issued. -/
  | none
  /-- Presented, not answered. -/
  | waiting
  /-- Delivered, and the line pinned. -/
  | ready (c : KeyCtx)
  /-- Refused (R255). -/
  | refused
deriving DecidableEq, Repr

/-- Progress of a step. -/
inductive StepSt where
  /-- Not started. -/
  | idle
  /-- Started: reading, asking for quanta, or waiting. -/
  | run
  /-- Its operation has formed the result (or the failure). -/
  | formed
  /-- Ended. -/
  | ended
deriving DecidableEq, Repr

/-- Where a GATE step stands (R146, R147). -/
inductive GateSt where
  | none
  | armed
  | released (p : Post)
deriving DecidableEq, Repr

/-- An entry of an Emmer group's context store (R279): its number, the algorithm, the chaining state, the message bits so far and, for HMAC,
the outer prestate. -/
structure EmrCtx where
  slot : Nat
  op : Nat
  chain : Bytes
  bits : Nat
  outer : Bytes
deriving DecidableEq, Repr

/-- A step of a chain as it runs. `work` is the planner work granted so far, `aux` the Emmer work granted for an arithmetic step (R294, R320),
and `asked` the age at which its request reached the planner; `admitted` says where its EXPRESS request stands (0 new, 1 waiting for a boundary, 2 admitted with the
rest as LATENCY, 3 admitted for this tick); `place` is the lane, group or bank that holds its context and `ectx` its entry in the group's
store; `dst` is the output range; `judged` says that its operation has formed a result; `counted` and `countedAux` are the work that the units have counted. -/
structure StepRun where
  d0 : Nat
  d1 : Nat
  st : StepSt
  src : Src
  src2 : Src
  dst : Src
  key : KeySt
  work : Nat
  aux : Nat
  asked : Option Nat
  admitted : Nat
  place : Option Nat
  ectx : Option EmrCtx
  starve : Nat
  out : Bytes
  held : Bool
  checks : Nat
  bad : Option Verdict
  outLeft : Nat
  gate : GateSt
  tok : Option Nat
  committed : Bool
  judged : Bool
  counted : Nat
  countedAux : Nat
deriving DecidableEq, Repr

/-- What a spikelet's entry waits for. -/
inductive JobPh where
  /-- Waiting for holding bins (R122). -/
  | bins
  /-- Waiting for the answers of the lookups issued at dispatch (R124). -/
  | keys
  /-- Steps run. -/
  | run
  /-- Ended; the completion is formed and waits for output writes or for its own write response. -/
  | fin
deriving DecidableEq, Repr

/-- An entry held by a spikelet (R148), or forwarded over a link (`fwd`, R473). -/
structure Job where
  eid : Nat
  sq : Nat
  index : Nat
  units : Nat
  bytes : Bytes
  cls : Nat
  port : Nat
  realm : Nat
  age : Nat
  phase : JobPh
  steps : List StepRun
  bins : Nat
  result : Bytes
  bad : Option (Verdict × Nat)
  aborting : Bool
  peer : Option PeerRef
  cid : Option Nat
deriving DecidableEq, Repr

/-! ### The tick planner (R155 to R187) -/

/-- The kinds of plannable unit (R158). -/
inductive PlanUnit where
  | enc | dec | sha | keccak | srg | spike | swp
deriving DecidableEq, Repr

/-- A quantum granted by a plan or admitted from the reserve (`express`): job, entry, step, the lane, group, array or spike and the instance
it is placed on, how much work it grants and the kc that a unit of it takes; `aux` says that it is Emmer work of an arithmetic step (R294, R320). -/
structure Grant where
  job : Nat
  eid : Nat
  step : Nat
  kind : PlanUnit
  place : Nat
  inst : Nat
  amount : Nat
  per : Nat
  aux : Bool
  express : Bool
deriving DecidableEq, Repr

/-- The planner beside its registers. `grants` is the plan for the next boundary and `booked` says that one was built;
`books` are that plan's CAPG, BASE, DYN, RESERVE, REPAY, GRANTED and CARRY, `derate` and `model` its derate factor and model
temperature; `hist` holds the hottest readings, newest first; `cool` counts the ticks below the trip release; `deficits` has
the deficit of realm r and class c under r × 4 + c, `rotB` and `rotG` the realm each class started with last. Effective
weights (class c of realm r under r × 4 + c) and limits (R75) are those of the last boundary. `xLeft` (by lane × 2 + pipeline,
decrypt 1), `eLeft` and `gLeft` are what the express reserve still holds; `running` has this tick's quanta in the order in which their
instances take them (R161), `runKc` the kc they have and `tripTick` whether the thermal stop began in it (R177); `ovr` is the cap override in force and `ovrPlan` the
booked plan's; `switchTick` says that the tick's own plan is still to be built (R183), `swOrder` is the profile ordered and
`swDue` that its switch boundary has come; `swSeen` that a planning window has
started since it was ordered, and `swStamp` the age up to which requests stand at the switch boundary; `costs` is the cost table, empty until it is loaded (R170), and `trims` the sensors' offsets (R444). -/
structure Planner where
  grants : List Grant
  booked : Bool
  books : List Int
  debt : Int
  hist : List Int
  cool : Nat
  stop : Bool
  derate : Nat
  model : Int
  deficits : SMap Nat
  rotB : Nat
  rotG : Nat
  effWeight : SMap Nat
  effBins : SMap Nat
  effSusp : SMap Nat
  xLeft : SMap Nat
  eLeft : SMap Nat
  gLeft : Nat
  ovr : Nat
  ovrPlan : Nat
  switchTick : Bool
  swOrder : Option Nat
  swDue : Bool
  swSeen : Bool
  swStamp : Nat
  running : List Grant
  runKc : Nat
  tripTick : Bool
  costs : List Nat
  trims : List Int
deriving DecidableEq, Repr

/-! ### Spelt lanes and the suspend store (R188 to R223) -/

/-- The mode state of a message (R191): operation, direction, the pinned slot; the counter block, tweak or chaining value; the data unit; the
GHASH, POLYVAL or MAC value; the powers H to H^4; E(J0) or S0; text bytes processed, the position in the unit and the partial block. -/
structure MsgState where
  op : Nat
  decrypt : Bool
  slot : Nat
  chain : Bytes
  unit : Nat
  acc : Bytes
  powers : List Nat
  mask : Bytes
  count : Nat
  pos : Nat
  part : Bytes
deriving DecidableEq, Repr

/-- A message's entry in a lane's context table (R191, R192): its number in the table, the message, the class, when it last issued, and its
state as of the last boundary. -/
structure LaneCtx where
  slot : Nat
  job : Nat
  step : Nat
  express : Bool
  last : Nat
  msg : MsgState
deriving DecidableEq, Repr

/-- A lane beside its registers: its context table, the armed check failures, the mask seed
in use and the one drawn in the planning window for the next boundary (R218, R338). -/
structure Lane where
  ctxs : List LaneCtx
  injEnc : Bool
  injDec : Bool
  seed : Bytes
  next : Option Bytes
deriving DecidableEq, Repr

/-- A message context in the suspend store (R193, R194). -/
structure Suspended where
  job : Nat
  step : Nat
  realm : Nat
  lane : Nat
  msg : MsgState
deriving DecidableEq, Repr

/-! ### Keys (R229 to R259) -/

/-- The state of a cache line (R244). FILLING is a fill that reserves the way. -/
inductive LineSt where
  | filling
  | valid
  | refused (reason : Nat)
  | revoking
  | stale
deriving DecidableEq, Repr

/-- A line of the KCC (R244). An HMAC line holds its prestates in `pre` and no material; `wrapped` is its slot's Seedbank entry as it was last
read or written, from which a rewrap starts (log entry 20). -/
structure Line where
  realm : Nat
  slot : Nat
  gen : Nat
  kind : Nat
  alg : Nat
  flags : Nat
  st : LineSt
  pins : Nat
  limit : Nat
  count : Nat
  lease : Nat
  leaseWait : Bool
  share0 : Bytes
  share1 : Bytes
  pre : Bytes
  wrapped : Bytes
deriving DecidableEq, Repr

/-- A fill in progress (R236, R240): the line it reserves, and the Seedbank entry once read. One that is given up (`bad`) only waits for
its entry. -/
structure Fill where
  line : Nat
  derived : Bool
  entry : Option Bytes
  bad : Bool
deriving DecidableEq, Repr

/-- What a lookup that is not answered waits for. -/
inductive LookWait where
  | unit
  | way
  | fillSlot
  | fill (n : Nat)
  | revoke
  | lease
  | expander
deriving DecidableEq, Repr

/-- A lookup presented and not answered (R255). -/
structure Lookup where
  job : Nat
  eid : Nat
  step : Nat
  realm : Nat
  k : Nat
  op : Nat
  wait : LookWait
deriving DecidableEq, Repr

/-- A refusal on its way (R255). -/
structure Refusal40 where
  job : Nat
  eid : Nat
  step : Nat
  realm : Nat
  reason : Nat
deriving DecidableEq, Repr

/-- What a Seedbank entry write serves (R240, R243, R251). -/
inductive SeedUse where
  /-- An install: job and step, and the line to write. -/
  | install (job step line : Nat) (l : Line)
  /-- A lease rewrap of a line. -/
  | lease (line leased : Nat)
  /-- An eviction rewrap. -/
  | evict (slot : Nat)
  /-- A peer's install at its COMMIT (R472): link and transaction, slot and realm. -/
  | peer (link tx slot realm : Nat)
  /-- A pulled entry, before its fill goes on (R471). -/
  | pull (fill : Nat)
deriving DecidableEq, Repr

/-- A Seedbank entry write outstanding: its use, the entry, the write response and the peer acknowledgements due (R254). -/
structure SeedWr where
  use : SeedUse
  entry : Bytes
  answered : Bool
  acks : Nat
deriving DecidableEq, Repr

/-- A husk record (R241). -/
structure Husk where
  realm : Nat
  gen : Nat
  final : Bool
deriving DecidableEq, Repr

/-- A realm's keys in the realm key store (R229), as two shares each, and the two CMAC subkeys of DK_r. -/
structure RealmKeys where
  wk0 : Bytes
  wk1 : Bytes
  dk0 : Bytes
  dk1 : Bytes
  sub1 : Nat
  sub2 : Nat
  stored : Bool
deriving DecidableEq, Repr

/-- A revoke in progress (R242): the requesting job and step, its slot, the record that it leaves, whether the control processor has
taken it up and has recorded it, and the links whose RACK is due. -/
structure Revoking where
  job : Nat
  step : Nat
  realm : Nat
  slot : Nat
  husk : Husk
  asked : Bool
  recorded : Bool
  acks : List Nat
deriving DecidableEq, Repr

/-- The KCC beside its registers. `husks` and `places` have a slot's record for realm r, and its place in the Granary, under
slot × 1,024 + r (R241). -/
structure Kcc where
  lines : SMap Line
  plru : SMap Nat
  fills : SMap Fill
  lookups : List Lookup
  refusals : List Refusal40
  husks : SMap Husk
  places : SMap Nat
  keys : SMap RealmKeys
  writes : SMap SeedWr
  revokes : List Revoking
  nextTok : Nat
  devKey : Option (Bytes × Bytes)
deriving DecidableEq, Repr
/-! ### Emmer (R277 to R298) -/

/-- A measurement register (R289): its 64 bytes, its extend count, whether it is BROKEN (R293), and the job and step that took its lock last
(R291). -/
structure Meas where
  data : Bytes
  count : Nat
  broken : Bool
  lock : Option (Nat × Nat)
deriving DecidableEq, Repr

/-! ### Sorghum (R302 to R330) -/

/-- A bank of a Sorghum array beside its registers (R305, R306): the operation bound to it (job, entry, step); its operands and working
values as far as a rule gives them, the public ones in `data` and the private operand in `priv`; and its control area: the randomness drawn, the
sclk of progress at the last pause point, and the spikelet's saved registers. -/
structure Bank where
  owner : Option (Nat × Nat × Nat)
  data : Bytes
  priv : Bytes
  rnd : Bytes
  progress : Nat
  saved : Nat
deriving DecidableEq, Repr

/-- The arithmetic unit of an array beside its MODE register (R302 to R304): the accumulator as one number, segment j of k in its bits from
j × 4,224 / k on (lane l of LATTICE in its bits from 32 × l on), and the segments' output words. -/
structure ArrayAcc where
  acc : Nat
  out : List Nat
deriving DecidableEq, Repr

/-! ### Teff (R331 to R353) -/

/-- A noise cell beside its registers: STARTUP and the windows passed in it, windows seen, and the run at the last sample. -/
structure Cell where
  startup : Bool
  passes : Nat
  windows : Nat
  lastBit : Nat
  run : Nat
deriving DecidableEq, Repr

/-- An expander beside its registers: the DRBG's key and counter block once instantiated, the first seed of an instantiation
(R339), whether its known-answer test has run since the enable, its consumer's FIFO (R338), and when it was last seeded. -/
structure Expander where
  key : Bytes
  v : Bytes
  ent : Option Bytes
  kat : Bool
  fifo : Bytes
  seeded : Nat
deriving DecidableEq, Repr

/-- Teff beside its registers: windows offered to the conditioner, seeds not yet given (R337), and the capture buffer. -/
structure Teff where
  cells : SMap Cell
  exps : SMap Expander
  windows : List Bytes
  seeds : List Bytes
  capture : Bytes
  stamp : Nat
deriving DecidableEq, Repr

/-! ### The Granary, the log and the sentinel (R374 to R405) -/

/-- A row of the medium: 64 bytes and the words flagged uncorrectable, as a mask (R375, R380). -/
structure Row where
  data : Bytes
  flagged : Nat
deriving DecidableEq, Repr

/-- Who programs a row, and what the program completes. -/
inductive ProgUse where
  /-- A log row with its staged records, by SEQ (R394). -/
  | log (row : Nat) (seqs : List Nat)
  /-- A checkpoint (R387), with its PF flag. -/
  | checkpoint (pf : Bool)
  /-- A refresh after a corrected read (R386). -/
  | refresh
  /-- An erase of a run of rows by Glume (R413): rows left after this one. -/
  | glume (left : Nat)
  /-- A row of the CP: 0 for the running command, slot + 1 for a husk record (R242). -/
  | cp (tag : Nat)
  /-- A step of a retirement (R384): the retired row, its spare, its entry, the step, the requesting unit and the attempts. -/
  | retire (row spare entry stage unit attempts : Nat)
deriving DecidableEq, Repr

/-- A row program, waiting or running (R376, R378): `held` is the program whose data a retirement carries on. -/
structure Prog where
  use : ProgUse
  row : Nat
  mask : Nat
  data : Bytes
  level : Nat
  attempts : Nat
  held : Option ProgUse
deriving DecidableEq, Repr

/-- A staged record (R389, R390): `started` once its row program has begun. -/
structure LogRec where
  bytes : Bytes
  flushed : Bool
  started : Bool
deriving DecidableEq, Repr

/-- A running flush (R394): its kind (0 routine, 1 forced, 2 fatal, 3 power-fail), the records it covers, and its last row. -/
structure Flush where
  kind : Nat
  covers : List Nat
  rowFc : Nat
deriving DecidableEq, Repr

/-- A port's log window (R398): where its cursor stands (a log slot, or 98,304 + SEQ for a staged record) and that record's
SEQ. -/
structure LogCursor where
  key : Nat
  seq : Nat
deriving DecidableEq, Repr

/-- The Granary beside its registers. `scanned` is false until the start-up scan ends; `lossAtStart` is the keeper's report;
`clearing` is a LOG_CLEAR under way (0 none, 1 erasing, 2 its checkpoint). -/
structure Granary where
  rows : SMap Row
  queue : List Prog
  cur : SMap Prog
  remap : SMap Nat
  staged : List LogRec
  flush : Option Flush
  head : Nat
  ckptSlot : Nat
  ckptAt : Nat
  cursors : SMap LogCursor
  clearing : Nat
  pfStage : Nat
  tripFc : Nat
deriving DecidableEq, Repr

/-- The sentinel beside its registers: consecutive samples below and above its thresholds (R395), and the last codes. -/
structure Sentinel where
  below : Nat
  above : Nat
  warnBelow : Nat
  warnAbove : Nat
  codes : List Nat
  pfAck : Bool
deriving DecidableEq, Repr

/-! ### Glume (R406 to R430) -/

/-- An OTP word: its data bits, and whether its whole codeword is burned (ECC words, R406). -/
structure OtpWord where
  data : Nat
  whole : Bool
deriving DecidableEq, Repr

/-- What a burn serves. -/
inductive BurnUse where
  /-- OTP_PROG (R416). -/
  | prog
  /-- ARB_REQ, up to a step (R418). -/
  | arb (target : Nat)
  /-- Stage 3 of a transition. -/
  | data
  /-- Stage 4 of a transition. -/
  | segment
deriving DecidableEq, Repr

/-- A burn under way (R407): words, and the bits each gets. -/
structure Burn where
  use : BurnUse
  words : List (Nat × Nat)
deriving DecidableEq, Repr

/-- A transition (R413): its target and, once it is decided, its result code (0 committed). -/
structure Transition where
  target : Nat
  result : Option Nat
deriving DecidableEq, Repr

/-- A token being verified (R422): its bytes, and the nonce when NONCE_VALID was set at SUBMIT. -/
structure TokenRun where
  bytes : Bytes
  nonce : Option Bytes
deriving DecidableEq, Repr

/-- Glume beside its registers: the first of `burns` runs. `chal` is the retained challenge counter; `refusedFc` the time of the last refused token. -/
structure Glume where
  otp : SMap OtpWord
  burns : List Burn
  trans : Option Transition
  token : SMap Nat
  verify : Option TokenRun
  chal : Nat
  refusedFc : Option Nat
  level : Nat
  keyIndex : Nat
deriving DecidableEq, Repr
/-! ### Culm links (R453 to R482) -/

/-- A message of a link (R460), its body as received. -/
structure LinkMsg where
  mtype : Nat
  tag : Nat
  realm : Nat
  status : Nat
  addr : Nat
  len : Nat
  epoch : Nat
  body : Bytes
deriving DecidableEq, Repr

/-- A sequenced flit waiting to be sent: virtual channel, FIRST, LAST and payload. -/
structure TxFlit where
  vc : Nat
  first : Bool
  last : Bool
  payload : Bytes
deriving DecidableEq, Repr

/-- An entry forwarded on a link and not yet answered (R473): its transaction, forwarding entry and ring entry. -/
structure FwdJob where
  tx : Nat
  fwd : Nat
  ent : DqEnt
deriving DecidableEq, Repr

/-- A pending PREPARE that a peer's install left here (R472); `lost` once the link was lost while it waited. -/
structure Prepared where
  tx : Nat
  realm : Nat
  slot : Nat
  entry : Bytes
  lost : Bool
deriving DecidableEq, Repr

/-- The outcome of an install of this side that a peer may still ask for (R472): none while it is undecided. -/
structure PrepOut where
  tx : Nat
  slot : Nat
  tok : Nat
  done : Option Bool
deriving DecidableEq, Repr

/-- A window access served for a peer (R475): its TAG with the link's EPOCH above it, the port accesses left, and whether one failed. -/
structure WinServe where
  tag : Nat
  left : Nat
  bad : Bool
deriving DecidableEq, Repr

/-- A window access asked of a peer for a job that runs here: transaction, what waits for it, its address and length. -/
structure WinAsk where
  tx : Nat
  jobTag : Nat
  who : Who
  addr : Nat
  len : Nat
deriving DecidableEq, Repr

/-- A link beside its registers: transmitter (flits waiting, the last of those sent and not acknowledged with their SEQ, the
next SEQ, resends in a row, credits held and the counts last seen), receiver (expected SEQ, whether a NAK is out, partial messages
and credits returned by VC), messages delivered and not yet processed with their VC, both sides' jobs, window accesses and installs,
the heartbeat's missed intervals, the last EPOCH and transaction number, KEY_PULLs out (transaction, fill), the flit that REORDER
holds back, the peer's last REALM_SYNC by realm, the realms that only wait for an OUTCOME (R470), and the flit last presented (CL_TX_FLIT). -/
structure Link where
  txq : List TxFlit
  replay : List (Nat × TxFlit)
  nextSeq : Nat
  resends : Nat
  cred : List Nat
  seen : List Nat
  expSeq : Nat
  nakOut : Bool
  partials : SMap Bytes
  given : List Nat
  inbox : List (Nat × LinkMsg)
  jobs : List FwdJob
  runs : List Nat
  serves : List WinServe
  asks : List WinAsk
  preps : List Prepared
  outs : List PrepOut
  missed : Nat
  epoch : Nat
  nextTx : Nat
  pulls : List (Nat × Nat)
  swap : Option (Nat × TxFlit)
  syncs : SMap LinkMsg
  syncOk : List Nat
  out : Bytes
deriving DecidableEq, Repr

/-! ### The control processor (R431 to R452) -/

/-- What follows once the control processor's row programs have ended. -/
inductive CpNext where
  /-- Nothing. -/
  | none
  /-- The running command ends with its result. -/
  | result
  /-- The image in a bank is read back and compared with the staging digest, and the BOOT item is written (R438). -/
  | verify (bank : Nat) (digest : Bytes)
  /-- The ROM boots a bank, in trial or not (R439). -/
  | boot (bank : Nat) (trial : Bool)
  /-- A confirm ends: its event is set and ARB raised to the SVN (R440). -/
  | confirm (svn : Nat)
  /-- A realm whose record is written becomes ACTIVE (R447). -/
  | created (realm : Nat)
  /-- A realm whose records are erased becomes ABSENT (R447). -/
  | destroyed (realm : Nat)
deriving DecidableEq, Repr

/-- Rows the control processor still has to program, whole, in order, and what follows. -/
structure CpTask where
  rows : List (Nat × Bytes)
  next : CpNext
deriving DecidableEq, Repr

/-- What the running command reads of host memory (R24): its number, the bytes that have arrived by offset, the reads not yet answered,
and whether one failed. -/
structure HostIn where
  cmd : Nat
  got : SMap Bytes
  left : Nat
  bad : Bool
deriving DecidableEq, Repr

/-- The control processor beside its registers: whether the boot ROM is still to run and whether its firmware runs, its notices not
yet read (R449), the next row of the baseline (R486) and the time its wait began, the staging area, whether spike microcode and Sorghum
microprograms are loaded, the bank of a trial, the start of the ROM and the fc spent halted since (R426), the reason codes of refused or
failed Granary programs by their tag, the rows of the running command and the host bytes it reads, the lanes that the profile in force enables (R445), whether the
start follows PORST_N (R446), whether a confirm waits for the running command (R440), and the pages that a profile switch takes through
DISABLED, with the values they get (R221, R257): MASK_EN and DUMMY_EN or WAYS and HASH, and in bit 3 whether they are enabled again. -/
structure Cp where
  rom : Bool
  up : Bool
  notices : List Nat
  row : Nat
  rowFc : Nat
  stage : Bytes
  micro : Bool
  srgMicro : Bool
  trialBank : Nat
  bootFc : Nat
  haltFc : Nat
  heldFc : Nat
  fails : SMap Nat
  task : CpTask
  host : Option HostIn
  splEn : Nat
  cold : Bool
  confirmDue : Bool
  cycle : SMap Nat
deriving DecidableEq, Repr


/-! ### Stops, and the state -/

/-- Why the block stops. Every fault is an input that the connection's contract (R22 to R33) rules out; it is safe: the
model stops where the spec says nothing. -/
inductive Fault where
  /-- A read-data beat has an index beyond its request, or a beat arrives twice (R28). Raised by READ_BEAT; safe. -/
  | unknownBeat
  /-- The fabric returned more credits than the 255 it may grant (R27). Raised by CREDIT_RETURN; safe. -/
  | creditOverflow
deriving DecidableEq, Repr

/-- Why a command has no meaning. -/
inductive Refusal where
  /-- A command whose arm has no meaning yet; safe. -/
  | notModelled (mnemonic : String)
  /-- A command whose operands are not well formed (WellFormed.lean): a byte string of a length that the transfer cannot
  have. Raised by CAPTURE_DONE and the host-data commands; safe. -/
  | illFormed
deriving DecidableEq, Repr

/-- The state of the block. `started` says that a start has happened since the first supply, `keeper` that the supply keeper reports a loss
(R20), `strap` is the profile sampled (R43); `fcNow` counts fc cycles, `tickFc` and `probeFc` are the times of the last tick boundary and
of the ledger probe's cycle 0, and `probeEid` the entry it has picked (R274). -/
structure State where
  part : Part
  phase : Phase
  started : Bool
  keeper : Bool
  strap : Nat
  fcNow : Nat
  tickFc : Nat
  probeFc : Nat
  probeEid : Option Nat
  tp : TpResp
  regs : SMap Nat
  unlocks : SMap (Nat × Nat)
  fab : Fabric
  chaff : Chaff
  rch : Rachis
  gates : SMap GateX
  jobs : SMap Job
  plan : Planner
  lanes : SMap Lane
  susp : List Suspended
  kcc : Kcc
  meas : SMap Meas
  banks : SMap Bank
  accs : SMap ArrayAcc
  tef : Teff
  grn : Granary
  snt : Sentinel
  glm : Glume
  clm : SMap Link
  cp : Cp
  freeCtr : Nat
  pending : List Instr
deriving DecidableEq, Repr

/-! ### The state in reset -/

/-- The planner in reset. -/
def freshPlanner : Planner :=
  { grants := [], booked := false, books := [], debt := 0, hist := [], cool := 0, stop := false, derate := 256,
    model := 0, deficits := [], rotB := 0, rotG := 0, effWeight := [], effBins := [], effSusp := [], xLeft := [],
    eLeft := [], gLeft := 0, ovr := 0, ovrPlan := 0, switchTick := false, swOrder := none, swDue := false, swSeen := false, swStamp := 0, running := [],
    runKc := 0, tripTick := false, costs := [],
    trims := [] }

/-- The KCC in reset. -/
def freshKcc : Kcc :=
  { lines := [], plru := [], fills := [], lookups := [], refusals := [], husks := [], places := [], keys := [], writes := [], revokes := [],
    nextTok := 0, devKey := none }

/-- The ring engine in reset. -/
def freshRachis : Rachis :=
  { sqs := [], vecs := [], stash := [], dq := [], compls := [], nextEid := 0, nextCid := 0, nextBid := 0, stamp := 0, rrX := 0, rrO := 0,
    cqsOn := [] }

/-- The Granary of a part that has never been supplied: an erased medium (log entry 3). -/
def freshGranary : Granary :=
  { rows := [], queue := [], cur := [], remap := [], staged := [], flush := none, head := 0, ckptSlot := 0, ckptAt := 0, cursors := [],
    clearing := 0, pfStage := 0, tripFc := 0 }

/-- Glume of a part that has never been supplied: no OTP bit burned (log entry 3). -/
def freshGlume : Glume :=
  { otp := [], burns := [], trans := none, token := [], verify := none, chal := 0, refusedFc := none, level := 0, keyIndex := 0 }

/-- The control processor before its boot ROM has run. -/
def freshCp : Cp :=
  { rom := true, up := false, notices := [], row := 0, rowFc := 0, stage := [], micro := false, srgMicro := false, trialBank := 0, bootFc := 0, haltFc := 0,
    heldFc := 0, fails := [], task := { rows := [], next := .none }, host := none, splEn := 255, cold := true,
    confirmDue := false, cycle := [] }

/-- A part with PORST_N asserted since its first supply. -/
def State.cold (p : Part) : State :=
  { part := p, phase := .cold, started := false, keeper := false, strap := 0, fcNow := 0, tickFc := 0, probeFc := 0, probeEid := none,
    tp := { id := 0, data := 0, err := 0 }, regs := baseRegs p, unlocks := [],
    fab := { reqCr := [], wdCr := [], owed := [], idle := false, waiting := [], reads := [], writes := [], quar := [] },
    chaff := { bus := [], last := 0, srcs := [], ruleN := [], ruleW := [], releases := [], retiring := [] },
    rch := freshRachis, gates := [], jobs := [], plan := freshPlanner, lanes := [], susp := [], kcc := freshKcc, meas := [], banks := [], accs := [],
    tef := { cells := [], exps := [], windows := [], seeds := [], capture := [], stamp := 0 }, grn := freshGranary,
    snt := { below := 0, above := 0, warnBelow := 0, warnAbove := 0, codes := [], pfAck := false }, glm := freshGlume, clm := [], cp := freshCp,
    freeCtr := 0, pending := [] }

/-- The delivered part that the model's reset state stands for: AQS-X with everything licensed (log entry 2). -/
def fullPart : Part :=
  { variant := .aqsX, sorghum := true, lattice := true, culm := true, idMajor := 1, idMinor := 0, mcMin := 1, mcMax := 1 }

/-- The machine in reset: PORST_N asserted, first supply (R18). -/
def State.reset : State := State.cold fullPart
end Sys2Proof.Machine
end

