-- ==== Sys2Proof/Machine/Ops.lean ====
section
/-! DEFINITION. The named operations every command is written with: register fields, unit states, events, PMU counts,
chaff messages, fabric requests, and reads and writes of the tables' typed records. -/

namespace Sys2Proof.Machine

/-- The outcome type of every command. -/
abbrev Out := Host.Outcome State Fault Refusal

/-! ### Units and pages (R50 to R53) -/

/-- The kind of a unit page and the number of the unit on it (R53); none for a page number without a unit. -/
def pageKind (n : Nat) : Option (PageKind × Nat) :=
  if n = pSYS then some (.sys, 0) else if n = pCTL then some (.ctl, 0) else if n = pTCK then some (.tck, 0)
  else if n = pCHF then some (.chf, 0) else if n = pGRN then some (.grn, 0) else if n = pGLM then some (.glm, 0)
  else if n = pTEF then some (.tef, 0) else if n = pKCC then some (.kcc, 0) else if n = pHLD then some (.hld, 0)
  else if n = pPMU then some (.pmu, 0) else if n = pSNT then some (.snt, 0) else if n = pRCH then some (.rch, 0)
  else if 0x10 ≤ n ∧ n < 0x18 then some (.spl, n - 0x10) else if 0x18 ≤ n ∧ n < 0x1C then some (.emr, n - 0x18)
  else if 0x20 ≤ n ∧ n < 0x30 then some (.srg, n - 0x20) else if 0x30 ≤ n ∧ n < 0x50 then some (.spk, n - 0x30)
  else if 0x50 ≤ n ∧ n < 0x54 then some (.clm, n - 0x50) else none

/-- The unit ID of a page kind (the unit map of "Aqseind in the array controller"). -/
def unitId : PageKind → Nat
  | .sys => 1 | .ctl => 2 | .tck => 3 | .chf => 4 | .grn => 5 | .glm => 6 | .tef => 7 | .kcc => 8 | .hld => 9
  | .pmu => 10 | .snt => 11 | .spl => 0x10 | .emr => 0x11 | .srg => 0x12 | .spk => 0x13 | .clm => 0x14 | .rch => 0x15
  | .sq | .cq | .rt | .pt | .gs | .pp => 0x15

/-- The page of a unit ID and a unit number; none for the fabric ports, which have no page. -/
def unitPage (u i : Nat) : Option Nat :=
  if 1 ≤ u ∧ u ≤ 0xB then some (u - 1) else if u = 0x10 then some (pSPL i) else if u = 0x11 then some (pEMR i)
  else if u = 0x12 then some (pSRG i) else if u = 0x13 then some (pSPK i) else if u = 0x14 then some (pCLM i)
  else if u = 0x15 then some pRCH else none

/-! ### Register fields -/

/-- The value of a register field. -/
def rd (s : State) (base : Nat) (f : Field) : Nat := (SMap.get? s.regs (fkey base f)).getD f.rst

/-- The state with a register field set to `v` modulo its width. -/
def wr (s : State) (base : Nat) (f : Field) (v : Nat) : State :=
  { s with regs := SMap.set s.regs (fkey base f) (v % 2 ^ f.w) }

/-- A one-bit field as a truth value. -/
def flag (s : State) (base : Nat) (f : Field) : Bool := rd s base f == 1

/-- The state with `n` added to a counter: 64-bit and 48-bit counters do not wrap in service (R113), narrower ones
saturate, as their tables say. -/
def incBy (s : State) (base : Nat) (f : Field) (n : Nat) : State :=
  wr s base f (min (rd s base f + n) (2 ^ f.w - 1))

/-- The state with one added to a counter. -/
def inc (s : State) (base : Nat) (f : Field) : State := incBy s base f 1

/-- The state with one taken from a count, not below zero. -/
def dec (s : State) (base : Nat) (f : Field) : State := wr s base f (rd s base f - 1)

/-- The pages of the units that share the unit ID of page `p`. -/
def unitPages (p : Nat) : List Nat :=
  match pageKind p with
  | some (.spl, _) => (List.range 8).map pSPL
  | some (.emr, _) => (List.range 4).map pEMR
  | some (.srg, _) => (List.range 16).map pSRG
  | some (.spk, _) => (List.range 32).map pSPK
  | some (.clm, _) => (List.range 4).map pCLM
  | some _ => [p]
  | none => []

/-- The SUMMARY bit of the unit ID of page `p` (R372): an instance has an EVT bit set that its EVT_MASK leaves unmasked. -/
def unitUp (s : State) (p : Nat) : Bool :=
  (unitPages p).any fun q => (rd s (pg q) HDR.EVT.BITS &&& (0xFFFFFFFF - rd s (pg q) HDR.EVT_MASK.MASK)) != 0

/-- The state `t` that follows `s` by a change of the events of page `p`: a SUMMARY bit that rises while CHF.CTL.EN is set sets
CHF.EVT.UNIT_EVT (R354, R372). -/
def noteRise (s t : State) (p : Nat) : State :=
  if flag t (pg pCHF) HDR.CTL.EN && !unitUp s p && unitUp t p then
    wr t (pg pCHF) HDR.EVT.BITS (setBit (rd t (pg pCHF) HDR.EVT.BITS) CHF.EVT.UNIT_EVT)
  else t

/-- The state with EVT bit `b` of page `p` set (R57). -/
def setEvt (s : State) (p b : Nat) : State := noteRise s (wr s (pg p) HDR.EVT.BITS (setBit (rd s (pg p) HDR.EVT.BITS) b)) p

/-- STAT.STATE of page `p` (R57): 0 DISABLED, 1 ENABLING, 2 ENABLED, 3 DISABLING, 4 FENCED, 5 RETIRED, 6 LOCKED. -/
def ustate (s : State) (p : Nat) : Nat := rd s (pg p) HDR.STAT.STATE

/-- Whether the unit of page `p` is ENABLED. -/
def enabled (s : State) (p : Nat) : Bool := ustate s p == 2

/-- The state with STAT.STATE of page `p` set. -/
def setUstate (s : State) (p v : Nat) : State := wr s (pg p) HDR.STAT.STATE v

/-- The data bits of an OTP word; a word never burned reads 0. -/
def otpWord (s : State) (w : Nat) : Nat := match SMap.get? s.glm.otp w with | some o => o.data | none => 0

/-- This part's DEVICE_ID, in OTP words 32 to 35 (R406). -/
def deviceId (s : State) : Nat := (List.range 4).foldl (fun n i => n + otpWord s (32 + i) * 2 ^ (16 * i)) 0

/-- Leading life-cycle segments that count as set, 12 or more of 16 bits (R409). -/
def segments (s : State) : Nat := ((List.range 6).takeWhile fun i => decide (12 ≤ popCount 16 (otpWord s i))).length

/-- The life-cycle state (R409): 0 BLANK, 1 FABTEST, 2 PROVISION, 3 FIELD, 4 ANALYSIS, 5 SCRAP. -/
def lcState (s : State) : Nat := min 5 (segments s)

/-- Whether the fatal lock is in force (R365). -/
def locked (s : State) : Bool := flag s (pg pCHF) CHF.LOCK_STAT.LOCKED

/-- The debug level (R410, R419, R424): a token's, or the life-cycle state's; at most 1 in the fatal lock. -/
def dbgLevel (s : State) : Nat :=
  let l := if flag s (pg pGLM) GLM.DBG_STAT.TOKEN then s.glm.level
    else if lcState s ≤ 1 then 3 else if lcState s = 4 then 2 else 0
  if locked s then min l 1 else l

/-- Whether test facilities are permitted (R57, R410, R504). -/
def testPermit (s : State) : Bool :=
  !locked s && (lcState s == 0 || lcState s == 1 || lcState s == 4 ||
    ((lcState s == 2 || lcState s == 3) && decide (2 ≤ dbgLevel s)))

/-- Whether fuse `f` of R407 is set, as SYS.FUSED shows it. -/
def fused (s : State) (f : Nat) : Bool :=
  if f < 64 then bitAt (rd s (pg pSYS) SYS.FUSED.FUSES) f else bitAt (rd s (pg pSYS) SYS.FUSED_HI.FUSES) (f - 64)

/-- Whether a unit of the delivered part is present: built, licensed and not fused off, a Sorghum array with its spike (R2, R3, R407,
R495). -/
def present (s : State) (k : PageKind) (i : Nat) : Bool :=
  match k with
  | .spl => decide (i < s.part.lanes) && !fused s i
  | .emr => decide (i < s.part.groups) && !fused s (8 + i)
  | .srg => decide (i < s.part.arrays) && !fused s (12 + i) && !fused s (28 + i)
  | .spk => decide (i < s.part.spikes) && !fused s (28 + i)
  | .clm => decide (i < s.part.links) && !fused s (60 + i)
  | _ => true

/-- Whether expander `e` is present (R338). -/
def expPresent (s : State) (e : Nat) : Bool := if e < 8 then present s .spl e else decide (e < 12)

/-- State of expander `e` (R340): 0 ABSENT, 1 UNINST, 2 LIVE, 3 STRETCHED, 4 STOPPED, 5 FAILED. -/
def expState (s : State) (e : Nat) : Nat :=
  if expPresent s e then max 1 (rd s (pg pTEF) (TEF.EXP.STATE.at e)) else 0

/-- Whether expander `e` supplies calls (R340). -/
def expLive (s : State) (e : Nat) : Bool := expState s e == 2 || expState s e == 3

/-- Whether the spike of array `a` gives it its spikelet: ENABLED, DISABLING or LOCKED (R149). -/
def spikeServes (s : State) (a : Nat) : Bool := ustate s (pSPK a) == 2 || ustate s (pSPK a) == 3 || ustate s (pSPK a) == 6

/-- Whether page `p` is that of a unit of the delivered part that is not fused off. -/
def pageBuilt (s : State) (p : Nat) : Bool :=
  match pageKind p with
  | some (k, i) => present s k i
  | none => false

/-- Whether page `p` holds a present unit. A Sorghum array counts as absent while its spike is disabled (R3, R149). -/
def pagePresent (s : State) (p : Nat) : Bool :=
  pageBuilt s p && (match pageKind p with | some (.srg, a) => spikeServes s a | _ => true)

/-- The numbers of the enabled units of a replicated kind, in rising order. -/
def enabledUnits (s : State) (page : Nat → Nat) (k : PageKind) (n : Nat) : List Nat :=
  (List.range n).filter fun i => present s k i && enabled s (page i)

def enLanes (s : State) : List Nat := enabledUnits s pSPL .spl 8
def enGroups (s : State) : List Nat := enabledUnits s pEMR .emr 4
def enSpikes (s : State) : List Nat := enabledUnits s pSPK .spk 32
/-- The usable Sorghum arrays: enabled, with their spike present and enabled (R149). -/
def enArrays (s : State) : List Nat :=
  (enabledUnits s pSRG .srg 16).filter fun a => present s .spk a && enabled s (pSPK a)

/-- The tick count (R156). -/
def ticks (s : State) : Nat := rd s (pg pTCK) TCK.TICK_COUNT.COUNT

/-! ### The wired outputs (R42) -/

/-- FATAL: the fatal lock, until the keeper reports a supply loss. -/
def pinFatal (s : State) : Bool := locked s

/-- MGMT: an unmasked event is pending in CHF or CTL, or CHF shows DEGRADED, whatever its mask holds (R42, R362). -/
def pinMgmt (s : State) : Bool :=
  unitUp s pCHF || unitUp s pCTL || bitAt (rd s (pg pCHF) HDR.EVT.BITS) CHF.EVT.DEGRADED

/-- PF_ACK: the power-fail flush has finished and the Granary is idle (R397). -/
def pinPfAck (s : State) : Bool := s.snt.pfAck

/-- DBG: a debug grant is active, or the control processor is halted. -/
def pinDbg (s : State) : Bool := flag s (pg pGLM) GLM.DBG_STAT.TOKEN || flag s (pg pGLM) GLM.DBG_CP.HALTED

/-! ### PMU counts (R506, R507) -/

/-- The state with counter `n` advanced by `m`; past 2^48 − 1 it wraps and its OVF bit and PMU.EVT.OVERFLOW are set (R508). -/
def pmuAdd (s : State) (n m : Nat) : State :=
  let v := rd s (pg pPMU) (PMU.CNT.COUNT.at n) + m
  let s1 := wr s (pg pPMU) (PMU.CNT.COUNT.at n) v
  if v < 2 ^ 48 then s1
  else if bitAt (rd s (pg pPMU) PMU.OVF.CNT) n then s1
  else setEvt (wr s1 (pg pPMU) PMU.OVF.CNT (setBit (rd s (pg pPMU) PMU.OVF.CNT) n)) pPMU PMU.EVT.OVERFLOW

/-- The state with `m` events of a kind counted by every counter that selects them (R507). -/
def pmu (s : State) (ev unitNo m : Nat) : State :=
  if enabled s pPMU then
    (List.range 16).foldl (fun st n =>
      if flag st (pg pPMU) (PMU.CNT_CFG.EN.at n) && rd st (pg pPMU) (PMU.CNT_CFG.EVENT.at n) == ev
          && (rd st (pg pPMU) (PMU.CNT_CFG.UNIT.at n) == 0xFF || rd st (pg pPMU) (PMU.CNT_CFG.UNIT.at n) == unitNo)
      then pmuAdd st n m else st) s
  else s

/-- Whether the ledger probe waits for an entry of ring `q` (R509). -/
def probeWaits (s : State) (q : Nat) : Bool :=
  flag s (pg pPMU) PMU.PROBE_STAT.ARMED && rd s (pg pPMU) PMU.PROBE_CTL.SQ == q && s.probeEid.isNone

/-- Take stamp `k` unless it has been taken: kc since cycle 0. -/
def stampKc (s : State) (k : Nat) : State :=
  if rd s (pg pPMU) (PMU.PROBE_STAMP.KC.at k) = 0xFFFFFFFF then
    wr s (pg pPMU) (PMU.PROBE_STAMP.KC.at k) (min (2 * (s.fcNow - s.probeFc)) 0xFFFFFFFE)
  else s

/-- The state with stamp `k` of the ledger probe taken for entry `eid`, when it is the one probed. -/
def probeStamp (s : State) (eid k : Nat) : State :=
  if flag s (pg pPMU) PMU.PROBE_STAT.ARMED && s.probeEid == some eid then stampKc s k else s

/-- Cycle 0 of the probe is now (R275). -/
def probeZero (s : State) : State :=
  let b := pg pPMU
  let s1 := wr (wr s b PMU.PROBE_T0.TICK (ticks s)) b PMU.PROBE_T0_KC.KC (min (2 * (s.fcNow - s.tickFc)) 4095)
  { s1 with probeFc := s.fcNow }

/-- A doorbell sets SCAN_PENDING of ring `q`: cycle 0, unless a scan was pending already (R275). -/
def probeBell (s : State) (q : Nat) : State :=
  if probeWaits s q && !flag s (sqB q) SQ.STAT.SCAN_PENDING then
    stampKc (wr (probeZero s) (pg pPMU) (PMU.PROBE_STAMP.KC.at 0) 0xFFFFFFFF) 0
  else s

/-- The Rachis takes an entry from ring `q`: the one probed, when the probe waits for it. -/
def probeTake (s : State) (q eid : Nat) : State := if probeWaits s q then stampKc { s with probeEid := some eid } 1 else s

/-! ### The control processor (R425, R447) -/

/-- The CP serves requests: its firmware runs and is not halted. -/
def cpRuns (s : State) : Bool := s.cp.up && !flag s (pg pGLM) GLM.DBG_CP.HALTED

/-- The control processor serves commands now: it runs, and its page is not FENCED. -/
def cpServes (s : State) : Bool := cpRuns s && flag s (pg pCTL) HDR.CTL.EN && ustate s pCTL != 4

/-! ### Chaff messages (R355, R356) -/

/-- Key of a source: unit ID and member number. -/
def srcKey (unit member : Nat) : Nat := unit * 256 + member

/-- A source that has sent nothing. -/
def freshSrc : ChaffSrc := { cls := 0, credits := 4, hold := none, merged := 0, msgs := 0, raised := 0, wins := [] }

/-- What the collector keeps of a source. -/
def srcOf (s : State) (k : Nat) : ChaffSrc := SMap.getD s.chaff.srcs k freshSrc

/-- The state with a source's record replaced. -/
def setSrc (s : State) (k : Nat) (r : ChaffSrc) : State :=
  { s with chaff := { s.chaff with srcs := SMap.set s.chaff.srcs k r } }

/-- A source presents a message: with a credit it goes on the bus, without one it is held or merged (R356). -/
def chaff (s : State) (m : ChaffMsg) : State :=
  let k := srcKey m.unit m.member
  let r := srcOf s k
  if 0 < r.credits then
    let s1 := setSrc s k { r with credits := r.credits - 1 }
    { s1 with chaff := { s1.chaff with bus := s1.chaff.bus ++ [m] } }
  else match r.hold with
    | none => setSrc s k { r with hold := some m, merged := 0 }
    | some _ => setSrc s k { r with merged := min (r.merged + 1) 0xFFFF }

/-- The DETAIL of a message of a kind for which no rule gives one: a free value (log entry 13). -/
def anyDetail (kind : Nat) : Nat := (Config.chaffDetail kind).toNat

/-- A message without an access (ACCESS 0x0, PORT 0, ADDRESS 0). -/
def chaffPlain (s : State) (unit member kind detail : Nat) : State :=
  chaff s { unit, member, kind, access := 0, port := 0, addr := 0, detail }

/-- A notice of R525: kind UNIT_NOTICE with a reason code. -/
def notice (s : State) (unit member reason : Nat) : State := chaffPlain s unit member 0x005 reason

/-- A message without an access whose DETAIL no rule gives. -/
def chaffAny (s : State) (unit member kind : Nat) : State := chaffPlain s unit member kind (anyDetail kind)

/-- A message about a transaction of a master port (R29, R30). -/
def fabChaff (s : State) (kind access port mq addr : Nat) : State :=
  chaff s { unit := 0x16, member := port, kind, access, port := mq, addr, detail := anyDetail kind }

/-- A write that is ignored with a NOTICE (R525): kind WRITE_IGNORED with the port, the offset and a reason code. -/
def writeIgnored (s : State) (unit member src addr reason : Nat) : State :=
  chaff s { unit, member, kind := 0x003, access := 2, port := src, addr, detail := reason }

/-! ### Typed records -/

/-- A ring that has never been enabled. -/
def freshSq : SqX := { waitReturn := false, span := 0, ents := [], batches := [], park := none, dbInHalt := false, haltDone := false }

/-- The hidden part of a submission ring. -/
def sqx (s : State) (q : Nat) : SqX := SMap.getD s.rch.sqs q freshSq

/-- The state with a ring's hidden part replaced. -/
def setSqx (s : State) (q : Nat) (x : SqX) : State := { s with rch := { s.rch with sqs := SMap.set s.rch.sqs q x } }

/-- A vector in its reset state (R110: MASK is 1). -/
def freshVec : Vec :=
  { addr := 0, data := 0, mask := true, pending := false, inflight := false, err := false, recPort := 0, recMq := 0 }

/-- A vector. -/
def vec (s : State) (v : Nat) : Vec := SMap.getD s.rch.vecs v freshVec

/-- The state with a vector replaced. -/
def setVec (s : State) (v : Nat) (x : Vec) : State := { s with rch := { s.rch with vecs := SMap.set s.rch.vecs v x } }

/-- A gate slot beside its registers, in its reset state. -/
def freshGate : GateX := { post := none, armed := none, ticksLeft := 0, dead := none }

/-- The hidden part of a gate slot. -/
def gatex (s : State) (g : Nat) : GateX := SMap.getD s.gates g freshGate

/-- The state with a gate's hidden part replaced. -/
def setGatex (s : State) (g : Nat) (x : GateX) : State := { s with gates := SMap.set s.gates g x }

/-- The entry held by spikelet `j`. -/
def job? (s : State) (j : Nat) : Option Job := SMap.get? s.jobs j

/-- The state with the entry of spikelet `j` replaced. -/
def setJob (s : State) (j : Nat) (x : Job) : State := { s with jobs := SMap.set s.jobs j x }

/-- The state with the entry of spikelet `j` changed, when there is one. -/
def modJob (s : State) (j : Nat) (f : Job → Job) : State :=
  match job? s j with
  | some x => setJob s j (f x)
  | none => s

/-- Step `k` of the entry of spikelet `j`. -/
def step? (s : State) (j k : Nat) : Option StepRun :=
  match job? s j with
  | some x => x.steps[k]?
  | none => none

/-- The state with step `k` of the entry of spikelet `j` changed. -/
def modStep (s : State) (j k : Nat) (f : StepRun → StepRun) : State :=
  modJob s j fun x => { x with steps := match x.steps[k]? with | some t => listSet x.steps k (f t) | none => x.steps }

/-- A lane in its reset state. -/
def freshLane : Lane := { ctxs := [], injEnc := false, injDec := false, seed := [], next := none }

/-- A lane beside its registers. -/
def lane (s : State) (l : Nat) : Lane := SMap.getD s.lanes l freshLane

/-- The state with a lane replaced. -/
def setLane (s : State) (l : Nat) (x : Lane) : State := { s with lanes := SMap.set s.lanes l x }

/-- The realm a port is bound to (R72). Port 0 is fixed to realm 0. -/
def portRealm (s : State) (p : Nat) : Nat := if p = 0 then 0 else rd s (ptB p) PT.CTL.REALM

/-- Whether a port can use rings and doorbells (R72). Port 0 is always enabled. -/
def portEn (s : State) (p : Nat) : Bool := p == 0 || flag s (ptB p) PT.CTL.EN

/-- Whether a realm is ACTIVE (R74). -/
def realmActive (s : State) (r : Nat) : Bool := rd s (rtB r) RT.STATE.STATE == 1

/-- State of ring `q` (R101): 0 DISABLED, 1 ACTIVE, 2 STOPPED_ERROR, 3 DRAINING. -/
def sqState (s : State) (q : Nat) : Nat := rd s (sqB q) SQ.STAT.STATE

/-- State of completion ring `c` (R105): 0 DISABLED, 1 ACTIVE, 2 FAULTED. -/
def cqState (s : State) (c : Nat) : Nat := rd s (cqB c) CQ.STAT.STATE

/-- The port an SQ is bound to. -/
def sqPort (s : State) (q : Nat) : Nat := rd s (sqB q) SQ.CFG.PORT

/-- The CQ an SQ is bound to. -/
def sqCq (s : State) (q : Nat) : Nat := rd s (sqB q) SQ.CFG.CQ

/-- Depth of an SQ in units (R76). -/
def sqDepth (s : State) (q : Nat) : Nat := 2 ^ rd s (sqB q) SQ.CFG.LOG2_DEPTH

/-- Base address of an SQ (R107). -/
def sqBase (s : State) (q : Nat) : Nat := rd s (sqB q) SQ.BASE_LO.BASE * 4096 + rd s (sqB q) SQ.BASE_HI.BASE * 2 ^ 32

/-- Base address of a CQ (R108). -/
def cqBase (s : State) (c : Nat) : Nat := rd s (cqB c) CQ.BASE_LO.BASE * 4096 + rd s (cqB c) CQ.BASE_HI.BASE * 2 ^ 32

/-- Depth of a CQ in entries (R92). -/
def cqDepth (s : State) (c : Nat) : Nat := 2 ^ rd s (cqB c) CQ.CFG.LOG2_DEPTH

/-- A free value's number, taken from the counter of free values. -/
def freshFree (s : State) : Nat × State := (s.freeCtr, { s with freeCtr := s.freeCtr + 1 })

/-! ### Fabric requests (R22 to R32) -/

/-- Credits of `m` for port `p`. -/
def credOf (m : SMap Nat) (p : Nat) : Nat := SMap.getD m p 0

/-- Write-data beats whose bytes a write request carries: the lines it touches. -/
def lineOf (a : Nat) : Nat := a / 64

/-- The lowest tag of port `p` below `n` that no read (or write) outstanding and no quarantine uses (R22, R30). -/
def freeTag (s : State) (p : Nat) (isWrite : Bool) : Option Nat :=
  let used := (if isWrite then (s.fab.writes.filter (fun t => t.port == p)).map (·.tag)
    else (s.fab.reads.filter (fun t => t.port == p)).map (·.tag)) ++
    (s.fab.quar.filter (fun q => q.port == p && q.isWrite == isWrite)).map (·.tag)
  (List.range (if isWrite then 256 else 512)).find? fun t => !used.contains t

/-- Whether a waiting request can be presented now: a request credit beyond what the port keeps for MQ_PRIO traffic (R27) and a free
tag; a write also when no earlier write of the port waits to send data (R23), and one without MQ_PRIO only with every data credit it
needs, so that it never holds up a completion. -/
def canPresent (s : State) (p : Nat) (r : FabReq) : Bool :=
  let rq := credOf s.fab.reqCr p
  let wd := credOf s.fab.wdCr p
  match r with
  | .rd t => decide ((if t.prio then 1 else 2) ≤ rq) && (freeTag s p false).isSome
  | .wr t => decide ((if t.prio then 1 else 2) ≤ rq) && credOf s.fab.owed p == 0 && decide ((if t.prio then 1 else t.beats + 2) ≤ wd) &&
      (freeTag s p true).isSome

/-- The state with the stash buffer replaced. -/
def setStash (s : State) (l : List StashLine) : State := { s with rch := { s.rch with stash := l } }

/-- Change one byte of a present stash line, at byte address `a` (R84). -/
def stashPoke (s : State) (a : Nat) (b : Byte) : State :=
  setStash s (s.rch.stash.map fun l => if l.addr == lineOf a * 64 then { l with data := listSet l.data (a % 64) b } else l)

/-- The block's own write, as it is presented, changes a present stash line (R39, R84). -/
def stashOwn (s : State) (cells : List (Nat × Byte)) : State :=
  if s.rch.stash.isEmpty then s else cells.foldl (fun st c => stashPoke st c.1 c.2) s

/-- Present a request: credits spent, tag given, transaction outstanding, PMU counts (R22, R27, R507). An MQ_PRIO write sends the beats
it has credits for and owes the others. -/
def present1 (s : State) (p : Nat) (r : FabReq) : State :=
  match r with
  | .rd t =>
    let f := { s.fab with reqCr := SMap.set s.fab.reqCr p (credOf s.fab.reqCr p - 1),
                          reads := s.fab.reads ++ [{ t with tag := (freeTag s p false).getD 0, since := s.fcNow }] }
    pmu { s with fab := f } 0x10 p 1
  | .wr t =>
    let f := { s.fab with reqCr := SMap.set s.fab.reqCr p (credOf s.fab.reqCr p - 1),
                          wdCr := SMap.set s.fab.wdCr p (credOf s.fab.wdCr p - t.beats),
                          owed := SMap.set s.fab.owed p (t.beats - credOf s.fab.wdCr p),
                          writes := s.fab.writes ++ [{ t with tag := (freeTag s p true).getD 0 }] }
    pmu (stashOwn { s with fab := f } t.cells) 0x12 p 1

/-- The port a waiting request belongs to. -/
def FabReq.portOf : FabReq → Nat
  | .rd t => t.port
  | .wr t => t.port

/-- Whether a waiting request carries MQ_PRIO. -/
def FabReq.isPrio : FabReq → Bool
  | .rd t => t.prio
  | .wr t => t.prio

/-- Whether a waiting request writes completion entries. -/
def FabReq.isCqe : FabReq → Bool
  | .wr t => match t.who with | .cqe _ => true | _ => false
  | .rd _ => false

/-- Whether a waiting request writes a completion entry of an EXPRESS-class entry (R267). -/
def expressReq (s : State) : FabReq → Bool
  | .wr t => match t.who with | .cqe l => s.rch.compls.any (fun c => c.express && l.contains c.cid) | _ => false
  | .rd _ => false

/-- Whether a waiting request may leave on port `p`: any, but only completion entries once the ports are held idle (R16). -/
def mayLeave (s : State) (p : Nat) (r : FabReq) : Bool := r.portOf == p && (!s.fab.idle || r.isCqe)

/-- Take the next waiting request of port `p`, if it can be presented: completions of EXPRESS-class entries first, oldest first (R267),
then other MQ_PRIO traffic, then the rest. -/
def nextReq (s : State) (p : Nat) : Option FabReq :=
  let mine := s.fab.waiting.filter (mayLeave s p)
  match (mine.find? (expressReq s)).or ((mine.find? FabReq.isPrio).or mine.head?) with
  | some r => if canPresent s p r then some r else none
  | none => none

/-- Present waiting requests of port `p` while credits and tags allow; `fuel` bounds their number. -/
def pump : Nat → State → Nat → State
  | 0, s, _ => s
  | n + 1, s, p =>
    if s.phase = .run then
      match nextReq s p with
      | some r => pump n (present1 { s with fab := { s.fab with waiting := s.fab.waiting.erase r } } p r) p
      | none => s
    else s

/-- Give a request to its port. -/
def request (s : State) (r : FabReq) : State :=
  pump (s.fab.waiting.length + 1) { s with fab := { s.fab with waiting := s.fab.waiting ++ [r] } } r.portOf

/-- The bytes of a contiguous write as enabled cells. -/
def cellsAt (a : Nat) (bs : Bytes) : List (Nat × Byte) := bs.mapIdx fun i b => (a + i, b)

/-- The master port of fragment traffic at an address (R31). -/
def fragPort (a : Nat) : Nat := (bitsAt a 12 4) ^^^ (bitsAt a 16 4)

/-- Lines that a byte range touches. -/
def beatsOf (a n : Nat) : Nat := if n = 0 then 0 else lineOf (a + n - 1) - lineOf a + 1

/-- A read of the lines that hold `n` bytes at `a`; the critical beat is the first (R28). -/
def readReq (s : State) (p a n mq : Nat) (prio na : Bool) (who : Who) : State :=
  request s (.rd { port := p, tag := 0, addr := lineOf a * 64, beats := beatsOf a n, crit := 0, mqPort := mq, prio, na, who, since := s.fcNow, got := [] })

/-- A write of `bs` at `a`, one request; WRITE_FULL when every byte of every beat is written (R22). -/
def writeReq (s : State) (p a mq : Nat) (prio na poison : Bool) (who : Who) (bs : Bytes) : State :=
  request s (.wr { port := p, tag := 0, addr := lineOf a * 64, beats := beatsOf a bs.length,
                   full := decide (a % 64 = 0 ∧ bs.length % 64 = 0), mqPort := mq, prio, na, poison, who, cells := cellsAt a bs })

/-- Cut a byte range into requests that keep within `lines` lines and one 4 KiB page (R23): offset and length of each. -/
def cutRange : Nat → Nat → Nat → Nat → Nat → List (Nat × Nat)
  | 0, _, _, _, _ => []
  | fuel + 1, a, n, lines, off =>
    if n = 0 then []
    else
      let room := min (4096 - a % 4096) (lines * 64 - a % 64)
      let m := min n room
      (off, m) :: cutRange fuel (a + m) (n - m) lines (off + m)

/-- The lines-per-write bound of the model: a write is presented whole, so it must fit any port's data credits (R27). -/
def writeLines : Nat := 8

/-- `n` fc cycles of a lane in which its two pipelines issue no real block (R507); in AQS-E each kc of each is a dummy block (R217). -/
def idleLane (s : State) (n l : Nat) : State :=
  let s1 := pmu s 0x08 l (4 * n)
  if !s.part.masked && flag s (pg (pSPL l)) SPL.CTL.DUMMY_EN then incBy s1 (pg (pSPL l)) SPL.DUMMY_BLOCKS.COUNT (4 * n) else s1

/-- `n` fc cycles pass for the clocks: two kc to one fc (R14), counted by CYCLES and by counters of kclk cycles while the PMU is
ENABLED (R506, R507); CYCLES wraps and sets its bit of OVF (R508). -/
def passFc (s : State) (n : Nat) : State :=
  let s1 := (enLanes s).foldl (fun st l => idleLane st n l) { s with fcNow := s.fcNow + n }
  if enabled s pPMU then
    let v := rd s1 (pg pPMU) PMU.CYCLES.COUNT + 2 * n
    let s2 := pmu (wr s1 (pg pPMU) PMU.CYCLES.COUNT v) 0x01 0 (2 * n)
    if v < 2 ^ 48 ∨ flag s (pg pPMU) PMU.OVF.CYCLES then s2 else setEvt (wr s2 (pg pPMU) PMU.OVF.CYCLES 1) pPMU PMU.EVT.OVERFLOW
  else s1

/-- One fc cycle passes without a command (log entry 1). -/
def idleFx (s : State) : State := passFc s 1

end Sys2Proof.Machine
end

