-- ==== Sys2Proof/Machine/Rings.lean ====
section
/-! DEFINITION. Submission and completion rings (R76 to R113): the stash buffer, the scanner, completions and batches,
returns, ring states, and interrupt vectors (R41). -/

namespace Sys2Proof.Machine

/-! ### Interrupt vectors -/

/-- Send a vector's message (R41): a 4-byte write with MQ_PRIO, the vector then in flight. -/
def sendVec (s : State) (v port mq : Nat) : State :=
  let x := vec s v
  writeReq (setVec s v { x with inflight := true, pending := false }) port x.addr mq true false false (.msi v) (natLe 4 x.data)

/-- A trigger of vector `v` (R41): sent, or pending with its port and MQ_PORT recorded by the first trigger. -/
def trigger (s : State) (v port mq : Nat) : State :=
  let x := vec s v
  if x.mask || x.inflight then
    if x.pending then s else setVec s v { x with pending := true, recPort := port, recMq := mq }
  else sendVec s v port mq

/-- A pending vector that is free to send does so (R41). -/
def sendPending (s : State) (v : Nat) : State :=
  let x := vec s v
  if x.pending && !x.mask && !x.inflight then sendVec s v x.recPort x.recMq else s

/-- An event bit of a per-port page (R69): set, and a trigger of the port's management vector when unmasked (R72). -/
def ppEvent (s : State) (p b : Nat) : State :=
  let s1 := wr s (ppB p) PP.EVT.DB_DROP (rd s (ppB p) PP.EVT.DB_DROP)
  let s2 := if b = 0 then wr s1 (ppB p) PP.EVT.DB_DROP 1 else if b = 1 then wr s1 (ppB p) PP.EVT.RING_HALT 1
    else wr s1 (ppB p) PP.EVT.DENIED 1
  if !bitAt (rd s (ppB p) PP.EVT_MASK.MASK) b && flag s (ptB p) PT.MSI.MGMT_VEC_EN then
    trigger s2 (rd s (ptB p) PT.MSI.VEC_BASE) 0 p
  else s2

/-! ### Which rings are bound -/

/-- The SQs that are not DISABLED. -/
def liveSqs (s : State) : List Nat := (s.rch.sqs.map (·.1)).filter fun q => sqState s q != 0

/-- The SQs not DISABLED that are bound to port `p`. -/
def sqsOfPort (s : State) (p : Nat) : List Nat := (liveSqs s).filter fun q => sqPort s q == p

/-- The SQs not DISABLED that are bound to CQ `c`. -/
def sqsOfCq (s : State) (c : Nat) : List Nat := (liveSqs s).filter fun q => sqCq s q == c

/-- The CQs not DISABLED of port `p`. -/
def cqsOfPort (s : State) (p : Nat) : List Nat := s.rch.cqsOn.filter fun c => rd s (cqB c) CQ.CFG.PORT == p

/-- The address of unit `i` of ring `q`. -/
def unitAddr (s : State) (q i : Nat) : Nat := sqBase s q + 64 * i

/-- The SQ not DISABLED whose ring holds line address `a`, if any. -/
def sqOfLine (s : State) (a : Nat) : Option Nat :=
  (liveSqs s).find? fun q => decide (sqBase s q ≤ a ∧ a < sqBase s q + 64 * sqDepth s q)

/-! ### The stash buffer (R40, R84) -/

/-- The stash line at a line address. -/
def stashLine (s : State) (a : Nat) : Option Bytes := (s.rch.stash.find? fun l => l.addr == a).map (·.data)

/-- The stash buffer without the line at `a`. -/
def stashDrop (s : State) (a : Nat) : State := setStash s (s.rch.stash.filter fun l => l.addr != a)

/-- Install or replace a full line; with the buffer full the line installed earliest is evicted (R84). A line that a COPY replaces keeps
its place in the order of eviction (DESIGN CHOICE, log entry 61). -/
def stashPut (s : State) (a : Nat) (d : Bytes) : State :=
  if (stashLine s a).isSome then
    setStash s (s.rch.stash.map fun l => if l.addr == a then { l with data := d } else l)
  else
    let l := if s.part.stashLines ≤ s.rch.stash.length then s.rch.stash.drop 1 else s.rch.stash
    setStash s (l ++ [{ addr := a, data := d }])

/-- The bytes of a beat. -/
def beatBytes (d : BitVec 512) : Bytes := natLe 64 d.toNat

/-- Bytes of `new` where the enable bit is set, of `old` elsewhere. -/
def mergeBe (be : Nat) (old new : Bytes) : Bytes :=
  (List.range 64).map fun i => if bitAt be i then new.getD i 0 else old.getD i 0

/-- Whether stash transfers are used: RCH.CTL.STASH_EN (R110). -/
def stashOn (s : State) : Bool := flag s (pg pRCH) RCH.CTL.STASH_EN

/-- The effect of a COPY (R40, R84). -/
def stashCopyFx (s : State) (a : Nat) (d : Bytes) (be port : Nat) : State :=
  let drop := inc s (pg pRCH) RCH.STASH_DROPPED.COUNT
  if !stashOn s then s
  else match sqOfLine s a with
    | none => drop
    | some q =>
      if sqPort s q != port then stashDrop drop a
      else match stashLine s a with
        | some old => stashPut s a (mergeBe be old d)
        | none => if be = 2 ^ 64 - 1 then stashPut s a d else drop

/-! ### Batches and completions (R92 to R100) -/

/-- The state with the ring's hidden part changed. -/
def modSqx (s : State) (q : Nat) (f : SqX → SqX) : State := setSqx s q (f (sqx s q))

/-- A new completion of ring `q`, queued for presentation. -/
def newCompl (s : State) (q : Nat) (covers : List Nat) (status index tag step detail : Nat) (result : Bytes)
    (jobs : List Nat) : State :=
  let c : Compl := { express := (sqx s q).ents.any fun e => e.express && covers.contains e.eid, cid := s.rch.nextCid, sq := q, cq := sqCq s q, covers, status, index, tag, step, detail, result,
                     posted := false, left := 0, failed := false, jobs }
  let s1 := { s with rch := { s.rch with compls := s.rch.compls ++ [c], nextCid := s.rch.nextCid + 1 } }
  jobs.foldl (fun st j => modJob st j fun x => { x with cid := some c.cid }) s1

/-- The spikelets that hold one of the given entries of ring `q`. -/
def jobsOf (s : State) (q : Nat) (eids : List Nat) : List Nat :=
  (s.jobs.filter fun p => p.2.sq == q && p.2.peer.isNone && eids.contains p.2.eid).map (·.1)

/-- RESULT bytes for a status other than OK and OK_BATCH: LOCATION and zeros (R95). -/
def locBytes (loc : Nat) : Bytes := natLe 8 loc ++ zeros 8

/-- The batch completions that are due on ring `q`: each closed batch whose members have all finished yields one, or none
when no member ended OK (R99). -/
def closeOut (s : State) (q : Nat) : State :=
  let due := (sqx s q).batches.filter fun b => b.closed && b.waiting.isEmpty
  let s1 := modSqx s q fun x => { x with batches := x.batches.filter fun b => !(b.closed && b.waiting.isEmpty) }
  due.foldl (fun st b =>
    match b.oks.getLast? with
    | none => st
    | some l => newCompl st q (b.oks.map (·.eid)) (if b.oks.length ≥ 2 then 1 else 0) l.index l.tag 0 0 (zeros 16)
        (jobsOf st q (b.oks.map (·.eid)))) s1

/-- Close the ring's open batch (R99). -/
def closeBatch (s : State) (q : Nat) : State :=
  let s1 := modSqx s q fun x => { x with batches := x.batches.map fun b => { b with closed := true } }
  closeOut (wr s1 (sqB q) SQ.STAT.BATCH_OPEN 0) q

/-- Insert an OK member in ring order. -/
def insOk (m : BatchOk) : List BatchOk → List BatchOk
  | [] => [m]
  | x :: xs => if m.eid < x.eid then m :: x :: xs else x :: insOk m xs

/-- A taken entry has finished: its own completion, or a place in its batch (R99, R100). -/
def finishEntry (s : State) (q eid index tag : Nat) (v : Verdict) (step : Nat) (result : Bytes) (inlineOut : Bool)
    (jobs : List Nat) : State :=
  let inBatch := (sqx s q).batches.any fun b => b.waiting.contains eid
  let ok := v.status == 0
  let upd := fun (b : Batch) =>
    if b.waiting.contains eid then
      { b with waiting := b.waiting.erase eid, oks := if ok then insOk { eid, index, tag } b.oks else b.oks }
    else b
  let s1 := modSqx s q fun x => { x with batches := x.batches.map upd }
  let s2 := if ok && inBatch then s1
    else newCompl s1 q [eid] v.status index tag (if ok then 0 else step) (if ok then 0 else v.detail)
      (if ok then (if inlineOut then result else zeros 16) else locBytes v.loc) jobs
  closeOut s2 q

/-- Put an entry into the ring's open batch, opening one when none is open (R99). -/
def putInBatch (s : State) (q eid : Nat) : State :=
  let x := sqx s q
  if x.batches.any fun b => !b.closed then
    setSqx s q { x with batches := x.batches.map fun b =>
      if b.closed then b else { b with waiting := b.waiting ++ [eid], size := b.size + 1 } }
  else
    let s1 := { s with rch := { s.rch with nextBid := s.rch.nextBid + 1 } }
    wr (setSqx s1 q { x with batches := x.batches ++ [{ bid := s.rch.nextBid, waiting := [eid], oks := [], size := 1, closed := false }] })
      (sqB q) SQ.STAT.BATCH_OPEN 1

/-- Join a taken entry to the ring's batch by its flags CQ_DEFER, BATCH_END and INLINE_OUT, and close the batch when it is
full or ended (R99). -/
def joinBatch (s : State) (q eid : Nat) (deferred ends inl : Bool) : State :=
  let s1 := if (deferred || ends) && !inl then putInBatch s q eid else s
  let isFull := (sqx s1 q).batches.any fun b => !b.closed && decide (rd s (sqB q) SQ.CTL.BATCH_MAX ≤ b.size)
  if ends || isFull then closeBatch s1 q else s1

/-! ### Halts (R102) -/

/-- The events and the chaff message of a halt. -/
def haltEvents (s : State) (q : Nat) : State :=
  chaffAny (ppEvent (setEvt s pRCH RCH.EVT.RING_HALT) (sqPort s q) 1) 0x15 0 0x601

/-- Add an entry at the cursor to the ring's unreturned entries, taken or (for a skip entry) passed over. -/
def addEnt (s : State) (q index units : Nat) (skip express : Bool) : Nat × State :=
  let e := s.rch.nextEid
  let s1 := modSqx { s with rch := { s.rch with nextEid := e + 1 } } q fun x =>
    { x with span := x.span + units, ents := x.ents ++ [{ eid := e, index, units, skip, express, st := if skip then .answered else .live }] }
  (e, if skip then s1 else inc (inc (inc s1 (sqB q) SQ.TAKEN.COUNT) (pg pRCH) RCH.ENTRIES_TAKEN.COUNT) (sqB q) SQ.INFLIGHT.ENTRIES)

/-- The ring halts at its cursor with a detail that yields a completion of its own: a MALFORMED detail, or 0x008 with
FABRIC_ERROR and the failing address (R102). -/
def haltEntry (s : State) (q detail tag loc : Nat) : State :=
  let i := rd s (sqB q) SQ.STAT.CURSOR
  let (e, s1) := addEnt s q i 1 false false
  let s2 := wr (wr (wr s1 (sqB q) SQ.ERR.INDEX i) (sqB q) SQ.ERR.DETAIL detail) (sqB q) SQ.STAT.STATE 2
  let s3 := if detail = 8 then s2 else inc s2 (pg pRCH) RCH.MALFORMED_COUNT.COUNT
  let s4 := modSqx (closeBatch s3 q) q fun x => { x with park := none, dbInHalt := false, haltDone := true }
  haltEvents (newCompl s4 q [e] (if detail = 8 then 0x20 else 0x10) i tag 0 detail (locBytes loc) []) q

/-- The ring halts without a completion: details 0x009 and 0x00A (R102). In DRAINING the ring only latches the detail; in
STOPPED_ERROR the first halt stays (R101). -/
def haltBare (s : State) (q index detail : Nat) : State :=
  if sqState s q = 1 then
    let s1 := wr (wr (wr s (sqB q) SQ.ERR.INDEX index) (sqB q) SQ.ERR.DETAIL detail) (sqB q) SQ.STAT.STATE 2
    haltEvents (modSqx (closeBatch s1 q) q fun x => { x with park := none, dbInHalt := false, haltDone := false }) q
  else if sqState s q = 3 then
    haltEvents (wr (wr s (sqB q) SQ.ERR.INDEX index) (sqB q) SQ.ERR.DETAIL detail) q
  else s

/-! ### Giving units back (R90, R91, R103 to R105) -/

/-- The ring's oldest entry leaves the ring: position, span and counts move on; a ring that stopped because it was full is scanned again
(R90). -/
def popOldest (s : State) (q : Nat) (e : RingEnt) : State :=
  let old := (rd s (sqB q) SQ.POS.OLDEST + e.units) % sqDepth s q
  let s1 := modSqx (wr s (sqB q) SQ.POS.OLDEST old) q fun x => { x with ents := x.ents.drop 1, span := x.span - e.units }
  let s2 := if e.skip then s1 else dec (inc s1 (sqB q) SQ.RETURNED.COUNT) (sqB q) SQ.INFLIGHT.ENTRIES
  if (sqx s q).waitReturn then wr (modSqx s2 q fun x => { x with waitReturn := false }) (sqB q) SQ.STAT.SCAN_PENDING 1 else s2

/-- Give back without a write, in ring order, every oldest entry that is to be given back so: those of a FAULTED CQ, and
in DRAINING those whose returning write failed twice; `fuel` bounds the entries. -/
def settle : Nat → State → Nat → State
  | 0, s, _ => s
  | n + 1, s, q =>
    match (sqx s q).ents.head? with
    | some e =>
      if e.st = .gift ∨ (e.st = .stuck ∧ sqState s q = 3) then settle n (popOldest s q e) q else s
    | none => s

/-- `settle` with enough fuel for every entry of the ring. -/
def settleAll (s : State) (q : Nat) : State := settle ((sqx s q).ents.length + 1) s q

/-- Change the records of some entries of ring `q`. -/
def markEnts (s : State) (q : Nat) (eids : List Nat) (f : EntSt → EntSt) : State :=
  modSqx s q fun x => { x with ents := x.ents.map fun e => if eids.contains e.eid then { e with st := f e.st } else e }

/-- The oldest entries of a ring that can go out in one ownership-clearing request: due, adjacent in memory, and their first units in
the 4 KiB page `pageNo` of the ring (R23). -/
def dueRun (pageNo : Nat) : Option Nat → List RingEnt → List RingEnt
  | _, [] => []
  | prev, e :: es =>
    let adj := match prev with | none => true | some nx => nx == e.index && e.index / 64 == pageNo
    if (e.st == .answered || e.st == .retry) && adj then e :: dueRun pageNo (some (e.index + e.units)) es else []

/-- Give the ownership-clearing write of the oldest due entries to its port (R90). -/
def returnDue (s : State) (q : Nat) : State :=
  match (sqx s q).ents.head? with
  | none => s
  | some h =>
    let run := dueRun (h.index / 64) none (sqx s q).ents
    if run.isEmpty then s
    else
      let cells := run.map fun e => (unitAddr s q e.index, byteOf ((e.units - 1) * 2))
      let a := unitAddr s q h.index
      let lst := (run.getLast?.getD h).index
      let s1 := markEnts s q (run.map (·.eid)) fun st => match st with | .retry => .returning 1 | _ => .returning 0
      request s1 (.wr { port := sqCq s q % 16, tag := 0, addr := a, beats := lst - h.index + 1, full := false,
                        mqPort := sqPort s q, prio := true, na := false, poison := false, who := .ret q (run.map (·.eid)), cells })

/-- The response to an ownership-clearing write (R90, R91). -/
def returnAnswer (s : State) (q : Nat) (eids : List Nat) (err : Bool) : State :=
  if !err then
    let es := (sqx s q).ents.filter fun e => eids.contains e.eid
    settleAll (es.foldl (fun st e => popOldest st q e) s) q
  else
    let second := (sqx s q).ents.any fun e => eids.contains e.eid && e.st == .returning 1
    let s1 := markEnts s q eids fun st => if st = .returning 0 then .retry else .stuck
    if second then
      let i := ((sqx s q).ents.find? fun e => eids.contains e.eid).map (·.index)
      settleAll (haltBare s1 q (i.getD 0) 9) q
    else returnDue s1 q

/-! ### Presenting completions (R92 to R98) -/

/-- CQ entries that a result of `n` bytes needs (R93). -/
def cqEntries (n : Nat) : Nat := if n ≤ 16 then 1 else if n ≤ 44 then 2 else 3

/-- The 32 bytes of a completion entry (R92). -/
def complBytes (c : Compl) (seq conts : Nat) : Bytes :=
  [byteOf (1 + 4 * conts), byteOf c.status] ++ natLe 2 seq ++ natLe 2 c.sq ++ natLe 2 c.covers.length ++ natLe 4 c.tag ++
    natLe 4 (c.index + c.step * 2 ^ 16 + c.detail * 2 ^ 19) ++ slice c.result 0 16

/-- The 32 bytes of continuation entry `i` (R93). -/
def contBytes (c : Compl) (seq i : Nat) : Bytes :=
  [byteOf 3, byteOf c.status] ++ natLe 2 seq ++ slice c.result (16 + 28 * i) 28

/-- The CQ entries of a completion, in order. -/
def complEntries (c : Compl) (seq : Nat) : List Bytes :=
  let n := cqEntries c.result.length
  complBytes c (seq % 65536) (n - 1) :: (List.range (n - 1)).map fun i => contBytes c ((seq + 1 + i) % 65536) i

/-- Whether every output write of the spikelets behind a completion has been answered. -/
def outsDone (s : State) (c : Compl) : Bool :=
  c.jobs.all fun j => match job? s j with | some x => x.steps.all fun t => t.outLeft == 0 | none => true

/-- Free a spikelet. -/
def freeJob (s : State) (j : Nat) : State := { s with jobs := SMap.erase s.jobs j }

/-- The completion record replaced or removed. -/
def setCompls (s : State) (l : List Compl) : State := { s with rch := { s.rch with compls := l } }

/-- Discard a completion of a FAULTED CQ (R105): counted, its entries to be given back, its spikelets free. -/
def discardCompl (s : State) (c : Compl) : State :=
  let s1 := incBy s (cqB c.cq) CQ.WRITTEN.DISCARDED (cqEntries c.result.length)
  let s2 := setCompls s1 (s1.rch.compls.filter fun d => d.cid != c.cid)
  settleAll (c.jobs.foldl freeJob (markEnts s2 c.sq c.covers fun _ => .gift)) c.sq

/-- Consecutive CQ entries that share a 64-byte line form one request: its completions, address and bytes (R96). -/
def lineGroups : List (Nat × Nat × Bytes) → List (List Nat × Nat × Bytes)
  | [] => []
  | (c, a, b) :: r =>
    match lineGroups r with
    | [] => [([c], a, b)]
    | (l, a2, b2) :: r2 =>
      if a2 = a + b.length ∧ lineOf a2 = lineOf a then ((if l.contains c then l else c :: l), a, b ++ b2) :: r2 else ([c], a, b) :: (l, a2, b2) :: r2

/-- The CQ entries of completions written one after another from index `pos` and sequence number `seq` on: completion, address, bytes. -/
def placeCompls (base depth : Nat) : List Compl → Nat → Nat → List (Nat × Nat × Bytes)
  | [], _, _ => []
  | c :: cs, pos, seq =>
    let es := complEntries c seq
    (es.mapIdx fun i e => (c.cid, base + 32 * ((pos + i) % depth), e)) ++ placeCompls base depth cs (pos + es.length) (seq + es.length)

/-- The leading completions of a list that go out together from index `pos` on: each after the first begins in the line in which the one
before it ends (R96). -/
def complRun (pos : Nat) : List Compl → List Compl
  | [] => []
  | c :: cs =>
    let p := pos + cqEntries c.result.length
    c :: (if p % 2 = 1 then complRun p cs else [])

/-- Completions presented: the ledger probe's entry among them ends the probe (R274, R509). -/
def probeDone (s : State) (cs : List Compl) : State :=
  if flag s (pg pPMU) PMU.PROBE_STAT.ARMED && cs.any fun c => c.covers.any fun e => s.probeEid == some e then
    let s1 := { stampKc s 7 with probeEid := none }
    setEvt (wr (wr (wr s1 (pg pPMU) PMU.PROBE_STAT.ARMED 0) (pg pPMU) PMU.PROBE_STAT.DONE 1) (pg pPMU) PMU.PROBE_CTL.ARM 0)
      pPMU PMU.EVT.PROBE_DONE
  else s

/-- Present completions of CQ `q`, whose entries follow one another (R26, R96, R98). -/
def postCompls (s : State) (q : Nat) (cs : List Compl) : State :=
  let b := cqB q
  let n := cs.foldl (fun m c => m + cqEntries c.result.length) 0
  let tail := rd s b CQ.STAT.TAIL
  let gs := lineGroups (placeCompls (cqBase s q) (cqDepth s q) cs tail (rd s b CQ.SEQ.NEXT))
  let s1 := wr (wr s b CQ.STAT.TAIL ((tail + n) % cqDepth s q)) b CQ.SEQ.NEXT (rd s b CQ.SEQ.NEXT + n)
  let s2 := incBy s1 b CQ.WRITTEN.COUNT n
  let s3 := incBy s2 (pg pRCH) RCH.COMPLETIONS.COUNT cs.length
  let s4 := pmu s3 0x04 (q % 16) n
  let mine := fun (d : Compl) => cs.any fun c => c.cid == d.cid
  let s5 := setCompls s4 (s4.rch.compls.map fun d =>
    if mine d then { d with posted := true, left := (gs.filter fun g => g.1.contains d.cid).length } else d)
  let s6 := gs.foldl (fun st g => writeReq st (q % 16) g.2.1 (rd s b CQ.CFG.PORT) true false false (.cqe g.1) g.2.2) s5
  probeDone s6 cs

/-- A CQ becomes FAULTED (R105): its ACTIVE SQs halt with detail 0x00A, and DRAINING ones latch it. -/
def faultCq (s : State) (c : Nat) : State :=
  if cqState s c = 1 then
    let s1 := chaffAny (setEvt (wr s (cqB c) CQ.STAT.STATE 2) pRCH RCH.EVT.CQ_FAULT) 0x15 0 0x601
    (sqsOfCq s c).foldl (fun st q => haltBare st q (rd st (sqB q) SQ.STAT.CURSOR) 0xA) s1
  else s

/-- The response to one write of a completion (R26, R105): an error faults the CQ at once, and the completion is discarded with its last
response. -/
def complAnswer (s : State) (cid : Nat) (err : Bool) : State :=
  match s.rch.compls.find? fun c => c.cid == cid with
  | none => s
  | some c =>
    let c1 := { c with left := c.left - 1, failed := c.failed || err }
    let s0 := setCompls s (s.rch.compls.map fun d => if d.cid == cid then c1 else d)
    let s1 := if err then faultCq s0 c.cq else s0
    if c1.left ≠ 0 then s1
    else if c1.failed then discardCompl s1 c1
    else
      let s2 := setCompls s1 (s1.rch.compls.filter fun d => d.cid != cid)
      let s3 := c.jobs.foldl freeJob (markEnts s2 c.sq c.covers fun _ => .answered)
      if flag s3 (cqB c.cq) CQ.CFG.VEC_EN then
        trigger s3 (rd s3 (cqB c.cq) CQ.CFG.VECTOR) (c.cq % 16) (rd s3 (cqB c.cq) CQ.CFG.PORT)
      else s3

/-! ### The scanner (R83 to R89, R148) -/

/-- The ring after `r` in a rising list, going round. -/
def roundRobin (r : Nat) (l : List Nat) : Option Nat :=
  match l.find? fun q => decide (r < q) with
  | some q => some q
  | none => l.head?

/-- The ring whose parked reads have arrived that has waited longest (R83, first rule). -/
def parkedReady (s : State) : Option Nat :=
  ((s.rch.sqs.filter fun p => match p.2.park with | some k => k.ready | none => false).foldl
    (fun acc p => match acc with
      | none => some (p.1, match p.2.park with | some k => k.stamp | none => 0)
      | some a => if (match p.2.park with | some k => k.stamp | none => 0) < a.2
          then some (p.1, match p.2.park with | some k => k.stamp | none => 0) else some a) none).map (·.1)

/-- The pending rings with EXPRESS as given that are not parked. -/
def pendingSqs (s : State) (x : Bool) : List Nat :=
  (liveSqs s).filter fun q => flag s (sqB q) SQ.STAT.SCAN_PENDING && sqState s q == 1
    && flag s (sqB q) SQ.CFG.EXPRESS == x && (sqx s q).park.isNone

/-- The ring that gets the next slot, and under which rule (R83, R148). -/
def grantSlot (s : State) : Option (Nat × Nat) :=
  let free := 1024 - s.rch.dq.length
  match parkedReady s with
  | some q => if 64 < free then some (q, 1) else
      (if 1 ≤ free then (roundRobin s.rch.rrX (pendingSqs s true)).map (·, 2) else none)
  | none =>
    match roundRobin s.rch.rrX (pendingSqs s true) with
    | some q => if 1 ≤ free then some (q, 2) else none
    | none => if 64 < free then (roundRobin s.rch.rrO (pendingSqs s false)).map (·, 3) else none

/-- Unit `i` of ring `q` as this visit reads it: from the stash buffer, or from lines its own reads brought (R84, R85). -/
def getUnit (s : State) (q i : Nat) : Option Bytes :=
  match (if stashOn s then stashLine s (unitAddr s q i) else none) with
  | some d => some d
  | none => match (sqx s q).park with
    | some k => SMap.get? k.lines i
    | none => none

/-- Count the lines of a visit that the stash buffer served (R110, R507). -/
def countLines (s : State) (q first n : Nat) : State :=
  let hits := ((List.range n).filter fun i => stashOn s && (stashLine s (unitAddr s q (first + i))).isSome).length
  pmu (incBy s (pg pRCH) RCH.STASH_HITS.COUNT hits) 5 0 hits

/-- Count `n` SQ lines that a visit reads from memory (R110, R507). -/
def countMisses (s : State) (n : Nat) : State :=
  pmu (incBy s (pg pRCH) RCH.STASH_MISSES.COUNT n) 6 0 n

/-- Park ring `q` on a read of units `first` to `first + n - 1` (R85): one request, or one for each 4 KiB page (R23). `tag` is the
entry's TAG when the visit has its header. -/
def parkOn (s : State) (q first n : Nat) (tag : Option Nat) : State :=
  let old := match (sqx s q).park with | some k => k.lines | none => []
  let v := s.rch.stamp
  let k : Park := { visit := v, tag, lines := old, missing := (List.range n).map (first + ·), need := n, ready := false, stamp := v,
                    failed := false, failAddr := 0 }
  let s0 := countMisses s n
  let s1 := setSqx { s0 with rch := { s0.rch with stamp := v + 1 } } q { sqx s0 q with park := some k }
  (cutRange (n + 1) (unitAddr s q first) (64 * n) 64 0).foldl (fun st c =>
    readReq st (sqCq s q % 16) (unitAddr s q first + c.1) c.2 (sqPort s q) true false (.sqLines q (first + c.1 / 64) (c.2 / 64) v)) s1

/-- Read what a visit lacks of the entry of `units` units at the cursor: four lines from its start first, and then those still absent
(R85). -/
def parkMissing (s : State) (q cur units : Nat) (tag : Nat) : State :=
  let lack := (List.range units).filter fun i => (getUnit s q (cur + i)).isNone
  if (sqx s q).park.isNone then parkOn s q cur (min 4 (sqDepth s q - cur)) (some tag)
  else
    let i := lack.head?.getD 0
    parkOn s q (cur + i) (lack.getLast?.getD i + 1 - i) (some tag)

/-- End a visit: the lines it collected are forgotten (R84). -/
def unpark (s : State) (q : Nat) : State := modSqx s q fun x => { x with park := none }

/-- Move the cursor past `units` units, wrapping at the depth (R86). -/
def advance (s : State) (q units : Nat) : State :=
  wr s (sqB q) SQ.STAT.CURSOR ((rd s (sqB q) SQ.STAT.CURSOR + units) % sqDepth s q)

/-- The entry at the cursor is whole and well formed: take it, and complete it at once or queue it for a spike (R86, R106). -/
def takeEntry (s : State) (q units h0 : Nat) (bytes : Bytes) : State :=
  let i := rd s (sqB q) SQ.STAT.CURSOR
  let cls := bitsAt h0 12 2
  let (e, s0) := addEnt s q i units false (cls == 0)
  let s1 := probeTake s0 q e
  let s2 := wr (advance (unpark s1 q) q units) (sqB q) SQ.STAT.SCAN_PENDING 1
  let s3 := joinBatch s2 q e (bitAt h0 14) (bitAt h0 15) (bitAt h0 16)
  let tag := h0 / 2 ^ 32
  let fail := fun (st det : Nat) => finishEntry s3 q e i tag { status := st, detail := det, loc := 0 } 0 [] false []
  let s4 := if locked s then fail 0x3F 0
    else if cls < (if sqPort s q = 0 then 0 else rd s (ptB (sqPort s q)) PT.CTL.CLASS_MIN) then fail 0x12 1
    else if cls = 0 ∧ ¬ flag s (sqB q) SQ.CFG.EXPRESS then fail 0x12 2
    else { s3 with rch := { s3.rch with dq := s3.rch.dq ++ [{ sq := q, eid := e, index := i, units, bytes, cls, peer := none, stay := false }] } }
  s4

/-- One visit of ring `q` (R86). SCAN_PENDING and FULL are cleared at its start: a parked visit that goes on leaves them, with any
doorbell that came meanwhile (R112). -/
def visit (s0 : State) (q : Nat) : State :=
  let s := if (sqx s0 q).park.isSome then s0
    else wr (wr (modSqx s0 q fun x => { x with waitReturn := false }) (sqB q) SQ.STAT.SCAN_PENDING 0) (sqB q) SQ.STAT.FULL 0
  let cur := rd s (sqB q) SQ.STAT.CURSOR
  let depth := sqDepth s q
  let free := depth - (sqx s q).span
  if sqState s q ≠ 1 then unpark s q
  else if free = 0 then wr (modSqx s q fun x => { x with park := none, waitReturn := true }) (sqB q) SQ.STAT.FULL 1
  else match getUnit s q cur with
    | none => parkOn s q cur (min 4 (depth - cur)) none
    | some h =>
      let h0 := leNat (slice h 0 8)
      let h1 := leNat (slice h 8 8)
      let units := bitsAt h0 1 4 + 1
      let steps := bitsAt h0 8 4
      let halt := fun (n d : Nat) => haltEntry (countLines s q cur n) q d (h0 / 2 ^ 32) 0
      if !bitAt h0 0 then unpark (countLines s q cur 1) q
      else if cur + units > depth then halt 1 1
      else if units > free then halt 1 7
      else if steps = 0 then
        if cur + units ≠ depth then halt 1 2
        else wr (advance (unpark (addEnt (countLines s q cur 1) q cur units true false).2 q) q units) (sqB q) SQ.STAT.SCAN_PENDING 1
      else if (List.range units).any fun i => (getUnit s q (cur + i)).isNone then parkMissing s q cur units (h0 / 2 ^ 32)
      else if (h0 &&& 0xFFFE00E0) ≠ 0 ∨ (h1 &&& 0xFC00F80000800000) ≠ 0 then halt units 3
      else if bitsAt h1 37 6 > 62 then halt units 6
      else if bitsAt h1 48 10 > 960 then halt units 5
      else if 16 * (1 + steps + bitsAt h1 37 6) + bitsAt h1 48 10 > 64 * units then halt units 4
      else takeEntry (countLines s q cur units) q units h0 ((List.range units).flatMap fun i => (getUnit s q (cur + i)).getD [])

/-- Whether the Rachis grants slots: ENABLED, or in the fatal lock, where it completes entries LOCKED (R106); not once the ports are
held idle (R16). -/
def scanning (s : State) : Bool := (ustate s pRCH == 2 || (locked s && ustate s pRCH == 6)) && !s.fab.idle

/-- SCAN_VISIT: the next slot goes to a ring, which is visited (R83, R86). -/
def scanFx (s : State) : State :=
  if scanning s && s.phase == .run then
    match grantSlot s with
    | some (q, r) =>
      let s1 := if r = 2 then { s with rch := { s.rch with rrX := q } } else if r = 3 then { s with rch := { s.rch with rrO := q } } else s
      visit s1 q
    | none => s
  else s

/-- A beat of an SQ read arrives (R85) for the visit that reads it; one of an earlier visit is not used (R84). An error halts the ring with
detail 0x008 (R102). -/
def sqBeat (s : State) (q v unit : Nat) (d : Bytes) (bad : Bool) (addr : Nat) : State :=
  match (sqx s q).park with
  | none => s
  | some k =>
    if k.visit ≠ v then s
    else if bad then
      if sqState s q = 1 then
        let tag := match k.tag, SMap.get? k.lines (rd s (sqB q) SQ.STAT.CURSOR) with
          | some t, _ => t
          | none, some h => leNat (slice h 4 4)
          | none, none => (Config.unreadTag s.freeCtr).toNat
        haltEntry { s with freeCtr := s.freeCtr + 1 } q 8 tag addr
      else unpark s q
    else
      let m := k.missing.erase unit
      setSqx { s with rch := { s.rch with stamp := s.rch.stamp + 1 } } q
        { sqx s q with park := some { k with lines := SMap.set k.lines unit d, missing := m, ready := m.isEmpty, stamp := s.rch.stamp } }

end Sys2Proof.Machine
end

