-- ==== Sys2Proof/Machine/Operands.lean ====
section
/-! DEFINITION. Every operand form of a chain: header, step descriptor, fragment descriptors, sources and outputs,
parameter blocks and lengths (R77, R78, R114 to R122), read from the bytes of an entry. -/

namespace Sys2Proof.Machine

/-! ### The entry -/

def entH0 (b : Bytes) : Nat := leNat (slice b 0 8)
def entH1 (b : Bytes) : Nat := leNat (slice b 8 8)
def entSteps (b : Bytes) : Nat := bitsAt (entH0 b) 8 4
def entFrags (b : Bytes) : Nat := bitsAt (entH1 b) 37 6
def entInlineLen (b : Bytes) : Nat := bitsAt (entH1 b) 48 10
def entTag (b : Bytes) : Nat := entH0 b / 2 ^ 32
def entInlineOut (b : Bytes) : Bool := bitAt (entH0 b) 16
def entGateEn (b : Bytes) : Bool := bitAt (entH1 b) 36
def entGate (b : Bytes) : Nat := bitsAt (entH1 b) 24 12
def entKeySlot (b : Bytes) : Nat := bitsAt (entH1 b) 0 23
/-- The inline payload (R78). -/
def entPayload (b : Bytes) : Bytes := slice b (16 * (1 + entSteps b + entFrags b)) (entInlineLen b)

/-! ### Step descriptors (R114) -/

/-- A step descriptor's two words. -/
structure Desc where
  d0 : Nat
  d1 : Nat
deriving DecidableEq, Repr

def descAt (b : Bytes) (k : Nat) : Desc :=
  { d0 := leNat (slice b (16 * (1 + k)) 8), d1 := leNat (slice b (16 * (1 + k) + 8) 8) }
def Desc.op (d : Desc) : Nat := bitsAt d.d0 0 8
def Desc.inC (d : Desc) : Nat := bitsAt d.d0 8 3
def Desc.inStep (d : Desc) : Nat := bitsAt d.d0 11 3
def Desc.outC (d : Desc) : Nat := bitsAt d.d0 14 3
def Desc.keyHdr (d : Desc) : Bool := bitAt d.d0 17
def Desc.verifyOnly (d : Desc) : Bool := bitAt d.d0 18
def Desc.zeroFill (d : Desc) : Bool := bitAt d.d0 19
def Desc.pOff (d : Desc) : Nat := bitsAt d.d0 24 6
def Desc.pUnits (d : Desc) : Nat := bitsAt d.d0 32 6
def Desc.inFirst (d : Desc) : Nat := bitsAt d.d1 0 6
def Desc.inCount (d : Desc) : Nat := bitsAt d.d1 6 6
def Desc.outFirst (d : Desc) : Nat := bitsAt d.d1 12 6
def Desc.outCount (d : Desc) : Nat := bitsAt d.d1 18 6
def Desc.len (d : Desc) : Nat := d.d1 / 2 ^ 32
/-- Whether a reserved bit of the descriptor is set. -/
def Desc.rzBad (d : Desc) : Bool :=
  bitsAt d.d0 20 4 != 0 || bitsAt d.d0 30 2 != 0 || d.d0 / 2 ^ 38 != 0 || bitsAt d.d1 24 8 != 0

/-- IN codes (R114, R115). -/
def inFRAGS : Nat := 0
def inINLINE : Nat := 1
def inSTREAM : Nat := 2
def inBIN : Nat := 3
def inTEE : Nat := 4
def inNONE : Nat := 5
/-- OUT codes (R114, R115). -/
def outNONE : Nat := 0
def outFRAGS : Nat := 1
def outINLINE : Nat := 2
def outSTREAM : Nat := 3
def outBIN : Nat := 4
def outFRAGSSTREAM : Nat := 5

/-- Whether an OUT code writes fragments. -/
def outToFrags (o : Nat) : Bool := o == outFRAGS || o == outFRAGSSTREAM
/-- Whether an OUT code feeds a stream. -/
def outToStream (o : Nat) : Bool := o == outSTREAM || o == outFRAGSSTREAM

/-! ### Fragments (R79, R118, R119) -/

/-- A fragment descriptor. -/
structure FragDesc where
  addr : Nat
  len : Nat
  flags : Nat
deriving DecidableEq, Repr

/-- A fragment descriptor from its 16 bytes. -/
def fragOf (b : Bytes) : FragDesc := { addr := leNat (slice b 0 8), len := leNat (slice b 8 4), flags := leNat (slice b 12 4) }
def fragAt (b : Bytes) (j : Nat) : FragDesc := fragOf (slice b (16 * (1 + entSteps b + j)) 16)
def FragDesc.chain (f : FragDesc) : Bool := bitAt f.flags 0
def FragDesc.single (f : FragDesc) : Bool := bitAt f.flags 1

/-- The fragment descriptors `first` to `first + n - 1` that the entry has. -/
def fragRange (b : Bytes) (first n : Nat) : List FragDesc :=
  ((List.range n).map (first + ·)).filterMap fun j => if j < entFrags b then some (fragAt b j) else none

/-- The descriptors of a step's input and output ranges. -/
def stepFrags (b : Bytes) (d : Desc) : List FragDesc :=
  (if d.inC = inFRAGS then fragRange b d.inFirst d.inCount else []) ++
  (if outToFrags d.outC then fragRange b d.outFirst d.outCount else [])

/-- A CHAIN descriptor with a misaligned table or a table of bad length (R119). -/
def tableBad (f : FragDesc) : Bool := f.chain && (f.addr % 16 != 0 || f.len % 16 != 0 || decide (f.len < 16) || decide (2 ^ 20 < f.len))

/-- A range whose CHAIN descriptors are not placed as R119 demands: CHAIN only last, its table well formed. -/
def placementBad : List FragDesc → Bool
  | [] => false
  | [f] => tableBad f
  | f :: fs => f.chain || placementBad fs

/-- The bytes a range without CHAIN holds; none when a CHAIN descriptor leaves it unknown. -/
def rangeLen (fs : List FragDesc) : Option Nat := if fs.any FragDesc.chain then none else some (fs.foldl (fun n f => n + f.len) 0)

/-! ### Parameter blocks (R121) -/

/-- A step's parameter block as supplied. -/
def paramBlock (b : Bytes) (d : Desc) : Bytes := slice (entPayload b) (16 * d.pOff) (16 * d.pUnits)

/-- Field of a block: `n` bytes from `off`, reading 0 beyond the supplied length. -/
def pfield (p : Bytes) (off n : Nat) : Nat := leNat (slice p off n)

/-- The relative key slot a keyed step uses (R121). -/
def keySlotOf (b : Bytes) (d : Desc) : Nat :=
  if d.pUnits = 0 || d.keyHdr then entKeySlot b else pfield (paramBlock b d) 0 4 % 2 ^ 23

/-! ### The catalogue -/

def isAes (op : Nat) : Bool := decide (0x10 ≤ op ∧ op ≤ 0x1A)
def isDigest (op : Nat) : Bool := decide (0x20 ≤ op ∧ op ≤ 0x2B)
def isHmac (op : Nat) : Bool := decide (0x29 ≤ op ∧ op ≤ 0x2B)
def isArith (op : Nat) : Bool := decide (0x30 ≤ op ∧ op ≤ 0x3E)
def isLattice (op : Nat) : Bool := decide (0x39 ≤ op ∧ op ≤ 0x3E)
def isRng (op : Nat) : Bool := op == 0x40 || op == 0x41
def isKeyOp (op : Nat) : Bool := decide (0x50 ≤ op ∧ op ≤ 0x56)
/-- Whether an opcode is in the catalogue (R131 to R143). -/
def inCatalogue (op : Nat) : Bool :=
  op == 0 || isAes op || isDigest op || op == 0x2F || isArith op || isRng op || isKeyOp op || decide (0x60 ≤ op ∧ op ≤ 0x63)

/-- Whether an operation accepts an IN and an OUT code (R131, R134, R137 to R143, R311). Where R141 and R143 give an output and no code,
every OUT code is accepted, NONE too (DESIGN CHOICE, log entry 63). -/
def opAccepts (op i o : Nat) (vo : Bool) : Bool :=
  if op = 0x00 then i == inNONE && o == outNONE
  else if op = 0x60 then (i == inFRAGS || i == inINLINE || i == inBIN || i == inTEE || i == inNONE) && (o == outSTREAM || o == outBIN)
  else if op = 0x61 then i != inNONE && o != outNONE
  else if op = 0x62 then i == inNONE && (o == outFRAGS || o == outSTREAM || o == outBIN || o == outFRAGSSTREAM)
  else if op = 0x63 then i != inNONE && (o == outNONE || o == outINLINE || o == outBIN)
  else if isAes op then i != inNONE && (o != outNONE || vo)
  else if isDigest op || op == 0x2F then i != inNONE
  else if isArith op then
    (if op = 0x3B then i == inNONE else i == inFRAGS || i == inINLINE || i == inBIN || i == inTEE) && o != outNONE
  else if op = 0x40 then true
  else if op = 0x41 then o == outNONE
  else if op = 0x51 then i != inNONE && o == outNONE
  else if op = 0x52 ∨ op = 0x56 then i == inNONE
  else i == inNONE && o == outNONE

/-! ### Lengths -/

/-- Digest length of a digest operation in bytes; SHAKE's default lengths (R136). -/
def digestLen (op : Nat) : Nat :=
  if op = 0x20 ∨ op = 0x24 ∨ op = 0x29 then 32 else if op = 0x21 then 28 else if op = 0x22 ∨ op = 0x25 ∨ op = 0x2A then 48
  else if op = 0x23 ∨ op = 0x26 ∨ op = 0x2B then 64 else if op = 0x27 then 32 else 64

/-- Field size in bytes of a prime curve (R139). -/
def curveBytes (set : Nat) : Nat := if set = 1 then 32 else if set = 2 then 48 else if set = 3 then 66 else 32

/-- The size in bytes of a lattice set's objects: (ek, dk, c) for ML-KEM and (pk, sk, signature) for ML-DSA (FIPS 203, FIPS 204). -/
def latticeSizes (set : Nat) : Nat × Nat × Nat :=
  if set = 0x20 then (800, 1632, 768) else if set = 0x21 then (1184, 2400, 1088) else if set = 0x22 then (1568, 3168, 1568)
  else if set = 0x30 then (1312, 2560, 2420) else if set = 0x31 then (1952, 4032, 3309) else (2592, 4896, 4627)

/-- AES block fields (R133). -/
structure AesBlk where
  flags : Nat
  piFmt : Nat
  tagLen : Nat
  ivLen : Nat
  duBytes : Nat
  aadLen : Nat
  iv : Bytes
  tag : Bytes
deriving DecidableEq, Repr

def aesBlk (p : Bytes) : AesBlk :=
  { flags := pfield p 4 1, piFmt := pfield p 5 1, tagLen := pfield p 6 1, ivLen := pfield p 7 1, duBytes := pfield p 8 4,
    aadLen := pfield p 12 4, iv := slice p 16 16, tag := slice p 32 16 }
def AesBlk.decrypt (a : AesBlk) : Bool := bitAt a.flags 0
def AesBlk.piGen (a : AesBlk) : Bool := bitAt a.flags 1
def AesBlk.piCheck (a : AesBlk) : Bool := bitAt a.flags 2
def AesBlk.tagInBlock (a : AesBlk) : Bool := bitAt a.flags 3
def AesBlk.ivGen (a : AesBlk) : Bool := bitAt a.flags 4
def AesBlk.ivInInput (a : AesBlk) : Bool := bitAt a.flags 5

/-- IV bytes a step uses (R135): CBC and CTR take 16, GCM-SIV 12. -/
def AesBlk.ivBytes (a : AesBlk) (op : Nat) : Nat := if op = 0x11 ∨ op = 0x12 then 16 else if op = 0x17 then 12 else a.ivLen

/-- Bytes of protection information in a unit (R202). -/
def piBytes (fmt : Nat) : Nat := if fmt = 0 then 0 else if fmt = 3 then 64 else 8

/-- Output length of an AES step for an input of `n` bytes (R134, R196, R205). -/
def aesOutLen (op : Nat) (a : AesBlk) (vo : Bool) (n : Nat) : Nat :=
  let iv := a.ivBytes op
  let lead := (if a.ivInInput then iv else 0) + (if op = 0x14 ∨ op = 0x16 ∨ op = 0x17 then a.aadLen else 0)
  let body := n - lead
  if vo then 0
  else if op = 0x10 ∨ op = 0x13 then n
  else if op = 0x11 ∨ op = 0x12 then (n - (if a.ivInInput then iv else 0)) + (if a.ivGen then iv else 0)
  else if op = 0x14 ∨ op = 0x16 ∨ op = 0x17 then
    if a.duBytes ≠ 0 ∧ op = 0x14 then
      if a.decrypt then
        let per := a.duBytes + a.tagLen
        body - (max 1 (ceilDiv body per)) * a.tagLen
      else body + (max 1 (ceilDiv body a.duBytes)) * a.tagLen + (if a.ivGen then iv else 0)
    else if a.decrypt then body - (if a.tagInBlock then 0 else a.tagLen)
    else body + a.tagLen + (if a.ivGen then iv else 0)
  else if op = 0x15 then if a.decrypt then 8 else a.tagLen + (if a.ivGen then iv else 0)
  else if op = 0x18 then if a.decrypt then 8 else a.tagLen
  else if op = 0x19 then if a.decrypt then n - 8 else n + 8
  else if a.decrypt then n - 8 else ceilDiv n 8 * 8 + 8

/-- Output length of an arithmetic step (R140). -/
def arithOutLen (op : Nat) (p : Bytes) : Nat :=
  let bits := pfield p 0 2
  let set := pfield p 2 1
  let z := latticeSizes set
  if op = 0x30 then bits / 4 + 8
  else if op = 0x31 ∨ op = 0x32 then bits / 8
  else if op = 0x33 then 2 * curveBytes set
  else if op = 0x34 ∨ op = 0x37 ∨ op = 0x3D then 8
  else if op = 0x35 then curveBytes set
  else if op = 0x36 then 64
  else if op = 0x38 then 32
  else if op = 0x39 then z.2.2 + 32
  else if op = 0x3A then 32
  else if op = 0x3B then z.1 + (if bitAt (pfield p 3 1) 1 then z.2.1 + 44 else z.2.1)
  else if op = 0x3C then z.2.2
  else 1024

/-- The descriptor that IN_STEP names, a TEE of a TEE resolved to its source (R116); `fuel` bounds the steps. -/
def sourceStep : Nat → Bytes → Nat → Nat
  | 0, _, k => k
  | fuel + 1, b, k =>
    let d := descAt b k
    let t := d.inStep
    if d.inC = inTEE ∧ (descAt b t).inC = inTEE then sourceStep fuel b t else t

mutual
/-- Bytes a step takes as input, when validation knows it (R115, R120, R122): `fuel` bounds the steps looked through. -/
def inLen : Nat → Bytes → Nat → Option Nat
  | 0, _, _ => none
  | fuel + 1, b, k =>
    let d := descAt b k
    let src : Option Nat :=
      if d.inC = inFRAGS then rangeLen (fragRange b d.inFirst d.inCount)
      else if d.inC = inINLINE then some (entInlineLen b - 16 * d.inFirst)
      else if d.inC = inTEE then inLen fuel b (sourceStep 8 b k)
      else if d.inC = inSTREAM ∨ d.inC = inBIN then outLen fuel b d.inStep
      else some 0
    if d.len ≠ 0 then some d.len else src
/-- Bytes a step puts out, when validation knows it. -/
def outLen : Nat → Bytes → Nat → Option Nat
  | 0, _, _ => none
  | fuel + 1, b, k =>
    let d := descAt b k
    let p := paramBlock b d
    if d.op = 0x62 then some (pfield p 8 4)
    else if d.op = 0x60 then none
    else if d.op = 0x63 then some 8
    else if isDigest d.op then
      some (if bitAt (pfield p 4 1) 0 then 8 else if pfield p 8 4 = 0 then digestLen d.op else pfield p 8 4)
    else if d.op = 0x2F then some 64
    else if isArith d.op then some (arithOutLen d.op p)
    else if d.op = 0x40 then some (pfield p 0 4)
    else if d.op = 0x52 then some 256
    else if d.op = 0x56 then some 16
    else if d.op = 0x61 then inLen fuel b k
    else if isAes d.op then (inLen fuel b k).map (aesOutLen d.op (aesBlk p) d.verifyOnly)
    else some 0
end

/-- Fuel for `inLen` and `outLen`: a chain has at most 8 steps. -/
def lenFuel : Nat := 20

/-- Whether an AES step holds output or input until it is proven (R122, R211): the bytes it holds are its input's. -/
def holdsInput (op : Nat) (a : AesBlk) : Bool :=
  (a.decrypt && (op == 0x14 || op == 0x15 || op == 0x16 || op == 0x17)) || (op == 0x17 && !a.decrypt)

/-- Bins a step needs (R122): nothing for IN = INLINE, 64 where a length that it holds is not known at validation. A step that holds both
its input and its output holds each in bins of its own (DESIGN CHOICE, log entry 63). -/
def stepBins (b : Bytes) (k : Nat) : Nat :=
  let d := descAt b k
  let held := (if d.outC = outBIN then [outLen lenFuel b k] else []) ++
    (if isAes d.op && holdsInput d.op (aesBlk (paramBlock b d)) then [inLen lenFuel b k] else [])
  if d.inC = inINLINE then 0
  else if held.any Option.isNone then 64
  else held.foldl (fun n m => n + ceilDiv (m.getD 0) 4096) 0

/-- Bins a chain needs. -/
def chainBins (b : Bytes) : Nat := (List.range (entSteps b)).foldl (fun n k => n + stepBins b k) 0

end Sys2Proof.Machine
end

