-- ==== Sys2Proof/Machine/Modes.lean ====
section
/-! DEFINITION. The modes of the Spelt lanes (R196 to R210), the key derivation of R235, and the CTR_DRBG of Teff's
expanders, over the AES block cipher. -/

namespace Sys2Proof.Machine

/-- The result of an operation: how it ends, and its output when it ends OK. -/
structure OpRes where
  v : Verdict
  out : Bytes
deriving DecidableEq, Repr

/-- An operation that ends OK with an output. -/
def okRes (b : Bytes) : OpRes := { v := { status := 0, detail := 0, loc := 0 }, out := b }

/-- An operation that fails. -/
def failRes (st det loc : Nat) : OpRes := { v := { status := st, detail := det, loc := loc }, out := [] }

/-- The compare pair of a match (R132). -/
def pairMatch : Bytes := natLe 4 0x6B3D94C2 ++ natLe 4 0x94C26B3D

/-- The compare pair of a difference (R132). -/
def pairDiffer : Bytes := zeros 8

/-! ### Confidentiality modes -/

def ecb (rks : List Bytes) (dec : Bool) (bs : Bytes) : Bytes :=
  (chunks 16 bs).flatMap (if dec then aesDecRk rks else aesEncRk rks)

/-- CBC encryption, block by block (R198). -/
def cbcEnc (rks : List Bytes) : Bytes → List Bytes → Bytes
  | _, [] => []
  | iv, p :: ps => let c := aesEncRk rks (xorBytes p iv); c ++ cbcEnc rks c ps

def cbcDec (rks : List Bytes) : Bytes → List Bytes → Bytes
  | _, [] => []
  | iv, c :: cs => xorBytes (aesDecRk rks c) iv ++ cbcDec rks c cs

/-- The exclusive-or of a text with the keystream of counter blocks from `ctr`, with `next` giving the counter after. -/
def ctrXor (rks : List Bytes) (next : Bytes → Bytes) : Bytes → List Bytes → Bytes
  | _, [] => []
  | c, p :: ps => xorBytes p (aesEncRk rks c) ++ ctrXor rks next (next c) ps

/-- The counter of CTR: plus one, 128-bit big-endian (R199). -/
def inc128 (c : Bytes) : Bytes := natBe 16 (beNat c + 1)

/-- The counter of GCM: plus one in the last 32 bits, big-endian (R204). -/
def inc32 (c : Bytes) : Bytes := c.take 12 ++ natBe 4 (beNat (c.drop 12) + 1)

/-- The counter of GCM-SIV: plus one in the first 32 bits, little-endian (R207). -/
def incLe32 (c : Bytes) : Bytes := natLe 4 (leNat (c.take 4) + 1) ++ c.drop 4

/-! ### GCM and GMAC (R204, R205) -/

/-- The first counter block J0. -/
def gcmJ0 (h : Nat) (iv : Bytes) : Bytes :=
  if iv.length = 12 then iv ++ [0, 0, 0, 1] else natBe 16 (ghash h (pad16 iv ++ natBe 16 (8 * iv.length)))

/-- The full tag over AAD and ciphertext. -/
def gcmTag (rks : List Bytes) (iv aad ct : Bytes) : Bytes :=
  let h := beNat (aesEncRk rks (zeros 16))
  xorBytes (aesEncRk rks (gcmJ0 h iv)) (natBe 16 (ghash h (pad16 aad ++ pad16 ct ++ natBe 8 (8 * aad.length) ++ natBe 8 (8 * ct.length))))

/-- The counter pass. -/
def gcmCrypt (rks : List Bytes) (iv t : Bytes) : Bytes :=
  ctrXor rks inc32 (inc32 (gcmJ0 (beNat (aesEncRk rks (zeros 16))) iv)) (chunks 16 t)

/-- Encrypt: ciphertext and tag. -/
def gcmSeal (key iv aad pt : Bytes) (tl : Nat) : Bytes :=
  let rks := roundKeys key
  let ct := gcmCrypt rks iv pt
  ct ++ (gcmTag rks iv aad ct).take tl

/-- Decrypt: the plaintext when the tag verifies. -/
def gcmOpen (key iv aad ct tag : Bytes) : Option Bytes :=
  let rks := roundKeys key
  if (gcmTag rks iv aad ct).take tag.length = tag then some (gcmCrypt rks iv ct) else none

/-- The IV of data unit `i` (R205). -/
def unitIv (iv : Bytes) (i : Nat) : Bytes := iv.take 8 ++ natBe 4 (beNat (slice iv 8 4) + i)

/-- The units of a text: at least one, the last possibly shorter. -/
def unitsOf (n : Nat) (t : Bytes) : List Bytes := if t.isEmpty then [[]] else chunks n t

/-- Verify and decrypt units, stopping at the first that fails: its number, or the plaintext. -/
def gcmOpenUnits (key iv aad : Bytes) (tl : Nat) : Nat → List Bytes → Except Nat Bytes
  | _, [] => .ok []
  | i, u :: us =>
    match gcmOpen key (unitIv iv i) aad (u.take (u.length - tl)) (u.drop (u.length - tl)) with
    | none => .error i
    | some p => match gcmOpenUnits key iv aad tl (i + 1) us with
      | .ok r => .ok (p ++ r)
      | .error j => .error j

/-! ### CCM (R206) -/

/-- CBC-MAC over whole blocks. -/
def cbcMac (rks : List Bytes) (bs : Bytes) : Bytes := (chunks 16 bs).foldl (fun c b => aesEncRk rks (xorBytes c b)) (zeros 16)

/-- The formatted AAD (R206). -/
def ccmAad (aad : Bytes) : Bytes :=
  if aad.isEmpty then []
  else pad16 ((if aad.length < 0xFF00 then natBe 2 aad.length else [0xFF, 0xFE] ++ natBe 4 aad.length) ++ aad)

def ccmTag (rks : List Bytes) (n aad pt : Bytes) (tl : Nat) : Bytes :=
  let q := 15 - n.length
  let b0 := byteOf (64 * bit (!aad.isEmpty) + 8 * ((tl - 2) / 2) + (q - 1)) :: n ++ natBe q pt.length
  let mac := cbcMac rks (b0 ++ ccmAad aad ++ pad16 pt)
  (xorBytes mac (aesEncRk rks (byteOf (q - 1) :: n ++ zeros q))).take tl

def ccmCrypt (rks : List Bytes) (n t : Bytes) : Bytes :=
  ctrXor rks inc128 (byteOf (14 - n.length) :: n ++ natBe (15 - n.length) 1) (chunks 16 t)

/-! ### GCM-SIV (R207) -/

/-- The message-authentication and encryption keys derived from the slot key. -/
def sivKeys (key n : Bytes) : Bytes × Bytes :=
  let rks := roundKeys key
  let half := fun (i : Nat) => (aesEncRk rks (natLe 4 i ++ n)).take 8
  (half 0 ++ half 1, (List.range (key.length / 8)).flatMap fun i => half (2 + i))

def sivTag (ks : Bytes × Bytes) (n aad pt : Bytes) : Bytes :=
  let s := polyval ks.1 (pad16 aad ++ pad16 pt ++ natLe 8 (8 * aad.length) ++ natLe 8 (8 * pt.length))
  let x := xorBytes (s.take 12) n ++ s.drop 12
  aesEnc ks.2 (x.take 15 ++ [x.getD 15 0 &&& 0x7F])

def sivCrypt (ks : Bytes × Bytes) (tag t : Bytes) : Bytes :=
  ctrXor (roundKeys ks.2) incLe32 (tag.take 15 ++ [tag.getD 15 0 ||| 0x80]) (chunks 16 t)

/-! ### CMAC (R208) and the derivation of R235 -/

def cmacSub (key : Bytes) : Nat := cmacDbl (beNat (aesEncRk (roundKeys key) (zeros 16)))

/-- CMAC with its first subkey given, from which the second follows. -/
def cmacWith (rks : List Bytes) (k1 k2 : Nat) (bs : Bytes) : Bytes :=
  let whole := bs.length % 16 = 0 ∧ bs.length ≠ 0
  let head := bs.take ((ceilDiv bs.length 16 - 1) * 16)
  let last := bs.drop ((ceilDiv bs.length 16 - 1) * 16)
  let l := if whole then xorBytes last (natBe 16 k1)
    else xorBytes (last ++ [0x80] ++ zeros (15 - last.length)) (natBe 16 k2)
  cbcMac rks (head ++ l)

/-- CMAC (R208). -/
def cmac (key bs : Bytes) : Bytes := cmacWith (roundKeys key) (cmacSub key) (cmacDbl (cmacSub key)) bs

/-- The counter-mode KDF of SP 800-108 with CMAC: `n` blocks, the fixed input of counter i given by `fid`. -/
def kdf (key : Bytes) (fid : Nat → Bytes) (len : Nat) : Bytes :=
  ((List.range (ceilDiv len 16)).flatMap fun i => cmac key (fid (i + 1))).take len

/-- The same with the CMAC subkeys of the key computed before (R229). -/
def kdfWith (key : Bytes) (k1 k2 : Nat) (fid : Nat → Bytes) (len : Nat) : Bytes :=
  ((List.range (ceilDiv len 16)).flatMap fun i => cmacWith (roundKeys key) k1 k2 (fid (i + 1))).take len

/-! ### KW and KWP (R209) -/

/-- The wrapping steps of RFC 3394: register A, the semiblocks, `t` counting on. -/
def kwPass (rks : List Bytes) : Bytes → Nat → List Bytes → Bytes × List Bytes
  | a, _, [] => (a, [])
  | a, t, r :: rs =>
    let b := aesEncRk rks (a ++ r)
    let (a2, l) := kwPass rks (xorBytes (b.take 8) (natBe 8 t)) (t + 1) rs
    (a2, b.drop 8 :: l)

def kwWrapIv (key iv pt : Bytes) : Bytes :=
  let rks := roundKeys key
  let rs := chunks 8 pt
  let n := rs.length
  let (a, l) := (List.range 6).foldl (fun (x : Bytes × List Bytes) j => kwPass rks x.1 (n * j + 1) x.2) (iv, rs)
  a ++ l.flatten

/-- The unwrapping steps over the semiblocks from last to first, `t` counting down. -/
def kwBack (rks : List Bytes) : Bytes → Nat → List Bytes → Bytes × List Bytes
  | a, _, [] => (a, [])
  | a, t, r :: rs =>
    let b := aesDecRk rks (xorBytes a (natBe 8 t) ++ r)
    let (a2, l) := kwBack rks (b.take 8) (t - 1) rs
    (a2, b.drop 8 :: l)

/-- Unwrap: the integrity register and the plaintext. -/
def kwUnwrapIv (key ct : Bytes) : Bytes × Bytes :=
  let rks := roundKeys key
  let rs := (chunks 8 (ct.drop 8)).reverse
  let n := rs.length
  let (a, l) := (List.range 6).foldl (fun (x : Bytes × List Bytes) j => kwBack rks x.1 (n * (6 - j)) x.2) (ct.take 8, rs)
  (a, l.reverse.flatten)

def kwIv : Bytes := List.replicate 8 0xA6

def kwpWrap (key pt : Bytes) : Bytes :=
  let iv := natBe 4 0xA65959A6 ++ natBe 4 pt.length
  let p := pt ++ zeros ((8 - pt.length % 8) % 8)
  if p.length ≤ 8 then aesEnc key (iv ++ p) else kwWrapIv key iv p

def kwpUnwrap (key ct : Bytes) : Option Bytes :=
  let (a, p) := if ct.length = 16 then let b := aesDec key ct; (b.take 8, b.drop 8) else kwUnwrapIv key ct
  let n := beNat (a.drop 4)
  if a.take 4 = natBe 4 0xA65959A6 ∧ n ≤ p.length ∧ p.length < n + 8 ∧ (p.drop n).all (· == 0) then some (p.take n) else none

/-! ### XTS (R200 to R203) -/

/-- One XTS block. -/
def xtsBlock (rks : List Bytes) (dec : Bool) (t : Nat) (b : Bytes) : Bytes :=
  let tw := natLe 16 t
  xorBytes ((if dec then aesDecRk rks else aesEncRk rks) (xorBytes b tw)) tw

/-- The blocks of a unit with their tweaks; a last partial block takes ciphertext from the block before it (R201). -/
def xtsBlocks (rks : List Bytes) (dec : Bool) : Nat → List Bytes → Bytes
  | _, [] => []
  | t, [b] => xtsBlock rks dec t b
  | t, b :: p :: bs =>
    if p.length < 16 ∧ bs.isEmpty then
      let t1 := if dec then xtsDbl t else t
      let t2 := if dec then t else xtsDbl t
      let cc := xtsBlock rks dec t1 b
      xtsBlock rks dec t2 (p ++ cc.drop p.length) ++ cc.take p.length
    else xtsBlock rks dec t b ++ xtsBlocks rks dec (xtsDbl t) (p :: bs)

/-- One data unit under number `n`. -/
def xtsUnit (r1 r2 : List Bytes) (dec : Bool) (n : Nat) (u : Bytes) : Bytes :=
  xtsBlocks r1 dec (leNat (aesEncRk r2 (natLe 16 n))) (chunks 16 u)

/-- Where the PI tuple stands in a unit (R202). -/
def piPos (fmt du : Nat) : Nat := if fmt = 3 then du + 56 else du

/-- The units of an XTS step; the first guard mismatch stops it with the unit's number (R203). -/
def xtsUnits (r1 r2 : List Bytes) (a : AesBlk) : Nat → List Bytes → Except (Nat × Bytes) Bytes
  | _, [] => .ok []
  | n, u :: us =>
    let fmt := bitsAt a.piFmt 0 2
    let pos := piPos fmt a.duBytes
    let guardOk := fun (x : Bytes) => slice x pos 2 == natBe 2 (crcT10 (x.take a.duBytes))
    let u1 := if a.piGen then patch u pos (natBe 2 (crcT10 (u.take a.duBytes))) else u
    let o := xtsUnit r1 r2 a.decrypt n u1
    if a.piCheck && !guardOk (if a.decrypt then o else u) then .error (n, [])
    else match xtsUnits r1 r2 a ((n + 1) % 2 ^ 128) us with
      | .ok r => .ok (o ++ r)
      | .error e => .error (e.1, o ++ e.2)

/-! ### A whole AES step (R196) -/

/-- An AES step on its whole input: `key` is the slot's material, `iv0` the generated IV when IV_GEN is set. Lengths that
validation could not check give PARAM here (R135, R196, R197). -/
def aesStep (op : Nat) (a : AesBlk) (vo : Bool) (key iv0 inp : Bytes) : OpRes :=
  let ivn := a.ivBytes op
  let lead := if a.ivInInput then ivn else 0
  let aadN := if op = 0x14 ∨ op = 0x16 ∨ op = 0x17 then a.aadLen else 0
  let iv := if a.ivGen then iv0 else if a.ivInInput then inp.take ivn else a.iv.take ivn
  let rks := roundKeys key
  let ivOut := if a.ivGen then iv0 else []
  let body := inp.drop lead
  let aad := body.take aadN
  let rest := body.drop aadN
  let tagN := if a.tagInBlock then 0 else a.tagLen
  let cut := fun (x : Bytes) => (x.take (x.length - tagN), if a.tagInBlock then a.tag.take a.tagLen else x.drop (x.length - tagN))
  if inp.length < lead + aadN then failRes 0x12 0x10 0
  else if op = 0x10 then
    if inp.length % 16 ≠ 0 ∨ inp.isEmpty then failRes 0x12 0x10 0 else okRes (ecb rks a.decrypt inp)
  else if op = 0x11 then
    if body.length % 16 ≠ 0 ∨ body.isEmpty then failRes 0x12 0x10 0
    else okRes (ivOut ++ (if a.decrypt then cbcDec rks iv (chunks 16 body) else cbcEnc rks iv (chunks 16 body)))
  else if op = 0x12 then
    if body.isEmpty then failRes 0x12 0x10 0 else okRes (ivOut ++ ctrXor rks inc128 iv (chunks 16 body))
  else if op = 0x13 then
    let un := a.duBytes + piBytes (bitsAt a.piFmt 0 2)
    if inp.isEmpty ∨ un = 0 ∨ inp.length % un ≠ 0 then failRes 0x12 0x13 0
    else
      let h := key.length / 2
      match xtsUnits (roundKeys (key.take h)) (roundKeys (key.drop h)) a (leNat a.iv) (chunks un inp) with
      | .ok o => okRes (if vo then [] else o)
      | .error e => { v := { status := 0x04, detail := 0, loc := e.1 % 2 ^ 64 }, out := if vo then [] else e.2 }
  else if op = 0x14 then
    if a.duBytes = 0 then
      if a.decrypt then
        if rest.length < tagN then failRes 0x12 0x10 0
        else match gcmOpen key iv aad (cut rest).1 (cut rest).2 with
          | some p => okRes (if vo then [] else p)
          | none => failRes 0x02 0 0
      else okRes (ivOut ++ gcmSeal key iv aad rest a.tagLen)
    else if a.decrypt then
      if rest.length < a.tagLen ∨ ((chunks (a.duBytes + a.tagLen) rest).getLast?.getD []).length < a.tagLen then failRes 0x12 0x10 0
      else match gcmOpenUnits key iv aad a.tagLen 0 (chunks (a.duBytes + a.tagLen) rest) with
        | .ok p => okRes (if vo then [] else p)
        | .error i => failRes 0x02 0 i
    else okRes (ivOut ++ ((unitsOf a.duBytes rest).mapIdx fun i u => gcmSeal key (unitIv iv i) aad u a.tagLen).flatten)
  else if op = 0x15 then
    if a.decrypt then
      if body.length < tagN + 1 then failRes 0x12 0x10 0
      else if (gcmTag rks iv (cut body).1 []).take a.tagLen = (cut body).2 then okRes pairMatch else failRes 0x02 0 0
    else if body.isEmpty then failRes 0x12 0x10 0
    else okRes (ivOut ++ (gcmTag rks iv body []).take a.tagLen)
  else if op = 0x16 then
    if a.decrypt then
      if rest.length < tagN then failRes 0x12 0x10 0
      else
        let p := ccmCrypt rks iv (cut rest).1
        if (cut rest).1.length ≥ 256 ^ (15 - iv.length) then failRes 0x12 0x10 0
        else if ccmTag rks iv aad p a.tagLen = (cut rest).2 then okRes (if vo then [] else p) else failRes 0x02 0 0
    else if rest.length ≥ 256 ^ (15 - iv.length) then failRes 0x12 0x10 0
    else okRes (ivOut ++ ccmCrypt rks iv rest ++ ccmTag rks iv aad rest a.tagLen)
  else if op = 0x17 then
    let ks := sivKeys key iv
    if 262144 < aad.length + rest.length then failRes 0x12 0x10 0
    else if a.decrypt then
      if rest.length < tagN then failRes 0x12 0x10 0
      else
        let p := sivCrypt ks (cut rest).2 (cut rest).1
        if sivTag ks iv aad p = (cut rest).2 then okRes (if vo then [] else p) else failRes 0x02 0 0
    else
      let t := sivTag ks iv aad rest
      okRes (ivOut ++ sivCrypt ks t rest ++ t)
  else if op = 0x18 then
    if a.decrypt then
      if inp.length < tagN + 1 then failRes 0x12 0x10 0
      else if (cmac key (cut inp).1).take a.tagLen = (cut inp).2 then okRes pairMatch else failRes 0x02 0 0
    else if inp.isEmpty then failRes 0x12 0x10 0 else okRes ((cmac key inp).take a.tagLen)
  else if op = 0x19 then
    if a.decrypt then
      if inp.length % 8 ≠ 0 ∨ inp.length < 24 ∨ 4104 < inp.length then failRes 0x12 0x10 0
      else let (i, p) := kwUnwrapIv key inp; if i = kwIv then okRes p else failRes 0x02 0 0
    else if inp.length % 8 ≠ 0 ∨ inp.length < 16 ∨ 4096 < inp.length then failRes 0x12 0x10 0
    else okRes (kwWrapIv key kwIv inp)
  else
    if a.decrypt then
      if inp.length % 8 ≠ 0 ∨ inp.length < 16 ∨ 4104 < inp.length then failRes 0x12 0x10 0
      else match kwpUnwrap key inp with | some p => okRes p | none => failRes 0x02 0 0
    else if inp.isEmpty ∨ 4096 < inp.length then failRes 0x12 0x10 0 else okRes (kwpWrap key inp)

/-- Text bytes of an authenticating step with `n` input bytes: without the IV, the AAD and, where one is verified, the tags (R196, R205). -/
def aesText (op : Nat) (a : AesBlk) (n : Nat) : Nat :=
  let m := n - (if a.ivInInput then a.ivBytes op else 0) - (if op = 0x14 ∨ op = 0x16 ∨ op = 0x17 then a.aadLen else 0)
  if !a.decrypt ∨ a.tagInBlock ∨ op < 0x14 ∨ 0x18 < op then m
  else if op = 0x14 ∧ a.duBytes ≠ 0 then m - max 1 (ceilDiv m (a.duBytes + a.tagLen)) * a.tagLen
  else m - a.tagLen

/-- Data units of a GCM step: one, or the units of its text, an empty text one (R205). -/
def gcmUnits (a : AesBlk) (text : Nat) : Nat := if a.duBytes = 0 then 1 else max 1 (ceilDiv text a.duBytes)

/-- Blocks of the formatted AAD (R206). -/
def ccmAadBlocks (n : Nat) : Nat := if n = 0 then 0 else ceilDiv (n + (if n < 0xFF00 then 2 else 6)) 16

/-- Encrypt-pipeline and decrypt-pipeline blocks of an AES step with `n` input bytes under a key of length code `kl` (R190, R198 to R209,
R526): the blocks that the mode computes, H, E(J0), L, B0, S0, derived keys and the tags' blocks among them. -/
def aesBlocks (op : Nat) (a : AesBlk) (kl n : Nat) : Nat × Nat :=
  let text := aesText op a n
  let units := gcmUnits a text
  if op = 0x10 then (let b := ceilDiv n 16; if a.decrypt then (0, b) else (b, 0))
  else if op = 0x11 then (let b := ceilDiv (n - (if a.ivInInput then 16 else 0)) 16; if a.decrypt then (0, b) else (b, 0))
  else if op = 0x12 then (ceilDiv (n - (if a.ivInInput then 16 else 0)) 16, 0)
  else if op = 0x13 then
    let un := max 1 (a.duBytes + piBytes (bitsAt a.piFmt 0 2))
    let us := n / un
    if a.decrypt then (us, us * ceilDiv un 16) else (us + us * ceilDiv un 16, 0)
  else if op = 0x14 then
    (1 + units + (if a.duBytes = 0 then ceilDiv text 16 else text / a.duBytes * (a.duBytes / 16) + ceilDiv (text % a.duBytes) 16), 0)
  else if op = 0x15 then (2, 0)
  else if op = 0x16 then (2 + ccmAadBlocks a.aadLen + 2 * ceilDiv text 16, 0)
  else if op = 0x17 then ((if kl = 0 then 4 else 6) + 1 + ceilDiv text 16, 0)
  else if op = 0x18 then (1 + max 1 (ceilDiv text 16), 0)
  else
    let k := if a.decrypt then n / 8 - 1 else ceilDiv n 8
    let c := if k ≤ 1 then 1 else 6 * k
    if a.decrypt then (0, c) else (c, 0)

/-- Blocks of 16 bytes that an AES step authenticates (R170): AAD once for every unit, and text. -/
def authBlocks (op : Nat) (a : AesBlk) (n : Nat) : Nat :=
  let text := aesText op a n
  if op = 0x14 then gcmUnits a text * ceilDiv a.aadLen 16 + ceilDiv text 16
  else if op = 0x16 ∨ op = 0x17 then ceilDiv a.aadLen 16 + ceilDiv text 16
  else if op = 0x15 ∨ op = 0x18 then ceilDiv text 16
  else 0

/-! ### CTR_DRBG with AES-256 and its derivation function (SP 800-90A; R339, R340) -/

/-- A DRBG's working state: key and counter block. -/
structure Drbg where
  k : Bytes
  v : Bytes
deriving DecidableEq, Repr

def drbgUpdate (d : Drbg) (data : Bytes) : Drbg :=
  let rks := roundKeys d.k
  let v1 := inc128 d.v
  let v2 := inc128 v1
  let v3 := inc128 v2
  let t := xorBytes (aesEncRk rks v1 ++ aesEncRk rks v2 ++ aesEncRk rks v3) data
  { k := t.take 32, v := t.drop 32 }

/-- Block_Cipher_df to 48 bytes. -/
def drbgDf (inp : Bytes) : Bytes :=
  let s0 := natBe 4 inp.length ++ natBe 4 48 ++ inp ++ [0x80]
  let s := pad16 s0
  let k0 := roundKeys ((List.range 32).map byteOf)
  let bcc := fun (i : Nat) => cbcMac k0 (natBe 4 i ++ zeros 12 ++ s)
  let t := bcc 0 ++ bcc 1 ++ bcc 2
  let rks := roundKeys (t.take 32)
  let x1 := aesEncRk rks (slice t 32 16)
  let x2 := aesEncRk rks x1
  x1 ++ x2 ++ aesEncRk rks x2

def drbgInstantiate (seed : Bytes) : Drbg := drbgUpdate { k := zeros 32, v := zeros 16 } (drbgDf seed)
def drbgReseed (d : Drbg) (seed : Bytes) : Drbg := drbgUpdate d (drbgDf seed)

/-- `n` output blocks: the counter after them and the bytes. -/
def drbgBlocks (rks : List Bytes) : Nat → Bytes → Bytes × Bytes
  | 0, v => (v, [])
  | n + 1, v => let v1 := inc128 v; let (w, o) := drbgBlocks rks n v1; (w, aesEncRk rks v1 ++ o)

def drbgGenerate (d : Drbg) (add : Bytes) (n : Nat) : Drbg × Bytes :=
  let ad := if add.isEmpty then zeros 48 else drbgDf add
  let d1 := if add.isEmpty then d else drbgUpdate d ad
  let (v, o) := drbgBlocks (roundKeys d1.k) (ceilDiv n 16) d1.v
  (drbgUpdate { d1 with v } ad, o.take n)

end Sys2Proof.Machine
end

