-- ==== Sys2Proof/Machine/PubKey.lean ====
section
/-! DEFINITION. The integer, prime-curve and Curve25519 operations of the Sorghum arrays (R311 to R318), by FIPS 186-5,
RFC 8032 and RFC 7748 (log entry 5). Numbers are little-endian operands (R139). -/

namespace Sys2Proof.Machine

/-! ### Modular arithmetic -/

/-- `b` to the power that the low `n` bits of `e` spell, modulo `m`, times `acc`. -/
def powModFuel (m : Nat) : Nat → Nat → Nat → Nat → Nat
  | 0, _, _, acc => acc % m
  | n + 1, b, e, acc => powModFuel m n (b * b % m) (e / 2) (if e % 2 = 1 then acc * b % m else acc)

/-- `b ^ e mod m` for an exponent below 2^`bits`. -/
def powMod (bits m b e : Nat) : Nat := powModFuel m bits (b % m) e 1

/-- The inverse modulo a prime below 2^576. -/
def invMod (p a : Nat) : Nat := powMod 576 p a (p - 2)

/-- `a - b` modulo `p`. -/
def subMod (p a b : Nat) : Nat := (a % p + (p - b % p)) % p

/-! ### Prime curves y² = x³ − 3x + b -/

structure Curve where
  p : Nat
  b : Nat
  n : Nat
  gx : Nat
  gy : Nat
  len : Nat
  nBits : Nat
deriving DecidableEq, Repr

def p256 : Curve :=
  { p := 0xFFFFFFFF00000001000000000000000000000000FFFFFFFFFFFFFFFFFFFFFFFF
    b := 0x5AC635D8AA3A93E7B3EBBD55769886BC651D06B0CC53B0F63BCE3C3E27D2604B
    n := 0xFFFFFFFF00000000FFFFFFFFFFFFFFFFBCE6FAADA7179E84F3B9CAC2FC632551
    gx := 0x6B17D1F2E12C4247F8BCE6E563A440F277037D812DEB33A0F4A13945D898C296
    gy := 0x4FE342E2FE1A7F9B8EE7EB4A7C0F9E162BCE33576B315ECECBB6406837BF51F5
    len := 32, nBits := 256 }

def p384 : Curve :=
  { p := 0xFFFFFFFFFFFFFFFFFFFFFFFFFFFFFFFFFFFFFFFFFFFFFFFFFFFFFFFFFFFFFFFEFFFFFFFF0000000000000000FFFFFFFF
    b := 0xB3312FA7E23EE7E4988E056BE3F82D19181D9C6EFE8141120314088F5013875AC656398D8A2ED19D2A85C8EDD3EC2AEF
    n := 0xFFFFFFFFFFFFFFFFFFFFFFFFFFFFFFFFFFFFFFFFFFFFFFFFC7634D81F4372DDF581A0DB248B0A77AECEC196ACCC52973
    gx := 0xAA87CA22BE8B05378EB1C71EF320AD746E1D3B628BA79B9859F741E082542A385502F25DBF55296C3A545E3872760AB7
    gy := 0x3617DE4A96262C6F5D9E98BF9292DC29F8F41DBD289A147CE9DA3113B5F0B8C00A60B1CE1D7E819D7A431D7C90EA0E5F
    len := 48, nBits := 384 }

def p521 : Curve :=
  { p := 2 ^ 521 - 1
    b := 0x0051953EB9618E1C9A1F929A21A0B68540EEA2DA725B99B315F3B8B489918EF109E156193951EC7E937B1652C0BD3BB1BF073573DF883D2C34F1EF451FD46B503F00
    n := 0x01FFFFFFFFFFFFFFFFFFFFFFFFFFFFFFFFFFFFFFFFFFFFFFFFFFFFFFFFFFFFFFFFFA51868783BF2F966B7FCC0148F709A5D03BB5C9B8899C47AEBB6FB71E91386409
    gx := 0x00C6858E06B70404E9CD9E3ECB662395B4429C648139053FB521F828AF606B4D3DBAA14B5E77EFE75928FE1DC127A2FFA8DE3348B3C1856A429BF97E7E31C2E5BD66
    gy := 0x011839296A789A3BC0045C8A5FB42C7D1BD998F54449579B446817AFBD17273E662C97EE72995EF42640C550B9013FAD0761353C7086A272C24088BE94769FD16650
    len := 66, nBits := 521 }

/-- The curve of a SET code (R139). -/
def curveOf (set : Nat) : Curve := if set = 1 then p256 else if set = 2 then p384 else p521

/-- A point; none is the point at infinity. -/
abbrev Pt := Option (Nat × Nat)

def Curve.on (c : Curve) (x y : Nat) : Bool :=
  decide (x < c.p ∧ y < c.p) && y * y % c.p == (subMod c.p (x * x * x) (3 * x) + c.b) % c.p

def Curve.add (c : Curve) : Pt → Pt → Pt
  | none, q => q
  | some a, none => some a
  | some (x1, y1), some (x2, y2) =>
    if x1 = x2 ∧ (y1 + y2) % c.p = 0 then none
    else
      let l := if x1 = x2 then subMod c.p (3 * x1 * x1) 3 * invMod c.p (2 * y1) % c.p
        else subMod c.p y2 y1 * invMod c.p (subMod c.p x2 x1) % c.p
      let x3 := subMod c.p (l * l) (x1 + x2)
      some (x3, subMod c.p (l * subMod c.p x1 x3) y1)

/-- Double and add over `n` bits of `k`, low bit first. -/
def Curve.mulFuel (c : Curve) : Nat → Nat → Pt → Pt → Pt
  | 0, _, _, acc => acc
  | n + 1, k, q, acc => Curve.mulFuel c n (k / 2) (c.add q q) (if k % 2 = 1 then c.add acc q else acc)

def Curve.mul (c : Curve) (k : Nat) (q : Pt) : Pt := c.mulFuel (k.log2 + 1) k q none

/-- The hash as a number: its leftmost bits up to the order's length (R313). -/
def Curve.hashNum (c : Curve) (h : Bytes) : Nat :=
  if 8 * h.length ≤ c.nBits then beNat h else beNat h / 2 ^ (8 * h.length - c.nBits)

/-- A signature under one nonce; none when r or s is 0 (R314). -/
def Curve.signWith (c : Curve) (d e k : Nat) : Option (Nat × Nat) :=
  match c.mul k (some (c.gx, c.gy)) with
  | none => none
  | some (x, _) =>
    let r := x % c.n
    let s := invMod c.n k * (e + r * d) % c.n
    if r = 0 ∨ s = 0 then none else some (r, s)

def Curve.verify (c : Curve) (q : Nat × Nat) (e r s : Nat) : Bool :=
  if r = 0 ∨ c.n ≤ r ∨ s = 0 ∨ c.n ≤ s then false
  else
    let w := invMod c.n s
    match c.add (c.mul (e * w % c.n) (some (c.gx, c.gy))) (c.mul (r * w % c.n) (some q)) with
    | none => false
    | some (x, _) => x % c.n == r

/-! ### Ed25519 and X25519 -/

def edP : Nat := 2 ^ 255 - 19
def edL : Nat := 2 ^ 252 + 27742317777372353535851937790883648493
def edD : Nat := subMod edP 0 (121665 * powMod 256 edP 121666 (edP - 2))

/-- A point in extended coordinates. -/
structure EdPt where
  x : Nat
  y : Nat
  z : Nat
  t : Nat
deriving DecidableEq, Repr

def edAdd (a b : EdPt) : EdPt :=
  let p := edP
  let aa := subMod p a.y a.x * subMod p b.y b.x % p
  let bb := (a.y + a.x) * (b.y + b.x) % p
  let cc := 2 * a.t * b.t * edD % p
  let dd := 2 * a.z * b.z % p
  let e := subMod p bb aa
  let f := subMod p dd cc
  let g := (dd + cc) % p
  let h := (bb + aa) % p
  { x := e * f % p, y := g * h % p, z := f * g % p, t := e * h % p }

def edMulFuel : Nat → Nat → EdPt → EdPt → EdPt
  | 0, _, _, acc => acc
  | n + 1, k, q, acc => edMulFuel n (k / 2) (edAdd q q) (if k % 2 = 1 then edAdd acc q else acc)

def edZero : EdPt := { x := 0, y := 1, z := 1, t := 0 }
def edMul (k : Nat) (q : EdPt) : EdPt := edMulFuel (k.log2 + 1) k q edZero

/-- The x coordinate of a y with a sign bit (RFC 8032, 5.1.3). -/
def edRecover (y sign : Nat) : Option Nat :=
  let p := edP
  let x2 := subMod p (y * y) 1 * powMod 256 p (edD * y * y + 1) (p - 2) % p
  if p ≤ y then none
  else if x2 = 0 then (if sign = 1 then none else some 0)
  else
    let x := powMod 256 p x2 ((p + 3) / 8)
    let x1 := if x * x % p = x2 then x else x * powMod 256 p 2 ((p - 1) / 4) % p
    if x1 * x1 % p = x2 then some (if x1 % 2 = sign then x1 else p - x1) else none

def edDecode (b : Bytes) : Option EdPt :=
  let v := leNat b
  let y := v % 2 ^ 255
  (edRecover y (v / 2 ^ 255)).map fun x => { x, y, z := 1, t := x * y % edP }

def edEncode (q : EdPt) : Bytes :=
  let zi := powMod 256 edP q.z (edP - 2)
  natLe 32 (q.y * zi % edP + (q.x * zi % edP % 2) * 2 ^ 255)

def edBase : EdPt :=
  let y := 4 * powMod 256 edP 5 (edP - 2) % edP
  let x := (edRecover y 0).getD 0
  { x, y, z := 1, t := x * y % edP }

def edEq (a b : EdPt) : Bool := a.x * b.z % edP == b.x * a.z % edP && a.y * b.z % edP == b.y * a.z % edP

/-- The clamped scalar of RFC 8032 and RFC 7748. -/
def clamp (b : Bytes) : Nat := (leNat b % 2 ^ 254) / 8 * 8 + 2 ^ 254

def edSign (seed msg : Bytes) : Bytes :=
  let h := sha512 seed
  let a := clamp (h.take 32)
  let pk := edEncode (edMul a edBase)
  let r := leNat (sha512 (h.drop 32 ++ msg)) % edL
  let rb := edEncode (edMul r edBase)
  let k := leNat (sha512 (rb ++ pk ++ msg)) % edL
  rb ++ natLe 32 ((r + k * a) % edL)

/-- Verification by the cofactored equation of RFC 8032, 5.1.7. -/
def edVerify (pk sig msg : Bytes) : Bool :=
  match edDecode pk, edDecode (sig.take 32) with
  | some a, some r =>
    let s := leNat (slice sig 32 32)
    let k := leNat (sha512 (sig.take 32 ++ pk ++ msg)) % edL
    decide (s < edL) && edEq (edMul (8 * s) edBase) (edMul 8 (edAdd r (edMul k a)))
  | _, _ => false

/-- The Montgomery ladder of RFC 7748 over bits `n - 1` to 0 of `k`. -/
def x25519Ladder (k x1 : Nat) : Nat → (Nat × Nat × Nat × Nat) → (Nat × Nat × Nat × Nat)
  | 0, s => s
  | n + 1, (x2, z2, x3, z3) =>
    let p := edP
    let b := bitAt k n
    let (x2, z2, x3, z3) := if b then (x3, z3, x2, z2) else (x2, z2, x3, z3)
    let a := (x2 + z2) % p
    let aa := a * a % p
    let c := subMod p x2 z2
    let cc := c * c % p
    let e := subMod p aa cc
    let da := subMod p x3 z3 * a % p
    let cb := (x3 + z3) * c % p
    let y3 := (da + cb) * (da + cb) % p
    let w3 := x1 * (subMod p da cb * subMod p da cb % p) % p
    let y2 := aa * cc % p
    let w2 := e * (aa + 121665 * e) % p
    x25519Ladder k x1 n (if b then (y3, w3, y2, w2) else (y2, w2, y3, w3))

def x25519 (k u : Bytes) : Bytes :=
  let (x2, z2, _, _) := x25519Ladder (clamp k) (leNat u % 2 ^ 255 % edP) 255 (1, 0, leNat u % 2 ^ 255 % edP, 1)
  natLe 32 (x2 * powMod 256 edP z2 (edP - 2) % edP)

/-! ### The operations (R311 to R318) -/

/-- The pair of a verifying operation, or COMPARE_FAIL with location 0 (R317). -/
def verifyRes (ok : Bool) : OpRes := if ok then okRes pairMatch else failRes 0x03 0 0

/-- PARAM 0x01B: invalid input (R140). -/
def badInput : OpRes := failRes 0x12 0x1B 0

/-- SRG_MAC (R318): A × B + C. -/
def macOp (n : Nat) (inp : Bytes) : OpRes :=
  okRes (natLe (2 * n + 8) (leNat (slice inp 0 n) * leNat (slice inp n n) + leNat (slice inp (2 * n) (2 * n))))

/-- MODEXP (R313). -/
def modexpOp (n : Nat) (inp priv : Bytes) : OpRes :=
  let b := leNat (slice inp 0 n)
  let m := leNat (slice inp n n)
  let e := leNat (if priv.isEmpty then slice inp (2 * n) n else priv)
  if m ≤ 1 ∨ m % 2 = 0 ∨ m ≤ b then badInput else okRes (natLe n (powMod (8 * n) m b e))

/-- RSA_CRT (R313, R316): the result is re-encrypted before it is written. -/
def rsaCrtOp (n : Nat) (inp priv : Bytes) : OpRes :=
  let c := leNat (slice inp 0 n)
  let m := leNat (slice inp n n)
  let e := leNat (slice inp (2 * n) 8)
  let h := n / 2
  let f := fun (i : Nat) => leNat (slice priv (i * h) h)
  let p := f 0
  let q := f 1
  if m ≤ 1 ∨ m % 2 = 0 ∨ m ≤ c ∨ e < 3 ∨ e % 2 = 0 ∨ p % 2 = 0 ∨ q % 2 = 0 then badInput
  else
    let m1 := powMod (8 * h) p c (f 2)
    let m2 := powMod (8 * h) q c (f 3)
    let r := m2 + subMod p m1 m2 * f 4 % p * q
    if powMod 64 m r e = c then okRes (natLe n r) else failRes 0x28 0x12 0

/-- A candidate nonce from n + 8 random bytes (FIPS 186-5, A.3.1; log entry 5). -/
def nonceOf (c : Curve) (b : Bytes) : Nat := beNat b % (c.n - 1) + 1

/-- ECDSA_SIGN (R313, R314). -/
def ecdsaSignOp (set : Nat) (inp priv rnd : Bytes) : OpRes :=
  let c := curveOf set
  let d := leNat priv
  let e := c.hashNum inp
  if d = 0 ∨ c.n ≤ d then badInput
  else
    let sig := match c.signWith d e (nonceOf c (slice rnd 0 (c.len + 8))) with
      | some x => some x
      | none => c.signWith d e (nonceOf c (slice rnd (c.len + 8) (c.len + 8)))
    match sig with
    | some (r, s) => okRes (natLe c.len r ++ natLe c.len s)
    | none => failRes 0x28 0x12 0

/-- ECDSA_VERIFY (R313, R317). -/
def ecdsaVerifyOp (set : Nat) (inp : Bytes) : OpRes :=
  let c := curveOf set
  let f := fun (i : Nat) => leNat (slice inp (i * c.len) c.len)
  if c.on (f 0) (f 1) then verifyRes (c.verify (f 0, f 1) (c.hashNum (inp.drop (4 * c.len))) (f 2) (f 3)) else badInput

/-- ECDH (R313): the x-coordinate; the point at infinity is the degenerate result PARAM 0x01E (R140). -/
def ecdhOp (set : Nat) (inp priv : Bytes) : OpRes :=
  let c := curveOf set
  let f := fun (i : Nat) => leNat (slice inp (i * c.len) c.len)
  let d := leNat priv
  if d = 0 ∨ c.n ≤ d ∨ ¬ c.on (f 0) (f 1) then badInput
  else match c.mul d (some (f 0, f 1)) with
    | some (x, _) => okRes (natLe c.len x)
    | none => failRes 0x12 0x1E 0

/-- X25519 (R313): an all-zero result is PARAM 0x01E. -/
def x25519Op (inp priv : Bytes) : OpRes :=
  let r := x25519 priv inp
  if leNat r = 0 then failRes 0x12 0x1E 0 else okRes r

end Sys2Proof.Machine
end

