-- ==== Sys2Proof/Machine/Access.lean ====
section
/-! DEFINITION. The register target port (R33 to R36, R50 to R66): where an offset lies, who may reach it, the generic write
by field type, refusals, and the two-write unlock. Reads of whole words are put together in Windows.lean. -/

namespace Sys2Proof.Machine

/-- An access: TQ_PORT, TQ_ID, whether it is 64 bits wide, and its aperture offset. -/
structure Acc where
  src : Nat
  id : Nat
  wide : Bool
  addr : Nat
deriving DecidableEq, Repr

/-- What lies at an aperture offset (R50). -/
inductive Place where
  /-- Unit page and page offset. -/
  | page (p off : Nat)
  /-- A table entry: its kind, number and the offset in it. -/
  | entry (k : PageKind) (n off : Nat)
  /-- A doorbell slot of a port (R71). -/
  | bell (port slot : Nat)
  /-- The peek mirror of an offset (R66). -/
  | peek (a : Nat)
  /-- A reserved range. -/
  | hole
deriving DecidableEq, Repr

/-- The aperture map (R50). -/
def placeOf (a : Nat) : Place :=
  if a < 0x100000 then .page (a / 4096) (a % 4096)
  else if a < 0x180000 then .entry .sq ((a - 0x100000) / 64) (a % 64)
  else if a < 0x1C0000 then .entry .cq ((a - 0x180000) / 32) (a % 32)
  else if a < 0x1D0000 then .entry .rt ((a - 0x1C0000) / 64) (a % 64)
  else if a < 0x1D4000 then .entry .pt ((a - 0x1D0000) / 64) (a % 64)
  else if a < 0x1E0000 then .hole
  else if a < 0x1F0000 then .entry .gs ((a - 0x1E0000) / 16) (a % 16)
  else if a < 0x200000 then .hole
  else if a < 0x300000 then .entry .pp ((a - 0x200000) / 4096) (a % 4096)
  else if a < 0x400000 then .bell ((a - 0x300000) / 4096) (a % 4096 / 8)
  else if a < 0x800000 then .peek (a - 0x400000)
  else .hole

/-- The port numbers a configuration accepts (R9). -/
def portAccepted (s : State) (p : Nat) : Bool := decide (p + 2 < s.part.ports) || p == 254 || p == 255

/-- Whether a table entry is there: within the configuration's counts (R52). -/
def entryPresent (s : State) (k : PageKind) (n : Nat) : Bool :=
  match k with
  | .sq | .cq => decide (n < s.part.rings)
  | .pt | .pp => portAccepted s n
  | .rt => decide (n < 1024)
  | .gs => decide (n < 4096)
  | _ => false

/-- Base of a table entry. -/
def entryBase (k : PageKind) (n : Nat) : Nat :=
  match k with
  | .sq => sqB n | .cq => cqB n | .rt => rtB n | .pt => ptB n | .gs => gsB n | _ => ppB n

/-- Registers that an offset table marks "port 0 only" (R53). -/
def p0Only (k : PageKind) (off : Nat) : Bool :=
  match k with
  | .kcc => decide (0xA0 ≤ off ∧ off < 0xC0)
  | .tef => decide (off / 4 * 4 = 0x40 ∨ (0x60 ≤ off ∧ off < 0x80))
  | .chf => off / 4 * 4 == 0x78
  | .grn => off / 4 * 4 == 0x4C || off / 4 * 4 == 0x90
  | .ctl => off / 4 * 4 == 0x90
  | .clm => decide (off / 4 * 4 = 0x44 ∨ off / 4 * 4 = 0x60 ∨ (0x80 ≤ off ∧ off < 0xC0))
  | _ => false

/-- The GLM registers open to port 254 (R54, R428). -/
def glmOpenOff (off : Nat) : Bool := decide ((0x80 ≤ off ∧ off < 0xA0) ∨ (0x100 ≤ off ∧ off < 0x200))

/-- Rights of ports 0 and 1 at one word of a unit page (R53); other ports have none. -/
def pageRight (src p off : Nat) (we : Bool) : Bool :=
  if src = 0 then true
  else if src = 1 then
    match pageKind p with
    | some (k, _) =>
      !p0Only k off && (match k with
        | .glm => false
        | .sys | .kcc | .snt | .clm => !we
        | _ => true)
    | none => true
  else false

/-- Rights at one word of a table entry (R50, R68, R144). -/
def entryRight (s : State) (src : Nat) (k : PageKind) (n off : Nat) (we : Bool) : Bool :=
  let mgr := src == 0 || src == 1
  match k with
  | .gs =>
    let granted := src == rd s (gsB n) GS.GRANT.PORT
    if we then (if off < 8 then granted else if off < 12 then false else mgr) else granted || mgr
  | .pp => if we && decide (0x800 ≤ off) then mgr else mgr || src == n
  | _ => mgr

/-- Whether the current debug grant covers a peek of an offset (R67, R419). -/
def peekRight (s : State) (a : Nat) : Bool :=
  let l := dbgLevel s
  decide (2 ≤ l) || (l == 1 && !decide ((0x5000 ≤ a ∧ a < 0x6000) ∨ (0x6800 ≤ a ∧ a < 0x7000)))

/-- What port 254 reaches (R54): a peek under a debug grant, and the open GLM registers. -/
def debugRight (s : State) (a : Nat) (we : Bool) : Bool :=
  match placeOf a with
  | .page p off => p == pGLM && glmOpenOff off
  | .peek b => !we && peekRight s b
  | .entry _ _ _ | .bell _ _ | .hole => false

/-- Rights at one word (R9, R50, R53, R54). -/
def wordRight (s : State) (src a : Nat) (we : Bool) : Bool :=
  if src = 254 then debugRight s a we
  else portAccepted s src && src != 255 && (match placeOf a with
    | .page p off => pageRight src p off we
    | .entry k n off => entryRight s src k n off we
    | .bell p _ => src == p
    | .peek _ => false
    | .hole => src == 0 || src == 1)

/-- The words of an access. -/
def Acc.words (a : Acc) : List Nat := if a.wide then [a.addr, a.addr + 4] else [a.addr]

/-- Whether an access is aligned (R51): 32-bit offsets are whole words, and a 64-bit access has TQ_ADDR bit 2 at 0. -/
def Acc.aligned (a : Acc) : Bool := !a.wide || a.addr / 4 % 2 == 0

/-- Whether an access is permitted (R35, R51). -/
def permitted (s : State) (a : Acc) (we : Bool) : Bool := a.aligned && a.words.all fun w => wordRight s a.src w we

/-- The access type code of an access (R58). -/
def accType (a : Nat) (we : Bool) : Nat :=
  match placeOf a with
  | .bell _ _ => if we then 3 else 1
  | .peek _ => if we then 2 else 0xA
  | _ => if we then 2 else 1

/-- Answer an access (R33). -/
def respond (s : State) (id data err : Nat) : State := { s with tp := { id, data := BitVec.ofNat 64 data, err } }

/-- Refuse an access (R35, R51, R69): DENIED, counted for its port, and reported from SYS. -/
def deny (s : State) (a : Acc) (we : Bool) : State :=
  let s1 := chaff s { unit := 1, member := 0, kind := 0x001, access := accType a.addr we, port := a.src, addr := a.addr,
                      detail := if a.aligned then anyDetail 0x001 else 0x0106 }
  let s2 := if portAccepted s a.src then ppEvent (inc s1 (ppB a.src) PP.DENIED.COUNT) a.src 2 else s1
  respond s2 a.id 0 1

/-! ### The two-write unlock (R64, R65) -/

/-- Whether a page has an UNLOCK register. -/
def hasUnlock (p : Nat) : Bool := p == pCHF || p == pGRN || p == pGLM || decide (0x50 ≤ p ∧ p < 0x54)

/-- The unit ID and number of a page's unit. -/
def pageUnit (p : Nat) : Nat × Nat := match pageKind p with | some (k, i) => (unitId k, i) | none => (0, 0)

/-- Lose the live unlock of a page, counted and reported (R64). -/
def lapse (s : State) (p access src addr : Nat) : State :=
  let s1 := incBy (wr { s with unlocks := SMap.erase s.unlocks p } (pg p) HDR.UNLOCK.STATE 0) (pg p) HDR.UNLOCK.EXPIRED 1
  let u := pageUnit p
  chaff s1 { unit := u.1, member := u.2, kind := 0x002, access, port := src, addr, detail := anyDetail 0x002 }

/-- A write to a page cancels the page's live unlock (R64). -/
def cancelUnlock (s : State) (p src addr : Nat) : State :=
  match SMap.get? s.unlocks p with
  | some _ => lapse s p 2 src addr
  | none => s

/-- Whether port `src` holds a live unlock of offset `off` on page `p`. -/
def unlocked (s : State) (p src off : Nat) : Bool :=
  match SMap.get? s.unlocks p with
  | some (q, t) => q == src && rd s (pg p) HDR.UNLOCK.TARGET == off && decide (s.fcNow - t ≤ 64)
  | none => false

/-- A write to UNLOCK: an earlier live unlock is cancelled; a valid value arms, another is counted (R64, R65). -/
def unlockWrite (s : State) (p src v : Nat) : State :=
  let s1 := cancelUnlock s p src (pg p + 0x40)
  if v / 65536 = 0xA5C3 then
    let s2 := wr (wr s1 (pg p) HDR.UNLOCK.TARGET (v % 4096)) (pg p) HDR.UNLOCK.STATE 1
    { s2 with unlocks := SMap.set s2.unlocks p (src, s.fcNow) }
  else incBy s1 (pg p) HDR.UNLOCK.EXPIRED 1

/-- A write to a locked register (R64): it takes effect under a live unlock of the same port, which it uses up; otherwise
it is ignored with a NOTICE. -/
def lockedWrite (s : State) (p off src : Nat) (fx : State → State) : State :=
  if unlocked s p src off then
    fx (wr { s with unlocks := SMap.erase s.unlocks p } (pg p) HDR.UNLOCK.STATE 0)
  else
    let s1 := cancelUnlock s p src (pg p + off)
    let u := pageUnit p
    chaff s1 { unit := u.1, member := u.2, kind := 0x002, access := 2, port := src, addr := pg p + off, detail := anyDetail 0x002 }

/-! ### Generic writes (R55) -/

/-- The element of a field that a word at aperture offset `a` overlaps, with the overlap: low bit in the word, low bit in
the field, width. -/
def Field.hit (base a : Nat) (f : Field) : Option (Field × Nat × Nat × Nat) :=
  if a < base + f.off then none
  else
    let n := if f.step = 0 then 0 else (a - base - f.off) / f.step
    if f.cnt ≤ n then none
    else
      let g := f.at n
      let gs := (base + g.off) * 8 + g.lo
      let lo := max gs (a * 8)
      let hi := min (gs + g.w) (a * 8 + 32)
      if hi ≤ lo then none else some (g, lo - a * 8, lo - gs, hi - lo)

/-- `old` with `w` bits from `lo` replaced by `v`. -/
def putBits (old lo w v : Nat) : Nat := old - bitsAt old lo w * 2 ^ lo + v % 2 ^ w * 2 ^ lo

/-- What a field holds after a 32-bit write `v` to a word (R55); `rwl` says whether RWL fields take the write and `p0`
whether it comes from port 0. -/
def storeField (s : State) (base a v : Nat) (rwl p0 : Bool) (f : Field) : State :=
  match f.hit base a with
  | none => s
  | some (g, wl, fl, w) =>
    let old := rd s base g
    let x := bitsAt v wl w
    if f.p0 && !p0 then s
    else match f.ty with
      | .rw => wr s base g (putBits old fl w x)
      | .rwl => if rwl then wr s base g (putBits old fl w x) else s
      | .w1c => wr s base g (putBits old fl w (bitsAt old fl w - (bitsAt old fl w &&& x)))
      | .w1s => wr s base g (putBits old fl w (bitsAt old fl w ||| x))
      | _ => s

/-- A 32-bit write of `v` to the word at `a`, to every field of a list that it overlaps. -/
def storeWord (s : State) (base a v : Nat) (rwl p0 : Bool) (fs : List Field) : State :=
  fs.foldl (fun st f => storeField st base a v rwl p0 f) s

/-- The generic write to a word of a unit page: RWL fields only while the unit is DISABLED (R55). -/
def storePage (s : State) (src p off v : Nat) : State :=
  match pageKind p with
  | some (k, _) => storeWord s (pg p) (pg p + off) v (ustate s p == 0) (src == 0) (kindFields k)
  | none => s

/-! ### Accepting an access (R21, R33 to R35) -/

/-- A register access of a unit page, as the PMU counts it (R507). -/
def countAccess (s : State) (a : Acc) : State :=
  match placeOf a.addr with
  | .page p _ => pmu s 0x13 p 1
  | _ => s

/-- Run a write access: not accepted in reset, NOT_READY in the reset drain, refused without the right, and otherwise its
effect and then the answer. -/
def tqWrite (s : State) (a : Acc) (fx : State → State) : State :=
  match s.phase with
  | .cold | .warm => s
  | .drain | .restart => respond s a.id 0 2
  | .run => if permitted s a true then respond (fx (countAccess s a)) a.id 0 0 else deny s a true

/-- The page a word lies on, when its unit is present: writes to an absent page are ignored (R3). -/
def onPage (s : State) (p : Nat) (fx : State → State) : State := if pagePresent s p then fx s else s

/-- A write command to one word of a unit page: presence, and the loss of a live unlock by another write (R64). -/
def pageWrite (s : State) (src id p off : Nat) (fx : State → State) : State :=
  tqWrite s { src, id, wide := false, addr := pg p + off } fun st =>
    onPage st p fun u => fx (cancelUnlock u p src (pg p + off))

/-- A write command to a locked word of a unit page (R64). -/
def pageLocked (s : State) (src id p off : Nat) (fx : State → State) : State :=
  tqWrite s { src, id, wide := false, addr := pg p + off } fun st =>
    onPage st p fun u => lockedWrite u p off src fx

/-- A write command to one word of a table entry. -/
def entryWrite (s : State) (src id : Nat) (k : PageKind) (n off : Nat) (wide : Bool) (fx : State → State) : State :=
  tqWrite s { src, id, wide, addr := entryBase k n + off } fun st => if entryPresent st k n then fx st else st

/-! ### Register writes of the header and the port tables -/

/-- EVT_FORCE (R57): the EVT bits the unit defines are set when permitted; otherwise a NOTICE. -/
def evtForceFx (s : State) (src p v : Nat) : State :=
  match pageKind p with
  | some (k, i) =>
    if testPermit s then noteRise s (wr s (pg p) HDR.EVT.BITS (rd s (pg p) HDR.EVT.BITS ||| (v &&& evtBits k))) p
    else writeIgnored s (unitId k) i src (pg p + 0x18) (anyDetail 0x003)
  | none => s

/-- Clear a first-error capture: every field of it (R57). `b` is the page base, or that of R372 for a port's capture. -/
def fecClear (s : State) (b : Nat) : State :=
  [HDR.FEC_ADDR_LO.ADDR, HDR.FEC_ADDR_HI.ADDR, HDR.FEC_SRC.PORT, HDR.FEC_SRC.UNIT, HDR.FEC_SRC.ACCESS, HDR.FEC_SRC.VALID,
   HDR.FEC_TIME_LO.TICK, HDR.FEC_TIME_HI.TICK, HDR.FEC_MERGE.COUNT, HDR.FEC_MERGE.KINDS].foldl (fun st f => wr st b f 0) s

/-- A write to an FEC_SRC register: writing 1 to VALID clears the capture (R57). -/
def fecSrcWrite (s : State) (b v : Nat) : State := if bitAt v 31 then fecClear s b else s

/-- PP_DB_MAP (R70). Ports 0 and 1 map a slot only to an SQ of the same port, and change a valid mapping only while its SQ
is disabled. -/
def dbMapFx (s : State) (src p k v : Nat) : State :=
  let q := v % 8192
  let old := rd s (ppB p) (PP.DB_MAP.SQ.at k)
  let oldValid := flag s (ppB p) (PP.DB_MAP.VALID.at k)
  let changes := !oldValid || q != old || !bitAt v 31
  let busy := oldValid && changes && sqState s old != 0
  let wrongPort := bitAt v 31 && (sqPort s q != p || decide (s.part.rings ≤ q))
  if busy || wrongPort then writeIgnored s 0x15 0 src (ppB p + 0x800 + 4 * k) 0x1510
  else wr (wr s (ppB p) (PP.DB_MAP.SQ.at k) q) (ppB p) (PP.DB_MAP.VALID.at k) (bit (bitAt v 31))

/-- PT_CTL (R72). Port 0's entry is fixed. A port-1 write leaves EN and REALM unchanged and is recorded when it would have
changed them; EN is not cleared while an SQ of the port is enabled, and the rest of such a write still counts (log entry 62); REALM changes only
while EN is 0 and must be ACTIVE when EN is set. -/
def ptCtlFx (s : State) (src p v : Nat) : State :=
  if p = 0 then s
  else
    let s0 := wr s (ptB p) PT.CTL.CLASS_MIN (bitsAt v 4 2)
    let en := flag s (ptB p) PT.CTL.EN
    let realm := rd s (ptB p) PT.CTL.REALM
    if src ≠ 0 then
      if bitAt v 0 != en || bitsAt v 16 10 != realm then
        chaff s0 { unit := 2, member := 0, kind := 0x004, access := 2, port := src, addr := ptB p, detail := anyDetail 0x004 }
      else s0
    else
      let s1 := if en then s0 else wr s0 (ptB p) PT.CTL.REALM (bitsAt v 16 10)
      if bitAt v 0 then
        if en then s1
        else if realmActive s1 (rd s1 (ptB p) PT.CTL.REALM) then wr s1 (ptB p) PT.CTL.EN 1
        else notice s1 0x15 0 0x1512
      else if en && (sqsOfPort s p).isEmpty then wr s1 (ptB p) PT.CTL.EN 0
      else s1

/-- PT_MSI (R73): ignored when the range would pass 1,024 vectors. Port 0's entry is fixed (R72). -/
def ptMsiFx (s : State) (p v : Nat) : State :=
  if p = 0 ∨ 1024 < bitsAt v 0 10 + bitsAt v 16 11 then s
  else wr (wr (wr s (ptB p) PT.MSI.VEC_BASE (bitsAt v 0 10)) (ptB p) PT.MSI.VEC_COUNT (bitsAt v 16 11))
    (ptB p) PT.MSI.MGMT_VEC_EN (bitsAt v 31 1)

/-- Other words of a port table entry (R72). MAX_SQ and MAX_CQ above the configuration's ring count are stored as written (log entry
62). -/
def ptStore (s : State) (src p off v : Nat) : State :=
  if p = 0 then s else storeWord s (ptB p) (ptB p + off) v (!flag s (ptB p) PT.CTL.EN) (src == 0) PT.fields

/-- The SQs not DISABLED of a realm's ports. -/
def sqsOfRealm (s : State) (r : Nat) : List Nat := (liveSqs s).filter fun q => portRealm s (sqPort s q) == r

/-- Whether the slot block of realm `r` passes 2^23 or overlaps the block of an ACTIVE realm (R75); an empty block overlaps none. -/
def blockBad (s : State) (r : Nat) : Bool :=
  let b := fun (x : Nat) => rd s (rtB x) RT.SLOT_BASE.SLOT_BASE
  let n := fun (x : Nat) => rd s (rtB x) RT.SLOT_COUNT.SLOT_COUNT
  decide (2 ^ 23 < b r + n r) ||
    (List.range 1024).any fun x => x != r && realmActive s x && decide (0 < n r ∧ 0 < n x ∧ b r < b x + n x ∧ b x < b r + n r)

/-- A realm table entry (R74): a weight of 0 stores 1; the slot block only while ABSENT, and for realm 0 while no SQ of it
is enabled, ignored with 0x0810 when the block would be bad (R232). -/
def rtStore (s : State) (src r off v : Nat) : State :=
  if off = 0xC ∨ off = 0x10 then
    let t := storeWord s (rtB r) (rtB r + off) v true (src == 0) RT.fields
    if r = 0 then
      if !(sqsOfRealm s 0).isEmpty then s else if blockBad t 0 then notice s 8 0 0x0810 else t
    else if rd s (rtB r) RT.STATE.STATE = 0 then t else s
  else if off = 4 then
    wr (wr s (rtB r) RT.WEIGHT.BULK_WEIGHT (max 1 (bitsAt v 0 8))) (rtB r) RT.WEIGHT.BG_WEIGHT (max 1 (bitsAt v 8 8))
  else storeWord s (rtB r) (rtB r + off) v true (src == 0) RT.fields

/-- A per-port page's event registers (R69). -/
def ppStore (s : State) (src p off v : Nat) : State :=
  if off < 0x800 then storeWord s (ppB p) (ppB p + off) v true (src == 0) PP.fields else dbMapFx s src p ((off - 0x800) / 4) v

/-! ### Doorbells (R71, R82) -/

/-- Whether the Rachis takes doorbells: ENABLED, or locked, where it still scans (R106); not after a clock-ratio stop (R16). -/
def takesBells (s : State) : Bool := (ustate s pRCH == 2 || (locked s && ustate s pRCH == 6)) && !s.fab.idle

/-- A doorbell of slot `k` of port `p` (R71, R82). -/
def doorbellFx (s : State) (p k : Nat) : State :=
  let note := fun (st : State) (reason : Nat) =>
    chaff st { unit := 0x15, member := 0, kind := 0x601, access := 3, port := p, addr := 0x300000 + p * 4096 + k * 8, detail := reason }
  if !flag s (ppB p) (PP.DB_MAP.VALID.at k) || !portEn s p then
    note (ppEvent (inc s (ppB p) PP.DB_DROPPED.COUNT) p 0) (anyDetail 0x601)
  else
    let q := rd s (ppB p) (PP.DB_MAP.SQ.at k)
    let s1 := pmu (inc s (ppB p) PP.DB_ACCEPTED.COUNT) 0x02 p 1
    if sqPort s q ≠ p then note s1 0x1510
    else
      let s2 := inc s1 (sqB q) SQ.DOORBELLS.COUNT
      if !takesBells s || sqState s q = 0 || sqState s q = 3 then setEvt s2 pRCH RCH.EVT.DB_IDLE
      else
        let s3 := if sqState s q = 2 then modSqx s2 q fun x => { x with dbInHalt := true } else s2
        wr (probeBell s3 q) (sqB q) SQ.STAT.SCAN_PENDING 1

end Sys2Proof.Machine
end

