-- ==== Sys2Proof/Machine/Links.lean ====
section
/-! DEFINITION. Culm links at the level of flits and messages (R456 to R461, R469): peer sets and coherence, sending, and the
window accesses of jobs that run here for a peer (R475). -/

namespace Sys2Proof.Machine

/-! ### Links -/

/-- Credits that a receiver allows by VC (R459). -/
def vcAllow : List Nat := [64, 256, 16]

/-- A link that has never trained. -/
def freshLink : Link :=
  { txq := [], replay := [], nextSeq := 0, resends := 0, cred := [0, 0, 0], seen := [0, 0, 0], expSeq := 0, nakOut := false, partials := [],
    given := [0, 0, 0], inbox := [], jobs := [], runs := [], serves := [], asks := [], preps := [], outs := [], missed := 0, epoch := 0,
    nextTx := 0, pulls := [], swap := none, syncs := [], syncOk := [], out := [] }

def link (s : State) (l : Nat) : Link := SMap.getD s.clm l freshLink
def setLink (s : State) (l : Nat) (x : Link) : State := { s with clm := SMap.set s.clm l x }

/-- States of a link (R464, R482). -/
def lkDOWN : Nat := 0
def lkTRAINING : Nat := 1
def lkUP : Nat := 2
def lkISOLATED : Nat := 3
def lkLOST : Nat := 4
def lkFENCED : Nat := 5
def lkLOCKED : Nat := 6
def linkState (s : State) (l : Nat) : Nat := rd s (pg (pCLM l)) CLM.LINK_STAT.STATE
def setLinkState (s : State) (l v : Nat) : State :=
  wr (wr s (pg (pCLM l)) CLM.LINK_STAT.STATE v) (pg (pCLM l)) CLM.STAT.UP (bit (v == lkUP))

/-! ### Peer sets and coherence (R469) -/

/-- The enabled SHR entry of a link for a realm. -/
def shrEntry (s : State) (l r : Nat) : Option Nat :=
  (List.range 16).find? fun n => flag s (pg (pCLM l)) (CLM.SHR.EN.at n) && rd s (pg (pCLM l)) (CLM.SHR.REALM.at n) == r

/-- The peer set of a realm. -/
def peerSet (s : State) (r : Nat) : List Nat :=
  (List.range 4).filter fun l => present s .clm l && linkState s l != lkFENCED && (shrEntry s l r).isSome

/-- Whether a realm is coherent (R469): on every link of its peer set; an empty peer set is coherent. -/
def coherent (s : State) (r : Nat) : Bool :=
  (peerSet s r).all fun l => match shrEntry s l r with
    | some n => flag s (pg (pCLM l)) (CLM.SHR.COHERENT.at n)
    | none => false

/-- Whether a peer's install of a slot is pending here, so that lookups of it wait (R472). -/
def prepPending (s : State) (r slot : Nat) : Bool := s.clm.any fun p => p.2.preps.any fun q => q.realm == r && q.slot == slot

/-- Whether a pending install was left here by a peer that has been lost: lookups of its slot are refused (R472). -/
def prepLost (s : State) (r slot : Nat) : Bool := s.clm.any fun p => p.2.preps.any fun q => q.realm == r && q.slot == slot && q.lost

/-! ### Messages and flits (R456 to R460) -/

/-- MTYPE codes (R461). -/
def mJOB : Nat := 0
def mABORT : Nat := 1
def mWREAD : Nat := 2
def mWWRITE : Nat := 3
def mPREPARE : Nat := 4
def mCOMMIT : Nat := 5
def mCANCEL : Nat := 6
def mREVOKE : Nat := 7
def mOUTCOMEQ : Nat := 8
def mKEYPULL : Nat := 9
def mREFUSED : Nat := 10
def mDONE : Nat := 11
def mRDATA : Nat := 12
def mWACK : Nat := 13
def mPACK : Nat := 14
def mCACK : Nat := 15
def mRACK : Nat := 16
def mOUTCOME : Nat := 17
def mPULLDATA : Nat := 18
def mHELLO : Nat := 19
def mHB : Nat := 20
def mREALMSYNC : Nat := 21
def mMIRROR : Nat := 22
def mLEAVE : Nat := 23

/-- The code byte of a message type. -/
def mcode (m : Nat) : Nat := (Config.mtype m).toNat

/-- The VC a message type travels on. -/
def msgVc (m : Nat) : Nat := if m < 10 then 0 else if m < 19 then 1 else 2

/-- A message without a body. -/
def bareMsg (m tag realm : Nat) : LinkMsg := { mtype := mcode m, tag, realm, status := 0, addr := 0, len := 0, epoch := 0, body := [] }

/-- Flits of a message with an `n`-byte body. -/
def flitsOf (n : Nat) : Nat := 1 + ceilDiv (n - 32) 56

/-- The 24-byte message header. -/
def LinkMsg.header (m : LinkMsg) : Bytes :=
  [byteOf m.mtype, byteOf (flitsOf m.body.length)] ++ natLe 2 m.tag ++ natLe 2 m.realm ++ natLe 2 m.status ++ natLe 8 m.addr ++ natLe 4 m.len ++
    natLe 2 m.epoch ++ zeros 2

/-- A message cut into flits. -/
def LinkMsg.flits (vc : Nat) (m : LinkMsg) : List TxFlit :=
  let ps := chunks 56 (m.header ++ m.body ++ zeros (32 - m.body.length))
  ps.mapIdx fun i p => { vc, first := i == 0, last := i + 1 == ps.length, payload := slice p 0 56 }

/-- A message from its collected payloads. -/
def msgOfBytes (b : Bytes) : LinkMsg :=
  { mtype := leNat (slice b 0 1), tag := leNat (slice b 2 2), realm := leNat (slice b 4 2) % 1024, status := leNat (slice b 6 2),
    addr := leNat (slice b 8 8), len := leNat (slice b 16 4), epoch := leNat (slice b 20 2), body := b.drop 24 }

/-- The 64 bytes of a flit: header, payload, CRC. -/
def flitBytes (vc : Nat) (first last : Bool) (seq ack : Nat) (payload : Bytes) : Bytes :=
  let h := natLe 4 (vc + 4 * bit first + 8 * bit last + seq * 2 ^ 8 + ack * 2 ^ 20) ++ payload
  h ++ natLe 4 (crc32c h)

/-- The ACK a link sends: the SEQ of the last sequenced flit received in order. -/
def linkAck (x : Link) : Nat := (x.expSeq + 4095) % 4096

/-- A control flit of a type, with `rest` from payload byte 7 on (R458). -/
def controlFlit (x : Link) (ty : Nat) (rest : Bytes) : Bytes :=
  flitBytes 3 true true 0 (linkAck x) (byteOf ty :: (natLe 2 (x.given.getD 0 0) ++ natLe 2 (x.given.getD 1 0) ++ natLe 2 (x.given.getD 2 0)) ++ slice rest 0 49)

/-- Present one sequenced flit, under the link's injection (R479). -/
def presentFlit (s : State) (l seq : Nat) (f : TxFlit) : State :=
  let b := pg (pCLM l)
  let x := link s l
  let bytes := fun (q : Nat × TxFlit) => flitBytes q.2.vc q.2.first q.2.last q.1 (linkAck x) q.2.payload
  let mode := rd s b CLM.INJECT.MODE
  let hit := (mode == 1 || mode == 2 || mode == 3) && rd s b CLM.INJECT.VC == f.vc && rd s b CLM.INJECT.COUNT != 0
  if hit then
    let n := rd s b CLM.INJECT.COUNT - 1
    let s1 := wr s b CLM.INJECT.COUNT n
    let s2 := if n = 0 then wr s1 b CLM.INJECT.MODE 0 else s1
    if mode = 1 then s2
    else if mode = 2 then
      setLink s2 l { x with out := (bytes (seq, f)).take 60 ++ natLe 4 (crc32c ((bytes (seq, f)).take 60) ^^^ 1) }
    else match x.swap with
      | none => if n = 0 then setLink s2 l { x with out := bytes (seq, f) } else setLink s2 l { x with swap := some (seq, f) }
      | some o => setLink s2 l { x with swap := none, out := bytes o }
  else setLink s l { x with out := bytes (seq, f) }

/-- Whether a link carries a VC in its state (R464). -/
def carries (s : State) (l vc : Nat) : Bool := linkState s l == lkUP || (linkState s l == lkISOLATED && vc == 2)

/-- Send waiting flits while credits and the replay buffer allow (R457, R459); `fuel` bounds them. -/
def pumpLink : Nat → State → Nat → State
  | 0, s, _ => s
  | n + 1, s, l =>
    let x := link s l
    if 256 ≤ x.replay.length then s
    else match x.txq.find? fun f => carries s l f.vc && decide (0 < x.cred.getD f.vc 0) with
      | none => s
      | some f =>
        let x1 := { x with txq := x.txq.erase f, replay := x.replay ++ [(x.nextSeq, f)], nextSeq := (x.nextSeq + 1) % 4096,
                           cred := listSet x.cred f.vc (x.cred.getD f.vc 0 - 1) }
        pumpLink n (presentFlit (inc (setLink s l x1) (pg (pCLM l)) CLM.FLITS_TX.COUNT) l x.nextSeq f) l

/-- Send a message on a link, under the link's current EPOCH. -/
def sendMsg (s : State) (l m : Nat) (msg : LinkMsg) : State :=
  let x := link s l
  let fs := LinkMsg.flits (msgVc m) { msg with mtype := mcode m, epoch := x.epoch }
  pumpLink (x.txq.length + fs.length + 1) (setLink s l { x with txq := x.txq ++ fs }) l

/-- The next transaction number of a link. -/
def newTx (s : State) (l : Nat) : Nat × State :=
  let x := link s l
  (x.nextTx, setLink s l { x with nextTx := (x.nextTx + 1) % 4096 })

/-! ### Window accesses of jobs that run here (R475) -/

/-- Ask a peer for a read of its windows; a lost peer is asked for nothing (R466). -/
def askRead (s : State) (p : PeerRef) (who : Who) (a n : Nat) : State :=
  if p.lost then s
  else
    let t := newTx s p.link
    let x := link t.2 p.link
    let s1 := setLink t.2 p.link { x with asks := x.asks ++ [{ tx := t.1, jobTag := p.tag, who, addr := a, len := n }] }
    sendMsg s1 p.link mWREAD { bareMsg mWREAD (t.1 + p.tag / 4096 * 4096) p.realm with addr := a, len := n }

/-- Ask a peer for a write into its windows; a lost peer is asked for nothing (R466). -/
def askWrite (s : State) (p : PeerRef) (who : Who) (a : Nat) (b : Bytes) : State :=
  if p.lost then s
  else
    let t := newTx s p.link
    let x := link t.2 p.link
    let s1 := setLink t.2 p.link { x with asks := x.asks ++ [{ tx := t.1, jobTag := p.tag, who, addr := a, len := b.length }] }
    sendMsg s1 p.link mWWRITE { bareMsg mWWRITE (t.1 + p.tag / 4096 * 4096) p.realm with addr := a, len := b.length, body := b }

/-! ### Forwarding (R473, R476) -/

/-- The link and forwarding entry that carry the entries of ring `q`, while the link is UP. -/
def fwdOf (s : State) (q : Nat) : Option (Nat × Nat) :=
  (List.range 4).findSome? fun l =>
    if linkState s l = lkUP then
      ((List.range 16).find? fun n => flag s (fwdB l n 0) CLM.FWD_CFG.EN && rd s (fwdB l n 0) CLM.FWD_CFG.SQ == q).map fun n => (l, n)
    else none

/-- Whether an entry may be forwarded: not EXPRESS, no gate, and no step of opcode 0x2F or 0x50 to 0x56. -/
def mayForward (s : State) (d : DqEnt) : Bool :=
  d.peer.isNone && !d.stay && d.cls != 0 && !entGateEn d.bytes && (fwdOf s d.sq).isSome &&
    (List.range (entSteps d.bytes)).all fun k => let op := (descAt d.bytes k).op; op != 0x2F && !isKeyOp op

/-- Whether an entry that is forwarded finds a DONE receive place now. -/
def fwdRoom (s : State) (d : DqEnt) : Bool :=
  match fwdOf s d.sq with | some (l, _) => decide ((link s l).jobs.length < 64) | none => false

/-- Send an entry as a JOB in place of dispatching it. -/
def sendJob (s : State) (d : DqEnt) : State :=
  match fwdOf s d.sq with
  | none => s
  | some (l, n) =>
    let s1 := { s with rch := { s.rch with dq := s.rch.dq.filter fun e => e.eid != d.eid } }
    let t := newTx s1 l
    let x := link t.2 l
    let s2 := inc (setLink t.2 l { x with jobs := x.jobs ++ [{ tx := t.1, fwd := n, ent := d }] }) (pg (pCLM l)) CLM.JOBS_SENT.COUNT
    sendMsg (probeStamp s2 d.eid 2) l mJOB
      { bareMsg mJOB (t.1 + 4096 * n) (portRealm s (sqPort s d.sq)) with len := d.bytes.length, body := d.bytes }

/-- A drain of ring `q` asks for the end of its forwarded entries. -/
def abortForwarded (s : State) (q : Nat) : State :=
  (List.range 4).foldl (fun st l =>
    ((link st l).jobs.filter fun j => j.ent.sq == q).foldl (fun u j =>
      sendMsg u l mABORT (bareMsg mABORT (j.tx + 4096 * j.fwd) (portRealm s (sqPort s q)))) st) s

/-- The body of a DONE message: byte 1 and bytes 6 to 15 of R92, LOCATION, and an inline result. -/
def doneBody (v : Verdict) (step tag : Nat) (result : Bytes) : Bytes :=
  [byteOf v.status] ++ natLe 2 1 ++ natLe 4 tag ++ natLe 4 (step * 2 ^ 16 + v.detail * 2 ^ 19) ++ natLe 8 v.loc ++ result

/-- Answer a forwarded job that has ended, unless the link has been lost since it came. -/
def sendDone (s : State) (p : PeerRef) (b : Bytes) : State :=
  let x := link s p.link
  if !p.lost && x.runs.contains p.tag then
    sendMsg (setLink s p.link { x with runs := x.runs.erase p.tag }) p.link mDONE { bareMsg mDONE p.tag p.realm with len := b.length, body := b }
  else s

/-! ### Pulled entries (R471) -/

/-- The link that a realm's SHARED fills pull from. -/
def pullLink (s : State) (r : Nat) : Option Nat :=
  (peerSet s r).find? fun l => match shrEntry s l r with | some n => flag s (pg (pCLM l)) (CLM.SHR.PULL.at n) | none => false

/-- Ask for a slot's entry, for fill `n`. -/
def askPull (s : State) (l r slot n : Nat) : State :=
  let t := newTx s l
  let x := link t.2 l
  sendMsg (setLink t.2 l { x with pulls := x.pulls ++ [(t.1, n)] }) l mKEYPULL { bareMsg mKEYPULL t.1 r with addr := slot }

end Sys2Proof.Machine
end

