-- ==== Sys2Proof/Machine/Expanders.lean ====
section
/-! DEFINITION. Teff's expanders as their consumers see them (R338 to R342): generate calls, the consumer FIFOs and the
draws of the lanes, the KCC, the Sorghum arrays and the software port. -/

namespace Sys2Proof.Machine

/-- An expander that has never been instantiated. -/
def freshExp : Expander := { key := [], v := [], ent := none, kat := false, fifo := [], seeded := 0 }

def expRec (s : State) (e : Nat) : Expander := SMap.getD s.tef.exps e freshExp

def setExp (s : State) (e : Nat) (x : Expander) : State := { s with tef := { s.tef with exps := SMap.set s.tef.exps e x } }

/-- A message of a Teff expander, with its reason code. -/
def expChaff (s : State) (e kind reason : Nat) : State := chaffPlain s 7 (0x20 + e) kind reason

/-- A generate call counted (R340): 2^16 calls make the expander STRETCHED, 2^24 STOPPED. -/
def countCall (s : State) (e : Nat) : State :=
  let n := min (rd s (pg pTEF) (TEF.EXP.CALLS.at e) + 1) (2 ^ 24)
  let s1 := wr s (pg pTEF) (TEF.EXP.CALLS.at e) n
  if n = 2 ^ 16 then expChaff (setEvt (wr s1 (pg pTEF) (TEF.EXP.STATE.at e) 3) pTEF TEF.EVT.STRETCH) e 0x405 (anyDetail 0x405)
  else if n = 2 ^ 24 then expChaff (setEvt (wr s1 (pg pTEF) (TEF.EXP.STATE.at e) 4) pTEF TEF.EVT.EXP_STOP) e 0x406 0x0714
  else s1

/-- One generate call of `n` bytes of a live expander, with additional input. -/
def expCall (s : State) (e : Nat) (add : Bytes) (n : Nat) : State × Bytes :=
  let x := expRec s e
  let r := drbgGenerate { k := x.key, v := x.v } add n
  (countCall (setExp s e { x with key := r.1.k, v := r.1.v }) e, r.2)

/-- Size of a consumer's FIFO, the level at or below which it is filled, and the bytes of the filling call (R338). -/
def fifoSpec (e : Nat) : Nat × Nat × Nat :=
  if e < 8 then (64, 31, 64) else if e < 10 then (512, 256, 256) else (256, 128, 128)

/-- Fill the FIFO of expander `e` while it is at or below its level and the expander supplies; `fuel` bounds the calls. -/
def refillFuel : Nat → State → Nat → State
  | 0, s, _ => s
  | f + 1, s, e =>
    let z := fifoSpec e
    if expLive s e && e != 10 && decide ((expRec s e).fifo.length ≤ z.2.1) then
      let r := expCall s e [] z.2.2
      refillFuel f (setExp r.1 e { expRec r.1 e with fifo := ((expRec r.1 e).fifo ++ r.2).take z.1 }) e
    else s

def refill (s : State) (e : Nat) : State := refillFuel 3 s e

/-- Take `n` bytes from the FIFO of expander `e`, which is filled again; `fuel` bounds the rounds. -/
def drawFuel : Nat → State → Nat → Nat → State × Bytes
  | 0, s, _, _ => (s, [])
  | f + 1, s, e, n =>
    if n = 0 then (s, [])
    else
      let x := expRec s e
      let m := min n x.fifo.length
      let s1 := refill (setExp s e { x with fifo := x.fifo.drop m }) e
      let r := drawFuel f s1 e (n - m)
      (r.1, x.fifo.take m ++ r.2)

def draw (s : State) (e n : Nat) : State × Bytes := drawFuel (n / 16 + 3) s e n

/-- The KCC expander that supplies, 8 before 9 (R249). -/
def kccExp (s : State) : Option Nat := if expLive s 8 then some 8 else if expLive s 9 then some 9 else none

/-- `n` bytes for the KCC; none, with RNG_SHORT set, when neither of its expanders supplies (R249). -/
def kccDraw (s : State) (n : Nat) : State × Option Bytes :=
  match kccExp s with
  | some e => let r := draw s e n; (r.1, some r.2)
  | none =>
    (if flag s (pg pKCC) KCC.STAT.RNG_SHORT then s
     else setEvt (wr s (pg pKCC) KCC.STAT.RNG_SHORT 1) pKCC KCC.EVT.RNG_SHORT, none)

/-- Zeroize every expander, the seeds and the FIFOs; present expanders that are not FAILED become UNINST (R346, R349). -/
def zeroExps (s : State) : State :=
  let xs := s.tef.exps.map fun p => (p.1, { freshExp with kat := p.2.kat })
  let s1 := { s with tef := { s.tef with seeds := [], windows := [], exps := xs } }
  (List.range 12).foldl (fun st e =>
    let st1 := if expState st e = 5 then st else wr st (pg pTEF) (TEF.EXP.STATE.at e) 1
    wr st1 (pg pTEF) (TEF.EXP.CALLS.at e) 0) s1

end Sys2Proof.Machine
end

