-- ==== Sys2Proof/Machine/Lattice.lean ====
section
/-! DEFINITION. The lattice operations of the Sorghum arrays (R311, R313, R319): ML-KEM by FIPS 203, ML-DSA by FIPS 204 and
NTT_RAW (log entry 5). A polynomial is a list of 256 residues in rising order of coefficient. -/

namespace Sys2Proof.Machine

abbrev Poly := List Nat

/-- The low `w` bits of `n` in reverse order. -/
def bitRev : Nat → Nat → Nat
  | 0, _ => 0
  | w + 1, n => n % 2 * 2 ^ w + bitRev w (n / 2)

/-- The modulus, root of unity and number of layers of a transform. -/
structure Ring where
  q : Nat
  zeta : Nat
  layers : Nat
  scale : Nat
deriving DecidableEq, Repr

/-- FIPS 203: 7 layers, inverse scaled by 3,303 (R319). -/
def kemRing : Ring := { q := 3329, zeta := 17, layers := 7, scale := 3303 }
/-- FIPS 204: 8 layers, inverse scaled by 8,347,681 (R319). -/
def dsaRing : Ring := { q := 8380417, zeta := 1753, layers := 8, scale := 8347681 }

/-- The twiddle factor of index `i`. -/
def Ring.tw (r : Ring) (i : Nat) : Nat := powMod 8 r.q r.zeta (bitRev r.layers i)

/-- The lane operation MACQ (R304): multiply and accumulate modulo q. -/
def laneMacq (q acc x y : Nat) : Nat := (acc + x * y) % q

/-- The lane operation BFLY as a Cooley–Tukey butterfly (R304). -/
def bflyCt (q z a b : Nat) : Nat × Nat := ((a + z * b % q) % q, subMod q a (z * b % q))

/-- The lane operation BFLY as a Gentleman–Sande butterfly (R304). -/
def bflyGs (q z a b : Nat) : Nat × Nat := ((a + b) % q, subMod q a b * z % q)

/-- The layers below block `i` (block 1 is the whole polynomial), by butterflies of its first half with its second. -/
def nttGo (r : Ring) : Nat → Nat → Poly → Poly
  | 0, _, f => f
  | n + 1, i, f =>
    let h := f.length / 2
    let z := r.tw i
    let l := List.zipWith (bflyCt r.q z) (f.take h) (f.drop h)
    nttGo r n (2 * i) (l.map (·.1)) ++ nttGo r n (2 * i + 1) (l.map (·.2))

def ntt (r : Ring) (f : Poly) : Poly := nttGo r r.layers 1 f

/-- The inverse layers from block `k` of `b` blocks. -/
def inttGo (r : Ring) : Nat → Nat → Nat → Poly → Poly
  | 0, _, _, f => f
  | n + 1, b, k, f =>
    let h := f.length / 2
    let lo := inttGo r n (2 * b) (2 * k) (f.take h)
    let hi := inttGo r n (2 * b) (2 * k + 1) (f.drop h)
    let l := List.zipWith (bflyGs r.q (r.q - r.tw (2 * b - 1 - k))) lo hi
    l.map (·.1) ++ l.map (·.2)

def intt (r : Ring) (f : Poly) : Poly := (inttGo r r.layers 1 0 f).map fun x => x * r.scale % r.q

def polyAdd (r : Ring) (a b : Poly) : Poly := List.zipWith (fun x y => (x + y) % r.q) a b
def polySub (r : Ring) (a b : Poly) : Poly := List.zipWith (fun x y => subMod r.q x y) a b
def zeroPoly : Poly := List.replicate 256 0

/-- Products of degree-one residues, two coefficients at a time (FIPS 203, Algorithm 11). -/
def kemMulGo : Nat → Poly → Poly → Poly
  | i, a0 :: a1 :: as, b0 :: b1 :: bs =>
    let g := powMod 8 3329 17 (2 * bitRev 7 i + 1)
    (a0 * b0 + a1 * b1 % 3329 * g) % 3329 :: (a0 * b1 + a1 * b0) % 3329 :: kemMulGo (i + 1) as bs
  | _, _, _ => []

/-- Product in the transform's domain. -/
def polyMul (r : Ring) (a b : Poly) : Poly :=
  if r.layers = 7 then kemMulGo 0 a b else List.zipWith (fun x y => x * y % r.q) a b

/-- Inner product of vectors in the transform's domain. -/
def dot (r : Ring) (a b : List Poly) : Poly := (List.zipWith (polyMul r) a b).foldl (polyAdd r) zeroPoly

/-- `n` numbers of `w` bits, packed with the first in the lowest bits, as bytes. -/
def packBits (w : Nat) (f : List Nat) : Bytes :=
  natLe (ceilDiv (w * f.length) 8) (f.foldr (fun x acc => x % 2 ^ w + acc * 2 ^ w) 0)

/-- `n` numbers of `w` bits read from bytes. -/
def unpackGo (w : Nat) : Nat → Nat → List Nat
  | 0, _ => []
  | n + 1, v => v % 2 ^ w :: unpackGo w n (v / 2 ^ w)

def unpackBits (w n : Nat) (b : Bytes) : List Nat := unpackGo w n (leNat b)

/-! ### ML-KEM -/

structure KemSet where
  k : Nat
  eta1 : Nat
  du : Nat
  dv : Nat
deriving DecidableEq, Repr

def kemSet (set : Nat) : KemSet :=
  if set = 0x20 then { k := 2, eta1 := 3, du := 10, dv := 4 } else if set = 0x21 then { k := 3, eta1 := 2, du := 10, dv := 4 }
  else { k := 4, eta1 := 2, du := 11, dv := 5 }

/-- Rejection sampling of 12-bit candidates below 3,329. -/
def kemReject : Bytes → Poly
  | a :: b :: c :: r =>
    let d1 := a.toNat + 256 * (b.toNat % 16)
    let d2 := b.toNat / 16 + 16 * c.toNat
    (if d1 < 3329 then [d1] else []) ++ (if d2 < 3329 then [d2] else []) ++ kemReject r
  | _ => []

/-- 1,344 bytes of SHAKE128 give 896 candidates; 256 of them are below 3,329 but with probability below 2^-200. -/
def sampleNtt (b : Bytes) : Poly := (kemReject (shake128 b 1344)).take 256

/-- A centred binomial polynomial from 64 × eta bytes. -/
def cbdGo (eta : Nat) : Nat → Nat → Poly
  | 0, _ => []
  | n + 1, v =>
    subMod 3329 (popCount eta (v % 2 ^ eta)) (popCount eta (v / 2 ^ eta % 2 ^ eta)) :: cbdGo eta n (v / 2 ^ (2 * eta))

def kemNoise (eta : Nat) (seed : Bytes) (n : Nat) : Poly := cbdGo eta 256 (leNat (shake256 (seed ++ [byteOf n]) (64 * eta)))

def compress (d : Nat) (f : Poly) : Poly := f.map fun x => (2 ^ d * x * 2 + 3329) / (2 * 3329) % 2 ^ d
def decompress (d : Nat) (f : Poly) : Poly := f.map fun y => (3329 * y + 2 ^ (d - 1)) / 2 ^ d

/-- The public matrix. -/
def kemMatrix (k : Nat) (rho : Bytes) : List (List Poly) :=
  (List.range k).map fun i => (List.range k).map fun j => sampleNtt (rho ++ [byteOf j, byteOf i])

/-- Transpose of a square matrix. -/
def transpose (k : Nat) (m : List (List Poly)) : List (List Poly) :=
  (List.range k).map fun i => m.map fun row => row.getD i zeroPoly

def kemKeyGen (set : Nat) (d z : Bytes) : Bytes × Bytes :=
  let p := kemSet set
  let g := sha3_512 (d ++ [byteOf p.k])
  let rho := g.take 32
  let sig := g.drop 32
  let s := (List.range p.k).map fun i => ntt kemRing (kemNoise p.eta1 sig i)
  let e := (List.range p.k).map fun i => ntt kemRing (kemNoise p.eta1 sig (p.k + i))
  let t := List.zipWith (fun row e => polyAdd kemRing (dot kemRing row s) e) (kemMatrix p.k rho) e
  let ek := t.flatMap (packBits 12) ++ rho
  (ek, s.flatMap (packBits 12) ++ ek ++ sha3_256 ek ++ z)

def kemEncrypt (set : Nat) (ek m r : Bytes) : Bytes :=
  let p := kemSet set
  let t := (List.range p.k).map fun i => unpackBits 12 256 (slice ek (384 * i) 384)
  let a := kemMatrix p.k (slice ek (384 * p.k) 32)
  let y := (List.range p.k).map fun i => ntt kemRing (kemNoise p.eta1 r i)
  let e1 := (List.range p.k).map fun i => kemNoise 2 r (p.k + i)
  let e2 := kemNoise 2 r (2 * p.k)
  let u := List.zipWith (fun row e => polyAdd kemRing (intt kemRing (dot kemRing row y)) e) (transpose p.k a) e1
  let v := polyAdd kemRing (polyAdd kemRing (intt kemRing (dot kemRing t y)) e2) (decompress 1 (unpackBits 1 256 m))
  u.flatMap (fun f => packBits p.du (compress p.du f)) ++ packBits p.dv (compress p.dv v)

def kemDecrypt (set : Nat) (dk c : Bytes) : Bytes :=
  let p := kemSet set
  let u := (List.range p.k).map fun i => ntt kemRing (decompress p.du (unpackBits p.du 256 (slice c (32 * p.du * i) (32 * p.du))))
  let v := decompress p.dv (unpackBits p.dv 256 (slice c (32 * p.du * p.k) (32 * p.dv)))
  let s := (List.range p.k).map fun i => unpackBits 12 256 (slice dk (384 * i) 384)
  packBits 1 (compress 1 (polySub kemRing v (intt kemRing (dot kemRing s u))))

/-- The encapsulation-key modulus check. -/
def kemEkOk (set : Nat) (ek : Bytes) : Bool := (unpackBits 12 (256 * (kemSet set).k) ek).all fun x => decide (x < 3329)

/-- MLKEM_ENCAPS (R313, R314): `m` is the randomness drawn. -/
def mlkemEncapsOp (set : Nat) (ek m : Bytes) : OpRes :=
  if kemEkOk set ek then
    let g := sha3_512 (m.take 32 ++ sha3_256 ek)
    okRes (kemEncrypt set ek (m.take 32) (g.drop 32) ++ g.take 32)
  else badInput

/-- MLKEM_DECAPS with implicit rejection (R313). -/
def mlkemDecapsOp (set : Nat) (c dk : Bytes) : OpRes :=
  let k := (kemSet set).k
  let ek := slice dk (384 * k) (384 * k + 32)
  let h := slice dk (768 * k + 32) 32
  let z := slice dk (768 * k + 64) 32
  if sha3_256 ek = h then
    let m := kemDecrypt set dk c
    let g := sha3_512 (m ++ h)
    okRes (if kemEncrypt set ek m (g.drop 32) = c then g.take 32 else shake256 (z ++ c) 32)
  else badInput

/-! ### ML-DSA -/

structure DsaSet where
  k : Nat
  l : Nat
  eta : Nat
  tau : Nat
  beta : Nat
  gamma1 : Nat
  gamma2 : Nat
  omega : Nat
  lam4 : Nat
  zBits : Nat
  w1Bits : Nat
deriving DecidableEq, Repr

def dsaSet (set : Nat) : DsaSet :=
  if set = 0x30 then { k := 4, l := 4, eta := 2, tau := 39, beta := 78, gamma1 := 2 ^ 17, gamma2 := 95232, omega := 80, lam4 := 32, zBits := 18, w1Bits := 6 }
  else if set = 0x31 then { k := 6, l := 5, eta := 4, tau := 49, beta := 196, gamma1 := 2 ^ 19, gamma2 := 261888, omega := 55, lam4 := 48, zBits := 20, w1Bits := 4 }
  else { k := 8, l := 7, eta := 2, tau := 60, beta := 120, gamma1 := 2 ^ 19, gamma2 := 261888, omega := 75, lam4 := 64, zBits := 20, w1Bits := 4 }

def dsaQ : Nat := 8380417

/-- Distance from 0 of a residue. -/
def absQ (x : Nat) : Nat := min x (dsaQ - x)
def normLt (b : Nat) (fs : List Poly) : Bool := fs.all fun f => f.all fun x => decide (absQ x < b)

def dsaReject : Bytes → Poly
  | a :: b :: c :: r =>
    let z := a.toNat + 256 * b.toNat + 65536 * (c.toNat % 128)
    (if z < dsaQ then [z] else []) ++ dsaReject r
  | _ => []

def dsaMatrix (p : DsaSet) (rho : Bytes) : List (List Poly) :=
  (List.range p.k).map fun r => (List.range p.l).map fun s => (dsaReject (shake128 (rho ++ [byteOf s, byteOf r]) 1008)).take 256

/-- Unpack `top - value` for 256 values of `w` bits. -/
def unpackSub (w top : Nat) (b : Bytes) : Poly := (unpackBits w 256 b).map fun v => subMod dsaQ top v
def packSub (w top : Nat) (f : Poly) : Bytes := packBits w (f.map fun x => subMod dsaQ top x)

/-- `n` polynomials of `sz` bytes each from `off`. -/
def polysAt (b : Bytes) (off sz n : Nat) (f : Bytes → Poly) : List Poly := (List.range n).map fun i => f (slice b (off + sz * i) sz)

/-- Take the first index not above `i` from the sampling bytes. -/
def ballPick (i : Nat) : Bytes → Nat × Bytes
  | [] => (0, [])
  | b :: r => if b.toNat ≤ i then (b.toNat, r) else ballPick i r

def ballGo (tau sign : Nat) : Nat → Bytes → Poly → Poly
  | 0, _, c => c
  | n + 1, bs, c =>
    let i := 256 - (n + 1)
    let (j, r) := ballPick i bs
    let c1 := listSet c i (c.getD j 0)
    ballGo tau sign n r (listSet c1 j (if bitAt sign (i + tau - 256) then dsaQ - 1 else 1))

/-- SampleInBall. -/
def sampleBall (tau : Nat) (seed : Bytes) : Poly :=
  let s := shake256 seed 1360
  ballGo tau (leNat (s.take 8)) tau (s.drop 8) zeroPoly

/-- Decompose: high bits and whether the low part is positive, and the low part as a residue. -/
def decompose (g2 x : Nat) : Nat × Nat :=
  let m := x % (2 * g2)
  let r0 : Int := if m ≤ g2 then (m : Int) else (m : Int) - (2 * g2 : Nat)
  if (x : Int) - r0 = (dsaQ - 1 : Nat) then (0, ((r0 - 1) % (dsaQ : Int)).toNat)
  else ((((x : Int) - r0) / ((2 * g2 : Nat) : Int)).toNat, (r0 % (dsaQ : Int)).toNat)

def highBits (g2 x : Nat) : Nat := (decompose g2 x).1
def lowBits (g2 x : Nat) : Nat := (decompose g2 x).2

def useHint (g2 : Nat) (h : Nat) (x : Nat) : Nat :=
  let m := (dsaQ - 1) / (2 * g2)
  let d := decompose g2 x
  if h = 0 then d.1 else if d.2 ≠ 0 ∧ d.2 ≤ g2 then (d.1 + 1) % m else (d.1 + m - 1) % m

def w1Encode (p : DsaSet) (w1 : List Poly) : Bytes := w1.flatMap (packBits p.w1Bits)

/-- The byte message of pure mode with a context. -/
def dsaMsg (ctx msg : Bytes) : Bytes := [0, byteOf ctx.length] ++ ctx ++ msg

/-- Positions of the set hints, row by row, and the running counts. -/
def hintPack (omega : Nat) (h : List Poly) : Bytes :=
  let rows := h.map fun f => (List.range 256).filter fun i => f.getD i 0 != 0
  let idx := rows.flatten
  let ends := (List.range rows.length).map fun i => (rows.take (i + 1)).flatten.length
  idx.map byteOf ++ zeros (omega - idx.length) ++ ends.map byteOf

/-- The hint rows from `lo` on; none when the coding is not canonical. -/
def hintRows (y : List Nat) (omega : Nat) : Nat → List Nat → Option (List Poly)
  | lo, [] => if ((y.take omega).drop lo).all (· == 0) then some [] else none
  | lo, e :: es =>
    if e < lo ∨ omega < e then none
    else
      let pos := (y.take e).drop lo
      if (List.zipWith (fun a b => decide (a < b)) pos (pos.drop 1)).all id then
        (hintRows y omega e es).map fun r => ((List.range 256).map fun i => if pos.contains i then 1 else 0) :: r
      else none

/-- One signing round: the signature when it is not rejected. -/
def dsaRound (p : DsaSet) (a : List (List Poly)) (s1 s2 t0 : List Poly) (mu rho : Bytes) (kappa : Nat) : Option Bytes :=
  let rg := dsaRing
  let y := (List.range p.l).map fun r => unpackSub p.zBits p.gamma1 (shake256 (rho ++ natLe 2 (kappa + r)) (32 * p.zBits))
  let yh := y.map (ntt rg)
  let w := a.map fun row => intt rg (dot rg row yh)
  let w1 := w.map fun f => f.map (highBits p.gamma2)
  let ct := shake256 (mu ++ w1Encode p w1) p.lam4
  let c := ntt rg (sampleBall p.tau ct)
  let mulc := fun (f : Poly) => intt rg (polyMul rg c f)
  let z := List.zipWith (fun f g => polyAdd rg f (mulc g)) y s1
  let r := List.zipWith (fun f g => polySub rg f (mulc g)) w s2
  let r0 := r.map fun f => f.map (lowBits p.gamma2)
  if normLt (p.gamma1 - p.beta) z && normLt (p.gamma2 - p.beta) r0 then
    let c0 := t0.map mulc
    let h := List.zipWith (fun f g => List.zipWith (fun x t => bit (highBits p.gamma2 ((x + t) % dsaQ) != highBits p.gamma2 x)) f g) r c0
    if normLt p.gamma2 c0 && decide ((h.flatten).foldl (· + ·) 0 ≤ p.omega) then
      some (ct ++ z.flatMap (packSub p.zBits p.gamma1) ++ hintPack p.omega h)
    else none
  else none

/-- Rounds until one is not rejected: the signature, and how many rounds it took. -/
def dsaLoop (f : Nat → Option Bytes) (l : Nat) : Nat → Nat → Option (Bytes × Nat)
  | 0, _ => none
  | n + 1, kappa => match f kappa with
    | some s => some (s, kappa / max 1 l + 1)
    | none => dsaLoop f l n (kappa + l)

/-- ML-DSA signing (R313): pure mode with context; `rnd` is 32 bytes. The bound of 814 rounds is that of FIPS 204, Appendix C. -/
def dsaSign (set : Nat) (ctx msg sk rnd : Bytes) : Option (Bytes × Nat) :=
  let p := dsaSet set
  let eb := if p.eta = 2 then 3 else 4
  let s1 := polysAt sk 128 (32 * eb) p.l (unpackSub eb p.eta)
  let s2 := polysAt sk (128 + 32 * eb * p.l) (32 * eb) p.k (unpackSub eb p.eta)
  let t0 := polysAt sk (128 + 32 * eb * (p.l + p.k)) 416 p.k (unpackSub 13 4096)
  let mu := shake256 (slice sk 64 64 ++ dsaMsg ctx msg) 64
  let rho := shake256 (slice sk 32 32 ++ rnd ++ mu) 64
  let n := ntt dsaRing
  dsaLoop (dsaRound p (dsaMatrix p (slice sk 0 32)) (s1.map n) (s2.map n) ((t0).map n) mu rho) p.l 814 0

/-- MLDSA_SIGN (R313). -/
def mldsaSignOp (set : Nat) (ctx msg sk rnd : Bytes) : OpRes :=
  match dsaSign set ctx msg sk rnd with
  | some s => okRes s.1
  | none => failRes 0x28 0x12 0

/-- Rounds that a signing step takes (R315). -/
def dsaRounds (set : Nat) (ctx msg sk rnd : Bytes) : Nat := match dsaSign set ctx msg sk rnd with | some s => s.2 | none => 814

def dsaVerify (set : Nat) (pk sig ctx msg : Bytes) : Bool :=
  let p := dsaSet set
  let rg := dsaRing
  let ct := slice sig 0 p.lam4
  let z := polysAt sig p.lam4 (32 * p.zBits) p.l (unpackSub p.zBits p.gamma1)
  let y := (slice sig (p.lam4 + 32 * p.zBits * p.l) (p.omega + p.k)).map (·.toNat)
  match hintRows y p.omega 0 (y.drop p.omega) with
  | none => false
  | some h =>
    let t1 := polysAt pk 32 320 p.k (fun b => (unpackBits 10 256 b).map fun x => x * 8192 % dsaQ)
    let mu := shake256 (shake256 pk 64 ++ dsaMsg ctx msg) 64
    let c := ntt rg (sampleBall p.tau ct)
    let zh := z.map (ntt rg)
    let w := List.zipWith (fun row t => intt rg (polySub rg (dot rg row zh) (polyMul rg c (ntt rg t)))) (dsaMatrix p (slice pk 0 32)) t1
    let w1 := List.zipWith (fun hf f => List.zipWith (useHint p.gamma2) hf f) h w
    normLt (p.gamma1 - p.beta) z && ct == shake256 (mu ++ w1Encode p w1) p.lam4

/-- NTT_RAW (R319). -/
def nttRawOp (set : Nat) (inverse : Bool) (inp : Bytes) : OpRes :=
  let r := if set = 0x40 then kemRing else dsaRing
  let f := unpackBits 32 256 inp
  if f.all fun x => decide (x < r.q) then okRes (packBits 32 (if inverse then intt r f else ntt r f)) else badInput

/-! ### One Sorghum operation -/

/-- The arithmetic block (R139). -/
structure ArBlk where
  bits : Nat
  set : Nat
  flags : Nat
  keyFrag : Nat
  ctxLen : Nat
deriving DecidableEq, Repr

def arBlk (p : Bytes) : ArBlk :=
  { bits := pfield p 0 2, set := pfield p 2 1, flags := pfield p 3 1, keyFrag := pfield p 4 1, ctxLen := pfield p 6 2 }

/-- The rnd of MLDSA_SIGN (R313): zero bytes under DETERMINISTIC. -/
def signRnd (a : ArBlk) (rnd : Bytes) : Bytes := if bitAt a.flags 2 then zeros 32 else slice rnd 0 32

/-- What an arithmetic step computes from its input, its private operand and the randomness drawn (R311, R313). -/
def arithRes (op : Nat) (a : ArBlk) (inp priv rnd : Bytes) : OpRes :=
  let z := latticeSizes a.set
  if op = 0x30 then macOp (a.bits / 8) inp
  else if op = 0x31 then modexpOp (a.bits / 8) inp priv
  else if op = 0x32 then rsaCrtOp (a.bits / 8) inp priv
  else if op = 0x33 then ecdsaSignOp a.set inp priv rnd
  else if op = 0x34 then ecdsaVerifyOp a.set inp
  else if op = 0x35 then ecdhOp a.set inp priv
  else if op = 0x36 then okRes (edSign priv inp)
  else if op = 0x37 then verifyRes (edVerify (slice inp 0 32) (slice inp 32 64) (inp.drop 96))
  else if op = 0x38 then x25519Op inp priv
  else if op = 0x39 then mlkemEncapsOp a.set inp rnd
  else if op = 0x3A then mlkemDecapsOp a.set inp priv
  else if op = 0x3B then let k := kemKeyGen a.set (slice rnd 0 32) (slice rnd 32 32); okRes (k.1 ++ k.2)
  else if op = 0x3C then
    mldsaSignOp a.set (inp.take a.ctxLen) (inp.drop a.ctxLen) priv (signRnd a rnd)
  else if op = 0x3D then
    let r := inp.drop (z.1 + z.2.2)
    verifyRes (dsaVerify a.set (slice inp 0 z.1) (slice inp z.1 z.2.2) (r.take a.ctxLen) (r.drop a.ctxLen))
  else nttRawOp a.set (bitAt a.flags 3) inp

/-- Length of the private operand (R311); none for an operation without one. -/
def privLen (op : Nat) (a : ArBlk) : Option Nat :=
  if op = 0x31 then (if a.keyFrag = 0x3F then none else some (a.bits / 8))
  else if op = 0x32 then some (5 * (a.bits / 16))
  else if op = 0x33 ∨ op = 0x35 then some (curveBytes a.set)
  else if op = 0x36 ∨ op = 0x38 then some 32
  else if op = 0x3A ∨ op = 0x3C then some (latticeSizes a.set).2.1
  else none

/-- Input lengths of an arithmetic step: the smallest and the largest (R311). -/
def arithInLen (op : Nat) (a : ArBlk) : Nat × Nat :=
  let n := curveBytes a.set
  let z := latticeSizes a.set
  if op = 0x30 then (a.bits / 2, a.bits / 2)
  else if op = 0x31 then let m := a.bits / 8 * (if a.keyFrag = 0x3F then 3 else 2); (m, m)
  else if op = 0x32 then (a.bits / 4 + 8, a.bits / 4 + 8)
  else if op = 0x33 then (1, 64)
  else if op = 0x34 then (4 * n + 1, 4 * n + 64)
  else if op = 0x35 then (2 * n, 2 * n)
  else if op = 0x36 then (0, 32768)
  else if op = 0x37 then (96, 96 + 32768)
  else if op = 0x38 then (32, 32)
  else if op = 0x39 then (z.1, z.1)
  else if op = 0x3A then (z.2.2, z.2.2)
  else if op = 0x3B then (0, 0)
  else if op = 0x3C then (a.ctxLen, 32768)
  else if op = 0x3D then (z.1 + z.2.2 + a.ctxLen, z.1 + z.2.2 + 32768)
  else (1024, 1024)

/-- Bytes of randomness an operation draws from expander 10 (R314). -/
def arithDraw (op : Nat) (a : ArBlk) : Nat :=
  if op = 0x32 then 48
  else if op = 0x31 then (if a.keyFrag = 0x3F then 0 else 32)
  else if op = 0x33 then 2 * (curveBytes a.set + 8) + 16
  else if op = 0x35 ∨ op = 0x36 ∨ op = 0x38 then 48
  else if op = 0x39 then 32
  else if op = 0x3B then (if bitAt a.flags 1 then 72 else 64)
  else if op = 0x3C then (if bitAt a.flags 2 then 0 else 32)
  else 0

/-- Checks 1 to 4 of the arithmetic block (R312): the PARAM detail of the first that fails. -/
def arithParam (op : Nat) (a : ArBlk) : Option Nat :=
  let setOk := if op ≤ 0x32 then a.set == 0 else if op ≤ 0x35 then decide (1 ≤ a.set ∧ a.set ≤ 3) else if op ≤ 0x38 then a.set == 0x10
    else if op ≤ 0x3B then decide (0x20 ≤ a.set ∧ a.set ≤ 0x22) else if op ≤ 0x3D then decide (0x30 ≤ a.set ∧ a.set ≤ 0x32)
    else a.set == 0x40 || a.set == 0x41
  let bitsOk := if op = 0x30 ∨ op = 0x31 then decide (64 ≤ a.bits ∧ a.bits ≤ 16384 ∧ a.bits % 64 = 0)
    else if op = 0x32 then decide (1024 ≤ a.bits ∧ a.bits ≤ 16384 ∧ a.bits % 128 = 0) else a.bits == 0
  let sealedOk := op == 0x31 || op == 0x32 || op == 0x33 || op == 0x35 || op == 0x36 || op == 0x38 || op == 0x3A || op == 0x3C
  let flagsOk := (sealedOk || !bitAt a.flags 0) && (op == 0x3B || !bitAt a.flags 1) && (op == 0x3C || !bitAt a.flags 2)
    && (op == 0x3E || !bitAt a.flags 3)
  let needsKey := op == 0x32 || op == 0x33 || op == 0x35 || op == 0x36 || op == 0x38 || op == 0x3A || op == 0x3C
  let keyOk := if needsKey then a.keyFrag != 0x3F else if op = 0x31 then true else a.keyFrag == 0x3F
  if !setOk then some 0x19
  else if !bitsOk then some 0x1A
  else if !flagsOk then some 0x1D
  else if !keyOk || (a.ctxLen != 0 && op != 0x3C && op != 0x3D) then some 0x1D
  else none

end Sys2Proof.Machine
end

