-- ==== Sys2Proof/Machine/Validate.lean ====
section
/-! DEFINITION. The validation of an entry on its spikelet (R123 to R126): structure, presence of units, values, result and
bins, each check in the order of R123, and the parameter checks of every operation. -/

namespace Sys2Proof.Machine

/-! ### Structure -/

/-- The second source of a COMPARE step as a descriptor (R132): it is validated like IN. -/
def src2Of (d : Desc) (p : Bytes) : Desc :=
  { d0 := d.op + 256 * (pfield p 0 1 % 8) + 2048 * (pfield p 1 1 % 8), d1 := pfield p 2 1 % 64 + 64 * (pfield p 3 1 % 64) + d.len * 2 ^ 32 }

/-- Whether a source's range lies in the entry and is not empty (R125, 0x015). -/
def srcInside (b : Bytes) (d : Desc) : Bool :=
  if d.inC = inFRAGS then decide (1 ≤ d.inCount ∧ d.inFirst + d.inCount ≤ entFrags b)
  else if d.inC = inINLINE then decide (16 * d.inFirst + d.len ≤ entInlineLen b)
  else true

/-- Whether an output range lies in the entry and is not empty. -/
def outInside (b : Bytes) (d : Desc) : Bool :=
  !outToFrags d.outC || decide (1 ≤ d.outCount ∧ d.outFirst + d.outCount ≤ entFrags b)

/-- The descriptors of a step's ranges, one list a range: input, output, COMPARE's second source, and the private operand. -/
def stepRanges (b : Bytes) (d : Desc) : List (List FragDesc) :=
  let f := fun (x : Desc) => if x.inC = inFRAGS then fragRange b x.inFirst x.inCount else []
  [f d, if outToFrags d.outC then fragRange b d.outFirst d.outCount else []] ++
    (if d.op = 0x63 then [f (src2Of d (paramBlock b d))] else if isArith d.op then [fragRange b (arBlk (paramBlock b d)).keyFrag 1] else [])

/-- Fields that R114 requires to be 0 (0x01E). -/
def unusedIn (d : Desc) : Bool :=
  (d.inFirst != 0 && d.inC != inFRAGS && d.inC != inINLINE) || (d.inCount != 0 && d.inC != inFRAGS)
def unusedBad (d : Desc) : Bool :=
  unusedIn d || ((d.outFirst != 0 || d.outCount != 0) && !outToFrags d.outC)

/-- The bytes that a source in the entry holds, where the entry alone gives them (R120): a TEE holds its source step's LENGTH, or all its
source where that is 0. -/
def heldHere (b : Bytes) (d : Desc) : Option Nat :=
  let own := fun (x : Desc) =>
    if x.inC = inFRAGS then rangeLen (fragRange b x.inFirst x.inCount)
    else if x.inC = inINLINE then some (entInlineLen b - 16 * x.inFirst) else none
  if d.inC = inTEE then
    let t := descAt b d.inStep
    let u := if t.inC = inTEE then descAt b (sourceStep 8 b d.inStep) else t
    (own u).map fun n => if u.len = 0 then n else u.len
  else own d

/-- Whether such a source holds fewer than LENGTH bytes (R120). -/
def sourceShort (b : Bytes) (d : Desc) : Bool := match heldHere b d with | some n => decide (n < d.len) | none => false

/-- Whether a TEE's source step has no input (R125). -/
def teeEmpty (b : Bytes) (d : Desc) : Bool :=
  let t := descAt b d.inStep
  d.inC == inTEE && (if t.inC = inTEE then (descAt b (sourceStep 8 b d.inStep)).inC else t.inC) == inNONE

/-- The MALFORMED detail of step `k`, 0 when its structure is sound (R123): `gates` and `inls` count the GATE steps and the
OUT = INLINE steps before it. -/
def structCheck (b : Bytes) (k gates inls : Nat) : Nat :=
  let d := descAt b k
  let rs := stepRanges b d
  let s2 := src2Of d (paramBlock b d)
  let cmp := d.op == 0x63
  let c2 := pfield (paramBlock b d) 0 1
  let named := d.inC == inSTREAM || d.inC == inBIN || d.inC == inTEE
  if d.rzBad || rs.any (fun r => r.any fun f => f.flags / 4 != 0) then 0x10
  else if !inCatalogue d.op then 0x11
  else if entInlineLen b < 16 * (d.pOff + d.pUnits) then 0x12
  else if 5 < d.inC ∨ 5 < d.outC ∨ !opAccepts d.op d.inC d.outC d.verifyOnly then 0x13
  else if cmp ∧ !(c2 == inFRAGS || c2 == inINLINE || c2 == inBIN || c2 == inTEE) then 0x13
  else if named ∧ k ≤ d.inStep then 0x14
  else if cmp ∧ (c2 = inBIN ∨ c2 = inTEE) ∧ k ≤ pfield (paramBlock b d) 1 1 then 0x14
  else if d.inC = inSTREAM ∧ !outToStream (descAt b d.inStep).outC then 0x13
  else if d.inC = inBIN ∧ (descAt b d.inStep).outC ≠ outBIN then 0x13
  else if cmp ∧ c2 = inBIN ∧ (descAt b s2.inStep).outC ≠ outBIN then 0x13
  else if !srcInside b d || !outInside b d || (cmp && !srcInside b s2) then 0x15
  else if cmp && ((c2 == inFRAGS && decide (63 < pfield (paramBlock b d) 3 1)) ||
      ((c2 == inFRAGS || c2 == inINLINE) && decide (63 < pfield (paramBlock b d) 2 1))) then 0x15
  else if isArith d.op && (arBlk (paramBlock b d)).keyFrag != 0x3F && decide (entFrags b ≤ (arBlk (paramBlock b d)).keyFrag) then 0x15
  else if d.op = 0x60 ∧ !entGateEn b then 0x18
  else if d.op = 0x60 ∧ gates ≠ 0 then 0x19
  else if d.outC = outINLINE ∧ (!entInlineOut b || inls != 0) then 0x17
  else if rs.any (fun r => r.any fun f => !f.chain && f.len == 0) then 0x1A
  else if rs.any placementBad then 0x1B
  else if isArith d.op && (arBlk (paramBlock b d)).keyFrag != 0x3F && (fragAt b (arBlk (paramBlock b d)).keyFrag).chain then 0x1B
  else if sourceShort b d || (cmp && sourceShort b s2) then 0x1D
  else if unusedBad d || (cmp && (unusedIn s2 || (c2 != inFRAGS && c2 != inINLINE && decide (pfield (paramBlock b d) 2 1 ≠ 0)) ||
      (c2 != inFRAGS && decide (pfield (paramBlock b d) 3 1 ≠ 0)))) then 0x1E
  else if teeEmpty b d || (cmp && teeEmpty b s2) then 0x13
  else 0

/-- The first stream output that is not taken exactly once (R116). -/
def streamBad (b : Bytes) : Option Nat :=
  (List.range (entSteps b)).find? fun k =>
    outToStream (descAt b k).outC &&
      ((List.range (entSteps b)).filter fun j => decide (k < j) && (descAt b j).inC == inSTREAM && (descAt b j).inStep == k).length != 1

/-- The first structural failure: step and detail. -/
def structFail (b : Bytes) : Option (Nat × Nat) :=
  let n := entSteps b
  let cnt := fun (k : Nat) (f : Desc → Bool) => ((List.range k).filter fun j => f (descAt b j)).length
  match (List.range n).find? fun k => structCheck b k (cnt k fun d => d.op == 0x60) (cnt k fun d => d.outC == outINLINE) != 0 with
  | some k => some (k, structCheck b k (cnt k fun d => d.op == 0x60) (cnt k fun d => d.outC == outINLINE))
  | none => (streamBad b).map fun k => (k, 0x16)

/-! ### Presence of units (R3, R150, R492, R493, R497) -/

/-- Whether the life-cycle state allows keyed service (R410). -/
def keyedService (s : State) : Bool := lcState s == 2 || lcState s == 3

/-- The cores of a group that are not excluded, by kind: SHA-2 or Keccak. -/
def coresOn (s : State) (g : Nat) (keccak : Bool) : Nat :=
  if keccak then 4 - popCount 4 (rd s (pg (pEMR g)) EMR.CORE_OFF.KECCAK) else 16 - popCount 16 (rd s (pg (pEMR g)) EMR.CORE_OFF.SHA2)

def isKeccak (op : Nat) : Bool := decide (0x24 ≤ op ∧ op ≤ 0x28)

/-- Enabled groups with a core of a kind. -/
def groupsFor (s : State) (keccak : Bool) : List Nat := (enGroups s).filter fun g => decide (0 < coresOn s g keccak)

/-- The KCC is out of reach for good: fenced, or not ENABLED in a state without keyed service (R493, R497). -/
def kccGone (s : State) : Bool := ustate s pKCC == 4 || (!enabled s pKCC && !keyedService s)

/-- Whether lattice lane mode can run: present and enabled on a usable array (R2, R328). -/
def latticeArrays (s : State) : List Nat :=
  if s.part.hasLattice then (enArrays s).filter fun a => flag s (pg (pSRG a)) SRG.CTL.LATTICE_EN else []

/-- Whether a step holds text in bins (R122). -/
def holdsBins (b : Bytes) (k : Nat) : Bool :=
  let d := descAt b k
  d.outC == outBIN || (isAes d.op && holdsInput d.op (aesBlk (paramBlock b d)))

/-- The unit ID of the unit that step `k` misses, 0 when all are there. `sp` is the spike and `port` the ring's port. -/
def unitMissing (s : State) (sp port : Nat) (b : Bytes) (k : Nat) : Nat :=
  let d := descAt b k
  let op := d.op
  let p := paramBlock b d
  let safe := flag s (pg (pSPK sp)) SPK.STAT.SAFE_MC
  let safeOk := (op == 0 || decide (0x20 ≤ op ∧ op ≤ 0x2F) || isKeyOp op) && port == 0
  let a := arBlk p
  if safe ∧ !safeOk then 0x13
  else if !enabled s pSYS then 1
  else if !enabled s pTCK then 3
  else if !enabled s pCHF then 4
  else if holdsBins b k && !enabled s pHLD then 9
  else if isAes op then
    if (enLanes s).isEmpty then 0x10 else if !enabled s pHLD then 9 else if kccGone s then 8 else 0
  else if isDigest op then
    if (groupsFor s (isKeccak op)).isEmpty then 0x11 else if isHmac op && kccGone s then 8 else 0
  else if op = 0x2F then (if (groupsFor s false).isEmpty then 0x11 else 0)
  else if isArith op then
    if (if isLattice op then latticeArrays s else enArrays s).isEmpty then 0x12
    else if arithDraw op a ≠ 0 ∧ !enabled s pTEF then 7
    else if (op = 0x36 ∨ op = 0x37) ∧ (groupsFor s false).isEmpty then 0x11
    else if isLattice op ∧ (groupsFor s true).isEmpty then 0x11
    else if (bitAt a.flags 0 || bitAt a.flags 1) && kccGone s then 8
    else if (bitAt a.flags 0 || bitAt a.flags 1) && (enLanes s).isEmpty then 0x10
    else 0
  else if isRng op then (if enabled s pTEF then 0 else 7)
  else if isKeyOp op then
    if kccGone s then 8
    else if op = 0x54 ∧ (groupsFor s false).isEmpty then 0x11
    else if (op = 0x50 ∨ op = 0x51) ∧ (enLanes s).isEmpty then 0x10
    else 0
  else 0

/-! ### Values (R126, R135, R136, R138, R141, R142, R146) -/

/-- The class of an AES opcode: an AEAD mode with text. -/
def isAead (op : Nat) : Bool := op == 0x14 || op == 0x16 || op == 0x17

/-- Check 1 of R135: flags and reserved fields. -/
def aesFlagsBad (op : Nat) (a : AesBlk) (p : Bytes) (vo : Bool) (outC : Nat) : Bool :=
  let noIv := op == 0x10 || op == 0x13 || op == 0x18 || op == 0x19 || op == 0x1A
  decide (2 ^ 23 ≤ pfield p 0 4) || a.flags / 64 != 0 || a.piFmt / 4 != 0
    || (vo && !((isAead op && a.decrypt) || (op == 0x13 && a.decrypt && a.piCheck)))
    || (vo && outC != outNONE)
    || (a.ivGen && (a.ivInInput || a.decrypt)) || ((a.ivGen || a.ivInInput) && noIv)
    || (a.tagInBlock && !(isAead op || op == 0x15 || op == 0x18))
    || (a.aadLen != 0 && !isAead op)

/-- Check 2 of R135. -/
def aesTagLenBad (op : Nat) (a : AesBlk) : Bool :=
  let t := a.tagLen
  if op = 0x14 ∨ op = 0x15 then !(t == 4 || t == 8 || decide (12 ≤ t ∧ t ≤ 16))
  else if op = 0x16 then !decide (4 ≤ t ∧ t ≤ 16 ∧ t % 2 = 0)
  else if op = 0x17 then t != 16
  else if op = 0x18 then !decide (4 ≤ t ∧ t ≤ 16)
  else false

/-- Check 3 of R135. -/
def aesIvLenBad (op : Nat) (a : AesBlk) : Bool :=
  let n := a.ivLen
  if op = 0x11 ∨ op = 0x12 then n != 0 && n != 16
  else if op = 0x14 ∨ op = 0x15 then !(decide (1 ≤ n ∧ n ≤ 16) || (a.ivInInput && n != 0))
  else if op = 0x16 then !decide (7 ≤ n ∧ n ≤ 13)
  else if op = 0x17 then n != 12
  else false

/-- Check 4 of R135: the data-unit size and, when the input length is known, the whole-unit rule (R200, R205). -/
def aesUnitBad (op : Nat) (a : AesBlk) (n : Option Nat) : Bool :=
  let un := a.duBytes + piBytes (bitsAt a.piFmt 0 2)
  if op = 0x13 then
    !decide (a.duBytes % 16 = 0 ∧ 16 ≤ a.duBytes ∧ a.duBytes ≤ 2 ^ 24) || (match n with | some m => m % un != 0 | none => false)
  else if op = 0x14 then
    a.duBytes != 0 && (decide (a.duBytes % 16 ≠ 0 ∨ 2 ^ 18 < a.duBytes) || a.ivLen != 12 || a.tagInBlock)
  else if op = 0x15 ∨ op = 0x16 ∨ op = 0x17 then a.duBytes != 0
  else false

/-- Check 5 of R135: protection information (R203). -/
def aesPiBad (op : Nat) (a : AesBlk) : Bool :=
  let f := bitsAt a.piFmt 0 2
  (f != 0 && op != 0x13) || ((a.piGen || a.piCheck) && (f == 0 || (a.piGen && (a.piCheck || a.decrypt))))
    || (op == 0x13 && f == 1 && a.duBytes != 512) || (op == 0x13 && decide (2 ≤ f) && a.duBytes != 4096)

/-- Check 6 of R135 for a known input length (R196, R197, R205). -/
def aesLenBad (op : Nat) (a : AesBlk) (n : Nat) : Bool :=
  let lead := (if a.ivInInput then a.ivBytes op else 0) + (if isAead op then a.aadLen else 0)
  let units := op == 0x14 && a.duBytes != 0
  let tags := if a.decrypt && (isAead op || op == 0x15 || op == 0x18) && !a.tagInBlock && !units then a.tagLen else 0
  let t := n - lead - tags
  let per := a.duBytes + a.tagLen
  if n < lead + tags then true
  else if 2 ^ 32 ≤ t then true
  else if op = 0x10 ∨ op = 0x11 then t % 16 != 0 || t == 0
  else if op = 0x12 ∨ op = 0x13 ∨ op = 0x15 ∨ op = 0x18 then t == 0
  else if op = 0x14 then units && a.decrypt && (decide (t < a.tagLen) || (decide (a.tagLen < t) && decide (0 < t % per ∧ t % per ≤ a.tagLen)))
  else if op = 0x16 then decide (2 ^ (8 * (15 - a.ivLen)) ≤ t)
  else if op = 0x17 then decide (2 ^ 18 < n)
  else if op = 0x19 then t % 8 != 0 || (if a.decrypt then !decide (24 ≤ t ∧ t ≤ 4104) else !decide (16 ≤ t ∧ t ≤ 4096))
  else if a.decrypt then t % 8 != 0 || !decide (16 ≤ t ∧ t ≤ 4104)
  else !decide (1 ≤ t ∧ t ≤ 4096)

/-- The PARAM detail of an AES step (R135), 0 when none. -/
def aesParam (op : Nat) (p : Bytes) (vo : Bool) (outC : Nat) (n : Option Nat) : Nat :=
  let a := aesBlk p
  if aesFlagsBad op a p vo outC then 0x1D
  else if aesTagLenBad op a then 0x11
  else if aesIvLenBad op a then 0x12
  else if aesUnitBad op a n then 0x13
  else if aesPiBad op a then 0x14
  else match n with
    | some m => if aesLenBad op a m then 0x10 else 0
    | none => 0

/-- Whether any byte of a block's range is not zero. -/
def anyByte (p : Bytes) (off n : Nat) : Bool := (slice p off n).any (· != 0)

/-- The digest output length of a block (R136). -/
def digestOutLen (op : Nat) (p : Bytes) : Nat := if pfield p 8 4 = 0 then digestLen op else pfield p 8 4

/-- The PARAM detail of a digest step (R136, R283). -/
def digestParam (op : Nat) (p : Bytes) (outC : Nat) (n : Option Nat) : Nat :=
  let verify := bitAt (pfield p 4 1) 0
  let exp := bitAt (pfield p 4 1) 1
  let ol := pfield p 8 4
  let shake := op == 0x27 || op == 0x28
  if pfield p 4 1 / 4 ≠ 0 || anyByte p 5 3 || anyByte p 12 4 || (isHmac op && decide (2 ^ 23 ≤ pfield p 0 4)) then 0x1D
  else if outC = outNONE ∧ !verify then 0x1D
  else if exp ∧ !verify then 0x1D
  else if ol ≠ 0 ∧ !(if shake then decide (ol ≤ 65536) else decide (4 ≤ ol ∧ ol ≤ digestLen op)) then 0x11
  else if exp && (match n with | some m => decide (m < digestOutLen op p) | none => false) then 0x10
  else 0

/-- Whether a known length lies outside a range. -/
def lenOutside (n : Option Nat) (lo hi : Nat) : Bool := match n with | some m => !decide (lo ≤ m ∧ m ≤ hi) | none => false

/-- The PARAM detail of an operation for its block and, when known, its input length (R126). -/
def opParam (op : Nat) (p : Bytes) (vo : Bool) (outC realm : Nat) (n : Option Nat) : Nat :=
  if isAes op then aesParam op p vo outC n
  else if vo then 0x1D
  else if isDigest op then digestParam op p outC n
  else if op = 0x2F then
    if 63 < pfield p 0 1 || anyByte p 1 15 then 0x1D
    else if (match n with | some m => m != 32 && m != 48 && m != 64 | none => false) then 0x10
    else if pfield p 0 1 < 16 ∧ realm ≠ 0 then 0x1C else 0
  else if isArith op then
    let a := arBlk p
    match arithParam op a with
    | some e => e
    | none =>
      if a.flags / 16 ≠ 0 || anyByte p 5 1 || anyByte p 8 8 || decide (255 < a.ctxLen) then 0x1D
      else if lenOutside n (arithInLen op a).1 (arithInLen op a).2 then 0x10 else 0
  else if op = 0x40 then
    if pfield p 4 1 / 2 ≠ 0 || anyByte p 5 11 then 0x1D
    else if pfield p 0 4 = 0 ∨ 65536 < pfield p 0 4 then 0x10 else if lenOutside n 0 48 then 0x10 else 0
  else if op = 0x41 then (if lenOutside n 0 48 then 0x10 else 0)
  else if op = 0x62 then (if pfield p 8 4 = 0 then 0x10 else 0)
  else if op = 0x63 then (if anyByte p 4 12 then 0x1D else 0)
  else if op = 0x60 then (if anyByte p 14 2 || anyByte p 20 4 || decide (2 ^ 24 < pfield p 16 4) then 0x1D else 0)
  else if isKeyOp op then
    if 2 ^ 23 ≤ pfield p 0 4 || pfield p 5 1 / 4 != 0 || anyByte p 6 2 || anyByte p 14 2 then 0x1D
    else if op = 0x51 ∧ lenOutside n 256 256 then 0x10 else 0
  else 0

/-- The realm's limit on bins in force; 0 is none (R75, R179). -/
def binLimit (s : State) (r : Nat) : Nat := SMap.getD s.plan.effBins r RT.LIMITS.MAX_BINS.rst

/-- Whether gate `g` cannot be armed from a ring of realm `r` (R146): OFF, or granted to another realm. -/
def gateRefused (s : State) (g r : Nat) : Bool := !flag s (gsB g) GS.GRANT.EN || rd s (gsB g) GS.GRANT.REALM != r

/-- The PARAM detail of step `k` (R123, values). -/
def stepParam (s : State) (realm : Nat) (b : Bytes) (k : Nat) : Nat :=
  let d := descAt b k
  let e := opParam d.op (paramBlock b d) d.verifyOnly d.outC realm (inLen lenFuel b k)
  if e ≠ 0 then e
  else if outToFrags d.outC && (match outLen lenFuel b k, rangeLen (fragRange b d.outFirst d.outCount) with
      | some n, some m => decide (m < n) | _, _ => false) then 0x16
  else if d.op = 0x60 ∧ gateRefused s (entGate b) realm then 0x17
  else 0

/-- The step with OUT = INLINE. -/
def inlineStep (b : Bytes) : Option Nat := (List.range (entSteps b)).find? fun k => (descAt b k).outC == outINLINE

/-- The detail of a result of `n` bytes for an entry of `units` units (R93). -/
def resultBad (n units : Nat) : Nat := if 72 < n then 3 else if units < cqEntries n then 4 else 0

/-- The whole validation (R123): the verdict and the step of the first failure. -/
def validate (s : State) (sp port realm units : Nat) (b : Bytes) : Option (Verdict × Nat) :=
  let steps := List.range (entSteps b)
  let v := fun (st det k : Nat) => some (({ status := st, detail := det, loc := 0 } : Verdict), k)
  if 8 < entSteps b then v 0x10 0x1F 0
  else match structFail b with
    | some (k, e) => v 0x10 e k
    | none =>
      match steps.find? fun k => unitMissing s sp port b k != 0 with
      | some k => v 0x11 (unitMissing s sp port b k) k
      | none =>
        match steps.find? fun k => stepParam s realm b k != 0 with
        | some k => v 0x12 (stepParam s realm b k) k
        | none =>
          match (match inlineStep b with
              | some k => (match outLen lenFuel b k with | some n => (if resultBad n units = 0 then none else some (k, resultBad n units)) | none => none)
              | none => none) with
          | some (k, e) => v 0x12 e k
          | none =>
            let lim := binLimit s realm
            if (if lim = 0 then 64 else min 64 lim) < chainBins b then
              v 0x12 0x15 ((steps.find? fun k => stepBins b k != 0).getD 0)
            else none

end Sys2Proof.Machine
end

