-- ==== Sys2Proof/Machine/Kcc.lean ====
section
/-! DEFINITION. The key context cache (R229 to R257): derivations, Seedbank entries, lines, lookups, fills, leases,
evictions, refusals and installs. Keys stand as two shares; in AQS-E the second share is zero (R244). -/

namespace Sys2Proof.Machine

/-! ### Kinds and material (R234) -/

/-- Material length of a kind when it is derived or generated; 0 for a kind without material. -/
def kindLen (kind : Nat) : Nat :=
  if kind = 1 then 16 else if kind = 2 then 24 else if kind = 3 ∨ kind = 4 ∨ kind = 8 then 32
  else if kind = 5 ∨ kind = 0xA then 64 else if kind = 9 then 48 else 0

def isHmacKind (kind : Nat) : Bool := decide (8 ≤ kind ∧ kind ≤ 0xA)

/-- Whether a stored MAT_LEN fits a kind (R234, R239). -/
def matFits (kind n : Nat) : Bool :=
  if kind = 8 then decide (1 ≤ n ∧ n ≤ 64) else if kind = 9 ∨ kind = 0xA then decide (1 ≤ n ∧ n ≤ 128)
  else kindLen kind != 0 && n == kindLen kind

/-- Whether a kind and ALG allow an opcode (R234); key management acts on any kind, HMAC_PRESTATE on HMAC kinds (R250). -/
def kindAllows (kind alg op : Nat) : Bool :=
  if op = 0x54 then isHmacKind kind
  else if isKeyOp op then true
  else
    (alg == 0 || alg == op) &&
      (if kind = 1 ∨ kind = 3 then decide (0x10 ≤ op ∧ op ≤ 0x1A) && op != 0x13
       else if kind = 2 then decide (0x10 ≤ op ∧ op ≤ 0x1A) && op != 0x13 && op != 0x17
       else if kind = 4 ∨ kind = 5 then op == 0x13
       else if kind = 8 then op == 0x29 else if kind = 9 then op == 0x2A else if kind = 0xA then op == 0x2B else false)

/-- The length code a line reports for costs (R526): 0 AES-128, 1 AES-192, 2 AES-256. -/
def keyCode (kind : Nat) : Nat := if kind = 1 ∨ kind = 4 then 0 else if kind = 2 then 1 else 2

/-! ### Slots, generations, realms -/

def realmBase (s : State) (r : Nat) : Nat := rd s (rtB r) RT.SLOT_BASE.SLOT_BASE
def realmCount (s : State) (r : Nat) : Nat := rd s (rtB r) RT.SLOT_COUNT.SLOT_COUNT

/-- The key of a realm's slot in the husk table. -/
def huskKey (r slot : Nat) : Nat := slot * 1024 + r

/-- The husk record of a slot for a realm, if any (R241). -/
def huskOf (s : State) (r slot : Nat) : Option Husk := SMap.get? s.kcc.husks (huskKey r slot)

/-- A slot's generation (R241). -/
def slotGen (s : State) (r slot : Nat) : Nat := match huskOf s r slot with | some h => h.gen | none => 0

/-- Whether a slot is revoked for good (R242). -/
def slotFinal (s : State) (r slot : Nat) : Bool := match huskOf s r slot with | some h => h.final | none => false

/-- The husk table's capacity (R241). -/
def huskCap (s : State) : Nat := s.part.pick 2048 4096 8192

def realmKeys (s : State) (r : Nat) : Option RealmKeys := SMap.get? s.kcc.keys r

/-- A realm's keys in clear, as the unit that uses them combines the shares. -/
def RealmKeys.wk (k : RealmKeys) : Bytes := xorBytes k.wk0 k.wk1
def RealmKeys.dk (k : RealmKeys) : Bytes := xorBytes k.dk0 k.dk1

/-- The realm keys of a root (R229, R235): the KDF keyed by the root itself. -/
def keysOfRoot (root : Bytes) (r : Nat) (stored : Bool) : RealmKeys :=
  let f := fun (kind : Nat) => kdf root (fun i => [byteOf i, byteOf kind] ++ natLe 2 r ++ natLe 4 0xFFFFFFFF ++ natLe 4 0 ++ natLe 4 256 ++ zeros 16) 32
  let k1 := cmacSub (f 0xF1)
  { wk0 := f 0xF0, wk1 := zeros 32, dk0 := f 0xF1, dk1 := zeros 32, sub1 := k1, sub2 := cmacDbl k1, stored }

/-- The derivation of R235 under a realm's DK_r, with its subkeys from the store. -/
def RealmKeys.derive (k : RealmKeys) (fid : Nat → Bytes) (len : Nat) : Bytes := kdfWith k.dk k.sub1 k.sub2 fid len

/-- The range of a derived realm that covers relative slot `k`, by its index (R235). -/
def rangeOf (s : State) (r k : Nat) : Option Nat :=
  ((List.range 4).filter fun n =>
    flag s (rngB r) (KCC.RANGE_FIRST.EN.at n) && decide (rd s (rngB r) (KCC.RANGE_FIRST.FIRST.at n) ≤ k)).getLast?

def rangeKind (s : State) (r n : Nat) : Nat := rd s (rngB r) (KCC.RANGE_ATTR.KIND.at n)
def rangeAlg (s : State) (r n : Nat) : Nat := rd s (rngB r) (KCC.RANGE_ATTR.ALG.at n)
def rangeFlags (s : State) (r n : Nat) : Nat :=
  rd s (rngB r) (KCC.RANGE_ATTR.SHARED.at n) + 2 * rd s (rngB r) (KCC.RANGE_ATTR.EXPORTABLE.at n)

/-- Material of a derived slot (R235, FID_S). -/
def deriveSlot (s : State) (rk : RealmKeys) (r slot n : Nat) : Bytes :=
  let len := kindLen (rangeKind s r n)
  rk.derive (fun i => [byteOf i, byteOf (rangeKind s r n)] ++ natLe 2 r ++ natLe 4 slot ++ natLe 4 (slotGen s r slot) ++ natLe 4 (8 * len) ++
    [byteOf n, byteOf (rangeAlg s r n), byteOf (rangeFlags s r n)] ++ zeros 13) len

/-- Material of a label install (R235, FID_L). -/
def deriveLabel (s : State) (rk : RealmKeys) (r slot kind : Nat) (label : Bytes) : Bytes :=
  let len := kindLen kind
  rk.derive (fun i => [byteOf (0x80 + i), byteOf kind] ++ natLe 2 r ++ natLe 4 slot ++ natLe 4 (slotGen s r slot) ++ natLe 4 (8 * len) ++ slice label 0 32) len

/-! ### Seedbank entries (R238, R239) -/

/-- An entry's header and contents. -/
structure Entry where
  realm : Nat
  kind : Nat
  alg : Nat
  flags : Nat
  format : Nat
  limit : Nat
  gen : Nat
  slot : Nat
  count : Nat
  mat : Bytes
  matLen : Nat
deriving DecidableEq, Repr

def Entry.header (e : Entry) : Bytes :=
  natLe 2 e.realm ++ [byteOf e.kind, byteOf e.alg, byteOf e.flags, byteOf e.format] ++ natLe 6 e.limit ++ natLe 4 e.gen

/-- Wrap an entry for its slot with 8 bytes of nonce randomness (R238). -/
def Entry.wrap (e : Entry) (wk rnd : Bytes) : Bytes :=
  let nonce := natLe 4 e.slot ++ slice rnd 0 8
  let pt := slice e.mat 0 184 ++ natLe 6 e.count ++ natLe 2 e.matLen
  e.header ++ nonce ++ gcmSeal wk nonce e.header pt 16 ++ zeros 20

/-- Unwrap the 256 bytes of an entry: its header, and its contents when the tag verifies (R240). -/
def unwrapEntry (wk b : Bytes) : Entry × Bool :=
  let h : Entry := { realm := leNat (slice b 0 2), kind := leNat (slice b 2 1), alg := leNat (slice b 3 1), flags := leNat (slice b 4 1),
                     format := leNat (slice b 5 1), limit := leNat (slice b 6 6), gen := leNat (slice b 12 4), slot := leNat (slice b 16 4),
                     count := 0, mat := [], matLen := 0 }
  match gcmOpen wk (slice b 16 12) (slice b 0 16) (slice b 28 192) (slice b 220 16) with
  | some p => ({ h with mat := p.take (min 184 (leNat (slice p 190 2))), count := leNat (slice p 184 6), matLen := leNat (slice p 190 2) }, true)
  | none => (h, false)

/-- Address of Seedbank entry `slot` (R237). -/
def seedAddr (s : State) (slot : Nat) : Nat :=
  rd s (pg pKCC) KCC.SB_BASE_LO.BASE * 4096 + rd s (pg pKCC) KCC.SB_BASE_HI.BASE * 2 ^ 32 + slot * 256

/-! ### Lines -/

def kccSetsLog (s : State) : Nat := s.part.pick 8 9 10
def kccWays (s : State) : Nat := 2 ^ (rd s (pg pKCC) KCC.CFG.WAYS + 1)

/-- XOR of the `k`-bit pieces of the low `w` bits of `v` (R245); `n` bounds the pieces. -/
def foldBits : Nat → Nat → Nat → Nat
  | 0, _, _ => 0
  | n + 1, k, v => v % 2 ^ k ^^^ foldBits n k (v / 2 ^ k)

/-- The set of a slot (R245). -/
def kccSet (s : State) (slot realm : Nat) : Nat :=
  let k := kccSetsLog s
  if flag s (pg pKCC) KCC.CFG.HASH then foldBits 3 k slot ^^^ foldBits 2 k realm else slot % 2 ^ k

/-- Key of a way of a set in the table of lines. -/
def lineKey (set way : Nat) : Nat := set * 16 + way

def lineAt (s : State) (k : Nat) : Option Line := SMap.get? s.kcc.lines k
def setLine (s : State) (k : Nat) (l : Line) : State := { s with kcc := { s.kcc with lines := SMap.set s.kcc.lines k l } }
def dropLine (s : State) (k : Nat) : State := { s with kcc := { s.kcc with lines := SMap.erase s.kcc.lines k } }

/-- The line of a slot that lookups see: any but a STALE one. -/
def findLine (s : State) (r slot : Nat) : Option (Nat × Line) :=
  s.kcc.lines.find? fun p => p.2.slot == slot && p.2.realm == r && p.2.st != .stale

/-- Whether a way can be taken under rule 2 of R246. -/
def evictable (l : Line) : Bool := l.pins == 0 && (match l.st with | .valid | .refused _ => true | _ => false)

/-- Set the pseudo-LRU bits of a set's tree away from a way (R246). The tree's node `n` has children `2n` and `2n + 1`. -/
def plruTouch : Nat → Nat → Nat → Nat → Nat
  | 0, _, _, bits => bits
  | d + 1, node, way, bits =>
    let right := bitAt way d
    plruTouch d (2 * node + bit right) way (if right then clearBit bits node else setBit bits node)

/-- Walk a set's tree from `node`: the first way under rule 2 of R246; `d` levels are left and `base` is the way reached. -/
def plruWalk (ok : Nat → Bool) (bits : Nat) : Nat → Nat → Nat → Option Nat
  | 0, _, base => if ok base then some base else none
  | d + 1, node, base =>
    let l := plruWalk ok bits d (2 * node) base
    let r := plruWalk ok bits d (2 * node + 1) (base + 2 ^ d)
    if bitAt bits node then (match r with | some w => some w | none => l) else (match l with | some w => some w | none => r)

/-- Levels of the tree. -/
def waysLog (s : State) : Nat := rd s (pg pKCC) KCC.CFG.WAYS + 1

/-- The state with way `k` of its set marked as used. -/
def touchWay (s : State) (k : Nat) : State :=
  let set := k / 16
  { s with kcc := { s.kcc with plru := SMap.set s.kcc.plru set (plruTouch (waysLog s) 1 (k % 16) (SMap.getD s.kcc.plru set 0)) } }

/-- The way that a miss of a set takes (R246). -/
def pickWay (s : State) (set : Nat) : Option Nat :=
  match (List.range (kccWays s)).find? fun w => (lineAt s (lineKey set w)).isNone with
  | some w => some (lineKey set w)
  | none =>
    (plruWalk (fun w => match lineAt s (lineKey set w) with | some l => evictable l | none => true) (SMap.getD s.kcc.plru set 0) (waysLog s) 1 0).map (lineKey set)

/-- Present the write of a staged Seedbank entry (R237). -/
def seedSend (s : State) (slot tok : Nat) : State :=
  match SMap.get? s.kcc.writes tok with
  | some w => writeReq s (slot % 16) (seedAddr s slot) 0 false false false (.seedWrite tok) w.entry
  | none => s

/-- Stage the write of a Seedbank entry and present it, unless peers must acknowledge it first (R472). -/
def seedWrite (s : State) (slot : Nat) (w : SeedWr) : State :=
  let t := s.kcc.nextTok
  let s1 := { s with kcc := { s.kcc with nextTok := t + 1, writes := SMap.set s.kcc.writes t w } }
  if w.acks = 0 then seedSend s1 slot t else s1

/-- The material of a line: its shares, or, for an HMAC line, that of the slot's entry, unwrapped or derived again (log entry 20). -/
def lineMat (s : State) (rk : RealmKeys) (l : Line) : Bytes :=
  if isHmacKind l.kind then
    (if rk.stored then (unwrapEntry rk.wk l.wrapped).1.mat
     else match rangeOf s l.realm (l.slot - realmBase s l.realm) with | some n => deriveSlot s rk l.realm l.slot n | none => [])
  else xorBytes l.share0 l.share1

/-- The entry of a line with a given usage count. -/
def lineEntry (s : State) (rk : RealmKeys) (l : Line) (count : Nat) : Entry :=
  let m := lineMat s rk l
  { realm := l.realm, kind := l.kind, alg := l.alg, flags := l.flags, format := 1, limit := l.limit, gen := l.gen, slot := l.slot, count,
    mat := m, matLen := m.length }

/-- Lanes that can run a derivation or an unwrap: enabled, with a live expander (R236). -/
def fillLanes (s : State) : List Nat := (enLanes s).filter fun l => expLive s l

/-- The lane of a slot's derivation and unwrap (R236), or of an array's (R253). -/
def fillLane (s : State) (n : Nat) : Option Nat := (fillLanes s)[n % (fillLanes s).length]?

/-- `n` encrypt blocks that the KCC issues on the lane of slot (or array) `i` (R225, R236, R507). -/
def kccBlocks (s : State) (i n : Nat) : State :=
  match fillLane s i with
  | some l => pmu (incBy s (pg (pSPL l)) SPL.BLOCKS_ENC.COUNT n) 7 l n
  | none => s

/-- Whether a line's lease is open: its leased count is not its actual count (R243). -/
def leaseOpen (l : Line) : Bool := l.st == .valid && l.limit != 0 && l.lease != l.count

/-- Rewrap a line's entry with a count (R243); none when no KCC expander supplies or the realm's keys are gone. -/
def rewrap (s : State) (l : Line) (count : Nat) (u : SeedUse) : Option State :=
  match realmKeys s l.realm with
  | none => none
  | some rk => match kccDraw s 8 with
    | (s1, some rnd) =>
      some (inc (seedWrite (kccBlocks s1 l.slot 13) l.slot { use := u, entry := (lineEntry s rk l count).wrap rk.wk rnd, answered := false, acks := 0 }) (pg pKCC) KCC.WRITEBACKS.COUNT)
    | (_, none) => none

/-- Take a way for slot `slot` of realm `r` (R246): an evicted line with an open lease is rewrapped first; none when no way
can be taken now. -/
def takeWay (s : State) (r slot : Nat) : Option (Nat × State) :=
  match pickWay s (kccSet s slot r) with
  | none => none
  | some k => match lineAt s k with
    | none => some (k, s)
    | some l =>
      if leaseOpen l then (rewrap s l l.count (.evict l.slot)).map fun s1 => (k, inc (dropLine s1 k) (pg pKCC) KCC.EVICTIONS.COUNT)
      else some (k, inc (dropLine s k) (pg pKCC) KCC.EVICTIONS.COUNT)

/-- A line with everything but its slot clear. -/
def blankLine (r slot : Nat) : Line :=
  { realm := r, slot, gen := 0, kind := 0, alg := 0, flags := 0, st := .filling, pins := 0, limit := 0, count := 0, lease := 0,
    leaseWait := false, share0 := [], share1 := [], pre := [], wrapped := [] }

/-! ### Lookups (R255) -/

/-- The step that a lookup belongs to still runs. -/
def lookLive (s : State) (j eid : Nat) : Bool := match job? s j with | some x => x.eid == eid && x.phase != .fin | none => false

/-- Change the key state of a lookup's step. A step that has started without its key reaches the planner now (R164), but for an EXPRESS one, whose
request does not wait for its key (R526). -/
def setKey (s : State) (j eid k : Nat) (x : KeySt) : State :=
  if lookLive s j eid then
    let waits : Bool := (match job? s j, step? s j k with | some y, some t => y.cls != 0 && t.st == .run | _, _ => false)
    let s1 := modStep (probeStamp s eid 3) j k fun t => { t with key := x, asked := if waits then some s.rch.stamp else t.asked }
    if waits then { s1 with rch := { s1.rch with stamp := s1.rch.stamp + 1 } } else s1
  else s

/-- Fail a step outright: it ends at its next STEP_END with a verdict; an earlier verdict stays. -/
def failStep (s : State) (j k : Nat) (v : Verdict) : State :=
  modStep s j k fun t => if t.bad.isSome ∨ t.st = .ended then t else { t with bad := some v, st := .formed }

/-- Show a step the failure of its lookup; a step that runs has then formed its end. -/
def lookBad (s : State) (j eid k : Nat) (v : Verdict) : State :=
  if lookLive s j eid then
    modStep (probeStamp s eid 3) j k fun t =>
      { t with bad := (match t.bad with | some b => some b | none => some v), key := .refused, st := if t.st = .run then .formed else t.st }
  else s

def failLook (s : State) (l : Lookup) (v : Verdict) : State := lookBad s l.job l.eid l.step v

/-- Queue a refusal (R255): the answer comes with KEY_REFUSED. -/
def refuse (s : State) (l : Lookup) (reason : Nat) : State :=
  { s with kcc := { s.kcc with refusals := s.kcc.refusals ++ [{ job := l.job, eid := l.eid, step := l.step, realm := l.realm, reason }] } }

/-- Keep a lookup waiting. -/
def await (s : State) (l : Lookup) (w : LookWait) : State :=
  { s with kcc := { s.kcc with lookups := s.kcc.lookups ++ [{ l with wait := w }] } }

/-- Wait for a way or a pin (R246), counted once. -/
def awaitWay (s : State) (l : Lookup) : State :=
  await (if l.wait = .way then s else setEvt (inc s (pg pKCC) KCC.PIN_WAITS.COUNT) pKCC KCC.EVT.PIN_WAIT) l .way

/-- Wait for a fill slot (R248), counted once. -/
def awaitSlot (s : State) (l : Lookup) : State :=
  await (if l.wait = .fillSlot then s else inc s (pg pKCC) KCC.FILL_WAITS.COUNT) l .fillSlot

/-- Count a lookup that is served without a fill: not one that waited for a fill, nor one counted before it waited for a lease or an
expander. -/
def countHit (s : State) (l : Lookup) : State :=
  match l.wait with
  | .fill _ | .lease | .expander => s
  | _ => inc s (pg pKCC) KCC.HITS.COUNT

/-- Whether a lookup of an opcode counts a use (R243). -/
def countsUse (op : Nat) : Bool := !isKeyOp op

/-- Deliver a line to a lookup (R246, R247): pin, refresh the shares with a fresh mask, count a use, and ask for the next
lease at three quarters of the current one. Without an expander the step fails as one that needs a mask does (R249), before the
count can pass the lease. -/
def deliver (s : State) (key : Nat) (l : Line) (lk : Lookup) : State :=
  if l.pins ≥ 65535 then awaitWay s lk
  else
    let live := bit (lookLive s lk.job lk.eid)
    let fin := fun (st : State) (m : Bytes) =>
      let n := if countsUse lk.op && l.limit != 0 then l.count + 1 else l.count
      let l1 := { l with pins := l.pins + live, count := n, share0 := xorBytes l.share0 m, share1 := xorBytes l.share1 m }
      let s1 := setKey (touchWay (setLine st key l1) key) lk.job lk.eid lk.step
        (.ready { slot := l.slot, kind := l.kind, alg := l.alg, share0 := l1.share0, share1 := l1.share1, pre := l.pre })
      if countsUse lk.op && l.limit != 0 && decide (l.lease < l.limit) && decide (3 * 65536 ≤ 4 * (n + 65536 - l.lease)) then
        match rewrap s1 l1 (min (n + 65536) l.limit) (.lease key (min (n + 65536) l.limit)) with
        | some s2 => setLine s2 key { l1 with lease := min (n + 65536) l.limit }
        | none => s1
      else s1
    let due := countsUse lk.op && l.limit != 0 && decide (l.lease < l.limit) && decide (l.lease ≤ l.count)
    if due && (kccExp s).isNone then failLook (kccDraw s 8).1 lk { status := 0x38, detail := 9, loc := 0 }
    else if s.part.masked && !isHmacKind l.kind then
      match kccDraw s (ceilDiv l.share0.length 16 * 16) with
      | (s1, some m) => fin s1 (slice m 0 l.share0.length)
      | (s1, none) => failLook s1 lk { status := 0x38, detail := 9, loc := 0 }
    else fin s (zeros l.share0.length)

/-- Whether a lookup comes from a job of a peer, which finds no slot that is not SHARED in a STORED realm (R474). DEDUCED: the
refusal's code is that of R255's check of sharing. -/
def forPeer (s : State) (lk : Lookup) : Bool := match job? s lk.job with | some x => x.peer.isSome | none => false

/-- The answer to a lookup whose slot has a line that is VALID or REFUSED (R255). -/
def answer (s : State) (key : Nat) (l : Line) (lk : Lookup) : State :=
  match l.st with
  | .refused reason => refuse (touchWay s key) lk reason
  | _ =>
    if bitAt l.flags 0 && !coherent s lk.realm then
      refuse (setEvt (touchWay s key) pKCC KCC.EVT.SHARED_LOST) lk 0x0818
    else if !bitAt l.flags 0 && forPeer s lk && (realmKeys s lk.realm).any (·.stored) then refuse (touchWay s key) lk 0x0818
    else if !kindAllows l.kind l.alg lk.op then refuse (touchWay s key) lk 0x0816
    else if l.limit ≠ 0 ∧ l.limit ≤ l.count then refuse (touchWay s key) lk 0x0815
    else if l.leaseWait then await s lk .lease
    else deliver s key l lk

/-- Fills that can run at once (R248). -/
def fillSlots (s : State) : Nat := s.part.pick 4 8 16

/-- Give up the fills that a test picks: their lines go, and one whose entry is still to come keeps its number until then. -/
def dropFills (s : State) (f : Nat × Fill → Bool) : State :=
  let go := s.kcc.fills.filter fun p => f p && !p.2.bad
  let lines := s.kcc.lines.filter fun p => !go.any fun g => g.2.line == p.1
  let fills := (s.kcc.fills.filter fun p => !(f p && (p.2.derived || p.2.entry.isSome))).map fun p => if f p then (p.1, { p.2 with bad := true }) else p
  { s with kcc := { s.kcc with lines, fills } }

/-- Start a fill of a slot into way `key` (R236, R240). -/
def startFill (s : State) (lk : Lookup) (key slot : Nat) (derived : Bool) : State :=
  match (List.range (fillSlots s)).find? fun n => (SMap.get? s.kcc.fills n).isNone with
  | none => awaitSlot s lk
  | some n =>
    let s1 := setLine s key (blankLine lk.realm slot)
    let s2 := { s1 with kcc := { s1.kcc with fills := SMap.set s1.kcc.fills n { line := key, derived, entry := none, bad := false } } }
    let s3 := await (pmu (inc s2 (pg pKCC) KCC.FILLS.COUNT) 0x0C 0 1) lk (.fill n)
    if derived then s3 else readReq s3 (slot % 16) (seedAddr s slot) 256 0 false false (.seedRead n)

/-- Resolve a lookup (R255, the order of lookup_reason). -/
def resolve (s : State) (lk : Lookup) : State :=
  if !enabled s pKCC then await s lk .unit
  else match realmKeys s lk.realm with
    | none => refuse s lk 0x081C
    | some rk =>
      if !realmActive s lk.realm then refuse s lk 0x081C
      else if realmCount s lk.realm ≤ lk.k then refuse s lk 0x0811
      else
        let slot := realmBase s lk.realm + lk.k
        match findLine s lk.realm slot with
        | some (key, l) =>
          match l.st with
          | .filling =>
            match s.kcc.fills.find? fun f => f.2.line == key && !f.2.bad with
            | some f => await s lk (.fill f.1)
            | none => await s lk .revoke
          | .revoking => await s lk .revoke
          | _ =>
            if prepLost s lk.realm slot then refuse s lk 0x0818
            else if prepPending s lk.realm slot then await s lk .revoke else answer (countHit s lk) key l lk
        | none =>
          if prepLost s lk.realm slot then refuse s lk 0x0818
          else if (s.kcc.revokes.any fun v => v.slot == slot && v.realm == lk.realm) || prepPending s lk.realm slot then await s lk .revoke
          else if rk.stored && decide (rd s (pg pKCC) KCC.SB_SLOTS.COUNT ≤ slot) then refuse s lk 0x0812
          else if !rk.stored && !(rangeOf s lk.realm lk.k).any (fun n => rangeKind s lk.realm n != 0) then refuse s lk 0x0812
          else if fillSlots s ≤ s.kcc.fills.length then awaitSlot s lk
          else match takeWay s lk.realm slot with
            | none =>
              if (pickWay s (kccSet s slot lk.realm)).isSome then await s lk .expander
              else awaitWay s lk
            | some (key, s1) => startFill s1 lk key slot (!rk.stored)

/-- Present a lookup: counted, then resolved. -/
def lookup (s : State) (lk : Lookup) : State := resolve (pmu (inc s (pg pKCC) KCC.LOOKUPS.COUNT) 0x0B 0 1) lk

/-- Resolve again every waiting lookup that a condition picks, in order. -/
def retry (s : State) (f : Lookup → Bool) : State :=
  let go := s.kcc.lookups.filter f
  go.foldl resolve { s with kcc := { s.kcc with lookups := s.kcc.lookups.filter fun l => !f l } }

/-- Resolve again what waits for a unit, a way, a fill slot or an expander. -/
def retryAll (s : State) : State :=
  retry s fun l => match l.wait with | .unit | .way | .fillSlot | .expander => true | _ => false

/-- The line that a delivered context is pinned on. -/
def pinnedLine (s : State) (c : KeyCtx) (realm : Nat) : Option (Nat × Line) :=
  s.kcc.lines.find? fun p => p.2.slot == c.slot && p.2.realm == realm && decide (0 < p.2.pins) &&
    xorBytes p.2.share0 p.2.share1 == xorBytes c.share0 c.share1 && p.2.pre == c.pre

/-- Drop a step's pin (R246): a STALE line goes with its last pin; what waited for a way is resolved again. -/
def unpin (s : State) (c : KeyCtx) (realm : Nat) : State :=
  match pinnedLine s c realm with
  | none => s
  | some (k, l) =>
    let l1 := { l with pins := l.pins - 1 }
    let gone := l1.pins == 0 && (l1.st == .stale || rd s (rtB realm) RT.STATE.STATE != 1)
    retry (if gone then dropLine s k else setLine s k l1) fun lk => lk.wait == .way

/-! ### The end of a fill (R235, R236, R240, R243, R250) -/

/-- Two shares of material, with a fresh mask where the part masks and an expander supplies (R244). -/
def shareOf (s : State) (m : Bytes) : State × Bytes × Bytes :=
  match (if s.part.masked then kccExp s else none) with
  | some e =>
    let r := draw s e (ceilDiv m.length 16 * 16)
    (r.1, xorBytes m (slice r.2 0 m.length), slice r.2 0 m.length)
  | none => (s, m, zeros m.length)

/-- Compressions of an HMAC slot's prestates: the two padded keys, and those of hashing a longer key first (R250, R300). -/
def prestateBlocks (kind n : Nat) : Nat :=
  let w := if kind = 8 then 64 else 128
  2 + (if w < n then ceilDiv (n + (if kind = 8 then 9 else 17)) w else 0)

/-- An HMAC fill on group `g`, with its compressions (R250, R300). -/
def countPrestate (s : State) (g kind n : Nat) : State :=
  let b := pg (pEMR g)
  let m := prestateBlocks kind n
  pmu (inc (incBy s b (if kind = 8 then EMR.BLOCKS_SHA256.COUNT else EMR.BLOCKS_SHA512.COUNT) m) b EMR.HMAC_FILLS.COUNT) 9 g m

/-- A line made VALID from an entry, with the slot's wrapped entry: an HMAC kind holds its prestates in one share, and its key is gone
(R250). -/
def validLine (s : State) (l : Line) (e : Entry) (wrapped : Bytes) : State × Line :=
  let l1 := { l with gen := e.gen, kind := e.kind, alg := e.alg, flags := e.flags, limit := e.limit, count := e.count, lease := e.count, st := .valid }
  if isHmacKind e.kind then
    let gs := enGroups s
    let s1 := if gs.isEmpty then s else countPrestate s (gs.getD (l.slot % gs.length) 0) e.kind e.matLen
    (s1, { l1 with pre := hmacPre e.kind e.mat, wrapped })
  else let r := shareOf s e.mat; (r.1, { l1 with share0 := r.2.1, share1 := r.2.2 })

/-- The reason code of a Seedbank entry that fails its fill, 0 when it passes (R240). -/
def entryReason (s : State) (r slot : Nat) (e : Entry) (tagOk : Bool) : Nat :=
  if slotFinal s r slot then 0x081E
  else if !tagOk then 0x0817
  else if e.realm ≠ r ∨ e.slot ≠ slot ∨ e.format ≠ 1 then 0x0813
  else if e.kind = 0 then 0x0812
  else if !matFits e.kind e.matLen then 0x0813
  else if e.gen ≠ slotGen s r slot then 0x0814
  else 0

/-- The result of a fill: the entry, or the reason code that refuses it. -/
def fillResult (s : State) (f : Fill) (l : Line) : Except Nat Entry :=
  match realmKeys s l.realm with
  | none => .error 0x081C
  | some rk =>
    if f.derived then
      let k := l.slot - realmBase s l.realm
      if slotFinal s l.realm l.slot then .error 0x081E
      else match rangeOf s l.realm k with
        | none => .error 0x0812
        | some n =>
          if kindLen (rangeKind s l.realm n) = 0 then .error 0x0812
          else
            let m := deriveSlot s rk l.realm l.slot n
            .ok { realm := l.realm, kind := rangeKind s l.realm n, alg := rangeAlg s l.realm n, flags := rangeFlags s l.realm n, format := 1,
                  limit := 0, gen := slotGen s l.realm l.slot, slot := l.slot, count := 0, mat := m, matLen := m.length }
    else
      let u := unwrapEntry rk.wk (f.entry.getD [])
      let e := entryReason s l.realm l.slot u.1 u.2
      if e = 0 then .ok u.1 else .error e

/-- The first lease of a freshly filled line with a limit (R243). -/
def firstLease (s : State) (key : Nat) (l : Line) : State :=
  if l.limit ≠ 0 ∧ l.count < l.limit then
    let n := min (l.count + 65536) l.limit
    match rewrap s l n (.lease key n) with
    | some s1 => setLine s1 key { l with lease := n, leaseWait := true }
    | none => setLine s key { l with leaseWait := true }
  else setLine s key l

/-- End fill `n`: the line becomes VALID or REFUSED and its lookups are answered. -/
def endFill (s : State) (n : Nat) : State :=
  match SMap.get? s.kcc.fills n with
  | none => s
  | some f => match (if f.bad then none else lineAt s f.line) with
    | none => s
    | some l =>
      let free := fun (st : State) => { st with kcc := { st.kcc with fills := SMap.erase st.kcc.fills n } }
      let mine := fun (lk : Lookup) => lk.wait == .fill n
      let run := fun (st : State) => kccBlocks st l.slot (if f.derived then 2 * ceilDiv (kindLen (match rangeOf st l.realm (l.slot - realmBase st l.realm) with
        | some r => rangeKind st l.realm r | none => 0)) 16 else 13)
      if (enLanes s).isEmpty then
        let ls := s.kcc.lookups.filter mine
        let s1 := dropLine { s with kcc := { s.kcc with lookups := s.kcc.lookups.filter fun x => !mine x } } f.line
        retryAll (free (ls.foldl (fun st lk => failLook st lk { status := 0x11, detail := 0x10, loc := 0 }) s1))
      else if (fillLanes s).isEmpty ∨ (!f.derived && f.entry.isNone) then s
      else match fillResult s f l with
        | .error e =>
          let s1 := setLine (run s) f.line { l with st := .refused e }
          let s2 := if e = 0x0817 then setEvt (inc s1 (pg pKCC) KCC.FILL_TAG_FAILS.COUNT) pKCC KCC.EVT.FILL_TAG_FAIL else s1
          retryAll (retry (free (touchWay s2 f.line)) mine)
        | .ok e =>
          let v := validLine (run s) l e (f.entry.getD [])
          retryAll (retry (free (touchWay (firstLease v.1 f.line v.2) f.line)) mine)

/-- The Seedbank read of fill `n` brought its bytes, or an error: then no line, and the steps end FABRIC_ERROR (R255). -/
def seedRead (s : State) (n : Nat) (d : Option Bytes) (addr : Nat) : State :=
  match SMap.get? s.kcc.fills n with
  | none => s
  | some f => match (if f.bad then none else some d) with
    | none => retryAll { s with kcc := { s.kcc with fills := SMap.erase s.kcc.fills n } }
    | some (some b) =>
      match lineAt s f.line, bitAt (leNat (slice b 4 1)) 0 with
      | some l, true => match pullLink s l.realm with
        | some k => askPull s k l.realm l.slot n
        | none => { s with kcc := { s.kcc with fills := SMap.set s.kcc.fills n { f with entry := some b } } }
      | _, _ => { s with kcc := { s.kcc with fills := SMap.set s.kcc.fills n { f with entry := some b } } }
    | some none =>
      let mine := fun (lk : Lookup) => lk.wait == .fill n
      let ls := s.kcc.lookups.filter mine
      let s1 := { s with kcc := { s.kcc with fills := SMap.erase s.kcc.fills n, lookups := s.kcc.lookups.filter fun x => !mine x } }
      retryAll (ls.foldl (fun st lk => failLook st lk { status := 0x20, detail := 0, loc := addr }) (dropLine s1 f.line))

/-- A lease whose rewrap waited for an expander is tried again (R249). -/
def retryLeases (s : State) : State :=
  s.kcc.lines.foldl (fun st p => if p.2.leaseWait && p.2.lease == p.2.count then firstLease st p.1 p.2 else st) s

/-! ### Installs (R251) -/

/-- Write a line into way `key` at an install's commit: the slot's old line becomes STALE while pinned, and a fill of the slot that is
under way ends without a line, its lookups then finding the new one. -/
def commitLine (s : State) (key : Nat) (l : Line) : State :=
  match findLine s l.realm l.slot with
  | some (k, o) =>
    if k = key then touchWay (setLine s key l) key
    else if o.st = .filling then
      let mine := s.kcc.fills.filter fun f => f.2.line == k && !f.2.bad
      retry (touchWay (setLine (dropFills s fun f => f.2.line == k) key l) key) fun lk => mine.any fun f => lk.wait == .fill f.1
    else touchWay (setLine (if o.pins = 0 then dropLine s k else setLine s k { o with st := .stale }) key l) key
  | none => touchWay (setLine s key l) key

/-- The answer to a Seedbank entry write (R243, R251): a lease lets its waiters go on, or refuses them; an install's line is
written by its step (KeyOps.lean), once `acks` is 0. -/
def leaseAnswer (s : State) (tok line leased : Nat) (err : Bool) : State :=
  let s0 := { s with kcc := { s.kcc with writes := SMap.erase s.kcc.writes tok } }
  match lineAt s0 line with
  | none => s0
  | some l =>
    if err then
      let mine := fun (lk : Lookup) => lk.wait == .lease && lk.realm == l.realm && realmBase s lk.realm + lk.k == l.slot
      let ls := s0.kcc.lookups.filter mine
      let s1 := { s0 with kcc := { s0.kcc with lookups := s0.kcc.lookups.filter fun x => !mine x } }
      let s2 := setEvt (if l.pins = 0 then dropLine s1 line else setLine s1 line { l with st := .stale, leaseWait := false }) pKCC KCC.EVT.WRITEBACK_ERR
      ls.foldl (fun st lk => refuse st lk 0x081B) s2
    else
      retry (setLine s0 line { l with lease := leased, leaseWait := false }) fun lk =>
        lk.wait == .lease && lk.realm == l.realm && realmBase s lk.realm + lk.k == l.slot

/-- The answer to an eviction write (R243). -/
def evictAnswer (s : State) (tok : Nat) (err : Bool) : State :=
  let s0 := { s with kcc := { s.kcc with writes := SMap.erase s.kcc.writes tok } }
  if err then chaffPlain (setEvt s0 pKCC KCC.EVT.WRITEBACK_ERR) 8 0 0x703 (anyDetail 0x703) else s0

/-- KEY_REFUSED: the `n`-th refusal is answered: recorded, counted, and shown to its step (R255). -/
def answerRefusal (s : State) (n : Nat) : State :=
  match s.kcc.refusals[n]? with
  | none => s
  | some r =>
    let s1 := { s with kcc := { s.kcc with refusals := s.kcc.refusals.eraseIdx n } }
    let s2 := inc (inc (chaffPlain s1 8 0 0x701 r.reason) (pg pKCC) KCC.REFUSALS.COUNT) (rtB r.realm) RT.REFUSED.KEY_REFUSED
    lookBad s2 r.job r.eid r.step { status := 8, detail := 0, loc := 0 }

/-- Whether step (job, eid, k) has a lookup that is not answered. -/
def lookPending (s : State) (j eid k : Nat) : Bool :=
  (s.kcc.lookups.any fun l => l.job == j && l.eid == eid && l.step == k) || (s.kcc.refusals.any fun l => l.job == j && l.eid == eid && l.step == k)

end Sys2Proof.Machine
end

