-- ==== Sys2Proof/Machine/Banks.lean ====
section
/-! DEFINITION. The operand banks of the Sorghum arrays (R305, R306, R310): their states, wipes and releases. Bank `b` of
array `a` has the number 2a + b. -/

namespace Sys2Proof.Machine

/-- States of a bank (R306, R329). -/
def bkEMPTY : Nat := 0
def bkIDLE : Nat := 1
def bkWIPING : Nat := 2
def bkLOADING : Nat := 3
def bkPAUSED : Nat := 4
def bkRUNNING : Nat := 5
def bkUNLOADING : Nat := 6

/-- Base of the page of bank `n`'s array. -/
def bankPg (n : Nat) : Nat := pg (pSRG (n / 2))

/-- The field of bank `n` among the fields of BANK0 and BANK1. -/
def bankF (n : Nat) (f0 f1 : Field) : Field := if n % 2 = 0 then f0 else f1

def bankState (s : State) (n : Nat) : Nat := rd s (bankPg n) (bankF n SRG.BANK0.STATE SRG.BANK1.STATE)
def bankRealm (s : State) (n : Nat) : Nat := rd s (bankPg n) (bankF n SRG.BANK0.REALM SRG.BANK1.REALM)
def bankOp (s : State) (n : Nat) : Nat := rd s (bankPg n) (bankF n SRG.BANK0.OPCODE SRG.BANK1.OPCODE)
def bankX (s : State) (n : Nat) : Bool := flag s (bankPg n) (bankF n SRG.BANK0.EXPRESS SRG.BANK1.EXPRESS)
def setBankState (s : State) (n v : Nat) : State := wr s (bankPg n) (bankF n SRG.BANK0.STATE SRG.BANK1.STATE) v
def setBankRealm (s : State) (n v : Nat) : State := wr s (bankPg n) (bankF n SRG.BANK0.REALM SRG.BANK1.REALM) v
def setBankOp (s : State) (n op : Nat) (x : Bool) : State :=
  wr (wr s (bankPg n) (bankF n SRG.BANK0.OPCODE SRG.BANK1.OPCODE) op) (bankPg n) (bankF n SRG.BANK0.EXPRESS SRG.BANK1.EXPRESS) (bit x)

/-- No operation is bound to bank `n`: its EXPRESS bit is clear, and OPCODE shows the last operation's (R329). -/
def noOwner (s : State) (n : Nat) : State := wr s (bankPg n) (bankF n SRG.BANK0.EXPRESS SRG.BANK1.EXPRESS) 0

/-- A bank that holds nothing. -/
def freshBank : Bank := { owner := none, data := [], priv := [], rnd := [], progress := 0, saved := 0 }

def bank (s : State) (n : Nat) : Bank := SMap.getD s.banks n freshBank
def setBank (s : State) (n : Nat) (b : Bank) : State := { s with banks := SMap.set s.banks n b }

/-- The accumulator of array `a` zeroized. -/
def clearAcc (s : State) (a : Nat) : State := { s with accs := SMap.erase s.accs a }

/-- Start a full wipe of a bank (R310): every word, the control area and the accumulator; `owner` is the operation that waits for it. The
accumulator holds nothing of a bank that is not also in that bank (R321), so that the other bank loses nothing. -/
def wipeBank (s : State) (n : Nat) (owner : Option (Nat × Nat × Nat)) : State :=
  let s1 := if owner.isNone then noOwner s n else s
  clearAcc (setBank (setBankState s1 n bkWIPING) n { freshBank with owner }) (n / 2)

/-- An operation leaves its bank: after OK or COMPARE_FAIL it becomes IDLE with the public values, its private region zeroized; otherwise, or
where the array is no longer ENABLED, it is wiped (R306, R309, R310, R324). -/
def releaseBank (s : State) (n : Nat) (good : Bool) : State :=
  if good && enabled s (pSRG (n / 2)) then
    inc (setBank (setBankState (noOwner s n) n bkIDLE) n { freshBank with data := (bank s n).data }) (bankPg n) SRG.OPS.COUNT
  else wipeBank s n none

/-- Count an operation that ends ABORTED (R324, R329). -/
def countAbort (s : State) (n : Nat) : State := setEvt (inc s (bankPg n) SRG.ABORTS.COUNT) (pSRG (n / 2)) SRG.EVT.ABORT

/-- Zeroize every bank at once (R18, R310). -/
def emptyBanks (s : State) : State :=
  (List.range 32).foldl (fun st n => setBankOp (setBankRealm (setBankState st n bkEMPTY) n 0) n 0 false) { s with banks := [], accs := [] }

end Sys2Proof.Machine
end

