-- ==== Sys2Proof/Machine/Work.lean ====
section
/-! DEFINITION. The input of a step and the work that it is (R115 to R120, R158 to R160, R170): what a source delivers, how much work of its unit
a step needs, how far work and input reach, and the data that a step's reads run ahead of. -/

namespace Sys2Proof.Machine

/-! ### Chains and their groups -/

/-- The descriptor of step `k` of a job. -/
def Job.desc (x : Job) (k : Nat) : Desc := descAt x.bytes k
def Job.param (x : Job) (k : Nat) : Bytes := paramBlock x.bytes (x.desc k)

/-- The step that leads the group of step `k` (R117); `fuel` bounds the steps. -/
def leaderOf : Nat → Bytes → Nat → Nat
  | 0, _, k => k
  | fuel + 1, b, k =>
    let d := descAt b k
    if (d.inC = inSTREAM ∨ d.inC = inTEE) ∧ d.op ≠ 0x60 ∧ d.inStep < k then leaderOf fuel b d.inStep else k

def Job.leader (x : Job) (k : Nat) : Nat := leaderOf 8 x.bytes k

/-- The steps of a job's group. -/
def Job.group (x : Job) (g : Nat) : List Nat := (List.range x.steps.length).filter fun k => x.leader k == g

/-- A source that reads nothing. -/
def noSrc : Src :=
  { opened := true, frags := [], table := none, mid := false, mark := 0, pieces := [], issued := 0, reads := 0, tabs := 0, limit := none,
    count := 0, closed := true }

/-- A step that has not started: an IN = FRAGS source is not open yet. -/
def freshStep (d : Desc) : StepRun :=
  { d0 := d.d0, d1 := d.d1, st := .idle, src := { noSrc with opened := d.inC != inFRAGS }, src2 := noSrc, dst := noSrc, key := .none, work := 0, aux := 0, asked := none, admitted := 0,
    place := none, ectx := none, starve := 0, out := [], held := false, checks := 0, bad := none, outLeft := 0, gate := .none, tok := none, committed := false,
    judged := false, counted := 0, countedAux := 0 }

/-! ### Sources -/

/-- Bytes that a source has asked for or received. -/
def srcWants (x : Src) : Bool := (match x.limit with | some l => decide (x.issued < l) | none => true)

/-- Whether a source has delivered all it will: nothing left to read. -/
def srcDone (x : Src) : Bool :=
  x.opened && x.reads == 0 && ((x.frags.isEmpty && x.table.isNone && x.tabs == 0 && x.closed) || !srcWants x)

/-- The bytes that a source has delivered, in order. -/
def srcBytes (x : Src) : Bytes := x.pieces.flatMap (·.2)

/-- The bytes of a source that have arrived without a gap. -/
def arrivedBytes (x : Src) : Bytes := x.pieces.foldl (fun b p => if p.1 = b.length then b ++ p.2 else b) []

/-- The output of a step, when later steps can take it: formed or ended, not held and without a failure. -/
def outReady (t : StepRun) : Bool := (t.st == .formed || t.st == .ended) && !t.held && t.bad.isNone

/-- Cut a source to LENGTH (R115, R120): MALFORMED 0x01D when it holds less. -/
def cutLen (len : Nat) (b : Bytes) : Except Nat Bytes :=
  if len = 0 then .ok b else if b.length < len then .error 0x1D else .ok (b.take len)

/-- The bytes behind a source code of step `k`, once they are all there; `fuel` bounds the tees. A TEE takes its source step's input, cut to
that step's LENGTH and then to its own; a TEE of a TEE sees nothing of the middle step's LENGTH (R116; DESIGN CHOICE, log entry 63). -/
def sourceBytes : Nat → Job → Desc → Src → Option (Except Nat Bytes)
  | 0, _, _, _ => none
  | fuel + 1, x, d, own =>
    if d.inC = inNONE then some (.ok [])
    else if d.inC = inFRAGS then (if srcDone own then some (cutLen d.len (srcBytes own)) else none)
    else if d.inC = inINLINE then
      some (cutLen d.len ((entPayload x.bytes).drop (16 * d.inFirst)))
    else if d.inC = inTEE then
      let i := if (x.desc d.inStep).inC = inTEE then sourceStep 8 x.bytes d.inStep else d.inStep
      match x.steps[i]? with
      | some t => match sourceBytes fuel x (x.desc i) t.src with
        | some (.ok b) => some (cutLen d.len b)
        | r => r
      | none => none
    else match x.steps[d.inStep]? with
      | some t =>
        if (if d.inC = inBIN then t.st == .ended && t.bad.isNone else outReady t) then some (cutLen d.len t.out) else none
      | none => none

/-- The whole input of step `k`. -/
def inputOf (x : Job) (k : Nat) (t : StepRun) : Option (Except Nat Bytes) := sourceBytes 10 x (x.desc k) t.src

/-- The second source of a COMPARE, as long as its LENGTH or as the first source (R132). -/
def input2Of (x : Job) (k : Nat) (t : StepRun) : Option (Except Nat Bytes) := sourceBytes 10 x (src2Of (x.desc k) (x.param k)) t.src2

/-- The material of a delivered context. -/
def KeyCtx.key (c : KeyCtx) : Bytes := xorBytes c.share0 c.share1

/-! ### Work (R158, R170) -/

/-- Input bytes of a step when known: by its bytes, or by validation's lengths. -/
def knownLen (x : Job) (k : Nat) (t : StepRun) : Option Nat :=
  match inputOf x k t with
  | some (.ok b) => some b.length
  | some (.error _) => some 0
  | none => inLen lenFuel x.bytes k

/-- Rate in bytes of a Keccak operation (R281). -/
def keccakRate (op : Nat) : Nat := if op = 0x25 then 104 else if op = 0x26 then 72 else if op = 0x27 then 168 else 136

/-- SHA-224/256 rather than SHA-384/512. -/
def sha256Like (op : Nat) : Bool := op == 0x20 || op == 0x21 || op == 0x29

/-- Blocks or permutations of a digest over `m` message bytes with `ol` output bytes (R282 to R284, R287). -/
def digestBlocks (op m ol : Nat) : Nat :=
  if isKeccak op then m / keccakRate op + 1 + (ceilDiv ol (keccakRate op) - 1)
  else (if sha256Like op then ceilDiv (m + 9) 64 else ceilDiv (m + 17) 128) + (if isHmac op then 1 else 0)

/-- The unit that a step's work runs on; none for a step without planned work. -/
def planUnit (op : Nat) (p : Bytes) : Option PlanUnit :=
  if isAes op then
    some (if (aesBlk p).decrypt && (op == 0x10 || op == 0x11 || op == 0x13 || op == 0x19 || op == 0x1A) then .dec else .enc)
  else if isKeccak op then some .keccak
  else if isDigest op ∨ op = 0x2F then some .sha
  else if isArith op then some .srg
  else if 0x60 ≤ op ∧ op ≤ 0x63 then some .spike
  else if op = 0x40 then some .swp
  else none

/-- Output bytes of a GATE step once it is released (R147): the posted buffer, or the bypassed input. -/
def gateLen (x : Job) (k : Nat) (t : StepRun) : Option Nat :=
  match t.gate with
  | .released p => if p.result = 0 then some p.len else knownLen x k t
  | _ => none

/-- The length code of a step's key (R526): that of its slot once the KCC has answered, and AES-256 before. -/
def keyLen (t : StepRun) : Nat := match t.key with | .ready c => keyCode c.kind | _ => 2

/-- Sclk that an operation takes (R315, R318, R319, R326). -/
def srgNeed (op : Nat) (a : ArBlk) (inp priv rnd : Bytes) : Nat :=
  let key := if a.set = 0 then a.bits else a.set
  let free := max 1 (Config.srgSclk op key (leNat (inp ++ priv ++ rnd)))
  if op = 0x30 then a.bits / 64 * ceilDiv a.bits 4096 + 4 * ceilDiv (2 * a.bits + 64) 4096
  else if op = 0x3E then (if a.set = 0x40 then 30 else 32)
  else if op = 0x32 then
    if a.bits = 2048 then 26688 else if a.bits = 3072 then 106560 else if a.bits = 4096 then 182080
    else if a.bits = 16384 then 10162752 else free
  else if op = 0x31 then
    if a.bits = 2048 ∧ a.keyFrag = 0x3F ∧ leNat (slice inp 512 256) = 65537 then 832 else free
  else if op = 0x33 then (if a.set = 1 then 20032 else if a.set = 2 then 38016 else 80000)
  else if op = 0x34 ∧ a.set = 1 then 28032
  else if op = 0x35 ∧ a.set = 1 then 17984
  else if op = 0x36 ∧ inp.length ≤ 1024 then 16000
  else if op = 0x37 ∧ inp.length ≤ 96 + 1024 then 25984
  else if op = 0x38 then 14976
  else if op = 0x39 ∧ a.set = 0x21 then 1792
  else if op = 0x3A ∧ a.set = 0x21 then 2304
  else if op = 0x3B ∧ a.set = 0x21 then 1536
  else if op = 0x3C ∧ a.set = 0x31 then 12800 + 8960 * dsaRounds a.set (inp.take a.ctxLen) (inp.drop a.ctxLen) priv (signRnd a rnd)
  else if op = 0x3D ∧ a.set = 0x31 then 16000
  else free

/-- Sclk of a bound arithmetic step, once its operands are there. -/
def arithNeed (s : State) (x : Job) (k : Nat) (t : StepRun) : Option Nat :=
  match t.place, inputOf x k t with
  | some b, some (.ok inp) => some (srgNeed (x.desc k).op (arBlk (x.param k)) inp (bank s b).priv (bank s b).rnd)
  | _, _ => none

/-- Work of a step in its unit's measure for an input of `m` bytes (R158); an arithmetic step's is that of its bank. -/
def dataWork (x : Job) (k : Nat) (t : StepRun) (m : Nat) : Nat :=
  let op := (x.desc k).op
  let p := x.param k
  let ol := digestOutLen op p
  if isAes op then (let b := aesBlocks op (aesBlk p) (keyLen t) m; b.1 + b.2)
  else if isDigest op then digestBlocks op (if bitAt (pfield p 4 1) 1 then m - ol else m) ol
  else if op = 0x2F then ceilDiv (64 + m + 17) 128
  else if op = 0x60 ∨ op = 0x61 then ceilDiv m 64
  else if op = 0x62 then ceilDiv (pfield p 8 4) 64
  else if op = 0x63 then 2 * ceilDiv m 64
  else if op = 0x40 then ceilDiv (pfield p 0 4) 16
  else 0

/-- Bytes that a step's work covers, when known: those of its input, or the buffer that a GATE hands on. -/
def workLen (x : Job) (k : Nat) (t : StepRun) : Option Nat := if (x.desc k).op = 0x60 then gateLen x k t else knownLen x k t

/-- All the work of a step; none while its length is unknown. -/
def stepWork (s : State) (x : Job) (k : Nat) (t : StepRun) : Option Nat :=
  let op := (x.desc k).op
  if isArith op then arithNeed s x k t
  else if op = 0x62 ∨ op = 0x40 ∨ (planUnit op (x.param k)).isNone then some (dataWork x k t 0)
  else (workLen x k t).map (dataWork x k t)

/-- Emmer work that an arithmetic step needs: the Keccak permutations of a lattice operation (R294, R326), the SHA-512 blocks of EdDSA (R320,
RFC 8032). -/
def auxNeed (op : Nat) (a : ArBlk) (inp priv rnd : Bytes) : Nat :=
  if op = 0x39 ∧ a.set = 0x21 then 53
  else if op = 0x3A ∧ a.set = 0x21 then 63
  else if op = 0x3B ∧ a.set = 0x21 then 52
  else if op = 0x3E then 0
  else if isLattice op then (Config.lattPerms op a.set (leNat (inp ++ priv ++ rnd))).toNat
  else if op = 0x36 then digestBlocks 0x23 32 64 + digestBlocks 0x23 (32 + inp.length) 64 + digestBlocks 0x23 (64 + inp.length) 64
  else if op = 0x37 then digestBlocks 0x23 (inp.length - 32) 64
  else 0

/-- The same for a bound step; 0 for every other. -/
def auxWork (s : State) (x : Job) (k : Nat) (t : StepRun) : Nat :=
  let op := (x.desc k).op
  if isArith op then
    match t.place, inputOf x k t with
    | some b, some (.ok inp) => auxNeed op (arBlk (x.param k)) inp (bank s b).priv (bank s b).rnd
    | _, _ => 0
  else 0

/-- The kind of core that runs an arithmetic step's Emmer work. -/
def auxUnit (op : Nat) : PlanUnit := if isLattice op then .keccak else .sha

/-- Kc that a unit of work takes (R158). -/
def kcPer (u : PlanUnit) (op : Nat) : Nat :=
  match u with
  | .enc | .dec => 1
  | .sha => if sha256Like op then 64 else 80
  | .keccak => 24
  | .srg => 2
  | .spike => 2
  | .swp => 8

/-- The shortest quantum of a unit (R158). -/
def shortestOf (u : PlanUnit) : Nat := match u with | .enc | .dec | .srg | .spike => 64 | _ => 1

/-- Input bytes that a unit of work covers while the whole is unknown (R159). -/
def bytesPer (u : PlanUnit) (op : Nat) : Nat :=
  match u with
  | .enc | .dec => 16
  | .sha => if sha256Like op then 64 else 128
  | .keccak => keccakRate op
  | .spike => 64
  | .srg | .swp => 16

/-- Input bytes that `w` units of a step's work cover: in proportion where all is known, all of it once all the work is. -/
def bytesOf (s : State) (x : Job) (k : Nat) (t : StepRun) (u : PlanUnit) (w : Nat) : Nat :=
  match stepWork s x k t, workLen x k t with
  | some all, some n => if all ≤ w then n else n * w / all
  | _, _ => w * bytesPer u (x.desc k).op

/-- Units of a step's work that `b` bytes of its input allow, rounded down. -/
def workWithin (s : State) (x : Job) (k : Nat) (t : StepRun) (u : PlanUnit) (b : Nat) : Nat :=
  match stepWork s x k t, workLen x k t with
  | some all, some n => if n ≤ b then all else all * b / n
  | _, _ => b / bytesPer u (x.desc k).op

/-- Units of a step's work that `b` further bytes of its input need, rounded up. -/
def workFor (s : State) (x : Job) (k : Nat) (t : StepRun) (u : PlanUnit) (b : Nat) : Nat :=
  match stepWork s x k t, workLen x k t with
  | some all, some n => if n ≤ b then all else ceilDiv (all * b) n
  | _, _ => ceilDiv b (bytesPer u (x.desc k).op)

/-! ### How far input and work have come (R28, R160, R273) -/

/-- Whether an operation passes its output on as it goes: data movement and the modes that hold nothing back; digests, arithmetic and held
output come at the end (R117, R211). -/
def flowsOn (x : Job) (k : Nat) : Bool :=
  let op := (x.desc k).op
  let a := aesBlk (x.param k)
  op == 0x60 || op == 0x61 || op == 0x62 || op == 0x40 || (isAes op && decide (op ≤ 0x16) && op != 0x15 && !holdsInput op a)

/-- Bytes at hand of step `k`'s input; none when all of it is there. `fuel` bounds the steps it comes through. -/
def atHand : Nat → Job → Nat → Option Nat
  | 0, _, _ => none
  | fuel + 1, x, k =>
    let d := x.desc k
    match x.steps[k]? with
    | none => none
    | some t =>
      if d.op = 0x60 then (match t.gate with
        | .released p => if p.result = 0 then (if srcDone t.src2 then none else some (arrivedBytes t.src2).length) else (if srcDone t.src then none else some (arrivedBytes t.src).length)
        | _ => some 0)
      else if d.inC = inFRAGS then (if srcDone t.src then none else some (arrivedBytes t.src).length)
      else if d.inC = inTEE then atHand fuel x d.inStep
      else if d.inC = inSTREAM then
        (match x.steps[d.inStep]? with
          | some u => if outReady u then none else if flowsOn x d.inStep then atHand fuel x d.inStep else some 0
          | none => none)
      else none

/-- Work that a step's input lets it have issued: all that was granted where all input is there, or where it needs none (GMAC's two blocks,
R204); else what the input at hand, or the slower of two sources, covers (R160). -/
def fedWork (s : State) (x : Job) (k : Nat) (t : StepRun) : Nat :=
  let op := (x.desc k).op
  match planUnit op (x.param k) with
  | none => t.work
  | some u =>
    if isArith op ∨ op = 0x15 then t.work
    else
      let w := match atHand 8 x k with | some b => min t.work (workWithin s x k t u b) | none => t.work
      if op = 0x63 ∧ ¬ srcDone t.src2 then min w (workWithin s x k t u (arrivedBytes t.src2).length) else w

/-- The steps that a source's bytes are planned work of and that have not all their work yet: the group of step `k`, or step `k` alone for its
second source. Arithmetic takes its input into its bank, and what runs without quanta takes it whole. -/
def readersOf (s : State) (x : Job) (k n : Nat) : List Nat :=
  if isArith (x.desc k).op then []
  else (if n = 1 then [k] else x.group (x.leader k)).filter fun i =>
    !isArith (x.desc i).op && (planUnit (x.desc i).op (x.param i)).isSome &&
      (match x.steps[i]? with
        | some t => (t.st == .run || t.st == .idle) && t.bad.isNone && (match stepWork s x i t with | some w => decide (t.work < w) | none => true)
        | none => false)

/-- Bytes of source `n` of step `k` that have been taken up: those that have arrived, as far as every reader's granted work has come. -/
def takenUp (s : State) (x : Job) (k n : Nat) (r : Src) : Nat :=
  (readersOf s x k n).foldl (fun m i => match x.steps[i]? with
    | some t => (match planUnit (x.desc i).op (x.param i) with | some u => min m (bytesOf s x i t u t.work) | none => m)
    | none => m) (arrivedBytes r).length

/-- Whether a source has bytes left to ask for. -/
def moreToRead (r : Src) : Bool := r.opened && srcWants r && !(r.frags.isEmpty && r.table.isNone && r.tabs == 0)

/-- A job's share of read-ahead for each of its open sources (R28, R273): 8 KiB in all. -/
def readShare (x : Job) : Nat := 8192 / max 1 (x.steps.foldl (fun n t => n + bit (moreToRead t.src) + bit (moreToRead t.src2)) 0)

/-- Bytes that a job's sources have asked for and that have not been taken up. -/
def readAhead (s : State) (x : Job) : Nat :=
  (List.range x.steps.length).foldl (fun n k => match x.steps[k]? with
    | some t => n + (t.src.issued - takenUp s x k 0 t.src) + (t.src2.issued - takenUp s x k 1 t.src2)
    | none => n) 0

/-- Whether source `n` of step `k` may ask for `m` bytes more: within its share, and within the job's 8 KiB. -/
def mayRead (s : State) (x : Job) (k n m : Nat) (r : Src) : Bool :=
  decide (r.issued + m ≤ takenUp s x k n r + readShare x) && decide (readAhead s x + m ≤ 8192)

end Sys2Proof.Machine
end

