-- ==== Sys2Proof/Machine/Chain.lean ====
section
/-! DEFINITION. Chains on their spikelets (R114 to R154): reading sources, moving data between steps, writing results,
gates, ends of steps and of chains, dispatch and bins. -/

namespace Sys2Proof.Machine

/-- Whether a step runs. -/
def stepRuns (s : State) (j k : Nat) : Bool :=
  match job? s j, step? s j k with | some x, some t => x.phase == .run && t.st == .run && t.bad.isNone | _, _ => false

def keyedOp (op : Nat) (realmStored : Bool) : Bool :=
  isAes op || isHmac op || op == 0x52 || op == 0x54 || op == 0x56 || (op == 0x50 && !realmStored)

/-! ### Fragments (R118 to R120) -/

/-- What becomes of a list of descriptors read from the entry or from a table: data fragments, and the table that follows. -/
def splitFrags (pos : Nat) (fs : List FragDesc) : List Frag × Option (Nat × Nat) :=
  ((fs.filter fun f => !f.chain).mapIdx fun i f => { addr := f.addr, len := f.len, na := f.single, pos := pos + i },
   (fs.find? FragDesc.chain).map fun f => (f.addr, f.len))

/-- A source over a range of the entry's descriptors, of which at most `limit` bytes are read. -/
def openRange (b : Bytes) (first n : Nat) (limit : Option Nat) : Src :=
  let r := splitFrags 0 (fragRange b first n)
  { noSrc with frags := r.1, table := r.2, limit, count := r.1.length, closed := r.2.isNone }

/-- The MALFORMED detail of a piece of a chained table (R119); `last` says that it is the table's last piece. -/
def tableDefect (count : Nat) (fs : List FragDesc) (lastPiece : Bool) : Nat :=
  if fs.any fun f => f.flags / 4 != 0 then 0x10
  else if fs.any fun f => !f.chain && f.len == 0 then 0x1A
  else if (if lastPiece then placementBad fs else fs.any FragDesc.chain) then 0x1B
  else if 65536 < count + (fs.filter fun f => !f.chain).length then 0x1C
  else 0

/-- Source `n` of a step: 0 IN, 1 the second source, 2 the output range. -/
def StepRun.range (t : StepRun) (n : Nat) : Src := if n = 0 then t.src else if n = 1 then t.src2 else t.dst
def StepRun.setRange (t : StepRun) (n : Nat) (x : Src) : StepRun :=
  if n = 0 then { t with src := x } else if n = 1 then { t with src2 := x } else { t with dst := x }

/-- Bytes that the fragments known and not yet read hold. -/
def rangeCap (x : Src) : Nat := x.frags.foldl (fun n f => n + f.len) 0

/-- Whether a range needs a further table now (R119): the rest of the one begun, or the next one, which is read one table ahead of the
data, unless the fragments at hand hold all that the step takes. -/
def tableDue (x : Src) : Bool :=
  x.tabs == 0 && (x.mid || ((match x.limit with | some l => decide (x.issued + rangeCap x < l) | none => true) &&
    (match x.frags with | [] => true | f :: _ => decide (x.mark ≤ f.pos))))

/-- The port that a step's fragments leave on (R31): by address, or array `a`'s for a bound Sorghum step. -/
def stepPort (t : StepRun) (a : Nat) : Nat :=
  if isArith (bitsAt t.d0 0 8) then (match t.place with | some n => (n / 2 + 8) % 16 | none => fragPort a) else fragPort a

/-- A read of a job: on the block's own ports, or through the windows of the block it was forwarded from (R475). -/
def jobRead (s : State) (x : Job) (port a n : Nat) (na : Bool) (who : Who) : State :=
  match x.peer with
  | none => readReq s port a n x.port false na who
  | some p => askRead s p who a n

/-- A write of a job, in the same way. -/
def jobWrite (s : State) (x : Job) (port a : Nat) (na : Bool) (who : Who) (b : Bytes) : State :=
  match x.peer with
  | none => writeReq s port a x.port false na false who b
  | some p => askWrite s p who a b

/-- Issue a table read for range `n` of a step, where one is due. -/
def readTable (s : State) (j : Nat) (x : Job) (k : Nat) (t : StepRun) (n : Nat) : State :=
  let r := t.range n
  match r.table with
  | some (a, l) =>
    if tableDue (if n = 2 then { r with mark := 0 } else r) then
      let m := min (min l (if x.peer.isSome then 1024 else l)) (4096 - a % 4096)
      let s1 := modStep s j k fun u => u.setRange n
        { r with table := if m = l then none else some (a + m, l - m), tabs := 1, mark := if r.mid then r.mark else r.count, mid := m ≠ l }
      jobRead s1 x (stepPort t a) a m false (.table j x.eid k n (a % 64) m)
    else s
  | none => s

/-- Requests that 8 KiB of single bytes would take. -/
def readFuel : Nat := 8192

/-- Issue data reads for source `n` of a step, each of up to 4 KiB, while it keeps within its share of 8 KiB ahead of its consumers (R28, R273);
`fuel` bounds the requests. -/
def readMore : Nat → State → Nat → Nat → Nat → State
  | 0, s, _, _, _ => s
  | fuel + 1, s, j, k, n =>
    match job? s j, step? s j k with
    | some x, some t =>
      let r := t.range n
      let share := readShare x
      if !srcWants r then s
      else match r.frags with
        | [] => s
        | f :: fs =>
          let room := min (min share (if x.peer.isSome then 1024 else 4096)) (min (4096 - f.addr % 4096) <| match r.limit with | some l => l - r.issued | none => f.len)
          let m := min f.len room
          let rest := if m = f.len then fs else { f with addr := f.addr + m, len := f.len - m } :: fs
          let s1 := modStep s j k fun u => u.setRange n { r with frags := rest, issued := r.issued + m, reads := r.reads + 1 }
          if !mayRead s x k n m r then s
          else readMore fuel (jobRead s1 x (stepPort t f.addr) f.addr m f.na (.frag j x.eid k n r.issued (f.addr % 64) m f.pos)) j k n
    | _, _ => s

/-- Read on for one range of a step: data for a source, then tables. -/
def readRange (s : State) (j k n : Nat) : State :=
  let s1 := if n = 2 then s else readMore readFuel s j k n
  match job? s1 j, step? s1 j k with
  | some x, some t => readTable s1 j x k t n
  | _, _ => s1

/-- Read on for every range of a step that has started. -/
def readStep (s : State) (j k : Nat) : State :=
  match step? s j k with
  | some t => if t.st = .idle ∨ t.bad.isSome then s else [0, 1, 2].foldl (fun st n => readRange st j k n) s
  | none => s

/-- Read on for every step of a job. -/
def readJob (s : State) (j : Nat) : State :=
  match job? s j with
  | some x => (List.range x.steps.length).foldl (fun st k => readStep st j k) s
  | none => s

/-- The job and step of a transaction are still the ones that issued it. -/
def txnLive (s : State) (j eid k : Nat) : Bool :=
  match job? s j, step? s j k with | some x, some t => x.eid == eid && t.st == .run | _, _ => false

/-- Whether what a transaction brings still reaches its step: one that has started, ended or not (a TEE takes its source's bytes). -/
def dataLive (s : State) (j eid k : Nat) : Bool :=
  match job? s j, step? s j k with | some x, some t => x.eid == eid && t.st != .idle | _, _ => false

/-- Data of a fragment read arrived whole. -/
def fragArrived (s : State) (j eid k n off skip len : Nat) (d : Bytes) : State :=
  if dataLive s j eid k then
    readJob (modStep s j k fun t =>
      let r := t.range n
      t.setRange n { r with pieces := SMap.set r.pieces off (slice d skip len), reads := r.reads - 1 }) j
  else s

/-- The input of step `k` that has arrived (R120): its source's bytes, or all of a source that is whole. -/
def inputSoFar (x : Job) (k : Nat) : Bytes :=
  let d := x.desc k
  let src := if d.inC = inTEE then sourceStep 8 x.bytes k else k
  let e := x.desc src
  let b := if e.inC = inFRAGS then (match x.steps[src]? with | some t => arrivedBytes t.src | none => [])
    else if e.inC = inINLINE then (entPayload x.bytes).drop (16 * e.inFirst)
    else if e.inC = inNONE then []
    else match x.steps[e.inStep]? with | some t => (if t.bad.isNone && !t.held then t.out else []) | none => []
  let b1 := if e.len = 0 then b else b.take e.len
  if d.len = 0 then b1 else b1.take d.len

/-- The input that a step's granted work has come to. -/
def workedInput (s : State) (x : Job) (k : Nat) (t : StepRun) : Bytes :=
  match planUnit (x.desc k).op (x.param k) with
  | some u => (inputSoFar x k).take (bytesOf s x k t u t.work)
  | none => []

/-- Bytes that a step holds back until its verdict (R211): its formed text, or what its granted work has made of its input so far. -/
def heldSoFar (s : State) (x : Job) (k : Nat) (t : StepRun) : Nat :=
  let op := (x.desc k).op
  let a := aesBlk (x.param k)
  if t.held then t.out.length
  else if t.judged || !isAes op || !holdsInput op a || (x.desc k).verifyOnly || !(match t.key with | .ready _ => true | _ => false) then 0
  else aesText op a (workedInput s x k t).length

/-- What a step has written of its output when only `inp` of its input has come (R119, R120): MOVE and the modes of AES that put each block
or data unit out as it is done; the others write at their end. How much has been written by then is the model's choice (log entry 63). -/
def standingOut (op : Nat) (p : Bytes) (vo : Bool) (key iv0 inp : Bytes) : Bytes :=
  let a := aesBlk p
  let lead := if a.ivInInput then a.ivBytes op else 0
  let whole := fun (off n : Nat) => inp.take (off + (inp.length - off) / n * n)
  if op = 0x61 then inp
  else if vo ∨ inp.length ≤ lead then []
  else if op = 0x10 then (aesStep op a vo key iv0 (whole 0 16)).out
  else if op = 0x11 then (aesStep op a vo key iv0 (whole lead 16)).out
  else if op = 0x12 then (aesStep op a vo key iv0 inp).out
  else if op = 0x13 then (aesStep op a vo key iv0 (whole 0 (max 1 (a.duBytes + piBytes (bitsAt a.piFmt 0 2))))).out
  else if (op = 0x14 ∨ op = 0x16) ∧ !a.decrypt then
    if inp.length ≤ lead + a.aadLen then []
    else if a.duBytes = 0 then let o := (aesStep op a vo key iv0 inp).out; o.take (o.length - a.tagLen)
    else if inp.length < lead + a.aadLen + a.duBytes then []
    else (aesStep op a vo key iv0 (whole (lead + a.aadLen) a.duBytes)).out
  else []

/-- Cut an output into writes: address, bytes, no-allocate hint and fragment position; `fuel` bounds them. -/
def cutOut : Nat → List Frag → Bytes → List (Nat × Bytes × Bool × Nat)
  | 0, _, _ => []
  | _, [], _ => []
  | fuel + 1, f :: fs, b =>
    if b.isEmpty then []
    else
      let m := min (min f.len b.length) (min (4096 - f.addr % 4096) (writeLines * 64 - f.addr % 64))
      (f.addr, b.take m, f.na, f.pos) ::
        cutOut fuel (if m = f.len then fs else { f with addr := f.addr + m, len := f.len - m } :: fs) (b.drop m)

/-- Fuel for `cutOut`: each write takes a byte or ends a fragment. -/
def cutFuel (fs : List Frag) (b : Bytes) : Nat := fs.length + b.length + 1

/-- Present the writes of an output to the fragments of a step's range: those of BULK and BACKGROUND entries carry MQ_NA (R49). -/
def writeOut (s : State) (j k : Nat) (b : Bytes) : State :=
  match job? s j, step? s j k with
  | some x, some t =>
    let ws := cutOut (cutFuel t.dst.frags b) t.dst.frags b
    let s1 := modStep s j k fun u => { u with outLeft := u.outLeft + ws.length }
    ws.foldl (fun st w => jobWrite st x (stepPort t w.1) w.1 (decide (2 ≤ x.cls)) (.out j x.eid k w.2.2.2) w.2.1) s1
  | _, _ => s

/-- The bytes that stand in a step's output when a defect ends it midway (R119, R120, R154). -/
def standOut (s : State) (j k : Nat) : State :=
  match job? s j, step? s j k with
  | some x, some t =>
    let d := x.desc k
    if outToFrags d.outC && t.bad.isNone && t.st == .run then
      writeOut s j k (standingOut d.op (x.param k) d.verifyOnly (match t.key with | .ready c => c.key | _ => []) t.out (inputSoFar x k))
    else s
  | _, _ => s

/-- A step ends MALFORMED after it has started: the bytes written before stand (R119, R120). -/
def failLate (s : State) (j k e : Nat) : State := failStep (standOut s j k) j k { status := 0x10, detail := e, loc := 0 }

/-- A piece of a chained table arrived: its fragments join the range, or a defect ends the step (R119). -/
def tableArrived (s : State) (j eid k n skip len : Nat) (d : Bytes) : State :=
  if txnLive s j eid k then
    match step? s j k with
    | none => s
    | some t =>
      let r := t.range n
      let fs := (chunks 16 (slice d skip len)).map fragOf
      let e := tableDefect r.count fs (!r.mid)
      if e ≠ 0 then failLate (modStep s j k fun u => u.setRange n { r with tabs := 0 }) j k e
      else
        let p := splitFrags r.count fs
        let r1 := { r with frags := r.frags ++ p.1, count := r.count + p.1.length, tabs := 0,
                           table := if r.mid then r.table else p.2, closed := !r.mid && p.2.isNone }
        readJob (modStep s j k fun u => u.setRange n r1) j
  else s

/-- A read of a step failed (R29, R30): it ends, and where it has ended already, the steps that TEE its source do. -/
def readFailed (s : State) (j eid k pos addr : Nat) : State :=
  let v : Verdict := { status := 0x20, detail := min pos 0x1FFF, loc := addr }
  if txnLive s j eid k then failStep s j k v
  else match job? s j with
    | some x =>
      if x.eid = eid then
        ((List.range x.steps.length).filter fun i =>
          (x.desc i).inC == inTEE && sourceStep 8 x.bytes i == k && stepRuns s j i).foldl (fun st i => failStep st j i v) s
      else s
    | none => s

/-! ### Gates (R144 to R147) -/

/-- States of a gate (R145). -/
def gFREE : Nat := 0
def gPOSTED : Nat := 1
def gARMED : Nat := 2
def gOFF : Nat := 3
def gateState (s : State) (g : Nat) : Nat := rd s (gsB g) GS.STAT.STATE
def setGateState (s : State) (g v : Nat) : State := wr s (gsB g) GS.STAT.STATE v

/-- Count an ignored or discarded post; `note` sends the NOTICE. -/
def gateIgnore (s : State) (g : Nat) (note : Bool) (src : Nat) : State :=
  let s1 := inc s (gsB g) GS.STAT.IGNORED
  if note then writeIgnored s1 0x13 0 src (gsB g) (anyDetail 0x003) else s1

/-- The gate block (R146). -/
structure GateBlk where
  buf : Nat
  bufLen : Nat
  token : Nat
  timeout : Nat
  notify : Nat
deriving DecidableEq, Repr

def gateBlk (p : Bytes) : GateBlk :=
  { buf := pfield p 0 8, bufLen := pfield p 8 4, token := pfield p 12 2, timeout := if pfield p 16 4 = 0 then 65536 else pfield p 16 4,
    notify := pfield p 24 8 }

/-- Open the IN range of a step that reads it only now, unless a TEE has opened it before (R115, R117). -/
def openSource (s : State) (j k : Nat) : State :=
  match job? s j, step? s j k with
  | some x, some t =>
    let d := x.desc k
    if t.src.opened then readStep s j k
    else readStep (modStep s j k fun u => { u with src := openRange x.bytes d.inFirst d.inCount (if d.len = 0 then none else some d.len) }) j k
  | _, _ => s

/-- Release a GATE step with a post (R147): its request reaches the planner now (R164). -/
def releaseGate (s : State) (j k : Nat) (p : Post) : State :=
  match job? s j, step? s j k with
  | some x, some t =>
    let b := gateBlk (x.param k)
    let d := x.desc k
    let fail := fun (e : Nat) => failStep (modStep s j k fun u => { u with gate := .released p }) j k { status := 0x30, detail := e, loc := 0 }
    let now := some s.rch.stamp
    let s := { s with rch := { s.rch with stamp := s.rch.stamp + 1 } }
    if t.bad.isSome then s
    else if p.result = 0 then
      if b.bufLen < p.len then fail 3
      else
        let r : Src := { noSrc with frags := if p.len = 0 then [] else [{ addr := b.buf, len := p.len, na := false, pos := 0 }], limit := some p.len }
        readStep (modStep s j k fun u => { u with gate := .released p, src2 := r, asked := now }) j k
    else if p.result = 1 then
      if d.inC = inNONE then fail 4
      else
        openSource (modStep s j k fun u => { u with gate := .released p, asked := now }) j k
    else fail 2
  | _, _ => s

/-- Arm a gate for a GATE step (R146). -/
def armGate (s : State) (j k : Nat) : State :=
  match job? s j with
  | none => s
  | some x =>
    let g := entGate x.bytes
    let b := gateBlk (x.param k)
    let arm := fun (st : State) =>
      let s1 := wr (setGateState st g gARMED) (gsB g) GS.STAT.TOKEN b.token
      let s2 := setGatex s1 g { gatex s1 g with armed := some (j, k), ticksLeft := b.timeout, post := none }
      let s3 := modStep s2 j k fun u => { u with gate := .armed }
      if b.notify = 0 then s3
      else
        let w := natLe 8 (g + b.token * 2 ^ 16 + entTag x.bytes * 2 ^ 32)
        (cutRange 3 b.notify 8 64 0).foldl (fun u c =>
          writeReq u (fragPort (b.notify + c.1)) (b.notify + c.1) x.port false false false (.notify j x.eid k) (slice w c.1 c.2)) s3
    if gateRefused s g x.realm then failStep s j k { status := 0x12, detail := 0x17, loc := 0 }
    else if gateState s g = gARMED then failStep s j k { status := 0x12, detail := 0x18, loc := 0 }
    else if gateState s g = gPOSTED then
      match (gatex s g).post with
      | some p =>
        if p.token = b.token then
          let s1 := setGatex (setGateState s g gFREE) g { gatex s g with post := none }
          releaseGate (wr s1 (gsB g) GS.STAT.TOKEN (((gatex s g).dead).getD 0)) j k p
        else arm (gateIgnore s g true (rd s (gsB g) GS.GRANT.PORT))
      | none => arm s
    else if gateState s g = gFREE then arm s
    else failStep s j k { status := 0x12, detail := 0x17, loc := 0 }

/-- Free an ARMED gate whose entry ends otherwise: its token becomes dead (R146). -/
def killGate (s : State) (g : Nat) : State :=
  let t := rd s (gsB g) GS.STAT.TOKEN
  setGatex (setGateState s g gFREE) g { gatex s g with armed := none, post := none, dead := some t, ticksLeft := 0 }

/-- The gate that a job's running GATE step has armed. -/
def armedGate (s : State) (j : Nat) : Option Nat :=
  (s.gates.find? fun p => match p.2.armed with | some a => a.1 == j && gateState s p.1 == gARMED | none => false).map (·.1)

/-! ### Holding bins (R122, R184) -/

/-- Bins in use, all or of one realm. -/
def binsUsed (s : State) (f : Job → Bool) : Nat := (s.jobs.filter fun p => f p.2).foldl (fun n p => n + p.2.bins) 0

/-- Free bins (R227). -/
def binsFree (s : State) : Nat := s.part.bins - binsUsed s fun _ => true

/-- Whether `n` bins can be reserved for a realm now. -/
def binsFit (s : State) (r n : Nat) : Bool :=
  enabled s pHLD && decide (n ≤ binsFree s) && (binLimit s r == 0 || decide (binsUsed s (fun x => x.realm == r) + n ≤ binLimit s r))

/-- Reserve a job's bins. -/
def reserveBins (s : State) (j n : Nat) : State :=
  let s1 := modJob s j fun x => { x with bins := n, phase := .keys }
  if binsFree s1 < rd s (pg pHLD) HLD.BIN_LOW.LOW then wr s1 (pg pHLD) HLD.BIN_LOW.LOW (binsFree s1) else s1

/-! ### Output (R115, R120, R211) -/

/-- Hand out a step's formed output: to its fragments, where a short range ends the step with PARAM 0x016 after its bytes. -/
def handOut (s : State) (j k : Nat) : State :=
  match job? s j, step? s j k with
  | some x, some t =>
    if outToFrags (x.desc k).outC then
      let s1 := writeOut s j k t.out
      if rangeCap t.dst < t.out.length then modStep s1 j k fun u => { u with bad := (match u.bad with | some v => some v | none => some { status := 0x12, detail := 0x16, loc := 0 }) }
      else s1
    else s
  | _, _ => s

/-- A step's operation has its result: the output is held until HELD_RELEASE, or handed out at once; a failure keeps the bytes
that stand (R127), or zeros its whole output range under ZERO_FILL (R114). -/
def formStep (s : State) (j k : Nat) (r : OpRes) (hold : Bool) (checks : Nat) : State :=
  match job? s j with
  | none => s
  | some x =>
    let d := x.desc k
    if r.v.status = 0 then
      let s1 := modStep s j k fun t => { t with out := r.out, st := .formed, held := hold, checks := t.checks + checks, committed := true, judged := true }
      if hold then s1 else handOut s1 j k
    else
      let s1 := modStep s j k fun t => { t with out := [], bad := some r.v, st := .formed, held := hold, checks := t.checks + checks, judged := true }
      let n := match step? s j k with | some t => rangeCap t.dst | none => 0
      if !outToFrags d.outC then s1
      else if d.zeroFill && (r.v.status == 2 || r.v.status == 4) then writeOut s1 j k (zeros n)
      else if hold then s1
      else writeOut s1 j k r.out

/-! ### The end of chains (R127, R128) -/

/-- Whether a step ends OK with the pair of R132: a verification whose result is not data. -/
def givesPair (x : Job) (k : Nat) : Bool :=
  let op := (x.desc k).op
  (isDigest op && bitAt (pfield (x.param k) 4 1) 0) || op == 0x63 || op == 0x34 || op == 0x37 || op == 0x3D

/-- The lowest verifying step that ended OK and whose pair is not the two match words (R286). -/
def brokenPair (x : Job) : Option Nat :=
  (List.range x.steps.length).find? fun k => givesPair x k &&
    (match x.steps[k]? with | some t => t.st == .ended && t.bad.isNone && t.out != pairMatch | none => false)

/-- The pairs of an OK entry are checked once more: one that disagrees makes it ENGINE_FAULT and is reported on the lowest group that the part
has (R286; the group is a DESIGN CHOICE, log entry 56). -/
def checkPairs (s : State) (j : Nat) (x : Job) : State :=
  match x.bad, brokenPair x with
  | none, some k =>
    let g := ((List.range 4).find? (present s .emr)).getD 0
    let s1 := modJob s j fun y => { y with bad := some ({ status := 0x28, detail := 0x11, loc := 0 }, k), result := [] }
    chaffPlain (setEvt (inc s1 (pg (pEMR g)) EMR.PAIR_MISMATCH.COUNT) (pEMR g) EMR.EVT.PAIR_MISMATCH) 0x11 g 0x302 0x1112
  | _, _ => s

/-- A job has ended and every output write is answered: its pairs are checked and its completion is formed (R26, R100, R286). A peer's job is
answered by DONE instead (R476). -/
def finishJob (s : State) (j : Nat) : State :=
  match job? s j with
  | none => s
  | some y =>
    if y.phase ≠ .fin ∨ y.cid.isSome ∨ !(y.steps.all fun t => t.outLeft == 0) then s
    else
      let s := checkPairs s j y
      let x := (job? s j).getD y
      let v := match x.bad with | some b => b.1 | none => { status := 0, detail := 0, loc := 0 }
      let st := match x.bad with | some b => b.2 | none => 0
      match x.peer with
      | some p => freeJob (sendDone s p (doneBody v st (entTag x.bytes) x.result)) j
      | none => finishEntry s x.sq x.eid x.index (entTag x.bytes) v st x.result (entInlineOut x.bytes) [j]

/-- Drop a step's pin, its place and its register's lock. -/
def leaveStep (s : State) (j k realm : Nat) : State :=
  match step? s j k with
  | some t =>
    let s1 := modStep s j k fun u => { u with key := .none, place := none, ectx := none }
    let op := bitsAt t.d0 0 8
    let good := (t.st == .formed || t.st == .ended) && (match t.bad with | some v => v.status == 3 | none => true)
    let s2 := match t.place with
      | some l =>
        if isAes op then setLane s1 l { lane s1 l with ctxs := (lane s1 l).ctxs.filter fun c => !(c.job == j && c.step == k) }
        else if isArith op then releaseBank s1 l good
        else s1
      | none => s1
    let locks := s2.meas.map fun (p : Nat × Meas) => if p.2.lock = some (j, k) then (p.1, { p.2 with lock := none }) else p
    let s3 := { s2 with susp := s2.susp.filter fun c => !(c.job == j && c.step == k), meas := locks }
    match t.key with
    | .ready c => unpin s3 c realm
    | _ => s3
  | none => s

/-- The chain of a job ends with a verdict at a step, or well (R127): pins, contexts, bins and an armed gate go. -/
def endChain (s : State) (j : Nat) (bad : Option (Verdict × Nat)) : State :=
  match job? s j with
  | none => s
  | some x =>
    if x.phase = .fin then s
    else
      let st := match bad with | some b => b.1.status | none => 0
      let s00 := match armedGate s j with | some g => killGate s g | none => s
      let s0 := if st = 0x18 then x.steps.foldl (fun u t => match t.place with
        | some n => if isArith (bitsAt t.d0 0 8) && t.st == .run then countAbort u n else u
        | none => u) s00 else s00
      let s1 := (List.range x.steps.length).foldl (fun st k => leaveStep st j k x.realm) s0
      let wh := (x.steps.mapIdx fun k t => heldSoFar s x k t).foldl (· + ·) 0
      let s2 := incBy s1 (pg pHLD) HLD.WITHHELD.BYTES wh
      let done := fun (t : StepRun) => { t with st := .ended, held := false, checks := 0 }
      let s3 := modJob s2 j fun y =>
        { y with phase := .fin, bins := 0, bad := bad, result := if bad.isSome then [] else y.result, steps := y.steps.map done }
      let sp := pg (pSPK (j / 16))
      let s4 := if st = 0x10 then setEvt (inc s3 sp SPK.MALFORMED_COUNT.COUNT) (pSPK (j / 16)) SPK.EVT.MALFORMED
        else if st = 0x12 then inc s3 sp SPK.PARAM_COUNT.COUNT
        else if st = 0x28 then setEvt s3 (pSPK (j / 16)) SPK.EVT.SPKL_FAULT else s3
      finishJob s4 j

/-! ### Starting steps (R117, R124) -/

/-- Whether a step's slot is installed, revoked or generated by an earlier step of the chain (R124). -/
def lateLookup (b : Bytes) (k : Nat) : Bool :=
  (List.range k).any fun j =>
    let d := descAt b j
    (d.op == 0x50 || d.op == 0x51 || d.op == 0x53 || d.op == 0x55) && keySlotOf b d == keySlotOf b (descAt b k)

/-- Whether realm `r` is STORED (R231). -/
def realmStored (s : State) (r : Nat) : Bool := match realmKeys s r with | some k => k.stored | none => false

/-- Issue the lookup of a keyed step (R124). A KEY_STATUS step notes in `tok` whether the line was VALID before (R251). -/
def lookStep (s : State) (j : Nat) (x : Job) (k : Nat) : State :=
  if keyedOp (x.desc k).op (realmStored s x.realm) then
    let slot := realmBase s x.realm + keySlotOf x.bytes (x.desc k)
    let cached := match findLine s x.realm slot with | some (_, l) => l.st == .valid | none => false
    lookup (modStep s j k fun t => { t with key := .waiting, tok := if (x.desc k).op = 0x56 then some (bit cached) else t.tok })
      { job := j, eid := x.eid, step := k, realm := x.realm, k := keySlotOf x.bytes (x.desc k), op := (x.desc k).op, wait := .unit }
  else s

/-- The fragment source of a private operand (R140). -/
def keyFragSrc (b : Bytes) (n : Nat) : Src :=
  if n = 0x3F then noSrc else { openRange b n 1 none with limit := some (fragAt b n).len }

/-- Open a step's ranges and read on: a GATE step reads its input only on a bypass, a Sorghum step loads at its binding, and a TEE opens
the range of a GATE that it shares (R115). -/
def openStep (s : State) (j k : Nat) : State :=
  match job? s j with
  | none => s
  | some x =>
    let d := x.desc k
    let lim := if d.len = 0 then none else some d.len
    let d2 := src2Of d (x.param k)
    let src := fun (t : StepRun) => if d.inC = inFRAGS && d.op != 0x60 && !t.src.opened then openRange x.bytes d.inFirst d.inCount lim else t.src
    let src2 := if d.op = 0x63 ∧ d2.inC = inFRAGS then openRange x.bytes d2.inFirst d2.inCount lim
      else if isArith d.op then keyFragSrc x.bytes (arBlk (x.param k)).keyFrag else noSrc
    let dst := if outToFrags d.outC then openRange x.bytes d.outFirst d.outCount (outLen lenFuel x.bytes k) else noSrc
    let s1 := readStep (modStep s j k fun t => { t with src := src t, src2, dst }) j k
    let i := sourceStep 8 x.bytes k
    if d.inC = inTEE ∧ (x.desc i).op = 0x60 ∧ (x.desc i).inC = inFRAGS then openSource s1 j i else s1

/-- Start a step. -/
def startStep (s : State) (j k : Nat) : State :=
  match job? s j with
  | none => s
  | some x =>
    let d := x.desc k
    let s1 := { s with rch := { s.rch with stamp := s.rch.stamp + 1 } }
    let s2 := modStep s1 j k fun t => { t with st := .run, asked := some s.rch.stamp }
    let s4 := if d.verifyOnly then modJob s2 j fun y => { y with bins := y.bins - stepBins y.bytes k } else s2
    if isArith d.op then s4 else openStep s4 j k

/-- Whether an earlier step that installs, revokes or generates the slot of step `k` has still to commit (R154). -/
def slotPending (x : Job) (k : Nat) : Bool :=
  (List.range k).any fun i =>
    let d := x.desc i
    (d.op == 0x50 || d.op == 0x51 || d.op == 0x53 || d.op == 0x55) && keySlotOf x.bytes d == keySlotOf x.bytes (x.desc k) &&
      (match x.steps[i]? with | some t => t.st != .ended && !t.committed | none => false)

/-- The lookups at step start that are due: of a running step whose slot's install has committed (R124, R154). -/
def lateLooks (s : State) (j : Nat) : State :=
  match job? s j with
  | none => s
  | some x =>
    ((List.range x.steps.length).filter fun k => lateLookup x.bytes k && !slotPending x k &&
      (match x.steps[k]? with | some t => t.st == .run && t.bad.isNone && t.key == .none | none => false)).foldl (fun st k => lookStep st j x k) s

/-- Start every step whose group can start: each step before the group's leader has ended (R117). -/
def startSteps (s : State) (j : Nat) : State :=
  match job? s j with
  | none => s
  | some x =>
    if x.phase ≠ .run then s
    else
      let can := fun (k : Nat) =>
        (match x.steps[k]? with | some t => t.st == .idle | none => false) &&
          (List.range (x.leader k)).all fun i => match x.steps[i]? with | some t => t.st == .ended | none => true
      lateLooks (((List.range x.steps.length).filter can).foldl (fun st k => startStep st j k) s) j

/-- The lowest step of a job with a failure. -/
def firstBad (x : Job) : Option (Verdict × Nat) :=
  ((List.range x.steps.length).findSome? fun k => match x.steps[k]? with | some t => t.bad.map fun v => (v, k) | none => none)

/-- Move one job on: from its lookups to its steps (R124). -/
def pumpJob (s : State) (j : Nat) : State :=
  match job? s j with
  | none => s
  | some x =>
    if x.phase = .keys then
      if (List.range x.steps.length).any fun k => lookPending s j x.eid k then s
      else match firstBad x with
        | some b => endChain s j (some b)
        | none => startSteps (modJob s j fun y => { y with phase := .run }) j
    else startSteps s j

/-- Move every job on. -/
def pumpJobs (s : State) : State := (s.jobs.map (·.1)).foldl pumpJob s

/-- STEP_END: a formed step ends (R127); nothing of it is held or under check. No chain goes on while TCK is not ENABLED (R180). -/
def endStep (s : State) (j k : Nat) : State :=
  match job? s j, step? s j k with
  | some x, some t =>
    if x.phase ≠ .run ∨ t.st ≠ .formed ∨ t.held ∨ t.checks ≠ 0 then s
    else if t.bad.isSome then endChain s j (firstBad x)
    else if !enabled s pTCK then s
    else
      let d := x.desc k
      let rb := if d.outC = outINLINE then resultBad t.out.length x.units else 0
      if rb ≠ 0 then
        let v : Verdict := { status := 0x12, detail := rb, loc := 0 }
        endChain s j (match firstBad x with | some b => (if b.2 < k then some b else some (v, k)) | none => some (v, k))
      else
        let s1 := leaveStep s j k x.realm
        let s2 := modStep s1 j k fun u => { u with st := .ended }
        let s3 := if d.outC = outINLINE then modJob s2 j fun y => { y with result := t.out } else s2
        match job? s3 j with
        | some y => if y.steps.all fun u => u.st == .ended then endChain s3 j none else pumpJobs s3
        | none => s3
  | _, _ => s

/-- A write of a job was answered with a status, 0 for none (R26, R29), or timed out (R30). -/
def outAnswer (s : State) (j eid k pos addr status : Nat) : State :=
  match job? s j with
  | none => s
  | some x =>
    if x.eid ≠ eid then s
    else
      let s1 := modStep s j k fun t => { t with outLeft := t.outLeft - 1 }
      let v : Verdict := { status, detail := min pos 0x1FFF, loc := addr }
      let s2 := if status = 0 then s1
        else if x.phase = .fin then (if x.bad.isSome then s1 else modJob s1 j fun y => { y with bad := some (v, k), result := [] })
        else modStep s1 j k fun t => { t with bad := (match t.bad with | some b => some b | none => some v) }
      finishJob s2 j

/-- A job that has ended, but has no completion yet, loses output at step `k`: it ends with ENGINE_FAULT of unit `u` instead. -/
def endFault (s : State) (j eid k u : Nat) : State :=
  modJob s j fun x =>
    if x.eid = eid ∧ x.phase = .fin ∧ x.cid.isNone ∧ x.bad.isNone then { x with bad := some ({ status := 0x28, detail := u, loc := 0 }, k), result := [] }
    else x

/-- An uncorrectable error in the block's own memory while a job's output is written (R29): the first output write that waits to be
presented carries MW_POISON, the fabric's collector hears of it, and the job ends with ENGINE_FAULT of unit `u`. -/
def poisonOut (s : State) (j u : Nat) : State :=
  let mine := fun (r : FabReq) => match r with | .wr t => (match t.who with | .out i _ _ _ => i == j | _ => false) | .rd _ => false
  match s.fab.waiting.findIdx? mine with
  | none => s
  | some i => match s.fab.waiting[i]? with
    | some (.wr t) =>
      let s1 := { s with fab := { s.fab with waiting := listSet s.fab.waiting i (.wr { t with poison := true }) } }
      let s2 := fabChaff s1 0x102 5 t.port t.mqPort t.addr
      match t.who with
      | .out _ eid k _ => endFault s2 j eid k u
      | _ => s2
    | _ => s

/-- A notify write was answered with a status, 0 for none (R146): an error ends the step and frees the gate. -/
def notifyAnswer (s : State) (j eid k addr status : Nat) : State :=
  if status != 0 && txnLive s j eid k then
    let s1 := match armedGate s j with | some g => killGate s g | none => s
    failStep s1 j k { status, detail := 0, loc := addr }
  else s

/-- Abort a job (R104): its chain ends ABORTED at the lowest step that has not ended. -/
def abortJob (s : State) (j : Nat) : State :=
  match job? s j with
  | none => s
  | some x =>
    let k := ((List.range x.steps.length).find? fun i => match x.steps[i]? with | some t => t.st != .ended | none => false).getD 0
    endChain s j (some ({ status := 0x18, detail := 0, loc := 0 }, k))

/-! ### Dispatch (R148) -/

/-- Whether array `a` is present, so that spikelet 15 of spike `a` runs it (R149). -/
def servesArray (s : State) (a : Nat) : Bool := decide (a < 16) && present s .srg a

/-- The lowest free spikelet of a spike that an entry can use. -/
def freeSpikelet (s : State) (sp : Nat) (express : Bool) : Option Nat :=
  (List.range 16).find? fun n =>
    (job? s (sp * 16 + n)).isNone && !(n == 15 && servesArray s sp) && (express || decide (rd s (pg (pSPK sp)) SPK.CTL.EXPRESS_RSV ≤ n))

/-- The spikelet that an entry of ring `q` goes to. -/
def placeEntry (s : State) (q : Nat) (express : Bool) : Option Nat :=
  let sp := enSpikes s
  let n := sp.length
  ((List.range n).map fun i => sp.getD ((q + i) % n) 0).findSome? fun a => (freeSpikelet s a express).map (a * 16 + ·)

/-- The entry that leaves the dispatch queue next, and its spikelet. `skip` leaves out entries that are forwarded (R473). -/
def nextEntry (s : State) (skip : DqEnt → Bool) : Option (DqEnt × Nat) :=
  [0, 1, 2, 3].findSome? fun c =>
    (s.rch.dq.filter fun d => d.cls == c && !skip d).findSome? fun d => (placeEntry s d.sq (c == 0)).map fun j => (d, j)

/-- A chain starts on spikelet `j`: validated, its lookups issued, its bins reserved or waited for (R122 to R124). -/
def beginChain (s : State) (j : Nat) (x : Job) : State :=
  let s1 := setJob s j x
  let n := chainBins x.bytes
  let v := validate s (j / 16) (if x.peer.isSome then 255 else x.port) x.realm x.units x.bytes
  let s2 := (List.range x.steps.length).foldl (fun st k => if lateLookup x.bytes k then st else lookStep st j x k) s1
  match v with
  | some b => endChain s2 j (some b)
  | none =>
    if n = 0 then pumpJob (modJob s2 j fun y => { y with phase := .keys }) j
    else if binsFit s2 x.realm n && !(s2.jobs.any fun p => p.2.phase == .bins && p.1 != j) then pumpJob (reserveBins s2 j n) j
    else setEvt (inc s2 (pg (pSPK (j / 16))) SPK.BIN_WAITS.COUNT) pHLD HLD.EVT.BIN_WAIT

/-- The job of a dispatched entry. -/
def jobOf (s : State) (d : DqEnt) : Job :=
  { eid := d.eid, sq := d.sq, index := d.index, units := d.units, bytes := d.bytes, cls := d.cls,
    port := if d.peer.isSome then 255 else sqPort s d.sq,
    realm := (match d.peer with | some p => p.realm | none => portRealm s (sqPort s d.sq)), age := s.rch.stamp, phase := .bins,
    steps := (List.range (min 8 (entSteps d.bytes))).map fun k => freshStep (descAt d.bytes k),
    bins := 0, result := [], bad := none, aborting := false, peer := d.peer, cid := none }

/-- Dispatch an entry to spikelet `j`. -/
def dispatch (s : State) (d : DqEnt) (j : Nat) : State :=
  let s1 := { s with rch := { s.rch with dq := s.rch.dq.filter (fun e => e.eid != d.eid), stamp := s.rch.stamp + 1 } }
  let s0 := pmu (inc s1 (pg (pSPK (j / 16))) SPK.ENTRIES.COUNT) 0x03 (j / 16) 1
  let s2 := if d.peer.isSome then s0 else probeStamp s0 d.eid 2
  beginChain s2 j (jobOf s2 d)

/-- The waiting job that gets its bins next: by class, then by age (R122). -/
def nextBins (s : State) : Option Nat :=
  let w := s.jobs.filter fun p => p.2.phase == .bins
  let best := [0, 1, 2, 3].findSome? fun c =>
    (w.filter fun p => p.2.cls == c).foldl (fun acc p => match acc with
      | none => some p | some a => if p.2.age < a.2.age then some p else some a) none
  match best with
  | some p => if binsFit s p.2.realm (chainBins p.2.bytes) then some p.1 else none
  | none => none

end Sys2Proof.Machine
end

