-- ==== Sys2Proof/Machine/Messages.lean ====
section
/-! DEFINITION. The state of a message between its blocks: the mode state of an AES message in a lane's context table (R191, R196 to R208) and
the chaining state of a digest in a group's context store (R279, R281 to R287). -/

namespace Sys2Proof.Machine

/-- A function applied `n` times. -/
def iterate {α : Type} (f : α → α) : Nat → α → α
  | 0, x => x
  | n + 1, x => iterate f n (f x)

/-- The last 16 bytes of a string. -/
def last16 (b : Bytes) : Bytes := b.drop (b.length - 16)

/-- The state of a message that has processed nothing and whose key has not come. -/
def blankMsg (op : Nat) (a : AesBlk) : MsgState :=
  { op, decrypt := a.decrypt, slot := 0, chain := [], unit := 0, acc := [], powers := [], mask := [], count := 0, pos := 0, part := [] }

/-- The powers H to H^4 (R190, R191). -/
def powers4 (h : Nat) : List Nat := [h, gfMul h h, gfMul (gfMul h h) h, gfMul (gfMul h h) (gfMul h h)]

/-- CTR and CBC: the counter block, or the last ciphertext block. -/
def chainMsg (m : MsgState) (op : Nat) (dec : Bool) (rks : List Bytes) (iv t : Bytes) : MsgState :=
  if op = 0x12 then { m with chain := natBe 16 (beNat iv + t.length / 16) }
  else { m with chain := last16 (iv ++ (if dec then t else cbcEnc rks iv (chunks 16 t))) }

/-- XTS: the data-unit number and the tweak of the next block (R200). -/
def xtsMsg (m : MsgState) (a : AesBlk) (key txt : Bytes) : MsgState :=
  let un := max 1 (a.duBytes + piBytes (bitsAt a.piFmt 0 2))
  let n := (leNat a.iv + txt.length / un) % 2 ^ 128
  let pos := txt.length % un
  let tw := leNat (aesEncRk (roundKeys (key.drop (key.length / 2))) (natLe 16 n))
  { m with unit := n, pos, chain := natLe 16 (iterate xtsDbl (pos / 16) tw), part := txt.drop (txt.length - pos % 16) }

/-- GCM and GMAC: the data unit, the next counter block, the GHASH accumulator with its powers, and E(J0) (R204, R205). -/
def gcmMsg (m : MsgState) (op : Nat) (a : AesBlk) (rks : List Bytes) (iv aad txt : Bytes) : MsgState :=
  let h := beNat (aesEncRk rks (zeros 16))
  let per := if op = 0x15 ∨ a.duBytes = 0 then txt.length + 1 else a.duBytes + (if a.decrypt then a.tagLen else 0)
  let i := txt.length / per
  let u := txt.drop (i * per)
  let w := u.length / 16 * 16
  let ivi := if i = 0 then iv else unitIv iv i
  let j0 := gcmJ0 h ivi
  let ct := if op = 0x15 ∨ a.decrypt then u.take w else gcmCrypt rks ivi (u.take w)
  { m with unit := i, pos := u.length, chain := iterate inc32 (w / 16 + 1) j0, acc := natBe 16 (ghash h (pad16 aad ++ ct)), powers := powers4 h,
           mask := aesEncRk rks j0, part := u.drop w }

/-- CCM: the next counter block, the MAC so far, and S0 (R206). -/
def ccmMsg (m : MsgState) (a : AesBlk) (rks : List Bytes) (iv aad t : Bytes) (textLen : Nat) : MsgState :=
  let q := 15 - iv.length
  let b0 := byteOf (64 * bit (!aad.isEmpty) + 8 * ((a.tagLen - 2) / 2) + (q - 1)) :: iv ++ natBe q textLen
  let c0 := byteOf (q - 1) :: iv ++ zeros q
  let pt := if a.decrypt then ccmCrypt rks iv t else t
  { m with chain := iterate inc128 (t.length / 16 + 1) c0, acc := cbcMac rks (b0 ++ ccmAad aad ++ pt), mask := aesEncRk rks c0 }

/-- The mode state of an AES message whose input up to now is `inp`, of `total` bytes in all: what each mode carries from block to block. -/
def msgOf (op : Nat) (a : AesBlk) (slot : Nat) (key iv0 inp : Bytes) (total : Nat) : MsgState :=
  let ivn := a.ivBytes op
  let lead := if a.ivInInput then ivn else 0
  let aadN := if op = 0x14 ∨ op = 0x16 ∨ op = 0x17 then a.aadLen else 0
  let iv := if a.ivGen then iv0 else if a.ivInInput then inp.take ivn else a.iv.take ivn
  let aad := (inp.drop lead).take aadN
  let txt := ((inp.drop lead).drop aadN).take (if op = 0x13 ∨ op = 0x10 then total else aesText op a total)
  let t := txt.take (txt.length / 16 * 16)
  let rks := roundKeys key
  let m : MsgState := { blankMsg op a with slot, count := txt.length, pos := txt.length, part := txt.drop t.length }
  if op = 0x11 ∨ op = 0x12 then chainMsg m op a.decrypt rks iv t
  else if op = 0x13 then xtsMsg m a key txt
  else if op = 0x14 ∨ op = 0x15 then gcmMsg m op a rks iv aad txt
  else if op = 0x16 then ccmMsg m a rks iv aad t (aesText op a total)
  else if op = 0x17 then
    let ks := sivKeys key iv
    { m with chain := iv, acc := polyval ks.1 (pad16 aad ++ t), powers := powers4 (beNat ks.1.reverse) }
  else if op = 0x18 then { m with acc := cbcMac rks (if m.part.isEmpty then t.take (t.length - 16) else t) }
  else m

/-- The mode state of an AES step as it stands (R191). -/
def msgState (s : State) (j k : Nat) : MsgState :=
  match job? s j, step? s j k with
  | some x, some t =>
    let op := (x.desc k).op
    let a := aesBlk (x.param k)
    (match t.key with
      | .ready c => let inp := workedInput s x k t; msgOf op a c.slot c.key t.out inp ((knownLen x k t).getD inp.length)
      | _ => blankMsg op a)
  | _, _ => blankMsg 0 (aesBlk [])

/-- The chaining state of a digest over the whole blocks of its message so far (R281): a SHA-2 or HMAC state, or the Keccak state. -/
def digestChain (op : Nat) (pre m : Bytes) : Bytes :=
  if isKeccak op then
    let r := keccakRate op
    ((chunks r (m.take (m.length / r * r))).foldl keccakAbsorb (List.replicate 25 0)).flatMap (natLe 8)
  else
    let p := if sha256Like op then sha256P else sha512P
    let h0 := if isHmac op then (chunks (p.w / 8) (pre.take (p.w))).map beNat
      else if op = 0x20 then h256 else if op = 0x21 then h224 else if op = 0x22 then h384 else h512
    shaOut p (shaBlocks p h0 (m.take (m.length / (2 * p.w) * (2 * p.w))))

/-- The context entry of a digest step as it stands, in the entry `slot`. -/
def emrState (s : State) (j k slot : Nat) : EmrCtx :=
  match job? s j, step? s j k with
  | some x, some t =>
    let op := (x.desc k).op
    let m := workedInput s x k t
    let pre := match t.key with | .ready c => c.pre | _ => []
    let block := if sha256Like op then 64 else 128
    { slot, op, chain := if op = 0x2F then shaOut sha512P h512 else digestChain op pre m, bits := 8 * (m.length + (if isHmac op then block else 0)),
      outer := if isHmac op then pre.drop (pre.length / 2) else [] }
  | _, _ => { slot, op := 0, chain := [], bits := 0, outer := [] }

end Sys2Proof.Machine
end

