-- ==== Sys2Proof/Machine/Sorghum.lean ====
section
/-! DEFINITION. Sorghum operations and their banks (R305 to R327): binding, loading, the checks before the first quantum, array
time, and the ends of wipes. -/

namespace Sys2Proof.Machine

/-! ### The arithmetic unit (R302 to R305) -/

/-- The mode and modulus shown while an operation runs (R302, R304, R329). -/
def srgMode (op : Nat) (a : ArBlk) : Nat × Nat :=
  if isLattice op then (3, bit (!(a.set == 0x40 || (decide (0x20 ≤ a.set) && decide (a.set ≤ 0x22)))))
  else (if op = 0x30 then 0 else (Config.srgMode op a.set).toNat % 3, 0)

/-- Segments of a mode: one, two or four, or 128 lanes (R302). -/
def segCount (mode : Nat) : Nat := if mode = 0 then 1 else if mode = 1 then 2 else if mode = 2 then 4 else 128

/-- Bits of a segment's slice, and of its part of the accumulator (R302). -/
def segSlice (mode : Nat) : Nat := 4096 / segCount mode
def segPart (mode : Nat) : Nat := if mode = 3 then 32 else 4224 / segCount mode

/-- The accumulator operations (R303) and the lane operation MACQ (R304), by the code that a microprogram gives. -/
inductive AccOp where
  | clear | add | addShift | drain | macq
deriving DecidableEq, Repr

def accOpOf (n : Nat) : AccOp := if n = 0 then .clear else if n = 1 then .add else if n = 2 then .addShift else if n = 3 then .drain else .macq

/-- Whether a mode allows an operation (R302): ADD in FULL alone, MACQ in LATTICE alone. -/
def accAllows (mode : Nat) (o : AccOp) : Bool :=
  match o with
  | .clear | .drain | .addShift => mode != 3
  | .add => mode == 0
  | .macq => mode == 3

/-- Segment `j` of the accumulator. -/
def accSeg (mode acc j : Nat) : Nat := bitsAt acc (j * segPart mode) (segPart mode)

/-- One segment's operation on its part `a`, with its slice and word: the new part, and the output word where there is one (R303, R304). -/
def segStep (mode q : Nat) (o : AccOp) (a x y : Nat) : Nat × Option Nat :=
  match o with
  | .clear => (0, none)
  | .add => ((a + x * y) % 2 ^ segPart mode, none)
  | .addShift => ((a + x * y) / 2 ^ 64 % 2 ^ segPart mode, some ((a + x * y) % 2 ^ 64))
  | .drain => (a, none)
  | .macq => (laneMacq q a x y, none)

/-- One sclk of the multiplier and the accumulator: slice X cut among the segments, one word for each; no carry crosses a segment. An operation
that the mode does not have leaves the accumulator as it is. -/
def accStep (mode q : Nat) (u : ArrayAcc) (p : Nat × Nat × List Nat) : ArrayAcc :=
  let o := accOpOf p.1
  if !accAllows mode o then u
  else
    let r := (List.range (segCount mode)).map fun j =>
      segStep mode q o (accSeg mode u.acc j) (bitsAt p.2.1 (j * segSlice mode) (segSlice mode)) (p.2.2.getD j 0)
    { acc := (r.mapIdx fun j v => v.1 * 2 ^ (j * segPart mode)).foldl (· + ·) 0,
      out := if o = .addShift then r.filterMap (·.2) else u.out }

/-- The 64-bit words that DRAIN writes to the bank, as bytes (R303). -/
def accDrain (mode acc : Nat) : Bytes := (List.range (segCount mode)).flatMap fun j => natLe (segPart mode / 8) (accSeg mode acc j)

/-- The arithmetic unit of an array, at its start without a value. -/
def freshAcc : ArrayAcc := { acc := 0, out := [] }
def arrayAcc (s : State) (a : Nat) : ArrayAcc := SMap.getD s.accs a freshAcc

/-- The modulus that MODE.Q names (R304, R329). -/
def latticeQ (m : Nat × Nat) : Nat := if m.2 = 0 then 3329 else 8380417

/-- The arithmetic unit after an operation: its microprogram's array operations from a cleared accumulator, and what DRAIN writes to the bank (R302 to R304). What the operation
computes from its operands is R311 to R319's; the microprogram itself is given by no rule. -/
def runMicro (s : State) (n op : Nat) (a : ArBlk) (operands : Nat) : State :=
  let m := srgMode op a
  let prog := Config.srgMicro op (if a.set = 0 then a.bits else a.set) operands
  let run := fun (u : ArrayAcc × Bytes) (p : Nat × Nat × List Nat) =>
    (accStep m.1 (latticeQ m) u.1 p, if accOpOf p.1 = .drain then u.2 ++ accDrain m.1 u.1.acc else u.2)
  let r := prog.foldl run (freshAcc, [])
  setBank { s with accs := SMap.set s.accs (n / 2) r.1 } n { bank s n with data := (bank s n).data ++ r.2 }

/-- A bank stops at a pause point: its progress and the spikelet's registers are in its control area (R305, R321). -/
def savePause (s : State) (n : Nat) : State :=
  let r := freshFree s
  match (bank s n).owner with
  | some (j, _, k) =>
    (match step? s j k with
      | some t => setBank r.2 n { bank s n with progress := t.work, saved := (Config.srgSaved r.1).toNat }
      | none => s)
  | none => s

/-- A running bank stops at its next pause point (R162, R306). -/
def pauseBank (s : State) (n : Nat) : State :=
  if bankState s n = bkRUNNING then inc (savePause (setBankState s n bkPAUSED) n) (bankPg n) SRG.PAUSES.COUNT else s

/-! ### Binding (R307) -/

/-- Banks of the arrays that can take a step now: array enabled, serving its mode, its spikelet running. -/
def usableArrays (s : State) (op : Nat) : List Nat := if isLattice op then latticeArrays s else enArrays s

/-- Whether a bank is free. -/
def bankFree (s : State) (n : Nat) : Bool := bankState s n == bkEMPTY || bankState s n == bkIDLE

/-- Whether EXPRESS_HOLD keeps array `a` from binding one more operation that is not EXPRESS. -/
def heldForExpress (s : State) (a : Nat) (express : Bool) : Bool :=
  flag s (pg (pSRG a)) SRG.CTL.EXPRESS_HOLD && !express &&
    [2 * a, 2 * a + 1].any fun n => (bank s n).owner.isSome && !bankX s n

/-- The bank that a step of a realm binds to, by the first rule that finds one. -/
def bankFor (s : State) (op realm : Nat) (express : Bool) : Option Nat :=
  let cands := ((usableArrays s op).filter fun a => !heldForExpress s a express).flatMap fun a => [2 * a, 2 * a + 1].filter (bankFree s)
  match cands.find? fun n => bankRealm s n == realm with
  | some n => some n
  | none => match cands.find? fun n => bankState s n == bkEMPTY with
    | some n => some n
    | none => cands.head?

/-- The arithmetic steps that wait for a bank: job and step, with class and age. -/
def unbound (s : State) : List (Nat × Nat × Nat × Nat) :=
  s.jobs.flatMap fun p =>
    if p.2.phase = .run then
      ((List.range p.2.steps.length).filterMap fun k => match p.2.steps[k]? with
        | some t =>
          if t.st = .run ∧ t.place.isNone ∧ t.bad.isNone ∧ isArith (bitsAt t.d0 0 8) ∧ !lookPending s p.1 p.2.eid k then some (p.1, k, p.2.cls, t.asked.getD 0)
          else none
        | none => none)
    else []

/-- Whether a waiting step ahead of step `k` of spikelet `j`, by class and then age, finds a bank now. -/
def aheadBinds (s : State) (j k cls age : Nat) : Bool :=
  (unbound s).any fun u =>
    !(u.1 == j && u.2.1 == k) && (decide (u.2.2.1 < cls) || (u.2.2.1 == cls && decide (u.2.2.2 < age))) &&
      (match job? s u.1 with
       | some x => (bankFor s (x.desc u.2.1).op x.realm (x.cls == 0)).isSome
       | none => false)

/-- A bank takes up its operation: LOADING with the operation's realm, its randomness drawn and its reads presented (R308,
R314). Without expander 10 the operation ends RNG_UNAVAILABLE and the bank is wiped. -/
def loadBank (s : State) (n j k : Nat) : State :=
  match job? s j with
  | none => s
  | some x =>
    let op := (x.desc k).op
    let a := arBlk (x.param k)
    let s1 := setBankRealm (setBankState s n bkLOADING) n x.realm
    let d := arithDraw op a
    if d = 0 then openStep (setBank s1 n { freshBank with owner := some (j, x.eid, k) }) j k
    else if expLive s 10 then
      let r := expCall s1 10 [] d
      openStep (setBank r.1 n { freshBank with owner := some (j, x.eid, k), rnd := r.2 }) j k
    else
      failStep (wipeBank (modStep s1 j k fun t => { t with place := none }) n none) j k { status := 0x38, detail := 10, loc := 0 }

/-- BANK_BIND (R307): a step that finds no bank waits, counted once. -/
def bindStep (s : State) (j k : Nat) : State :=
  match job? s j, step? s j k with
  | some x, some t =>
    let op := (x.desc k).op
    if !stepRuns s j k || t.place.isSome || !isArith op || lookPending s j x.eid k then s
    else if aheadBinds s j k x.cls (t.asked.getD 0) then s
    else match bankFor s op x.realm (x.cls == 0) with
      | none =>
        match usableArrays s op with
        | [] => failStep s j k { status := 0x11, detail := 0x12, loc := 0 }
        | a :: _ =>
          if t.tok.isSome then s
          else setEvt (inc (modStep s j k fun u => { u with tok := some 1 }) (pg (pSRG a)) SRG.BANK_WAITS.COUNT) (pSRG a) SRG.EVT.BANK_WAIT
      | some n =>
        let s1 := setBankRealm (setBankOp (modStep s j k fun u => { u with place := some n }) n op (x.cls == 0)) n x.realm
        if bankState s n = bkIDLE ∧ bankRealm s n ≠ x.realm then wipeBank s1 n (some (j, x.eid, k))
        else loadBank s1 n j k
  | _, _ => s

/-! ### Sealed operands (R252, R253) -/

/-- Seal an operand (R252). -/
def sealOperand (wk : Bytes) (realm alg bits : Nat) (rnd pt : Bytes) : Bytes :=
  let hdr := natLe 2 realm ++ [0x40, byteOf alg] ++ natLe 2 bits ++ natLe 2 pt.length ++ zeros 8
  let nonce := List.replicate 4 0xFF ++ slice rnd 0 8
  hdr ++ nonce ++ gcmSeal wk nonce hdr pt 16

/-- Open a sealed operand for an operation: the operand, or none when its tag or header fails (R253, R309). -/
def openOperand (wk : Bytes) (realm op bits want : Nat) (b : Bytes) : Option Bytes :=
  let len := leNat (slice b 6 2)
  if b.length ≠ 44 + len ∨ len ≠ want ∨ leNat (slice b 0 2) ≠ realm ∨ leNat (slice b 2 1) ≠ 0x40 ∨ leNat (slice b 3 1) ≠ op
      ∨ leNat (slice b 4 2) ≠ bits ∨ (slice b 8 8).any (· != 0) ∨ len = 0 ∨ 5120 < len then none
  else gcmOpen wk (slice b 16 12) (slice b 0 16) (slice b 28 len) (slice b (28 + len) 16)

/-! ### Loaded (R308, R309) -/

/-- The operation leaves its bank for a wipe before its first quantum. -/
def dropBank (s : State) (n j k : Nat) : State := wipeBank (modStep s j k fun t => { t with place := none }) n none

/-- Everything is in the bank and checked: the operation is PAUSED, and its request reaches the planner. -/
def bankReady (s : State) (n j k : Nat) (inp priv : Bytes) : State :=
  let s1 := incBy (setBankState (setBank s n { bank s n with data := inp, priv }) n bkPAUSED) (bankPg n) SRG.LOADED_BYTES.COUNT (inp.length + priv.length)
  modStep { s1 with rch := { s1.rch with stamp := s1.rch.stamp + 1 } } j k fun t => { t with asked := some s1.rch.stamp }

/-- BANK_LOADED: every operand is there; the checks decide between PAUSED and the operation's end. A sealed operand waits for
the KCC and for a lane. -/
def bankLoadedFx (s : State) (n : Nat) : State :=
  match (bank s n).owner with
  | none => s
  | some (j, eid, k) =>
    match job? s j, step? s j k with
    | some x, some t =>
      if bankState s n ≠ bkLOADING ∨ x.eid ≠ eid then s
      else
        let op := (x.desc k).op
        let p := x.param k
        let a := arBlk p
        match inputOf x k t with
        | none => if t.bad.isSome then dropBank s n j k else s
        | some (.error e) => failStep (dropBank s n j k) j k { status := 0x10, detail := e, loc := 0 }
        | some (.ok inp) =>
          let e := opParam op p (x.desc k).verifyOnly (x.desc k).outC x.realm (some inp.length)
          let param := fun (d : Nat) => failStep (dropBank s n j k) j k { status := 0x12, detail := d, loc := 0 }
          if t.bad.isSome then dropBank s n j k
          else if !srcDone t.src2 then s
          else if e ≠ 0 then param e
          else match privLen op a with
            | none => bankReady s n j k inp []
            | some want =>
              let b := srcBytes t.src2
              if !bitAt a.flags 0 then (if b.length ≠ want then param 0x10 else bankReady s n j k inp b)
              else if !enabled s pKCC ∨ (fillLanes s).isEmpty then s
              else
                let run := fun (st : State) => kccBlocks st (n / 2) (2 + ceilDiv want 16)
                let no := refuse (dropBank (run s) n j k) { job := j, eid, step := k, realm := x.realm, k := 0, op, wait := .unit } 0x081F
                match realmKeys s x.realm with
                | none => no
                | some rk => match openOperand rk.wk x.realm op a.bits want b with
                  | some m => bankReady (run s) n j k inp m
                  | none => no
    | _, _ => s

/-! ### Wipes and bank errors (R310, R325) -/

/-- BANK_WIPE_DONE: the bank is EMPTY, or loads the operation that waited; a row that does not read back zero is reported. -/
def wipeDone (s : State) (n : Nat) (nonzero : Bool) : State :=
  if bankState s n ≠ bkWIPING then s
  else
    let s1 := inc s (bankPg n) SRG.WIPES.COUNT
    let s2 := if nonzero then chaffPlain s1 0x12 (n / 2) 0x306 0x1215 else s1
    match (bank s n).owner with
    | some (j, eid, k) =>
      if (match job? s j with | some x => x.eid == eid && x.phase == .run | none => false) && enabled s (pSRG (n / 2)) && stepRuns s j k then loadBank s2 n j k
      else setBank (setBankRealm (setBankState s2 n bkEMPTY) n 0) n freshBank
    | none => setBank (setBankRealm (setBankState s2 n bkEMPTY) n 0) n freshBank

/-- BANK_ECC_ERROR: the bank's operation ends with ENGINE_FAULT and the bank is wiped. -/
def bankEcc (s : State) (n : Nat) : State :=
  let s1 := chaffPlain (setEvt (inc s (bankPg n) SRG.ECC_UNCORR.COUNT) (pSRG (n / 2)) SRG.EVT.ECC_UNCORR) 0x12 (n / 2) 0x203 0x1214
  match (bank s n).owner with
  | some (j, eid, k) =>
    if (match job? s j with | some x => x.eid == eid | none => false) then
      failStep (dropBank s1 n j k) j k { status := 0x28, detail := 0x12, loc := 0 }
    else wipeBank s1 n none
  | none => if bankState s n = bkEMPTY then s1 else wipeBank s1 n none

/-! ### The commands -/

/-- BANK_BIND (R307). -/
def execBankBind (job : BitVec 9) (step : BitVec 3) (s : State) : Out :=
  .next (if s.phase = .run then bindStep s job.toNat step.toNat else s)

/-- BANK_WIPE_DONE (R310). -/
def execBankWipeDone (array : BitVec 4) (bank : BitVec 1) (nonzero : Bool) (s : State) : Out :=
  .next (if s.phase = .run then wipeDone s (2 * array.toNat + bank.toNat) nonzero else s)

/-- BANK_ECC_ERROR (R325). -/
def execBankEccError (array : BitVec 4) (bank : BitVec 1) (s : State) : Out :=
  .next (if s.phase = .run ∧ present s .srg array.toNat then bankEcc s (2 * array.toNat + bank.toNat) else s)

end Sys2Proof.Machine
end

