-- ==== Sys2Proof/Machine/Lanes.lean ====
section
/-! DEFINITION. Spelt lanes (R188 to R221): context tables and the suspend store, mask seeds and starvation, generated IVs, and
which lane, group or array a step can run on. -/

namespace Sys2Proof.Machine

/-! ### Contexts (R191 to R194) -/

/-- Slots of the suspend store (R227). -/
def suspSlots : Nat := 2048

/-- Suspend slots that realm `r` holds (R194). -/
def suspUsed (s : State) (r : Nat) : Nat := (s.susp.filter fun c => c.realm == r).length

/-- The realm's limit on suspend slots in force; 0 is none (R75, R179). -/
def suspLimit (s : State) (r : Nat) : Nat := SMap.getD s.plan.effSusp r RT.LIMITS.MAX_SUSPEND.rst

/-- Whether realm `r` has a suspend slot free. -/
def suspFree (s : State) (r : Nat) : Bool :=
  decide (s.susp.length < suspSlots) && (suspLimit s r == 0 || decide (suspUsed s r < suspLimit s r))

/-- Entries of a lane's context table (R191). -/
def laneSlots : Nat := 64

/-- The free entries of lane `l` that a message can take, the lowest first (R192): of all, or of those past the EXPRESS reserve. -/
def freeSlots (s : State) (l : Nat) (express : Bool) : List Nat :=
  (List.range laneSlots).filter fun n =>
    !((lane s l).ctxs.any fun c => c.slot == n) && (express || decide (rd s (pg (pSPL l)) SPL.CTL.EXPRESS_CTX ≤ n))

/-- Whether a message holds an entry of lane `l`. -/
def holdsCtx (s : State) (l j k : Nat) : Bool := (lane s l).ctxs.any fun c => c.job == j && c.step == k

/-- Whether a message stands in the suspend store. -/
def isSuspended (s : State) (j k : Nat) : Bool := s.susp.any fun c => c.job == j && c.step == k

/-- Whether a quantum among `gs` gives a message work on lane `l`. -/
def grantedOn (gs : List Grant) (l j k : Nat) : Bool :=
  gs.any fun g => g.job == j && g.step == k && g.place == l && (g.kind == .enc || g.kind == .dec)

/-- The class of a spikelet's entry. -/
def jobCls (s : State) (j : Nat) : Nat := match job? s j with | some x => x.cls | none => 3
def jobRealm (s : State) (j : Nat) : Nat := match job? s j with | some x => x.realm | none => 0

/-- Whether an entry of lane `l` can be evicted for a message of class `cls` while the quanta `gs` run, its realm's suspend slots left aside
(R193): one of a less urgent class, or with no quantum on the lane. An ordinary message takes no entry of the EXPRESS reserve (R192). -/
def ctxEvictable (s : State) (gs : List Grant) (l cls : Nat) (c : LaneCtx) : Bool :=
  (cls == 0 || decide (rd s (pg (pSPL l)) SPL.CTL.EXPRESS_CTX ≤ c.slot)) &&
    (decide (cls < jobCls s c.job) || !grantedOn gs l c.job c.step)

/-- The entries that qualify (R193). -/
def evictees (s : State) (gs : List Grant) (l cls : Nat) : List LaneCtx :=
  (lane s l).ctxs.filter fun c => ctxEvictable s gs l cls c && suspFree s (jobRealm s c.job)

/-- The entry that is evicted first: the least urgent class, then the one that issued earliest (R193). -/
def evictCtx (s : State) (gs : List Grant) (l cls : Nat) : Option LaneCtx :=
  (evictees s gs l cls).foldl (fun acc c => match acc with
    | none => some c
    | some a =>
      if jobCls s a.job < jobCls s c.job ∨ (jobCls s a.job = jobCls s c.job ∧ c.last < a.last) then some c else some a) none

/-- Work of this tick's quanta of a step. -/
def runningWork (s : State) (j k : Nat) : Nat :=
  (s.plan.running.filter fun g => g.job == j && g.step == k && !g.aux).foldl (fun n g => n + g.amount) 0

/-- This tick's quanta of a step end with nothing issued: its work goes back to its request (R160). -/
def ungrant (s : State) (j k : Nat) : State :=
  let w := runningWork s j k
  let s1 := { s with plan := { s.plan with running := s.plan.running.filter fun g => !(g.job == j && g.step == k && !g.aux) } }
  modStep s1 j k fun t => { t with work := t.work - w }

/-- A context moves from lane `l` to the suspend store. A message that is evicted while it runs gives back this tick's quantum whole
(DESIGN CHOICE, log entry 64). -/
def suspendCtx (s : State) (l j k : Nat) : State :=
  let m := msgState s j k
  let s0 := if stepRuns s j k then ungrant s j k else s
  let s1 := setLane s0 l { lane s0 l with ctxs := (lane s0 l).ctxs.filter fun c => !(c.job == j && c.step == k) }
  let s2 := { s1 with susp := s1.susp ++ [{ job := j, step := k, realm := jobRealm s j, lane := l, msg := m }] }
  let s3 := inc (inc s2 (pg (pSPL l)) SPL.SUSPENDS.COUNT) (pg pHLD) HLD.SUSPEND_MOVES.COUNT
  let free := suspSlots - s3.susp.length
  if free < rd s3 (pg pHLD) HLD.SUSPEND_LOW.LOW then wr s3 (pg pHLD) HLD.SUSPEND_LOW.LOW free else s3

/-- Entries of lane `l` that messages of class `cls` can have, free or by evictions, while the quanta `gs` run. -/
def ctxRoom (s : State) (gs : List Grant) (l cls : Nat) : Nat := (freeSlots s l (cls == 0)).length + (evictees s gs l cls).length

/-- Whether an eviction from lane `l` fails only for want of suspend slots (R193, R227). -/
def suspShort (s : State) (gs : List Grant) (l cls : Nat) : Bool :=
  (lane s l).ctxs.any fun c => ctxEvictable s gs l cls c && !suspFree s (jobRealm s c.job)

/-- A message of class `cls` finds no entry on lane `l` (R193, R223, R227). -/
def noteNoCtx (s : State) (gs : List Grant) (l cls : Nat) : State :=
  let s1 := setEvt s (pSPL l) SPL.EVT.SUSPEND_WAIT
  if suspShort s gs l cls then setEvt s1 pHLD HLD.EVT.SUSPEND_WAIT else s1

/-- A message takes entry `n` of lane `l`, out of the suspend store when it stands there. -/
def putCtx (s : State) (l j k n : Nat) : State :=
  let m := match s.susp.find? fun c => c.job == j && c.step == k with | some c => c.msg | none => msgState s j k
  let s1 := setLane s l { lane s l with ctxs := (lane s l).ctxs ++
    [{ slot := n, job := j, step := k, express := jobCls s j == 0, last := s.rch.stamp, msg := m }] }
  let s2 := if isSuspended s1 j k then inc { s1 with susp := s1.susp.filter fun c => !(c.job == j && c.step == k) } (pg (pSPL l)) SPL.RESUMES.COUNT else s1
  modStep { s2 with rch := { s2.rch with stamp := s2.rch.stamp + 1 } } j k fun t => { t with place := some l }

/-- Give a message an entry of lane `l`, by an eviction when none is free; none when it must wait (R193). -/
def takeCtx (s : State) (l j k : Nat) : Option State :=
  let cls := jobCls s j
  match freeSlots s l (cls == 0) with
  | n :: _ => some (putCtx s l j k n)
  | [] => match evictCtx s s.plan.running l cls with
    | some c => some (putCtx (suspendCtx s l c.job c.step) l j k c.slot)
    | none => none

/-! ### Live lanes (R219, R220) -/

/-- Whether a lane issues blocks: enabled, and not starved when masked. -/
def laneLive (s : State) (l : Nat) : Bool :=
  enabled s pHLD && enabled s (pSPL l) && !(flag s (pg (pSPL l)) SPL.CTL.MASK_EN && flag s (pg (pSPL l)) SPL.STAT.STARVED)

def liveLanes (s : State) : List Nat := (enLanes s).filter (laneLive s)

/-- The boundary at lane `l`: the seed drawn in the planning window arrives or is missed (R219), and in AQS-E the throw-away
condition is watched (R220). -/
def laneBoundary (s : State) (l : Nat) : State :=
  let b := pg (pSPL l)
  if !enabled s (pSPL l) then s
  else if s.part.masked then
    if !flag s b SPL.CTL.MASK_EN then s
    else match (lane s l).next with
      | some d =>
        let s1 := wr (wr (setLane s l { lane s l with seed := d, next := none }) b SPL.SEED_AGE.TICKS 0) b SPL.STAT.GRACE 0
        if flag s1 b SPL.STAT.STARVED then setEvt (wr s1 b SPL.STAT.STARVED 0) (pSPL l) SPL.EVT.STARVE_END else s1
      | none =>
        let n := min 31 (rd s b SPL.SEED_AGE.TICKS + 1)
        let s1 := wr (inc s b SPL.MASK_MISSED.COUNT) b SPL.SEED_AGE.TICKS n
        if n ≤ rd s b SPL.MASK_CFG.GRACE then wr s1 b SPL.STAT.GRACE 1
        else if flag s b SPL.STAT.STARVED then inc s1 b SPL.STARVED_TICKS.COUNT
        else chaffPlain (inc (setEvt (wr (wr s1 b SPL.STAT.GRACE 0) b SPL.STAT.STARVED 1) (pSPL l) SPL.EVT.STARVED) b SPL.STARVED_TICKS.COUNT) 0x10 l 0x407 0x1012
  else
    let bad := !expLive s l || !enabled s pTEF
    if bad && !flag s b SPL.STAT.UNPROTECTED then
      notice (setEvt (wr s b SPL.STAT.UNPROTECTED 1) (pSPL l) SPL.EVT.UNPROTECTED) 0x10 l (anyDetail 0x005)
    else if bad then s else wr s b SPL.STAT.UNPROTECTED 0

/-- The seed call of each masked lane in the planning window (R338). -/
def drawSeeds (s : State) : State :=
  (enLanes s).foldl (fun st l =>
    if st.part.masked && flag st (pg (pSPL l)) SPL.CTL.MASK_EN && expLive st l && enabled st pTEF then
      let r := expCall st l [] 32
      setLane r.1 l { lane r.1 l with next := some r.2 }
    else st) s

/-! ### Generated IVs (R196, R219) -/

/-- Draw a step's generated IV from its first lane's expander; a lane that cannot supply ends the step. -/
def drawIv (s : State) (l j k : Nat) : State :=
  match job? s j, step? s j k with
  | some x, some t =>
    let a := aesBlk (x.param k)
    let n := a.ivBytes (x.desc k).op
    if !isAes (x.desc k).op || !a.ivGen || !t.out.isEmpty then s
    else if expLive s l || decide (n ≤ (expRec s l).fifo.length) then
      let r := draw s l n
      modStep r.1 j k fun u => { u with out := r.2 }
    else failStep s j k { status := 0x38, detail := l, loc := 0 }
  | _, _ => s

/-- The lane whose table holds a message. -/
def homeLane (s : State) (j k : Nat) : Option Nat := (List.range 8).find? fun l => holdsCtx s l j k

/-- Whether a message can come to lane `l`: its own move needs a suspend slot of its realm (R194). -/
def mayMove (s : State) (l j k : Nat) : Bool :=
  match homeLane s j k with | some o => o == l || suspFree s (jobRealm s j) | none => true

/-- Place a message on lane `l`: its context comes there, and a first block draws the IV; none when no entry can be had. -/
def seatLane (s : State) (l j k : Nat) : Option State :=
  let first := match step? s j k with | some t => t.place.isNone | none => false
  if holdsCtx s l j k then some s
  else if !mayMove s l j k then none
  else
    match takeCtx (match homeLane s j k with | some o => suspendCtx s o j k | none => s) l j k with
    | some s2 => some (if first then drawIv s2 l j k else s2)
    | none => none

/-! ### SUSPEND_MOVE and the starvation limit -/

/-- SUSPEND_MOVE (R193 to R195): a context of a lane that is being disabled moves to the suspend store, or its step ends
ABORTED when it cannot; a suspended context whose lane is live moves back into that lane. -/
def suspendMoveFx (s : State) (j k l : Nat) : State :=
  if holdsCtx s l j k then
    if ustate s (pSPL l) ≠ 3 then s
    else if suspFree s (jobRealm s j) then suspendCtx s l j k
    else
      let s1 := setLane s l { lane s l with ctxs := (lane s l).ctxs.filter fun c => !(c.job == j && c.step == k) }
      failStep (notice (setEvt s1 pHLD HLD.EVT.SUSPEND_WAIT) 0x10 l 0x1011) j k { status := 0x18, detail := 0, loc := 0 }
  else if isSuspended s j k && laneLive s l && stepRuns s j k then
    match takeCtx s l j k with
    | some s1 => s1
    | none => noteNoCtx s s.plan.running l (jobCls s j)
  else s

/-- Whether an AES step has its key and waits for a lane. -/
def wantsLane (s : State) (j k : Nat) : Bool :=
  stepRuns s j k && (match step? s j k with
    | some t => isAes (bitsAt t.d0 0 8) && (match t.key with | .ready _ => true | _ => false)
    | none => false)

/-- The lane whose starvation a step waits for: its own, or the lowest enabled one. -/
def starvedLane (s : State) (j k : Nat) : Nat :=
  match step? s j k with
  | some t => match t.place with | some l => l | none => (enLanes s).headD 0
  | none => 0

/-- A tick of waiting for a live lane, of every step that has none (R219). -/
def starveTick (s : State) : State :=
  if !(liveLanes s).isEmpty then
    { s with jobs := s.jobs.map fun p => (p.1, { p.2 with steps := p.2.steps.map fun t => { t with starve := 0 } }) }
  else
    s.jobs.foldl (fun st p => (List.range p.2.steps.length).foldl (fun u k =>
      if wantsLane u p.1 k then modStep u p.1 k fun t => { t with starve := t.starve + 1 } else u) st) s

/-- STARVE_LIMIT_EXPIRE (R219). -/
def starveExpireFx (s : State) (j k : Nat) : State :=
  let l := starvedLane s j k
  match step? s j k with
  | some t =>
    if wantsLane s j k && (liveLanes s).isEmpty && decide (rd s (pg (pSPL l)) SPL.MASK_CFG.STARVE_LIMIT ≤ t.starve) then
      failStep s j k { status := 0x38, detail := l, loc := 0 }
    else s
  | none => s

/-- SUSPEND_MOVE (R194). -/
def execSuspendMove (job : BitVec 9) (step lane : BitVec 3) (s : State) : Out :=
  .next (if s.phase = .run then suspendMoveFx s job.toNat step.toNat lane.toNat else s)

/-- STARVE_LIMIT_EXPIRE (R219). -/
def execStarveLimitExpire (job : BitVec 9) (step : BitVec 3) (s : State) : Out :=
  .next (if s.phase = .run then starveExpireFx s job.toNat step.toNat else s)

end Sys2Proof.Machine
end

