-- ==== Sys2Proof/Machine/Planner.lean ====
section
/-! DEFINITION. The tick planner (R155 to R187): costs of work, requests, the plan, the budgets and heat. -/

namespace Sys2Proof.Machine

/-! ### Ticks and costs (R155, R170) -/

/-- Tick length in kc (R155). -/
def tickKc (s : State) : Nat := 2 ^ rd s (pg pTCK) TCK.TICK.LOG2_KC

/-- Tick length that the next plan divides: 64 kc shorter in a switch tick (R183). -/
def planKc (s : State) : Nat := if s.plan.switchTick then tickKc s - 64 else tickKc s

/-- Calibrated cost at an index (R170). -/
def costAt (s : State) (i : Nat) : Nat := s.plan.costs.getD i 0

/-- Cost in mgr of `m` units of a step's work placed on instance `i` (R170, R526); its authenticated bytes are charged in proportion. -/
def costOf (s : State) (x : Job) (k : Nat) (t : StepRun) (u : PlanUnit) (i m : Nat) : Nat :=
  let op := (x.desc k).op
  match u with
  | .enc | .dec =>
    let idx := if s.part.masked && flag s (pg (pSPL (i / 2))) SPL.CTL.MASK_EN then 3 + keyLen t else keyLen t
    let auth := match stepWork s x k t, knownLen x k t with
      | some w, some n => if w = 0 then 0 else m * authBlocks op (aesBlk (x.param k)) n / w
      | _, _ => if op = 0x14 ∨ op = 0x15 ∨ op = 0x16 ∨ op = 0x17 ∨ op = 0x18 then m else 0
    m * costAt s idx + auth * costAt s 6
  | .sha => m * costAt s (if sha256Like op then 7 else 8)
  | .keccak => m * costAt s 9
  | .srg => m * costAt s (if isLattice op then 11 else 10)
  | .spike => m * costAt s 12
  | .swp => m * costAt s 13

/-! ### Requests (R117, R157, R311) -/

/-- Whether a step takes what an arithmetic step of its group has not yet put out; `fuel` bounds the steps between. -/
def behindArith : Nat → Job → Nat → Bool
  | 0, _, _ => false
  | fuel + 1, x, k =>
    let d := x.desc k
    if d.inC = inSTREAM then
      (if isArith (x.desc d.inStep).op then !(match x.steps[d.inStep]? with | some t => outReady t | none => true) else behindArith fuel x d.inStep)
    else if d.inC = inTEE then behindArith fuel x d.inStep
    else false

/-- Whether a step has what it needs to ask for a quantum: its key (or, `early`, a lookup under way: R526), its bank, its release. -/
def asksNow (s : State) (x : Job) (k : Nat) (t : StepRun) (early : Bool) : Bool :=
  let op := (x.desc k).op
  (!keyedOp op (realmStored s x.realm) || (match t.key with | .ready _ => true | .refused => false | _ => early)) &&
    (!isArith op || (match t.place with | some b => bankState s b == bkPAUSED || bankState s b == bkRUNNING | none => false)) &&
    (op != 0x60 || (gateLen x k t).isSome) && !behindArith 8 x k

/-- Whether a step runs, or is about to: the first group of a chain that waits for its keys. -/
def stands (x : Job) (k : Nat) (t : StepRun) : Bool :=
  t.bad.isNone && ((x.phase == .run && t.st == .run) || (x.phase == .keys && t.st == .idle && x.leader k == 0))

/-- Whether a step's work is not yet all granted. -/
def workLeft (s : State) (x : Job) (k : Nat) (t : StepRun) : Bool :=
  stands x k t && (planUnit (x.desc k).op (x.param k)).isSome &&
    (match stepWork s x k t with | some w => decide (t.work < w) | none => !isArith (x.desc k).op)

/-- Whether an arithmetic step's Emmer work is not yet all granted. -/
def auxLeft (s : State) (x : Job) (k : Nat) (t : StepRun) : Bool := stands x k t && decide (t.aux < auxWork s x k t)

/-- A request of the plan: a stream group's steps that still need work, a lone step, or (`aux`) the Emmer work of an arithmetic step. -/
structure Req where
  job : Nat
  cls : Nat
  realm : Nat
  age : Nat
  mem : List Nat
  aux : Bool
deriving DecidableEq, Repr

/-- The sets of steps of a job that ask together: each stream group without its arithmetic steps, and each of these alone, for its array and for
Emmer (R117, R294, R311). -/
def askSets (s : State) (x : Job) : List (List Nat × Bool) :=
  let left := fun (k : Nat) => match x.steps[k]? with | some t => workLeft s x k t | none => false
  let aux := fun (k : Nat) => match x.steps[k]? with | some t => auxLeft s x k t | none => false
  ((List.range x.steps.length).flatMap fun g =>
    (if x.leader g = g then [((x.group g).filter fun k => left k && !isArith (x.desc k).op, false)] else []) ++
    (if isArith (x.desc g).op then (if left g then [([g], false)] else []) ++ (if aux g then [([g], true)] else []) else [])).filter fun p => !p.1.isEmpty

/-- The age of a set's request: that of its first step, or the entry's before it has started. -/
def askAge (x : Job) (mem : List Nat) : Nat :=
  match mem.head? with | some k => (match x.steps[k]? with | some t => t.asked.getD x.age | none => x.age) | none => x.age

/-- The class in which a step's work stands in a plan; none for EXPRESS work that the reserve alone serves (R167). -/
def planCls (x : Job) (k : Nat) (t : StepRun) : Option Nat :=
  if x.cls ≠ 0 then some x.cls else if isArith (x.desc k).op then none else if t.admitted = 2 then some 1 else none

/-- The requests of one job. -/
def jobReqs (s : State) (j : Nat) (x : Job) : List Req :=
  if x.phase ≠ .run then []
  else (askSets s x).filterMap fun p =>
    let ready := p.1.all fun k => match x.steps[k]? with | some t => asksNow s x k t false && (planCls x k t).isSome | none => false
    if ready then some { job := j, cls := if x.cls = 0 then 1 else x.cls, realm := x.realm, age := askAge x p.1, mem := p.1, aux := p.2 } else none

/-- Insert a request by age. -/
def insReq (r : Req) : List Req → List Req
  | [] => [r]
  | q :: qs => if r.age < q.age then r :: q :: qs else q :: insReq r qs

/-- The requests of a class, oldest first; in a switch tick those that stood at its boundary (R183). -/
def classReqs (s : State) (c : Nat) : List Req :=
  ((s.jobs.flatMap fun p => jobReqs s p.1 p.2).filter fun r => r.cls == c && (!s.plan.switchTick || decide (r.age < s.plan.swStamp))).foldl (fun l r => insReq r l) []

/-! ### Instances and places (R159, R280, R322) -/

/-- Keys of instances in the table of rooms. -/
def instLane (l : Nat) (dec : Bool) : Nat := 2 * l + bit dec
def instSha (g c : Nat) : Nat := 100 + 16 * g + c
def instKeccak (g c : Nat) : Nat := 300 + 4 * g + c
def instSrg (a : Nat) : Nat := 500 + a
def instSpike (i : Nat) : Nat := 600 + i
def instSwp : Nat := 700

/-- The lane, group, array or spike of an instance. -/
def instPlace (u : PlanUnit) (i : Nat) : Nat :=
  match u with
  | .enc | .dec => i / 2 | .sha => (i - 100) / 16 | .keccak => (i - 300) / 4 | .srg => i - 500 | .spike => i - 600 | .swp => 0

/-- The cores of a kind of group `g` that are not excluded. -/
def coreInsts (s : State) (g : Nat) (keccak : Bool) : List Nat :=
  if keccak then ((List.range 4).filter fun c => !bitAt (rd s (pg (pEMR g)) EMR.CORE_OFF.KECCAK) c).map (instKeccak g)
  else ((List.range 16).filter fun c => !bitAt (rd s (pg (pEMR g)) EMR.CORE_OFF.SHA2) c).map (instSha g)

/-- Full rooms of every instance that can run work, in kc. -/
def fullRooms (s : State) (t : Nat) : SMap Nat :=
  let all := (liveLanes s).flatMap (fun l => [instLane l false, instLane l true]) ++
    (enGroups s).flatMap (fun g => coreInsts s g false ++ coreInsts s g true) ++
    (enArrays s).map instSrg ++ (enSpikes s).map instSpike ++ (if enabled s pTEF && expLive s 11 then [instSwp] else [])
  all.foldl (fun m i => SMap.set m i t) []

/-- The steps with an entry in group `g`'s context store: their class and entry (R279). -/
def emrEntries (s : State) (g : Nat) : List (Nat × Nat) :=
  s.jobs.flatMap fun p => p.2.steps.filterMap fun t => match t.ectx with
    | some c => if t.place = some g then some (p.2.cls, c.slot) else none
    | none => none

/-- Context entries of group `g` in use (R279). -/
def emrCtxUsed (s : State) (g : Nat) : Nat := (emrEntries s g).length

/-- The free entries of group `g` that a message can take, the lowest first (R279). -/
def emrFree (s : State) (g : Nat) (express : Bool) : List Nat :=
  (List.range 128).filter fun n =>
    !((emrEntries s g).any fun e => e.2 == n) && (express || decide (rd s (pg (pEMR g)) EMR.CTL.EXPRESS_CTX ≤ n))

/-- Whether a digest step holds an entry of group `g`. -/
def holdsEmr (t : StepRun) (g : Nat) : Bool := t.ectx.isSome && t.place == some g

/-- Messages that the quanta `gs` bring to lane `l`. -/
def comingTo (s : State) (gs : List Grant) (l : Nat) : Nat :=
  (gs.filter fun g => (g.kind == .enc || g.kind == .dec) && g.place == l && !holdsCtx s l g.job g.step).length

/-- Messages that the quanta `gs` bring to group `g`. -/
def comingToGroup (s : State) (gs : List Grant) (g : Nat) : Nat :=
  (gs.filter fun r => (r.kind == .sha || r.kind == .keccak) && !r.aux && r.place == g &&
    !(match step? s r.job r.step with | some t => holdsEmr t g | none => false)).length

/-- Whether a message can have an entry of lane `l` beside what `gs` brings there. -/
def laneTakes (s : State) (gs : List Grant) (x : Job) (j k l : Nat) : Bool :=
  holdsCtx s l j k || (mayMove s l j k && decide (comingTo s gs l < ctxRoom s gs l x.cls))

/-- Whether a message can have an entry of group `g` beside what `gs` brings there. -/
def groupTakes (s : State) (gs : List Grant) (x : Job) (t : StepRun) (g : Nat) : Bool :=
  holdsEmr t g || decide (comingToGroup s gs g < (emrFree s g (x.cls == 0)).length)

/-- The Keccak cores of group `g` that lattice quanta among `gs` hold (R294). -/
def latticeCores (gs : List Grant) (g : Nat) : List Nat :=
  ((gs.filter fun r => r.kind == .keccak && r.aux && r.place == g).map (·.inst)).eraseDups

/-- The cores that an arithmetic step's Emmer work can take in group `g`: for Keccak within KECCAK_LAT_MAX (R294, R320). -/
def auxCores (s : State) (gs : List Grant) (g : Nat) (keccak : Bool) : List Nat :=
  let held := latticeCores gs g
  (coreInsts s g keccak).filter fun i => !keccak || held.contains i || decide (held.length < rd s (pg (pEMR g)) EMR.CTL.KECCAK_LAT_MAX)

/-- Instances that a step's quantum can be placed on beside the quanta `gs`: the list of its home, then all. -/
def placesFor (s : State) (gs : List Grant) (x : Job) (j k : Nat) (t : StepRun) (u : PlanUnit) (aux : Bool) : List Nat × List Nat :=
  match u with
  | .enc | .dec =>
    let ls := (liveLanes s).filter (laneTakes s gs x j k)
    (match homeLane s j k with | some l => if ls.contains l then [instLane l (u == .dec)] else [] | none => [], ls.map fun l => instLane l (u == .dec))
  | .sha | .keccak =>
    let en := enGroups s
    if aux then
      (match t.place with
        | some b => (match en[b / 2 % en.length]? with | some g => auxCores s gs g (u == .keccak) | none => [])
        | none => [], en.flatMap fun g => auxCores s gs g (u == .keccak))
    else
      let ok := en.filter (groupTakes s gs x t)
      (match t.place with | some g => if ok.contains g then coreInsts s g (u == .keccak) else [] | none => [], ok.flatMap fun g => coreInsts s g (u == .keccak))
  | .srg => (match t.place with | some b => [instSrg (b / 2)] | none => [], [])
  | .spike => ([instSpike (j / 16)], [])
  | .swp => ([instSwp], [])

/-- A member's seat: instance, and what it still needs. -/
structure Seat where
  step : Nat
  u : PlanUnit
  inst : Nat
  per : Nat
  short : Nat
  left : Option Nat
deriving DecidableEq, Repr

/-- Room of an instance for work of a unit; an array's second bank in a tick pays the switch of 8 sclk (R322). -/
def roomFor (s : State) (rooms : SMap Nat) (u : PlanUnit) (i : Nat) : Nat :=
  let r := SMap.getD rooms i 0
  if u = .srg ∧ r < planKc s then r - 16 else r

/-- The instance with the most room for a member, counting the members already seated on it; none without room for its
shortest quantum. -/
def bestInst (s : State) (rooms : SMap Nat) (seats : List Seat) (u : PlanUnit) (least : Nat) (l : List Nat) : Option Nat :=
  let room := fun (i : Nat) => roomFor s rooms u i / ((seats.filter fun z => z.inst == i).length + 1)
  (l.foldl (fun acc i => match acc with
    | none => if least ≤ room i ∧ 0 < room i then some i else none
    | some a => if room a < room i then some i else some a) none)

/-- The unit of a member's request, and the work that it still asks for. -/
def askOf (s : State) (x : Job) (k : Nat) (t : StepRun) (aux : Bool) : Option (PlanUnit × Option Nat) :=
  if aux then some (auxUnit (x.desc k).op, some (auxWork s x k t - t.aux))
  else (planUnit (x.desc k).op (x.param k)).map fun u => (u, (stepWork s x k t).map fun w => w - t.work)

/-- The quantum that a seat stands for, with `n` units of work. -/
def seatGrant (j : Nat) (x : Job) (aux : Bool) (z : Seat) (n : Nat) : Grant :=
  { job := j, eid := x.eid, step := z.step, kind := z.u, place := instPlace z.u z.inst, inst := z.inst, amount := n, per := z.per, aux, express := false }

/-- Seat every member of a request beside the quanta `gs`; none when one of them finds no room. -/
def seatAll (s : State) (rooms : SMap Nat) (gs : List Grant) (x : Job) (j : Nat) (aux : Bool) : List Nat → List Seat → Option (List Seat)
  | [], acc => some acc.reverse
  | k :: ks, acc =>
    match x.steps[k]? with
    | none => none
    | some t =>
      match askOf s x k t aux with
      | none => none
      | some (u, left) =>
        let per := kcPer u (x.desc k).op
        let short := shortestOf u
        let least := per * (match left with | some w => min w short | none => short)
        let ps := placesFor s (gs ++ acc.map fun z => seatGrant j x aux z 0) x j k t u aux
        match (match bestInst s rooms acc u least ps.1 with | some i => some i | none => bestInst s rooms acc u least ps.2) with
        | some i => seatAll s rooms gs x j aux ks ({ step := k, u, inst := i, per, short, left } :: acc)
        | none => none

/-- Units that a seat's instance has room for. -/
def seatCap (s : State) (rooms : SMap Nat) (seats : List Seat) (z : Seat) : Nat :=
  roomFor s rooms z.u z.inst / (max 1 (seats.filter fun y => y.inst == z.inst).length) / z.per

/-- The input span of a group's quantum with the given caps, none when all that is left fits (R159). -/
def groupSpan (s : State) (x : Job) (cap : Seat → Nat) (seats : List Seat) : Option Nat :=
  seats.foldl (fun acc z =>
    if (match z.left with | some w => decide (w ≤ cap z) | none => false) then acc
    else match x.steps[z.step]? with
      | some t => let b := bytesOf s x z.step t z.u (cap z); some (match acc with | none => b | some a => min a b)
      | none => acc) none

/-- Work that a seat gets for a span of the group's input; everything left without a span. -/
def seatShare (s : State) (x : Job) (span : Option Nat) (z : Seat) : Nat :=
  match span, x.steps[z.step]? with
  | some b, some t => let n := workFor s x z.step t z.u b; (match z.left with | some w => min w n | none => n)
  | _, _ => z.left.getD 0

/-- Amounts of a request's quantum, with the given caps: a lone member's, or a group's for one span. -/
def amounts (s : State) (x : Job) (cap : Seat → Nat) (seats : List Seat) : List (Seat × Nat) :=
  match seats with
  | [z] => [(z, match z.left with | some w => min w (cap z) | none => cap z)]
  | _ => let sp := groupSpan s x cap seats; seats.map fun z => (z, seatShare s x sp z)

/-- Amounts of a request's full quantum. -/
def fullAmounts (s : State) (rooms : SMap Nat) (x : Job) (seats : List Seat) : List (Seat × Nat) :=
  amounts s x (fun z => seatCap s rooms seats z) seats

/-- Cost of amounts. -/
def costAmounts (s : State) (x : Job) (l : List (Seat × Nat)) : Nat :=
  l.foldl (fun n p => n + (match x.steps[p.1.step]? with | some t => costOf s x p.1.step t p.1.u p.1.inst p.2 | none => 0)) 0

/-- The largest number from `n` down to 1 that passes a test. -/
def largest (ok : Nat → Bool) : Nat → Option Nat
  | 0 => none
  | n + 1 => if ok (n + 1) then some (n + 1) else largest ok n

/-- Amounts of a shortened quantum that `left` mgr buy, empty when not even the shortest fits (R173): whole shortest quanta, or for a group a
span in multiples of 1 KiB. -/
def shortAmounts (s : State) (x : Job) (full : List (Seat × Nat)) (left : Nat) : List (Seat × Nat) :=
  let try' := fun (am : Nat → List (Seat × Nat)) (n : Nat) =>
    match largest (fun i => decide (costAmounts s x (am i) ≤ left)) n with | some i => am i | none => []
  match full with
  | [(z, m)] => try' (fun i => [(z, i * z.short)]) (m / z.short)
  | _ =>
    let span := full.foldl (fun n p => max n (match x.steps[p.1.step]? with | some t => bytesOf s x p.1.step t p.1.u p.2 | none => 0)) 0
    try' (fun i => full.map fun p => (p.1, min p.2 (seatShare s x (some (1024 * i)) p.1))) (span / 1024)

/-! ### The plan (R173, R178) -/

/-- A plan under construction. -/
structure Build where
  rooms : SMap Nat
  left : Int
  drawn : Bool
  ended : Bool
  shorts : Nat
  spent : Nat
  grants : List Grant
  deficits : SMap Nat
deriving DecidableEq, Repr

/-- Add amounts to a plan. -/
def addGrant (s : State) (b : Build) (r : Req) (x : Job) (l : List (Seat × Nat)) : Build :=
  let c := costAmounts s x l
  let rooms := l.foldl (fun m p => SMap.set m p.1.inst (roomFor s m p.1.u p.1.inst - p.2 * p.1.per)) b.rooms
  { b with rooms, left := b.left - c, spent := b.spent + c, grants := b.grants ++ l.map fun p => seatGrant r.job x r.aux p.1 p.2 }

/-- What became of a request. -/
inductive Tried where
  | granted | noRoom | ended
deriving DecidableEq, Repr

/-- Try to grant a request, leaving `hold` mgr (R173). -/
def tryGrant (s : State) (b : Build) (r : Req) (hold : Int) : Build × Tried :=
  match job? s r.job with
  | none => (b, .noRoom)
  | some x => match seatAll s b.rooms b.grants x r.job r.aux r.mem [] with
    | none => (b, .noRoom)
    | some seats =>
      let full := fullAmounts s b.rooms x seats
      let cost : Int := costAmounts s x full
      let room := b.left - hold
      if full.all fun p => p.2 == 0 then (b, .noRoom)
      else if cost ≤ room then (addGrant s b r x full, .granted)
      else if flag s (pg pTCK) TCK.CTL.OVERDRAW_EN && !b.drawn && s.plan.derate == 256
          && decide (cost - room ≤ (rd s (pg pTCK) TCK.LIMITS.OVERDRAW_MAX * 1000 : Nat)) then
        ({ addGrant s b r x full with drawn := true }, .granted)
      else
        let am := shortAmounts s x full room.toNat
        let b1 := if am.isEmpty then b else { addGrant s b r x am with shorts := b.shorts + 1 }
        ({ b1 with ended := true }, .ended)

/-- LATENCY requests, oldest first. -/
def latencyRound (s : State) (hold : Int) : List Req → Build → Build
  | [], b => b
  | r :: rs, b => if b.ended then b else latencyRound s hold rs (tryGrant s b r hold).1

/-- The weight of a realm in a class (R74), as of the last boundary (R75). -/
def weightOf (s : State) (r c : Nat) : Nat :=
  SMap.getD s.plan.effWeight (r * 4 + c) (if c = 2 then RT.WEIGHT.BULK_WEIGHT.rst else RT.WEIGHT.BG_WEIGHT.rst)

/-- Cost of a request's full quantum where it would be placed now; where nothing has room, on instances with all their room. -/
def headCost (s : State) (b : Build) (r : Req) : Nat :=
  match job? s r.job with
  | none => 0
  | some x =>
    let on := fun (rooms : SMap Nat) (gs : List Grant) =>
      (seatAll s rooms gs x r.job r.aux r.mem []).map fun seats => costAmounts s x (fullAmounts s rooms x seats)
    match on b.rooms b.grants with
    | some c => c
    | none => (on (fullRooms s (planKc s)) []).getD 0

/-- A realm's turn: its requests are granted while its deficit pays for them. Answers the requests still waiting and whether the
head found no room, which ends the realm's part in this plan. -/
def realmTurn (s : State) (key : Nat) : List Req → Build → Build × List Req × Bool
  | [], b => ({ b with deficits := SMap.erase b.deficits key }, [], false)
  | r :: rs, b =>
    let c := headCost s b r
    let pay := fun (v : Build) => { v with deficits := SMap.set v.deficits key (SMap.getD v.deficits key 0 - c) }
    if SMap.getD b.deficits key 0 < c then (b, r :: rs, false)
    else match tryGrant s b r 0 with
      | (b1, .granted) => realmTurn s key rs (pay b1)
      | (b1, .noRoom) => (pay b1, r :: rs, true)
      | (b1, .ended) => (b1, r :: rs, false)

/-- One pass over the realms that still ask. -/
def roundPass (s : State) (c : Nat) : List (Nat × List Req) → Build → Build × List (Nat × List Req)
  | [], b => (b, [])
  | (r, q) :: rest, b =>
    if b.ended then (b, (r, q) :: rest)
    else
      let key := r * 4 + c
      let b1 := { b with deficits := SMap.set b.deficits key (SMap.getD b.deficits key 0 + weightOf s r c * 8000) }
      let t := realmTurn s key q b1
      let o := roundPass s c rest t.1
      (o.1, if t.2.1.isEmpty || t.2.2 then o.2 else (r, t.2.1) :: o.2)

/-- Deficit counting among the realms of a class; `fuel` bounds the rounds. -/
def weightedRound (s : State) (c : Nat) : Nat → List (Nat × List Req) → Build → Build
  | 0, _, b => b
  | fuel + 1, qs, b =>
    if qs.isEmpty || b.ended then b
    else let o := roundPass s c qs b; weightedRound s c fuel o.2 o.1

/-- The realms of a class's requests from the one after `start` on, with their requests. -/
def realmQueues (rs : List Req) (start : Nat) : List (Nat × List Req) :=
  let realms := rs.foldl (fun (m : SMap Unit) r => SMap.set m r.realm ()) []
  let names := realms.map (·.1)
  let order := (names.filter fun r => decide (start < r)) ++ (names.filter fun r => decide (r ≤ start))
  order.map fun r => (r, rs.filter fun q => q.realm == r)

/-- The deficits of the realms that still wait: an empty realm keeps no credit (R178). -/
def waitingDeficits (m : SMap Nat) (bulk bg : List Req) : SMap Nat :=
  m.filter fun p => if p.1 % 4 = 2 then bulk.any (fun r => r.realm == p.1 / 4) else bg.any (fun r => r.realm == p.1 / 4)

/-! ### Budgets (R169) -/

/-- Tick length in ps. -/
def tickPs (s : State) (kc : Nat) : Nat := kc * 1000000 / max 1 (rd s (pg pSYS) SYS.KCLK_MHZ.MHZ)

/-- CAPG for a cap in mW. -/
def capgOf (s : State) (capMw kc : Nat) : Nat := capMw * tickPs s kc / 1000

/-- The base draw, with the given counts of lanes, groups, arrays and spikes. -/
def baseOf (s : State) (kc lanes groups arrays spikes : Nat) : Nat :=
  kc * (costAt s 14 + lanes * costAt s 15 + groups * costAt s 16 + arrays * costAt s 17 + spikes * costAt s 18) + costAt s 19 * tickPs s kc / 1000

/-- The base draw of the enabled units. -/
def baseNow (s : State) (kc : Nat) : Nat :=
  baseOf s kc (enLanes s).length (enGroups s).length (enabledUnits s pSRG .srg 16).length (enSpikes s).length

/-- The cap of the next plan (R182). -/
def capMw (s : State) : Nat :=
  let o := rd s (pg pTCK) TCK.POWER_CAP.OVERRIDE_MW
  if o = 0 then rd s (pg pTCK) TCK.POWER_CAP.PROFILE_MW else o

/-! ### Heat (R175 to R177) -/

/-- A sensor's reading as a signed number of 1/8 °C, when it is within range (R176). -/
def goodTemp (r : SensorReading) : Option Int :=
  match r with
  | some v => let t := bitsSigned 12 v.toNat; if -400 ≤ t ∧ t ≤ 1200 then some t else none
  | none => none

/-- Insert into a rising list. -/
def insInt (a : Int) : List Int → List Int
  | [] => [a]
  | x :: xs => if a ≤ x then a :: x :: xs else x :: insInt a xs

/-- Twice the median. -/
def median2 (l : List Int) : Int :=
  let s := l.foldl (fun acc a => insInt a acc) []
  let n := s.length
  s.getD ((n - 1) / 2) 0 + s.getD (n / 2) 0

/-- Drop sensor `i` (R176). -/
def dropSensor (s : State) (i : Nat) : State :=
  let b := pg pTCK
  let s1 := wr s b TCK.SENSOR_EN.DROPPED (setBit (rd s b TCK.SENSOR_EN.DROPPED) i)
  chaffAny (setEvt (wr (wr s1 b (TCK.SENSOR.DROPPED.at i) 1) b (TCK.SENSOR.VALID.at i) 0) pTCK TCK.EVT.SENSOR_DROP) 3 0 0x503

/-- A sensor's reading with its factory offset, held to the reading's range (R444). -/
def trimmed (t : Int) (r : SensorReading) : SensorReading := r.map fun v => BitVec.ofInt 12 (max (-2048) (min 2047 (v.toInt + t)))

/-- Read the sensors in the planning window. -/
def readSensors (s : State) (rs : List SensorReading) : State :=
  let b := pg pTCK
  let use := fun (st : State) (i : Nat) => bitAt (rd st b TCK.SENSOR_EN.MASK) i && !bitAt (rd st b TCK.SENSOR_EN.DROPPED) i
  let s1 := (List.range 8).foldl (fun st i =>
    match rs.getD i none with
    | some v => wr st b (TCK.SENSOR.TEMP.at i) v.toNat
    | none => st) s
  let s2 := (List.range 8).foldl (fun st i => if use st i && (goodTemp (rs.getD i none)).isNone then dropSensor st i else st) s1
  let vals := (List.range 8).filterMap fun i => if use s2 i then goodTemp (rs.getD i none) else none
  let far := fun (t : Int) => decide (640 < (2 * t - median2 vals).natAbs)
  let s3 := (List.range 8).foldl (fun st i =>
    match goodTemp (rs.getD i none) with
    | some t => if use st i && far t then dropSensor st i else st
    | none => st) s2
  (List.range 8).foldl (fun st i => wr st b (TCK.SENSOR.VALID.at i) (bit (use st i && (goodTemp (rs.getD i none)).isSome))) s3

/-- The hottest valid sensor: its reading and number. -/
def hotSensor (s : State) (rs : List SensorReading) : Option (Int × Nat) :=
  (List.range 8).foldl (fun acc i =>
    if flag s (pg pTCK) (TCK.SENSOR.VALID.at i) then
      match goodTemp (rs.getD i none), acc with
      | some t, none => some (t, i)
      | some t, some a => if a.1 < t then some (t, i) else acc
      | none, _ => acc
    else acc) none

/-- The derate factor for a model temperature (R175). -/
def derateOf (s : State) (model : Int) : Nat :=
  let b := pg pTCK
  let th : Int := rd s b TCK.THERM_CFG.THROTTLE_C * 8
  let tf : Int := rd s b TCK.THERM_CFG.FLOORT_C * 8
  let fl := rd s b TCK.LIMITS.FLOOR_FRAC
  if model ≤ th then 256
  else if tf ≤ model then fl
  else (256 - Int.tdiv ((256 - fl : Int) * (model - th)) (tf - th)).toNat

/-- The heat part of the planning window (R175 to R177). -/
def heatFx (s : State) (rs : List SensorReading) : State :=
  let b := pg pTCK
  let s1 := readSensors s rs
  let valid := ((List.range 8).filter fun i => flag s1 b (TCK.SENSOR.VALID.at i)).length
  let s2 := wr (wr s1 b TCK.TEMP_HOT.VALID valid) b TCK.STAT.SENSOR_SHORT (bit (decide (valid < 4)))
  let fl := rd s b TCK.LIMITS.FLOOR_FRAC
  match hotSensor s1 rs with
  | none =>
    { s2 with plan := { s2.plan with cool := 0, derate := fl } }
  | some (hot, i) =>
    let s3 := wr (wr s2 b TCK.TEMP_HOT.T (signedBits 12 hot)) b TCK.TEMP_HOT.SENSOR i
    let rise := match s.plan.hist[15]? with | some o => hot - o | none => 0
    let model := hot + (if 0 < rise then Int.tdiv (rise * rd s b TCK.THERM_CFG.LEAD) 16 else 0)
    let trips := decide ((rd s b TCK.THERM_CFG.TRIP_C * 8 : Int) ≤ hot)
    let cools := decide (hot < ((rd s b TCK.THERM_CFG.TRIP_C : Int) - rd s b TCK.THERM_CFG.HYST_C) * 8)
    let stop := s.plan.stop || trips
    let f := if stop || decide (valid < 4) then fl else derateOf s model
    let p := { s3.plan with hist := (hot :: s.plan.hist).take 16, model, derate := f, stop, tripTick := s.plan.tripTick || (trips && !s.plan.stop), cool := if cools then s.plan.cool + 1 else 0 }
    let s4 := { s3 with plan := p }
    if trips && !s.plan.stop then
      chaffAny (setEvt (wr s4 b TCK.STAT.TRIPPED 1) pTCK TCK.EVT.TRIP) 3 0 0x502
    else s4

/-! ### PLAN_BUILD (R178) -/

/-- The plan for budgets already known. -/
def planBody (s : State) (left : Int) : Build :=
  let bulk := classReqs s 2
  let bg := classReqs s 3
  let b0 : Build := { rooms := fullRooms s (planKc s), left, drawn := false, ended := false, shorts := 0, spent := 0, grants := [],
                      deficits := waitingDeficits s.plan.deficits bulk bg }
  if s.plan.stop then b0
  else
    let hold : Int := if bulk.isEmpty && bg.isEmpty then 0 else rd s (pg pTCK) TCK.BULK_MIN.GRAINS * 1000
    let b1 := latencyRound s hold (classReqs s 1) b0
    let b2 := if b1.ended then b1 else weightedRound s 2 1000000 (realmQueues bulk s.plan.rotB) b1
    if b2.ended then b2 else weightedRound s 3 1000000 (realmQueues bg s.plan.rotG) b2

/-- The members of requests that a plan has given nothing: job and step, with their class. -/
def leftOut (s : State) (gs : List Grant) : List (Nat × Nat × Nat) :=
  ([1, 2, 3].flatMap (classReqs s)).flatMap fun r =>
    if r.aux then [] else (r.mem.filter fun k => !(gs.any fun g => g.job == r.job && g.step == k && !g.aux)).map fun k => (r.job, k, r.cls)

/-- A message that found no lane with an entry for it sets SUSPEND_WAIT on every live lane (R193, R223). -/
def noteLaneWaits (s : State) (gs : List Grant) : State :=
  (leftOut s gs).foldl (fun st m =>
    match job? s m.1, step? s m.1 m.2.1 with
    | some x, some t =>
      if isAes (bitsAt t.d0 0 8) && !(liveLanes s).any fun l => laneTakes s gs x m.1 m.2.1 l
      then (liveLanes s).foldl (fun u l => noteNoCtx u gs l x.cls) st else st
    | _, _ => st) s

/-- A digest message that found no entry in any enabled group counts once, on every one of them (R279, R300): `tok` marks it. -/
def noteCtxWaits (s : State) (gs : List Grant) : State :=
  (leftOut s gs).foldl (fun st m =>
    match job? s m.1, step? s m.1 m.2.1 with
    | some x, some t =>
      if (isDigest (bitsAt t.d0 0 8) || bitsAt t.d0 0 8 == 0x2F) && t.tok.isNone && !(enGroups s).any fun g => groupTakes s gs x t g
      then (enGroups s).foldl (fun u g => setEvt (inc u (pg (pEMR g)) EMR.CTX_WAITS.COUNT) (pEMR g) EMR.EVT.CTX_WAIT) (modStep st m.1 m.2.1 fun v => { v with tok := some 1 })
      else st
    | _, _ => st) s

/-- Build and book the next plan, for the sensors' last verdict. -/
def bookPlan (s : State) : State :=
  let b := pg pTCK
  let kc := planKc s
  let capg := capgOf s (capMw s) kc
  let base := baseNow s kc
  let dyn := (capg - base) * s.plan.derate / 256
  let reserve := min (rd s b TCK.EXPRESS.GRAINS * 1000) dyn
  let repay := s.plan.debt
  let p := planBody s ((dyn : Int) - reserve - repay)
  let next := fun (rs : List Req) (old : Nat) => match (realmQueues rs old).head? with | some q => q.1 | none => old
  let pl := { s.plan with
    grants := p.grants, booked := true, books := [(capg : Int), base, dyn, reserve, repay, p.spent, p.left],
    debt := if p.left < 0 then -p.left else 0, deficits := p.deficits,
    rotB := next (classReqs s 2) s.plan.rotB, rotG := next (classReqs s 3) s.plan.rotG,
    ovrPlan := rd s b TCK.POWER_CAP.OVERRIDE_MW }
  let s1 := incBy { s with plan := pl } b TCK.SHORTENED.COUNT p.shorts
  noteLaneWaits (noteCtxWaits (if p.drawn then inc s1 b TCK.OVERDRAWS.COUNT else s1) p.grants) p.grants

end Sys2Proof.Machine
end

