-- ==== Sys2Proof/Machine/Tick.lean ====
section
/-! DEFINITION. The planning window and the tick boundary (R156 to R183): EXPRESS admission, the plan's grants, the books, the
thermal stop's end, gate timeouts and the cap override. -/

namespace Sys2Proof.Machine

/-! ### Quanta on their instances (R159 to R163, R322) -/

/-- A step's running extend of register `n`: job, step and the age of its start, once its first block has its quantum (R291). -/
def extendsOf (s : State) (n : Nat) : List (Nat × Nat × Nat) :=
  s.jobs.flatMap fun p => (List.range p.2.steps.length).filterMap fun k => match p.2.steps[k]? with
    | some t => if stepRuns s p.1 k && (p.2.desc k).op == 0x2F && pfield (p.2.param k) 0 1 == n && decide (0 < t.work) then some (p.1, k, t.asked.getD 0) else none
    | none => none

/-- A measurement register that has never been extended (R289). -/
def freshMeas : Meas := { data := zeros 64, count := 0, broken := false, lock := none }
def measReg (s : State) (n : Nat) : Meas := SMap.getD s.meas n freshMeas

/-- The step that holds a register's lock, or takes it next: of those that wait, the one that started first (R291). -/
def lockHolder (s : State) (n : Nat) : Option (Nat × Nat) :=
  let w := extendsOf s n
  match (match (measReg s n).lock with | some h => w.find? (fun (e : Nat × Nat × Nat) => e.1 == h.1 && e.2.1 == h.2) | none => none) with
  | some e => some (e.1, e.2.1)
  | none => (w.foldl (fun (acc : Option (Nat × Nat × Nat)) (e : Nat × Nat × Nat) => match acc with
    | none => some e
    | some a => if e.2.2 < a.2.2 then some e else some a) none).map fun e => (e.1, e.2.1)

/-- The lock of register `n` after a step's first block has its quantum (R291). -/
def takeLock (s : State) (n : Nat) : State := { s with meas := SMap.set s.meas n { measReg s n with lock := lockHolder s n } }

/-- A digest message takes an entry of group `g`, the lowest it can have; its state comes along (R279, R280). -/
def takeEmr (s : State) (g j k : Nat) : Option State :=
  match step? s j k with
  | some t =>
    if holdsEmr t g then some s
    else match emrFree s g (jobCls s j == 0) with
      | n :: _ =>
        let c := match t.ectx with | some e => { e with slot := n } | none => emrState s j k n
        some (modStep s j k fun u => { u with place := some g, ectx := some c })
      | [] => none
  | none => none

/-- A bank that has a quantum starts to run, unless its array runs from the other bank: an EXPRESS operation takes the array from one that is
not at its next pause point (R162, R163, R323), and MODE shows the operation (R329). -/
def takeBank (s : State) (n op : Nat) (a : ArBlk) : State :=
  let other := if n % 2 = 0 then n + 1 else n - 1
  if bankState s n ≠ bkPAUSED ∨ (bankState s other = bkRUNNING ∧ (bankX s other ∨ !bankX s n)) then s
  else
    let m := srgMode op a
    let s1 := setBankState (pauseBank s other) n bkRUNNING
    wr (wr s1 (bankPg n) SRG.MODE.CURRENT m.1) (bankPg n) SRG.MODE.Q m.2

/-- The array of bank `n` is free again: the operation in its other bank that still has a quantum in this tick goes on (R323). -/
def resumeOther (s : State) (n : Nat) : State :=
  let other := if n % 2 = 0 then n + 1 else n - 1
  match (bank s other).owner with
  | some (j, _, k) =>
    match job? s j with
    | some x => if 0 < runningWork s j k then takeBank s other (x.desc k).op (arBlk (x.param k)) else s
    | none => s
  | none => s

/-- A step's quantum comes to its instance: its context to the lane or group, its bank to the array; none when it finds no entry. -/
def seatOn (s : State) (g : Grant) : Option State :=
  if g.aux then some s
  else match job? s g.job with
    | none => none
    | some x =>
      match g.kind with
      | .enc | .dec => seatLane s g.place g.job g.step
      | .sha | .keccak =>
        (takeEmr s g.place g.job g.step).map fun t =>
          if (x.desc g.step).op = 0x2F then takeLock t (pfield (x.param g.step) 0 1) else t
      | .srg => (match step? s g.job g.step with
        | some t => some (match t.place with | some n => takeBank s n (x.desc g.step).op (arBlk (x.param g.step)) | none => s)
        | none => none)
      | .spike | .swp => some s

/-- Count a quantum's work to its step. -/
def addWork (s : State) (g : Grant) : State :=
  modStep s g.job g.step fun t => if g.aux then { t with aux := t.aux + g.amount } else { t with work := t.work + g.amount }

/-- Kc that the tweak blocks of a decrypting XTS quantum take from the encrypt pipeline of its lane (R190): by its share of the data units. -/
def tweakKc (s : State) (g : Grant) : Nat :=
  match job? s g.job with
  | some x =>
    let a := aesBlk (x.param g.step)
    if g.kind = .dec ∧ (x.desc g.step).op = 0x13 then ceilDiv g.amount (ceilDiv (a.duBytes + piBytes (bitsAt a.piFmt 0 2)) 16 + 1) else 0
  | none => 0

/-- Whether an array's quantum is the last of its operation. -/
def lastQuantum (s : State) (g : Grant) : Bool :=
  match job? s g.job, step? s g.job g.step with
  | some x, some t => (match stepWork s x g.step t with | some w => decide (w ≤ t.work) | none => false)
  | _, _ => false

/-- Units that a quantum issues in `kc`: an array runs whole intervals, taken as 64 sclk, and the last one of its operation (R321; for others than
RSA_CRT and MODEXP the length is the model's, log entry 64). -/
def unitsIn (s : State) (g : Grant) (kc : Nat) : Nat :=
  let n := min g.amount (kc / max 1 g.per)
  if g.kind = .srg && !(n == g.amount && lastQuantum s g) then n / 64 * 64 else n

/-- What each of this tick's quanta could not issue: its instance's kc go to the quanta in their order, an array pays 16 kc for each change of
bank (R322), an encrypt pipeline first gives the tweaks theirs, and a thermal stop takes the tick's last 64 kc from all but EXPRESS work
(R161, R162, R177). -/
def lostOf (s : State) : List (Grant × Nat) :=
  let run := s.plan.running
  let used0 := run.foldl (fun (m : SMap Nat) g =>
    let w := tweakKc s g
    if w = 0 then m else SMap.set m (instLane g.place false) (SMap.getD m (instLane g.place false) 0 + w)) []
  let go := fun (acc : SMap Nat × List (Grant × Nat)) (g : Grant) =>
    let cap := if s.plan.tripTick && !g.express then s.plan.runKc - 64 else s.plan.runKc
    let before := SMap.getD acc.1 g.inst 0
    let start := if g.kind = .srg ∧ before ≠ 0 then before + 16 else before
    let n := unitsIn s g (cap - start)
    (SMap.set acc.1 g.inst (start + n * g.per), (g, g.amount - n) :: acc.2)
  (run.foldl go (used0, [])).2

/-- Work, or Emmer work, of a step's quanta in this tick that its instances do not come to issue. -/
def lostWork (s : State) (j k : Nat) (aux : Bool) : Nat :=
  ((lostOf s).filter fun p => p.1.job == j && p.1.step == k && p.1.aux == aux).foldl (fun n p => n + p.2) 0

/-! ### EXPRESS admission (R165 to R168) -/

/-- A set of steps of an EXPRESS entry whose request the reserve can serve: job, steps, whether it is Emmer work, and age. -/
structure XReq where
  job : Nat
  mem : List Nat
  aux : Bool
  age : Nat
deriving DecidableEq, Repr

/-- Whether a step's request waits for the reserve as `f` says of its `admitted`. -/
def admittedAs (x : Job) (f : Nat → Bool) (k : Nat) : Bool := match x.steps[k]? with | some t => f t.admitted | none => false

/-- The requests of an EXPRESS entry that stand before the reserve: not those whose rest stands as LATENCY. -/
def xReqs (s : State) (j : Nat) (x : Job) : List XReq :=
  if x.cls ≠ 0 then []
  else (askSets s x).filterMap fun p =>
    if (p.1.all fun k => match x.steps[k]? with | some t => asksNow s x k t true | none => false) && (p.1.any (admittedAs x (· != 2)))
    then some { job := j, mem := p.1, aux := p.2, age := askAge x p.1 } else none

/-- The EXPRESS requests that stand, oldest first. -/
def standingX (s : State) : List XReq :=
  let ins := fun (acc : List XReq) (r : XReq) => acc.filter (fun a => decide (a.age ≤ r.age)) ++ [r] ++ acc.filter (fun a => decide (r.age < a.age))
  (s.jobs.flatMap fun p => xReqs s p.1 p.2).foldl ins []

/-- Kc of this tick that are left on the instance of array `a` for bank `n`: what has passed, what is admitted there, and the change of bank. -/
def arrayKc (s : State) (n : Nat) : Nat :=
  let gone := min (tickKc s) (2 * (s.fcNow - s.tickFc))
  let mine := (s.plan.running.filter fun g => g.inst == instSrg (n / 2) && g.express).foldl (fun m g => m + g.amount * g.per + 16) 0
  let other := if n % 2 = 0 then n + 1 else n - 1
  tickKc s - gone - mine - (if bankState s other = bkRUNNING then 16 else 0)

/-- The most that one admission gives a member (R165, R167, R323): BLOCKS, EMR_BLOCKS, what is left of the tick on an array, or a tick's worth. -/
def capX (s : State) (x : Job) (z : Seat) : Nat :=
  match z.u with
  | .enc | .dec => rd s (pg pTCK) TCK.EXPRESS.BLOCKS
  | .sha | .keccak => rd s (pg pTCK) TCK.EXPRESS.EMR_BLOCKS
  | .srg => (match x.steps[z.step]? with | some t => (match t.place with | some n => arrayKc s n / z.per | none => 0) | none => 0)
  | .spike | .swp => tickKc s / z.per

/-- The best of a list by a measure, the first among equals, when it has at least `n`. -/
def bestBy (room : Nat → Nat) (n : Nat) (l : List Nat) : Option Nat :=
  l.foldl (fun acc i => if n ≤ room i then (match acc with | some a => if room a < room i then some i else acc | none => some i) else acc) none

/-- Work that stands on an instance in this tick, in kc. -/
def loadKc (s : State) (i : Nat) : Nat := (s.plan.running.filter fun g => g.inst == i).foldl (fun n g => n + g.amount * g.per) 0

/-- The core that an EXPRESS digest takes (R284): an idle one, else the one that is free first, the lower number among equals. -/
def coreX (s : State) (g : Nat) (keccak : Bool) : Option Nat :=
  let l := coreInsts s g keccak
  l.find? fun i => l.all fun h => decide (loadKc s i ≤ loadKc s h)

/-- The instance of the reserve that can take `n` units of a member: its home first, then the place with the most left. -/
def placeX (s : State) (j : Nat) (x : Job) (t : StepRun) (z : Seat) (aux : Bool) (n : Nat) : Option Nat :=
  match z.u with
  | .enc | .dec =>
    let room := fun (l : Nat) => SMap.getD s.plan.xLeft (instLane l (z.u == .dec)) 0
    let ls := (liveLanes s).filter (laneTakes s [] x j z.step)
    let at' := match homeLane s j z.step with
      | some h => if ls.contains h && decide (n ≤ room h) then some h else bestBy room n ls
      | none => bestBy room n ls
    at'.map fun l => instLane l (z.u == .dec)
  | .sha | .keccak =>
    let room := fun (g : Nat) => SMap.getD s.plan.eLeft g 0
    let en := enGroups s
    let kec := z.u == .keccak
    let gs := en.filter fun g => !(coreInsts s g kec).isEmpty && (aux || groupTakes s [] x t g)
    let home := if aux then (match t.place with | some b => en[b / 2 % en.length]? | none => none) else t.place
    let at' := match home with
      | some h => if gs.contains h && decide (n ≤ room h) then some h else bestBy room n gs
      | none => bestBy room n gs
    (match at' with | some g => coreX s g kec | none => none)
  | .srg => t.place.map fun b => instSrg (b / 2)
  | .spike => if enabled s (pSPK (j / 16)) then some (instSpike (j / 16)) else none
  | .swp => if enabled s pTEF && expLive s 11 then some instSwp else none

/-- Charge an admission to the reserve. -/
def chargeX (s : State) (g : Grant) (cost : Nat) : State :=
  let p := s.plan
  let p1 := match g.kind with
    | .enc | .dec => { p with xLeft := SMap.set p.xLeft g.inst (SMap.getD p.xLeft g.inst 0 - g.amount) }
    | .sha | .keccak => { p with eLeft := SMap.set p.eLeft g.place (SMap.getD p.eLeft g.place 0 - g.amount) }
    | _ => p
  pmu (incBy { s with plan := { p1 with gLeft := p1.gLeft - cost } } (pg pTCK) TCK.EXPRESS_USED.MGR cost) 0x0E 0 1

/-- An EXPRESS quantum takes its place ahead of the plan's (R161). -/
def runX (s : State) (g : Grant) : State :=
  let r := s.plan.running
  { s with plan := { s.plan with running := (r.filter (·.express)) ++ [g] ++ r.filter fun h => !h.express } }

/-- Admit `n` units of one member; none when a condition of R166 fails. -/
def admitOne (s : State) (j : Nat) (x : Job) (aux : Bool) (z : Seat) (n : Nat) : Option State :=
  match step? s j z.step with
  | none => none
  | some t =>
    match placeX s j x t z aux n with
    | none => none
    | some i =>
      let g := { seatGrant j x aux { z with inst := i } n with express := true }
      let c := costOf s x z.step t z.u i n
      if n = 0 ∨ s.plan.gLeft < c then none
      else match seatOn (addWork s g) g with
        | none => none
        | some s1 =>
          let s2 := runX (chargeX s1 g c) g
          let s3 := if aux then s2 else modStep s2 j z.step fun v => { v with admitted := if z.u = .srg then 3 else 2 }
          let s4 := probeStamp s3 x.eid 4
          some (if z.u = .srg then inc s4 (bankPg (t.place.getD 0)) SRG.EXPRESS_RUNS.COUNT else s4)

/-- Admit every member of a request, or none of them (R117). -/
def admitAll (j : Nat) (x : Job) (aux : Bool) : List (Seat × Nat) → State → Option State
  | [], s => some s
  | p :: ps, s => match admitOne s j x aux p.1 p.2 with | some t => admitAll j x aux ps t | none => none

/-- The members of a request with what they ask for. -/
def seatsX (s : State) (x : Job) (r : XReq) : List Seat :=
  r.mem.filterMap fun k => match x.steps[k]? with
    | some t => (askOf s x k t r.aux).map fun a => { step := k, u := a.1, inst := 0, per := kcPer a.1 (x.desc k).op, short := shortestOf a.1, left := a.2 }
    | none => none

/-- Mark an EXPRESS request that waits for a boundary: each of its steps counts once (R168). -/
def deferX (s : State) (j k : Nat) : State :=
  match step? s j k with
  | some t =>
    if t.admitted = 1 then s
    else pmu (setEvt (inc (modStep s j k fun u => { u with admitted := 1 }) (pg pTCK) TCK.EXPRESS_DEFERRED.COUNT) pTCK TCK.EVT.EXPRESS_DEFERRED) 0x0F 0 1
  | none => s

/-- Admit an EXPRESS request or let it wait (R166). With every enabled lane starved an EXPRESS step of a lane fails at once with the number
of the lane it waits for (R219). Emmer work of an array that waits is no entry's request, and is not counted. -/
def admitX (s : State) (r : XReq) : State :=
  match job? s r.job with
  | none => s
  | some x =>
    let seats := seatsX s x r
    let aes := r.mem.filter fun k => isAes (x.desc k).op
    if !aes.isEmpty && (liveLanes s).isEmpty && !(enLanes s).isEmpty then
      aes.foldl (fun st k => failStep st r.job k { status := 0x38, detail := starvedLane st r.job k, loc := 0 }) s
    else match admitAll r.job x r.aux (amounts s x (capX s x) seats) s with
      | some s1 => readJob s1 r.job
      | none => if r.aux then s else r.mem.foldl (fun st k => deferX st r.job k) s

/-- Whether the planner admits EXPRESS work now: not between a switch boundary and the new profile (R183). -/
def admitsX (s : State) : Bool := enabled s pTCK && s.phase == .run && !s.plan.swDue

/-- Admit the EXPRESS requests that have just come to stand, each once, with the Emmer work of the arrays among them (R166); the others wait for
a boundary. -/
def admitNew (s : State) : State :=
  if admitsX s then
    (standingX s).foldl (fun st r => match job? st r.job with
      | some x =>
        if !r.aux && r.mem.all (admittedAs x (· == 0)) then
          let s1 := admitX st r
          ((xReqs s1 r.job ((job? s1 r.job).getD x)).filter fun q => q.aux && q.mem == r.mem).foldl admitX s1
        else st
      | none => st) s
  else s

/-- Admit the EXPRESS requests that have waited for a boundary, in order of arrival (R166). -/
def admitStanding (s : State) : State := if admitsX s then (standingX s).foldl admitX s else s

/-- Load the express reserve (R165): BLOCKS and EMR_BLOCKS of every instance, and `grains` mgr. -/
def loadReserve (s : State) (mgr : Nat) : State :=
  let bl := rd s (pg pTCK) TCK.EXPRESS.BLOCKS
  let eb := rd s (pg pTCK) TCK.EXPRESS.EMR_BLOCKS
  let x := (List.range 16).foldl (fun m i => SMap.set m i bl) []
  let e := (List.range 4).foldl (fun m g => SMap.set m g eb) []
  wr { s with plan := { s.plan with xLeft := x, eLeft := e, gLeft := mgr } } (pg pTCK) TCK.EXPRESS_USED.MGR 0

/-! ### Work counted (R225, R300, R329) -/

/-- A group's block counts (R300). -/
def countBlocks (s : State) (g op n : Nat) : State :=
  let b := pg (pEMR g)
  let s1 := if isKeccak op then incBy s b EMR.PERMS.COUNT n else if sha256Like op then incBy s b EMR.BLOCKS_SHA256.COUNT n
    else incBy s b EMR.BLOCKS_SHA512.COUNT n
  pmu s1 9 g n

/-- The Emmer work of an operation on array `a`, counted on the group of (array mod enabled groups) (R294, R300): the permutations of a lattice
operation, the SHA-512 blocks of EdDSA. -/
def countAux (s : State) (a op n : Nat) : State :=
  match (enGroups s)[a % (enGroups s).length]? with
  | some g => if isLattice op then incBy s (pg (pEMR g)) EMR.PERMS_LATTICE.COUNT n else incBy s (pg (pEMR g)) EMR.BLOCKS_SHA512.COUNT n
  | none => s

/-- The first `w` blocks of an AES step on the encrypt and the decrypt pipeline (R190). -/
def pipeBlocks (op : Nat) (p : Bytes) (w : Nat) : Nat × Nat :=
  let a := aesBlk p
  if planUnit op p = some .dec then
    (if op = 0x13 then let t := ceilDiv w (ceilDiv (a.duBytes + piBytes (bitsAt a.piFmt 0 2)) 16 + 1); (t, w - t) else (0, w))
  else (w, 0)

/-- Samples that an unprotected lane takes of its next `n` blocks: of every 2^RATE_LOG2-th block (R220); none of an EXPRESS step. -/
def exactSamples (s : State) (l cls n : Nat) : Nat :=
  let b := pg (pSPL l)
  let r := rd s b SPL.CHECK_CFG.RATE_LOG2
  let c := rd s b SPL.BLOCKS_ENC.COUNT + rd s b SPL.BLOCKS_DEC.COUNT
  if cls = 0 ∨ r = 0 ∨ flag s b SPL.STAT.UNPROTECTED = false then 0 else (c + n) / 2 ^ r - c / 2 ^ r

/-- Count a step's work up to `w` units on the unit that it stands on, with the samples of an unprotected lane. -/
def countWork (s : State) (j k w : Nat) : State :=
  match job? s j, step? s j k with
  | some x, some t =>
    let op := (x.desc k).op
    let n := w - t.counted
    let s1 := match t.place with
      | none => s
      | some p =>
        if isAes op then
          let d := pipeBlocks op (x.param k) w
          let c := pipeBlocks op (x.param k) t.counted
          let b := pg (pSPL p)
          let m := exactSamples s p x.cls n
          modStep (pmu (incBy (incBy s b SPL.BLOCKS_ENC.COUNT (d.1 - c.1)) b SPL.BLOCKS_DEC.COUNT (d.2 - c.2)) 7 p n) j k fun u => { u with checks := u.checks + m }
        else if isDigest op ∨ op = 0x2F then countBlocks s p op n
        else if isArith op then pmu (incBy s (bankPg p) (if isLattice op then SRG.SCLK_LATTICE.COUNT else SRG.SCLK_FULL.COUNT) n) 0xA (p / 2) n
        else s
    modStep s1 j k fun u => { u with counted := max u.counted w }
  | _, _ => s

/-- Count an arithmetic step's Emmer work up to `w` units. -/
def countEmmer (s : State) (j k w : Nat) : State :=
  match job? s j, step? s j k with
  | some x, some t =>
    (match t.place with
      | some p => if isArith (x.desc k).op then modStep (countAux s (p / 2) (x.desc k).op (w - t.countedAux)) j k fun u => { u with countedAux := max u.countedAux w } else s
      | none => s)
  | _, _ => s

/-- Count what every running step has had issued. -/
def countAll (s : State) : State :=
  s.jobs.foldl (fun (st : State) (p : Nat × Job) => (List.range p.2.steps.length).foldl (fun (u : State) (k : Nat) =>
    match p.2.steps[k]? with
    | some t => if t.st = .run then countEmmer (countWork u p.1 k t.work) p.1 k t.aux else u
    | none => u) st) s

/-! ### The ends of quanta (R160) -/

/-- What has been issued of a step's work at the boundary: what its instances came to and its input fed; nothing of this tick's while its key
has not come. -/
def issuedWork (s : State) (j : Nat) (x : Job) (k : Nat) (t : StepRun) : Nat :=
  if keyedOp (x.desc k).op (realmStored s x.realm) && !(match t.key with | .ready _ => true | _ => false) then t.work - runningWork s j k
  else min (t.work - lostWork s j k false) (fedWork s x k t)

/-- Work granted and not issued goes back to the request, and what was issued is counted (R160). -/
def endQuanta (s : State) : State :=
  let fix := fun (j : Nat) (x : Job) => { x with steps := x.steps.mapIdx fun k t =>
    if t.st = .run ∨ t.st = .idle then { t with work := issuedWork s j x k t, aux := t.aux - lostWork s j k true } else t }
  let js := s.jobs.map fun (p : Nat × Job) => (p.1, fix p.1 p.2)
  countAll { s with jobs := js, plan := { s.plan with running := [], runKc := tickKc s, tripTick := false } }

/-- The messages' states as they stop at the boundary, in the lanes' tables and the groups' stores (R191, R279). -/
def saveMessages (s : State) : State :=
  let lane := fun (l : Lane) => { l with ctxs := l.ctxs.map fun c => { c with msg := msgState s c.job c.step } }
  let ls := s.lanes.map fun (p : Nat × Lane) => (p.1, lane p.2)
  let s1 := { s with lanes := ls }
  s1.jobs.foldl (fun (st : State) (p : Nat × Job) => (List.range p.2.steps.length).foldl (fun (u : State) (k : Nat) =>
    modStep u p.1 k fun t => match t.ectx with | some c => { t with ectx := some (emrState s p.1 k c.slot) } | none => t) st) s1

/-- A running bank pauses at the boundary, unless its operation has had all its sclk (R306, R321). -/
def pauseBanks (s : State) : State :=
  (List.range 32).foldl (fun st n =>
    let done := match (bank st n).owner with
      | some (j, _, k) => (match job? st j, step? st j k with
        | some x, some t => (match stepWork st x k t with | some w => decide (w ≤ t.work) | none => false)
        | _, _ => false)
      | none => false
    if done then st else pauseBank st n) s

/-- Operations that commit when their last quantum is admitted (R131 to R140). -/
def commitsEarly (x : Job) (k : Nat) : Bool :=
  let op := (x.desc k).op
  let a := aesBlk (x.param k)
  if op = 0x61 ∨ op = 0x62 ∨ op = 0x10 ∨ op = 0x11 ∨ op = 0x12 ∨ op = 0x13 ∨ op = 0x30 ∨ op = 0x3E then true
  else if op = 0x14 ∨ op = 0x16 ∨ op = 0x19 ∨ op = 0x1A then !a.decrypt
  else isDigest op && !bitAt (pfield (x.param k) 4 1) 0

/-- Whether a step has reached its commit point. -/
def committedStep (s : State) (x : Job) (k : Nat) : Bool :=
  match x.steps[k]? with
  | some t =>
    t.committed || t.st == .ended || ((x.desc k).op == 0 && t.st == .run) ||
      ((x.desc k).op == 0x60 && (match t.gate with | .released _ => true | _ => false)) ||
      (t.st == .run && commitsEarly x k && (match stepWork s x k t with | some w => decide (w ≤ t.work) | none => false))
  | none => true

/-- Whether an entry has passed its commit point (R130): its highest step and every other step of that step's group have. -/
def committedJob (s : State) (x : Job) : Bool :=
  (x.group (x.leader (x.steps.length - 1))).all fun k => committedStep s x k && !(match x.steps[k]? with | some t => t.st == .idle | none => false)

/-- Whether a job came from a peer that has been lost since (R466). -/
def Job.orphan (x : Job) : Bool := match x.peer with | some p => p.lost | none => false

/-- Jobs of draining rings and of fallen units end at the boundary (R104, R150), and those of lost peers without an answer (R466). -/
def endAborting (s : State) : State :=
  s.jobs.foldl (fun st p => match job? st p.1 with
    | some x => if x.orphan then freeJob (abortJob st p.1) p.1 else if x.aborting && x.phase != .fin && !committedJob st x then abortJob st p.1 else st
    | none => st) s

/-- Whether an entry runs an operation in a bank that is LOADING or PAUSED: a drain stops it at once (R324). -/
def bankWaits (s : State) (x : Job) : Bool :=
  (List.range x.steps.length).any fun k => isArith (x.desc k).op && (match x.steps[k]? with
    | some t => t.st == .run && (match t.place with | some n => bankState s n == bkLOADING || bankState s n == bkPAUSED || bankState s n == bkWIPING | none => false)
    | none => false)

/-- Drained entries whose operation's bank is not RUNNING end at once (R324). -/
def endWaiting (s : State) : State :=
  s.jobs.foldl (fun st p => match job? st p.1 with
    | some x => if x.aborting && x.phase == .run && bankWaits st x && !committedJob st x then abortJob st p.1 else st
    | none => st) s

/-- Steps with a pinned context of a slot under revocation stop at the boundary unless they have committed (R242). -/
def endRevoked (s : State) : State :=
  let hit := fun (x : Job) (t : StepRun) => match t.key with
    | .ready c => s.kcc.revokes.any fun v => v.slot == c.slot && v.realm == x.realm
    | _ => false
  s.jobs.foldl (fun st p => (List.range p.2.steps.length).foldl (fun u k =>
    match p.2.steps[k]? with
    | some t => if t.st == .run && hit p.2 t && !committedStep s p.2 k then failStep u p.1 k { status := 8, detail := 0, loc := 0 } else u
    | none => u) st) s

/-! ### The boundary -/

/-- Whether a grant's step still takes it: the entry and the step are there, and its instance runs. -/
def grantLive (s : State) (g : Grant) : Bool :=
  (match job? s g.job with | some x => x.eid == g.eid | none => false) && stepRuns s g.job g.step &&
    (match g.kind with
      | .enc | .dec => laneLive s g.place
      | .sha | .keccak => enabled s (pEMR g.place)
      | .srg => (enArrays s).contains g.place
      | .spike => enabled s (pSPK g.place)
      | .swp => enabled s pTEF)

/-- A quantum of the plan comes to its instance, or goes back when its message finds no entry. -/
def seatGranted (s : State) (g : Grant) : State :=
  match seatOn s g with
  | some s1 => probeStamp (readJob s1 g.job) g.eid 4
  | none => noteNoCtx (ungrant s g.job g.step) s.plan.running g.place (jobCls s g.job)

/-- The plan's quanta take effect (R160): their work stands, and each comes to its instance in plan order. -/
def applyGrants (s : State) (gs : List Grant) : State :=
  let live := gs.filter (grantLive s)
  let s1 := { s with plan := { s.plan with running := s.plan.running ++ live } }
  live.foldl seatGranted (live.foldl addWork s1)

/-- Show the books of the tick that starts (R171, R187). -/
def showBooks (s : State) : State :=
  let b := pg pTCK
  let p := s.plan
  let v := fun (i : Nat) => p.books.getD i 0
  let s1 := if p.books.isEmpty then s else
    wr (wr (wr (wr (wr (wr (wr s b TCK.BOOK_CAPG.MGR (v 0).toNat) b TCK.BOOK_BASE.MGR (v 1).toNat) b TCK.BOOK_DYN.MGR (v 2).toNat)
      b TCK.BOOK_RESERVE.MGR (v 3).toNat) b TCK.BOOK_REPAY.MGR (v 4).toNat) b TCK.BOOK_GRANTED.MGR (v 5).toNat)
      b TCK.BOOK_CARRY.MGR (signedBits 32 (v 6))
  let der := decide (p.derate < 256)
  let was := flag s b TCK.STAT.DERATING
  let s2 := wr (wr s1 b TCK.DERATE.FACTOR p.derate) b TCK.DERATE.TMODEL (signedBits 12 p.model)
  let s3 := wr (wr (wr s2 b TCK.STAT.DERATING (bit der)) b TCK.STAT.FLOOR (bit (p.derate == rd s b TCK.LIMITS.FLOOR_FRAC)))
    b TCK.STAT.DEBT (bit (decide (v 6 < 0)))
  let s4 := if der && !was then setEvt s3 pTCK TCK.EVT.DERATE_START else s3
  let s5 := if der then pmu (inc s4 b TCK.DERATED_TICKS.COUNT) 0x16 0 1 else s4
  let s6 := if p.stop then inc s5 b TCK.TRIPPED_TICKS.COUNT else s5
  if p.ovrPlan ≠ p.ovr then setEvt { s6 with plan := { s6.plan with ovr := p.ovrPlan } } pTCK TCK.EVT.CAP_OVERRIDE else s6

/-- The thermal stop ends after 64 ticks below the release (R177). -/
def endStop (s : State) : State :=
  if s.plan.stop && decide (64 ≤ s.plan.cool) then
    let s1 := setEvt (wr { s with plan := { s.plan with stop := false } } (pg pTCK) TCK.STAT.TRIPPED 0) pTCK TCK.EVT.TRIP_END
    setSrc s1 (srcKey 3 0) { srcOf s1 (srcKey 3 0) with cls := 0 }
  else s

/-- The grants and books of a booked plan take effect: its quanta count, EXPRESS admissions excluded (R187). -/
def takePlan (s : State) : State :=
  let s1 := if enabled s pTCK then showBooks s else s
  let n := s1.plan.grants.length
  let s2 := if s1.plan.stop || !enabled s pTCK then s1
    else applyGrants (pmu (incBy s1 (pg pTCK) TCK.PLANNED_QUANTA.COUNT n) 0x0D 0 n) s1.plan.grants
  { s2 with plan := { s2.plan with grants := [], booked := false } }

/-- The weights and limits written for realm `r` are those in force (R75, R179). -/
def adoptRealm (s : State) (r : Nat) : State :=
  let put := fun (m : SMap Nat) (key : Nat) (f : Field) => match SMap.get? s.regs (fkey (rtB r) f) with | some v => SMap.set m key v | none => m
  let w := put (put s.plan.effWeight (r * 4 + 2) RT.WEIGHT.BULK_WEIGHT) (r * 4 + 3) RT.WEIGHT.BG_WEIGHT
  { s with plan := { s.plan with effWeight := w, effBins := put s.plan.effBins r RT.LIMITS.MAX_BINS, effSusp := put s.plan.effSusp r RT.LIMITS.MAX_SUSPEND } }

/-- Weights and limits of the realms from this boundary on. -/
def adoptLimits (s : State) : State := (List.range 1024).foldl adoptRealm s

/-- Gate timeouts count down (R146). -/
def tickGates (s : State) : State :=
  { s with gates := s.gates.map fun p => if gateState s p.1 = gARMED then (p.1, { p.2 with ticksLeft := p.2.ticksLeft - 1 }) else p }

/-- A tick opens with its reserve: waiting EXPRESS requests first, then the plan (R166, R183). -/
def openTick (s : State) (mgr : Nat) : State := takePlan (admitStanding (loadReserve s mgr))

/-- Whether the boundary is the switch boundary of a profile that the control processor has been ordered to take up (R183). -/
def switchComes (s : State) : Bool := s.plan.swOrder.isSome && (s.plan.swSeen || !enabled s pTCK) && cpServes s

/-- TICK_BOUNDARY: quanta end, what must stop stops, and the next tick opens; at a switch boundary it opens with the new profile. -/
def tickFx (s : State) : State :=
  let s1 := { inc (admitNew s) (pg pTCK) TCK.TICK_COUNT.COUNT with tickFc := s.fcNow }
  let s2 := pauseBanks (saveMessages (endQuanta s1))
  let s3 := endStop (endRevoked (endAborting s2))
  let s4 := starveTick ((List.range 8).foldl laneBoundary s3)
  let reserve := match s4.plan.books[3]? with | some r => r.toNat | none => rd s (pg pTCK) TCK.EXPRESS.GRAINS * 1000
  let s5 := if switchComes s4 then { s4 with plan := { s4.plan with swDue := true, swStamp := s4.rch.stamp } } else openTick s4 reserve
  adoptLimits (tickGates s5)

/-- TICK_BOUNDARY (R156, R165). -/
def execTickBoundary (s : State) : Out := .next (if s.phase = .cold then s else tickFx s)

/-! ### The planning window -/

/-- The planning window (R156, R176, R183, R338): sensors, mask seeds and the next plan; in the window before a switch boundary
no plan, and in the switch tick the plan for its rest, which takes effect at once. -/
def planFx (s : State) (rs : List SensorReading) : State :=
  if s.plan.switchTick then
    let s1 := takePlan (bookPlan { s with plan := { s.plan with runKc := planKc s } })
    { s1 with plan := { s1.plan with switchTick := false } }
  else
    let s1 := drawSeeds (heatFx s (rs.mapIdx fun i r => trimmed (s.plan.trims.getD i 0) r))
    if s1.plan.swOrder.isSome then { s1 with plan := { s1.plan with grants := [], booked := true, swSeen := true } }
    else bookPlan s1

/-- PLAN_BUILD (R178): once a tick, while TCK is ENABLED. -/
def execPlanBuild (s0 s1 s2 s3 s4 s5 s6 s7 : SensorReading) (s : State) : Out :=
  .next (if s.phase = .run && enabled s pTCK && !s.plan.booked then planFx s [s0, s1, s2, s3, s4, s5, s6, s7] else s)

/-! ### Gate timeouts and the cap override -/

/-- A gate whose step has waited its time out: the step ends GATE_TIMEOUT and the gate's token is dead (R146). -/
def gateTimeoutFx (s : State) (g : Nat) : State :=
  match (gatex s g).armed with
  | some (j, k) =>
    if gateState s g = gARMED ∧ (gatex s g).ticksLeft = 0 then
      failStep (killGate s g) j k { status := 0x30, detail := 1, loc := 0 }
    else s
  | none => s

/-- GATE_TIMEOUT (R146). -/
def execGateTimeout (gate : BitVec 12) (s : State) : Out := .next (if s.phase = .run then gateTimeoutFx s gate.toNat else s)

/-- The base draw of the floor check (R181): of the instances that are enabled or, of the lanes, that the profile enables. -/
def baseProfile (s : State) (kc splEn : Nat) : Nat :=
  let lanes := ((List.range 8).filter fun i => present s .spl i && (bitAt splEn i || enabled s (pSPL i))).length
  baseOf s kc lanes (enGroups s).length (enabledUnits s pSRG .srg 16).length (enSpikes s).length

/-- Whether a cap fails the floor check of R181. -/
def floorBad (s : State) (cap splEn : Nat) : Bool :=
  let kc := tickKc s
  let b := pg pTCK
  decide ((capgOf s cap kc - baseProfile s kc splEn) * rd s b TCK.LIMITS.FLOOR_FRAC / 256 < (rd s b TCK.EXPRESS.GRAINS + rd s b TCK.LIMITS.OVERDRAW_MAX) * 1000)

/-- A write to POWER_CAP (R182). -/
def overrideFx (s : State) (src v : Nat) : State :=
  let mw := bitsAt v 16 16
  let b := pg pTCK
  if mw = 0 then wr s b TCK.POWER_CAP.OVERRIDE_MW 0
  else if mw < s.part.capRange.1 ∨ rd s b TCK.POWER_CAP.PROFILE_MW < mw ∨ floorBad s mw s.cp.splEn then writeIgnored s 3 0 src (b + 0x44) 0x0314
  else wr s b TCK.POWER_CAP.OVERRIDE_MW mw

/-- OVERRIDE_MW_WRITE (R182). -/
def execOverrideMwWrite (src id : BitVec 8) (value : BitVec 32) (s : State) : Out :=
  .next (pageWrite s src.toNat id.toNat pTCK 0x44 fun st => overrideFx st src.toNat value.toNat)

end Sys2Proof.Machine
end

