-- ==== Sys2Proof/Machine/RingCmds.lean ====
section
/-! DEFINITION. The commands of the rings (R101 to R112): enabling, draining, resuming, interrupt vectors, stash windows,
doorbells, stash transfers, the scanner's slot, completions and returns. -/

namespace Sys2Proof.Machine

/-! ### Submission rings -/

/-- The checks of SQ_CTL.EN = 1, in order (R60, R107, R109): the reason code, 0 when accepted. -/
def sqChecks (s : State) (q : Nat) : Nat :=
  let p := sqPort s q
  let c := sqCq s q
  let lg := rd s (sqB q) SQ.CFG.LOG2_DEPTH
  let used := ((sqsOfCq s c).map (sqDepth s)).foldl (· + ·) 0
  let isX := flag s (sqB q) SQ.CFG.EXPRESS
  if !enabled s pRCH then 0x1504
  else if lg < 6 ∨ 16 < lg ∨ sqDepth s q ≤ rd s (sqB q) SQ.START.INDEX then 0x1505
  else if !portEn s p || rd s (cqB c) CQ.CFG.PORT != p then 0x1511
  else if !realmActive s (portRealm s p) then 0x1512
  else if cqState s c ≠ 1 then 0x1513
  else if cqDepth s c < used + sqDepth s q then 0x1514
  else if 64 ≤ (sqsOfCq s c).length then 0x1515
  else if isX && decide (64 ≤ ((liveSqs s).filter fun x => flag s (sqB x) SQ.CFG.EXPRESS).length) then 0x1516
  else if rd s (ptB p) PT.LIMITS.MAX_SQ ≤ (sqsOfPort s p).length then 0x1517
  else 0

/-- SQ_CTL.EN = 1 in DISABLED (R101). -/
def sqEnableFx (s : State) (q : Nat) : State :=
  let code := sqChecks s q
  let s0 := wr s (sqB q) SQ.CHK.REASON code
  if code ≠ 0 then setEvt (wr s0 (sqB q) SQ.CTL.EN 0) pRCH RCH.EVT.RING_CHK
  else
    let i := rd s (sqB q) SQ.START.INDEX
    let s1 := wr (wr (wr s0 (sqB q) SQ.CTL.EN 1) (sqB q) SQ.STAT.STATE 1) (sqB q) SQ.STAT.CURSOR i
    let s2 := wr (wr (wr s1 (sqB q) SQ.POS.OLDEST i) (sqB q) SQ.INFLIGHT.ENTRIES 0) (sqB q) SQ.STAT.SCAN_PENDING 0
    setSqx (wr (wr s2 (sqB q) SQ.STAT.BATCH_OPEN 0) (sqB q) SQ.STAT.FULL 0) q freshSq

/-- SQ_CTL.EN = 0 in ACTIVE or STOPPED_ERROR (R104): the batch closes, the parked visit ends, entries not yet dispatched
complete ABORTED, running entries short of their commit point are marked to stop at the next quantum boundary, those of a waiting bank end at
once (R324), and stuck entries are given back. -/
def sqDrainFx (s : State) (q : Nat) : State :=
  let s1 := wr (wr (wr s (sqB q) SQ.CTL.EN 0) (sqB q) SQ.STAT.STATE 3) (sqB q) SQ.STAT.SCAN_PENDING 0
  let s2 := modSqx (closeBatch s1 q) q fun x => { x with park := none }
  let mine := s2.rch.dq.filter fun d => d.sq == q && d.peer.isNone
  let s3 := { s2 with rch := { s2.rch with dq := s2.rch.dq.filter fun d => !(d.sq == q && d.peer.isNone) } }
  let s4 := mine.foldl (fun st d => finishEntry st q d.eid d.index (leNat (slice d.bytes 4 4))
    { status := 0x18, detail := 0, loc := 0 } 0 [] false []) s3
  let s5 := { s4 with jobs := s4.jobs.map fun p => if p.2.sq == q && p.2.peer.isNone then (p.1, { p.2 with aborting := true }) else p }
  endWaiting (settleAll (abortForwarded s5 q) q)

/-- SQ_CTL.RESUME in a ring state (R103). -/
def sqResumeFx (s : State) (q : Nat) : State :=
  if sqState s q ≠ 2 then s
  else if cqState s (sqCq s q) ≠ 1 then wr s (sqB q) SQ.CHK.REASON 0x1513
  else
    let s1 := settleAll (modSqx s q fun x =>
      { x with ents := x.ents.map fun e => if e.st = .stuck then { e with st := .gift } else e }) q
    let d := sqDepth s q
    let start := if (sqx s q).haltDone then (rd s (sqB q) SQ.ERR.INDEX + 1) % d else rd s (sqB q) SQ.STAT.CURSOR
    let i := rd s (sqB q) SQ.START.RESUME_INDEX
    let room := (rd s1 (sqB q) SQ.POS.OLDEST + d - start) % d
    let skip := (i + d - start) % d
    if d ≤ i ∨ (¬ (sqx s1 q).ents.isEmpty ∧ room ≤ skip) then wr s1 (sqB q) SQ.CHK.REASON 0x151A
    else
      let s2 := wr (wr (wr s1 (sqB q) SQ.STAT.STATE 1) (sqB q) SQ.STAT.CURSOR i) (sqB q) SQ.CHK.REASON 0
      let s3 := wr (wr s2 (sqB q) SQ.ERR.INDEX 0) (sqB q) SQ.ERR.DETAIL 0
      let gap := fun (x : SqX) =>
        if skip = 0 then x
        else { x with span := x.span + skip, ents := x.ents ++ [{ eid := s.rch.nextEid, index := start, units := skip, skip := true, st := .gift, express := false }] }
      let s4 := modSqx { s3 with rch := { s3.rch with nextEid := s3.rch.nextEid + 1 } } q fun x =>
        { gap x with dbInHalt := false, haltDone := false }
      settleAll s4 q

/-- A write to SQ_CTL (R101, R107): BATCH_MAX, then EN, then RESUME; a disable wins over a resume (R112). -/
def sqCtlFx (s : State) (q v : Nat) : State :=
  let bm := v / 65536 % 65536
  let s0 := wr s (sqB q) SQ.CTL.BATCH_MAX (if bm = 0 then 64 else bm)
  let st := sqState s q
  if bitAt v 0 then
    if st = 0 then sqEnableFx s0 q else if bitAt v 1 then sqResumeFx s0 q else s0
  else if st = 1 ∨ st = 2 then sqDrainFx s0 q
  else s0

/-- Whether a DRAINING ring has drained (R101): nothing in flight, every completion and returning write answered. -/
def sqDrained (s : State) (q : Nat) : Bool :=
  sqState s q == 3 && rd s (sqB q) SQ.INFLIGHT.ENTRIES == 0 && (sqx s q).ents.isEmpty
    && s.rch.compls.all fun c => c.sq != q

/-- A drained ring becomes DISABLED; a DISABLING Rachis follows its last ring (R101, R109). -/
def sqDrainDoneFx (s : State) (q : Nat) : State :=
  let s1 := wr s (sqB q) SQ.STAT.STATE 0
  if ustate s pRCH = 3 ∧ (liveSqs s1).isEmpty then setUstate s1 pRCH 0 else s1

/-! ### Completion rings -/

/-- The checks of CQ_CTL.EN = 1 (R108, R109). -/
def cqChecks (s : State) (c : Nat) : Nat :=
  let p := rd s (cqB c) CQ.CFG.PORT
  let lg := rd s (cqB c) CQ.CFG.LOG2_DEPTH
  let v := rd s (cqB c) CQ.CFG.VECTOR
  let vb := rd s (ptB p) PT.MSI.VEC_BASE
  if !enabled s pRCH then 0x1504
  else if lg < 6 ∨ 16 < lg then 0x1505
  else if !portEn s p then 0x1511
  else if rd s (ptB p) PT.LIMITS.MAX_CQ ≤ (cqsOfPort s p).length then 0x1517
  else if flag s (cqB c) CQ.CFG.VEC_EN && !decide (vb ≤ v ∧ v < vb + rd s (ptB p) PT.MSI.VEC_COUNT) then 0x1518
  else 0

/-- CQ_CTL.EN = 1 in DISABLED (R105, R108). -/
def cqEnableFx (s : State) (c : Nat) : State :=
  let code := cqChecks s c
  let s0 := wr s (cqB c) CQ.SEQ.CHK code
  if code ≠ 0 then setEvt (wr s0 (cqB c) CQ.CTL.EN 0) pRCH RCH.EVT.RING_CHK
  else
    let s1 := wr (wr (wr s0 (cqB c) CQ.CTL.EN 1) (cqB c) CQ.STAT.STATE 1) (cqB c) CQ.STAT.TAIL 0
    { s1 with rch := { s1.rch with cqsOn := c :: s1.rch.cqsOn } }

/-- CQ_CTL.EN = 0 in ACTIVE or FAULTED (R105). -/
def cqDisableFx (s : State) (c : Nat) : State :=
  if (sqsOfCq s c).isEmpty then
    let s1 := wr (wr (wr s (cqB c) CQ.CTL.EN 0) (cqB c) CQ.STAT.STATE 0) (cqB c) CQ.SEQ.CHK 0
    { s1 with rch := { s1.rch with cqsOn := s1.rch.cqsOn.filter (· != c) } }
  else wr s (cqB c) CQ.SEQ.CHK 0x1519

/-- A write to CQ_CTL. -/
def cqCtlFx (s : State) (c v : Nat) : State :=
  if bitAt v 0 then (if cqState s c = 0 then cqEnableFx s c else s)
  else if cqState s c = 0 then s else cqDisableFx s c

/-- A 32-bit write to a word of an SQ table entry. -/
def sqStore (s : State) (src q off v : Nat) : State :=
  if off = 0xC then sqCtlFx s q v
  else storeWord s (sqB q) (sqB q + off) v (sqState s q == 0) (src == 0) SQ.fields

/-- A 32-bit write to a word of a CQ table entry. -/
def cqStore (s : State) (src c off v : Nat) : State :=
  if off = 0xC then cqCtlFx s c v
  else storeWord s (cqB c) (cqB c + off) v (cqState s c == 0) (src == 0) CQ.fields

/-! ### Vectors and stash windows (R41, R110) -/

/-- VEC_CTL of the vector in VEC_SEL: ERR is W1C, and an unmask sends a pending message. -/
def vecCtlFx (s : State) (v : Nat) : State :=
  let n := rd s (pg pRCH) RCH.VEC_SEL.VECTOR
  let x := vec s n
  sendPending (setVec s n { x with mask := bitAt v 0, err := x.err && !bitAt v 3 }) n

/-- The address and data words of the vector in VEC_SEL (R110). -/
def vecWordFx (s : State) (off v : Nat) : State :=
  let n := rd s (pg pRCH) RCH.VEC_SEL.VECTOR
  let x := vec s n
  setVec s n (if off = 0x84 then { x with addr := x.addr / 2 ^ 32 * 2 ^ 32 + v / 4 * 4 }
    else if off = 0x88 then { x with addr := x.addr % 2 ^ 32 + v % 65536 * 2 ^ 32 } else { x with data := v })

def stwBase (s : State) (n : Nat) : Nat :=
  rd s (pg pRCH) (RCH.STW_BASE_LO.BASE.at n) * 65536 + rd s (pg pRCH) (RCH.STW_BASE_HI.BASE.at n) * 2 ^ 32

/-- Whether an SQ that is not DISABLED lies in the range of `2^k` bytes at `a`. -/
def sqInside (s : State) (a k : Nat) : Bool :=
  (liveSqs s).any fun q => decide (sqBase s q < a + 2 ^ k ∧ a < sqBase s q + 64 * sqDepth s q)

/-- STW_SIZE[n] (R38, R110): a refused change of EN leaves EN alone, and LOG2_SIZE has its own condition: a write
refused with 0x1506 or 0x1519 still stores its LOG2_SIZE (DESIGN CHOICE, log entry 15). -/
def stwSizeFx (s : State) (src n v : Nat) : State :=
  let b := pg pRCH
  let k := v % 64
  let en := bitAt v 31
  let cur := flag s b (RCH.STW_SIZE.EN.at n)
  let size := if cur then rd s b (RCH.STW_SIZE.LOG2_SIZE.at n) else k
  let ign := fun (t : State) (r : Nat) => writeIgnored t 0x15 0 src (b + 0x108 + 16 * n) r
  let sized := wr s b (RCH.STW_SIZE.LOG2_SIZE.at n) size
  if k < 16 ∨ 36 < k then ign s 0x1505
  else if en != cur && sqInside s (stwBase s n) size then ign sized 0x1519
  else if en && !cur && stwBase s n % 2 ^ k != 0 then ign sized 0x1506
  else wr sized b (RCH.STW_SIZE.EN.at n) (bit en)

/-- A 32-bit write to a word of the RCH page beyond the common header. -/
def rchStore (s : State) (src off v : Nat) : State :=
  if off = 0x90 then vecCtlFx s v
  else if off = 0x84 ∨ off = 0x88 ∨ off = 0x8C then vecWordFx s off v
  else if 0x100 ≤ off ∧ off < 0x200 then
    let n := (off - 0x100) / 16
    if off % 16 = 8 then stwSizeFx s src n v
    else if flag s (pg pRCH) (RCH.STW_SIZE.EN.at n) then s
    else storePage s src pRCH off v
  else storePage s src pRCH off v

/-! ### The commands -/

/-- DOORBELL (R71, R82): a write of either size to a doorbell slot; its data is ignored. -/
def execDoorbell (src id : BitVec 8) (wide : Bool) (page : BitVec 8) (slot : BitVec 9) (s : State) : Out :=
  .next (tqWrite s { src := src.toNat, id := id.toNat, wide, addr := 0x300000 + page.toNat * 4096 + slot.toNat * 8 } fun st =>
    doorbellFx st page.toNat slot.toNat)

/-- Whether the stash channel is listened to: no reset asserted. -/
def running (s : State) : Bool := s.phase == .run

/-- STASH_COPY (R40, R84). -/
def execStashCopy (line : BitVec 42) (data : BitVec 512) (be : BitVec 64) (port : BitVec 8) (s : State) : Out :=
  .next (if running s then stashCopyFx s (line.toNat * 64) (beatBytes data) be.toNat port.toNat else s)

/-- STASH_INVAL (R40, R84). -/
def execStashInval (line : BitVec 42) (s : State) : Out :=
  .next (if running s && stashOn s then stashDrop s (line.toNat * 64) else s)

/-- PP_DB_MAP_WRITE (R70). -/
def execPpDbMapWrite (src id port : BitVec 8) (slot : BitVec 9) (value : BitVec 32) (s : State) : Out :=
  .next (entryWrite s src.toNat id.toNat .pp port.toNat (0x800 + 4 * slot.toNat) false fun st =>
    dbMapFx st src.toNat port.toNat slot.toNat value.toNat)

/-- PT_CTL_WRITE (R72). -/
def execPtCtlWrite (src id port : BitVec 8) (value : BitVec 32) (s : State) : Out :=
  .next (entryWrite s src.toNat id.toNat .pt port.toNat 0 false fun st => ptCtlFx st src.toNat port.toNat value.toNat)

/-- PT_MSI_WRITE (R73). -/
def execPtMsiWrite (src id port : BitVec 8) (value : BitVec 32) (s : State) : Out :=
  .next (entryWrite s src.toNat id.toNat .pt port.toNat 8 false fun st => ptMsiFx st port.toNat value.toNat)

/-- SQ_ENABLE (R101, R107): SQ_CTL written with EN = 1. -/
def execSqEnable (src id : BitVec 8) (sq : BitVec 13) (ctl : BitVec 32) (s : State) : Out :=
  .next (entryWrite s src.toNat id.toNat .sq sq.toNat 0xC false fun st => sqCtlFx st sq.toNat (setBit ctl.toNat 0))

/-- SQ_DISABLE (R104): SQ_CTL written with EN = 0. -/
def execSqDisable (src id : BitVec 8) (sq : BitVec 13) (ctl : BitVec 32) (s : State) : Out :=
  .next (entryWrite s src.toNat id.toNat .sq sq.toNat 0xC false fun st => sqCtlFx st sq.toNat (clearBit ctl.toNat 0))

/-- SQ_RESUME (R103): SQ_CTL written with EN = 1 and RESUME = 1. -/
def execSqResume (src id : BitVec 8) (sq : BitVec 13) (ctl : BitVec 32) (s : State) : Out :=
  .next (entryWrite s src.toNat id.toNat .sq sq.toNat 0xC false fun st => sqCtlFx st sq.toNat (setBit (setBit ctl.toNat 0) 1))

/-- SQ_DRAIN_DONE (R101). -/
def execSqDrainDone (sq : BitVec 13) (s : State) : Out :=
  .next (if running s && sqDrained s sq.toNat then sqDrainDoneFx s sq.toNat else s)

/-- CQ_ENABLE (R108): CQ_CTL written with EN = 1. -/
def execCqEnable (src id : BitVec 8) (cq : BitVec 13) (ctl : BitVec 32) (s : State) : Out :=
  .next (entryWrite s src.toNat id.toNat .cq cq.toNat 0xC false fun st => cqCtlFx st cq.toNat (setBit ctl.toNat 0))

/-- CQ_DISABLE (R105): CQ_CTL written with EN = 0. -/
def execCqDisable (src id : BitVec 8) (cq : BitVec 13) (ctl : BitVec 32) (s : State) : Out :=
  .next (entryWrite s src.toNat id.toNat .cq cq.toNat 0xC false fun st => cqCtlFx st cq.toNat (clearBit ctl.toNat 0))

/-- VEC_CTL_WRITE (R41, R110). -/
def execVecCtlWrite (src id : BitVec 8) (value : BitVec 32) (s : State) : Out :=
  .next (pageWrite s src.toNat id.toNat pRCH 0x90 fun st => vecCtlFx st value.toNat)

/-- STW_SIZE_WRITE (R110). -/
def execStwSizeWrite (src id : BitVec 8) (n : BitVec 4) (value : BitVec 32) (s : State) : Out :=
  .next (pageWrite s src.toNat id.toNat pRCH (0x108 + 16 * n.toNat) fun st => stwSizeFx st src.toNat n.toNat value.toNat)

/-- SCAN_VISIT (R83, R86). -/
def execScanVisit (s : State) : Out := .next (scanFx s)

/-- The completions that can go out, oldest first: not presented, and every output write behind them answered (R26). -/
def dueCompls (s : State) : List Compl := s.rch.compls.filter fun c => !c.posted && outsDone s c

/-- The completion that goes out next: one of an EXPRESS-class entry first (R267), otherwise the oldest. -/
def dueCompl (s : State) : Option Compl := ((dueCompls s).find? (·.express)).or (dueCompls s).head?

/-- Present a completion of an ACTIVE CQ, with those behind it that share its last line (R96). -/
def presentCompl (s : State) (c : Compl) : State :=
  let others := (dueCompls s).filter fun d => d.cq == c.cq && d.cid != c.cid
  postCompls s c.cq (complRun (rd s (cqB c.cq) CQ.STAT.TAIL) (c :: others))

/-- COMPLETION_WRITE (R26, R96, R105): presented, or discarded when its CQ is FAULTED. -/
def execCompletionWrite (s : State) : Out :=
  .next (if running s then
    match dueCompl s with
    | some c => if cqState s c.cq = 1 then presentCompl s c else discardCompl s c
    | none => s
  else s)

/-- SQ_RETURN (R90). -/
def execSqReturn (sq : BitVec 13) (s : State) : Out := .next (if running s then returnDue s sq.toNat else s)

end Sys2Proof.Machine
end

