-- ==== Sys2Proof/Machine/Granary.lean ====
section
/-! DEFINITION. The Granary (R374 to R400): the medium and its rows, programs and retirement, clock checkpoints, the staging of
event records, flushes, the start-up scan and the log as its windows see it. -/

namespace Sys2Proof.Machine

/-! ### The medium (R374, R375, R380) -/

/-- The partition of a row, in the order of R374. -/
def partOf (n : Nat) : Nat :=
  if n < 32768 then 0 else if n < 36864 then 1 else if n < 40960 then 2 else if n < 65536 then 3 else if n < 98304 then 4
  else if n < 102400 then 5 else if n < 106496 then 6 else 7

/-- The bank of a row. -/
def bankOf (n : Nat) : Nat := n / 65536

/-- The row of log row `r` (R393). -/
def logRow (r : Nat) : Nat := if r < 24576 then 40960 + r else 106496 + (r - 24576)

/-- The log row at a row of the log's partitions. -/
def logIndex (n : Nat) : Nat := if n < 65536 then n - 40960 else n - 106496 + 24576

/-- Rows of SPARES (R383). -/
def clockRow (j : Nat) : Nat := 102400 + j / 4
def remapRow (copy i : Nat) : Nat := 102400 + 64 + 400 * copy + i / 8
def spareRow (i : Nat) : Nat := 102400 + 864 + i

/-- An erased row. -/
def erasedRow : Row := { data := List.replicate 64 0xFF, flagged := 0 }

/-- A row of the medium, wherever a mapping puts it. -/
def rowAt (s : State) (n : Nat) : Row := SMap.getD s.grn.rows n erasedRow

/-- The state with a row of the medium replaced; erased rows are not listed. -/
def setRow (s : State) (n : Nat) (r : Row) : State :=
  { s with grn := { s.grn with rows := if r = erasedRow then SMap.erase s.grn.rows n else SMap.set s.grn.rows n r } }

/-- Where a row stands: in its spare once it is mapped (R383). -/
def physRow (s : State) (n : Nat) : Nat :=
  if partOf n = 6 then n else match SMap.get? s.grn.remap n with | some i => spareRow i | none => n

/-- A row as reads see it. -/
def readRow (s : State) (n : Nat) : Row := rowAt s (physRow s n)

/-- Word `k` of a row. -/
def Row.word (r : Row) (k : Nat) : Nat := leNat (slice r.data (8 * k) 8)

/-- A row after a program of the words in a mask. -/
def progRow (old : Row) (mask : Nat) (data : Bytes) : Row :=
  { data := (List.range 8).flatMap fun k => slice (if bitAt mask k then data else old.data) (8 * k) 8, flagged := old.flagged &&& (255 - mask % 256) }

/-- A row whose program was cut by a loss of supply or a reset: every enabled word reads old, new or flagged (R380). -/
def tearRow (s : State) (n mask : Nat) (data : Bytes) : State :=
  let old := rowAt s n
  let new := progRow old mask data
  let pick := fun (k : Nat) =>
    if !bitAt mask k || (new.word k == old.word k && !bitAt old.flagged k) then 0 else Config.tornWord (s.freeCtr + k)
  let d := (List.range 8).flatMap fun k => slice (if pick k = 1 then new.data else old.data) (8 * k) 8
  let f := (List.range 8).foldl (fun m k => if pick k = 0 then m else if pick k = 1 then clearBit m k else setBit m k) old.flagged
  setRow { s with freeCtr := s.freeCtr + 8 } n { data := d, flagged := f }

/-- A row whose program of the words in `mask` failed: their content is undefined (R385), and words not enabled keep theirs (R376). -/
def spoilRow (s : State) (n mask : Nat) : State :=
  let v := (Config.failedRow s.freeCtr).toNat
  let r := progRow (rowAt s n) mask (natLe 64 v)
  setRow { s with freeCtr := s.freeCtr + 1 } n { r with flagged := r.flagged ||| (v / 2 ^ 512 &&& mask) }

/-- A read finds flagged words (R386): counted, and reported with the requester's unit ID. -/
def noteFlagged (s : State) (n unit : Nat) : State :=
  let r := readRow s n
  if r.flagged = 0 then s
  else chaff (incBy s (pg pGRN) GRN.ECC_UNCORR.COUNT (popCount 8 r.flagged))
    { unit := 5, member := bankOf n, kind := 0xA04, access := 7, port := unit, addr := 64 * n, detail := anyDetail 0xA04 }

/-! ### Checks (R387, R389) -/

/-- `n` steps of the CRC-8 of polynomial 0x07. -/
def crc8Step : Nat → Nat → Nat
  | 0, c => c
  | n + 1, c => crc8Step n (if 128 ≤ c then c * 2 % 256 ^^^ 7 else c * 2)

/-- The CRC-8 of R355. -/
def crc8 (bs : Bytes) : Nat := bs.foldl (fun c b => crc8Step 8 (c ^^^ b.toNat)) 0

/-- Whether SEQ `a` comes before `b` (R392). -/
def seqBefore (a b : Nat) : Bool :=
  let d := (b + 2 ^ 32 - a % 2 ^ 32) % 2 ^ 32
  decide (1 ≤ d ∧ d < 2 ^ 31)

/-! ### Programs (R376 to R379) -/

/-- Whether the power-fail state refuses programs (R396). -/
def pfRefuse (s : State) : Bool := flag s (pg pGRN) GRN.STAT.PF_REFUSE

/-- Whether a power-fail flush runs. -/
def pfFlush (s : State) : Bool := match s.grn.flush with | some f => f.kind == 3 | none => false

/-- Whether a use belongs to the power-fail flush. -/
def pfOwn (s : State) (u : ProgUse) : Bool := match u with | .log _ _ => pfFlush s | .checkpoint pf => pf | _ => false

/-- Whether a bank or a partition is read-only (R385, R386). -/
def bankRo (s : State) (b : Nat) : Bool := flag s (pg pGRN) (if b = 0 then GRN.BANK_STAT.B0_RO else GRN.BANK_STAT.B1_RO)
def partRo (s : State) (n : Nat) : Bool := bitAt (rd s (pg pGRN) GRN.PART_STAT.READ_ONLY) (partOf n)

/-- Whether a requester may program a partition (R377): the CP all but the log and SPARES, Glume those it erases, the log sequencer the
log, and the Granary sequencer SPARES and the rows it refreshes. -/
def mayProgram (u : ProgUse) (part : Nat) : Bool :=
  match u with
  | .cp _ => [0, 1, 2, 4, 5].contains part
  | .glume _ => [1, 2, 5].contains part
  | .log _ _ => [3, 7].contains part
  | .checkpoint _ | .retire _ _ _ _ _ _ => part == 6
  | .refresh => true

/-- The reason code that refuses a program of a row, 0 when it is accepted. -/
def progReason (s : State) (u : ProgUse) (n : Nat) : Nat :=
  let held := match u with | .cp _ | .glume _ => flag s (pg pGRN) GRN.STAT.EXEC_BANK0 && bankOf n == 0 | _ => false
  if !mayProgram u (partOf n) then 0x0514
  else if pfRefuse s && !pfOwn s u then 0x0513
  else if held then 0x0510
  else if bankRo s (bankOf n) then 0x0512
  else if partRo s n then 0x0511
  else 0

/-- Whether a queued program can start now (R379). -/
def progRuns (s : State) (p : Prog) : Bool :=
  !(flag s (pg pGRN) GRN.STAT.EXEC_BANK0 && bankOf p.row == 0 && (match p.use with
    | .refresh | .retire _ _ _ _ _ _ => true | .log _ _ => decide (1 < p.level) | _ => false))

def setBusy (s : State) (b : Nat) (v : Bool) : State :=
  wr s (pg pGRN) (if b = 0 then GRN.BANK_STAT.B0_BUSY else GRN.BANK_STAT.B1_BUSY) (bit v)

def setGrn (s : State) (g : Granary) : State := { s with grn := g }

/-- The SEQ of a staged record. -/
def recSeq (r : LogRec) : Nat := leNat (slice r.bytes 0 4)

/-- Mark the staged records of a log row. -/
def markRecs (s : State) (seqs : List Nat) (f : LogRec → LogRec) : State :=
  setGrn s { s.grn with staged := s.grn.staged.map fun r => if seqs.contains (recSeq r) then f r else r }

/-- Start the next program of an idle bank, by precedence and then by age (R378). -/
def pumpBank (s : State) (b : Nat) : State :=
  if flag s (pg pGRN) GRN.STAT.SCAN || (SMap.get? s.grn.cur b).isSome then s
  else match [1, 2, 3, 4, 5, 6, 7].findSome? fun l =>
      s.grn.queue.find? fun p => p.level == l && bankOf p.row == b && progRuns s p with
    | none => s
    | some p =>
      let s1 := setBusy (setGrn s { s.grn with queue := s.grn.queue.erase p, cur := SMap.set s.grn.cur b p }) b true
      match p.use with
      | .log _ seqs => markRecs s1 seqs fun r => { r with started := true }
      | _ => s1

/-- Queue a program. -/
def queueProg (s : State) (p : Prog) : State := pumpBank (setGrn s { s.grn with queue := s.grn.queue ++ [p] }) (bankOf p.row)

/-- A program of row `n`, accepted or refused with its reason code. -/
def submitProg (s : State) (u : ProgUse) (n mask : Nat) (data : Bytes) (level : Nat) : State × Nat :=
  let e := progReason s u n
  if e = 0 then (queueProg s { use := u, row := n, mask, data, level, attempts := 0, held := none }, 0) else (s, e)

/-! ### Checkpoints and flushes (R387, R394) -/

def opSeconds (s : State) : Nat := rd s (pg pGRN) GRN.OP_SECONDS.SECONDS
def seqNext (s : State) : Nat := rd s (pg pGRN) GRN.SEQ_NEXT.SEQ
def powerCycles (s : State) : Nat := rd s (pg pGRN) GRN.POWER_CYCLES.COUNT

/-- The two words of a checkpoint of the values now. -/
def ckptBytes (s : State) (pf : Bool) : Bytes :=
  let a := natLe 4 (opSeconds s) ++ natLe 3 (powerCycles s) ++ [byteOf (bit pf)]
  let b := natLe 4 (seqNext s) ++ zeros 3
  a ++ b ++ [byteOf (crc8 (a ++ b))]

/-- Write a checkpoint into the slot after the newest one. -/
def checkpoint (s : State) (pf : Bool) : State :=
  let j := s.grn.ckptSlot
  let r := submitProg s (.checkpoint pf) (clockRow j) (3 * 4 ^ (j % 4)) (zeros (16 * (j % 4)) ++ ckptBytes s pf ++ zeros (48 - 16 * (j % 4))) (if pf then 1 else 6)
  if r.2 = 0 then setGrn r.1 { r.1.grn with ckptSlot := (j + 1) % 256, ckptAt := opSeconds s }
  else setGrn s { s.grn with clearing := 0 }

/-- The records not flushed. -/
def unflushed (s : State) : List LogRec := s.grn.staged.filter fun r => !r.flushed

/-- Start a flush, or extend the one that runs, at the stricter of the two priorities (R394). -/
def startFlush (s : State) (kind : Nat) : State :=
  let cov := (unflushed s).map recSeq
  let was := match s.grn.flush with | some f => f.kind | none => 0
  let row := match s.grn.flush with | some f => f.rowFc | none => 0
  let s1 := if kind ≠ 0 ∧ was = 0 then inc s (pg pGRN) GRN.FLUSHES_FORCED.COUNT else s
  wr (setGrn s1 { s1.grn with flush := some { kind := max was kind, covers := cov, rowFc := row } }) (pg pGRN) GRN.STAT.FLUSHING 1

/-- Whether the log row at the head cannot be written. -/
def logRo (s : State) : Bool := let n := logRow (s.grn.head / 2); bankRo s (bankOf n) || partRo s n

/-- The level of a flush's programs (R378). -/
def flushLevel (kind : Nat) : Nat := if kind = 0 then 7 else if kind = 1 then 2 else 1

/-- Whether a program of the log waits or runs. -/
def logBusy (s : State) : Bool :=
  let isLog := fun (u : ProgUse) => match u with | .log _ _ => true | _ => false
  let mine := fun (p : Prog) => isLog p.use || (match p.held with | some u => isLog u | none => false)
  s.grn.queue.any mine || s.grn.cur.any fun p => mine p.2

/-- Present the next log row of the running flush (R393). -/
def flushRow (s : State) : State :=
  match s.grn.flush with
  | none => s
  | some f =>
    let h := s.grn.head
    let todo := (unflushed s).filter fun r => f.covers.contains (recSeq r)
    let rs := todo.take (2 - h % 2)
    if rs.isEmpty || logBusy s || s.grn.clearing != 0 || logRo s || (f.kind == 0 && decide (s.fcNow < f.rowFc + 65536) && f.rowFc != 0) then s
    else
      let n := logRow (h / 2)
      let old := (readRow s n).data
      let body := rs.flatMap (·.bytes)
      let d := if h % 2 = 1 then old.take 32 ++ body else body ++ List.replicate (64 - body.length) 0xFF
      let r := submitProg s (.log (h / 2) (rs.map recSeq)) n 255 d (flushLevel f.kind)
      if r.2 = 0 then setGrn r.1 { r.1.grn with flush := some { f with rowFc := s.fcNow } } else s

/-! ### Spares and remap entries (R383, R384) -/

/-- Word `i` of a remap copy: none when erased, and otherwise whether its complement check holds, with its value (R383). -/
def remapAt (s : State) (c i : Nat) : Option (Bool × Nat) :=
  let r := rowAt s (remapRow c i)
  let w := r.word (i % 8)
  if bitAt r.flagged (i % 8) then some (false, 0)
  else if w = 2 ^ 64 - 1 then none
  else some (w / 2 ^ 32 == 2 ^ 32 - 1 - w % 2 ^ 32, w)

/-- The value of entry `i`: of copy A when both are valid (R383). -/
def remapEntry (s : State) (i : Nat) : Option Nat :=
  match remapAt s 0 i, remapAt s 1 i with | some (true, w), _ => some w | _, some (true, w) => some w | _, _ => none

/-- The entries that a remap row of either copy can hold. -/
def remapUsed (s : State) : List Nat :=
  let rs := (s.grn.rows.map (·.1)).filterMap fun n => if 102464 ≤ n ∧ n < 103264 then some ((n - 102464) % 400) else none
  ((List.range 400).filter rs.contains).flatMap fun r => (List.range 8).map (8 * r + ·)

/-- The spares and entries of the retirements in progress. -/
def retiring (s : State) : List (Nat × Nat) :=
  (s.grn.queue ++ s.grn.cur.map (·.2)).filterMap fun p => match p.use with | .retire _ i e _ _ _ => some (i, e) | _ => none

/-- The remap indices used: those of which a copy holds a valid or flagged word, and those of the retirements in progress (R384). -/
def entriesUsed (s : State) : List Nat :=
  let flagged := fun (c i : Nat) => bitAt (rowAt s (remapRow c i)).flagged (i % 8)
  let l := (remapUsed s).filter fun i => (remapEntry s i).isSome || flagged 0 i || flagged 1 i
  l ++ ((retiring s).map (·.2)).filter fun e => !l.contains e

/-- The next free spare index: one above the highest SPARE in a valid entry or in a retirement in progress (R384). -/
def nextSpare (s : State) : Nat :=
  let l := (remapUsed s).filterMap fun i => (remapEntry s i).map fun w => bitsAt w 17 12 + 1
  (l ++ (retiring s).map fun (p : Nat × Nat) => p.1 + 1).foldl max 0

/-- The first free entry index at or above `least` (R384). -/
def freeEntry (s : State) (least : Nat) : Nat :=
  let l := entriesUsed s
  ((List.range 3200).find? fun i => decide (least ≤ i) && !l.contains i).getD 3200

/-- SPARE_STAT follows the medium and the retirements in progress (R402). -/
def showSpares (s : State) : State :=
  let b := pg pGRN
  wr (wr s b GRN.SPARE_STAT.USED (nextSpare s)) b GRN.SPARE_STAT.ENTRIES (min (entriesUsed s).length 3200)

/-- Rebuild the mapping and its counts: a row is mapped to the SPARE of its valid entry with the highest index (R383). -/
def scanRemap (s : State) : State :=
  showSpares ((remapUsed s).foldl (fun st i => match remapEntry st i with
    | some w => setGrn st { st.grn with remap := SMap.set st.grn.remap (w % 2 ^ 17) (bitsAt w 17 12) }
    | none => st) (setGrn s { s.grn with remap := [] }))

/-! ### The end of programs and retirement (R382 to R386) -/

/-- The unit that asked for a program. -/
def progUnit : ProgUse → Nat
  | .cp _ => 2
  | .glume _ => 6
  | _ => 5

/-- A requester learns how its program ended: 0 or a reason code. -/
def progEnded (s : State) (u : ProgUse) (n e : Nat) : State :=
  match u with
  | .log row seqs =>
    if e = 0 then
      let s1 := markRecs s seqs fun r => { r with flushed := true }
      setGrn s1 { s1.grn with head := (s1.grn.head + seqs.length) % 98304 }
    else if e = 0x0515 then
      let s1 := markRecs s seqs fun r => { r with started := false }
      setGrn s1 { s1.grn with head := 2 * (row + 1) % 98304 }
    else markRecs s seqs fun r => { r with started := false }
  | .checkpoint pf =>
    if e ≠ 0 then (if e = 0x0515 then checkpoint s pf else setGrn s { s.grn with clearing := 0 })
    else if s.grn.clearing = 2 then startFlush (setGrn s { s.grn with clearing := 0 }) 1
    else s
  | .glume left =>
    let going := match s.glm.trans with | some t => t.result.isNone | none => false
    if e ≠ 0 then { s with glm := { s.glm with trans := s.glm.trans.map fun t => { t with result := some 0x0616 } } }
    else if left = 0 ∨ going = false then s
    else
      let r := submitProg s (.glume (left - 1)) (n + 1) 255 erasedRow.data 4
      if r.2 = 0 then r.1 else { s with glm := { s.glm with trans := s.glm.trans.map fun t => { t with result := some 0x0616 } } }
  | .cp tag => if e = 0 then s else { s with cp := { s.cp with fails := SMap.set s.cp.fails tag e } }
  | .refresh | .retire _ _ _ _ _ _ => s

/-- The waiting programs of a kind are refused with a reason code (R386, R396). -/
def refuseWhere (s : State) (hit : Prog → Bool) (e : Nat) : State :=
  let gone := s.grn.queue.filter hit
  let s1 := setGrn s { s.grn with queue := s.grn.queue.filter fun p => !hit p }
  showSpares (gone.foldl (fun st p => progEnded st (p.held.getD p.use) p.row e) s1)

/-- A partition becomes read-only (R385). -/
def sparesOut (s : State) (n : Nat) : State :=
  let s1 := wr s (pg pGRN) GRN.PART_STAT.READ_ONLY (setBit (rd s (pg pGRN) GRN.PART_STAT.READ_ONLY) (partOf n))
  chaffAny (setEvt s1 pGRN GRN.EVT.SPARES_OUT) 5 (bankOf n) 0xA03

/-- Start the retirement of row `n` with its data into a spare of index `least` or above (R384); `failed` says that the program failed,
and its requester waits. -/
def startRetire (s : State) (u : ProgUse) (n : Nat) (data : Bytes) (att unit : Nat) (failed : Bool) (least : Nat) : State :=
  let i := max least (nextSpare s)
  let e := freeEntry s 0
  if 3200 ≤ i ∨ 3200 ≤ e then
    let s1 := sparesOut s n
    if failed then progEnded (spoilRow s1 (physRow s1 n) 255) u n 0x0515 else s1
  else
    showSpares (queueProg s { use := .retire n i e 1 unit att, row := spareRow i, mask := 255, data, level := 3, attempts := 0, held := if failed then some u else none })

/-- The word of a remap entry (R383). -/
def remapWord (row spare : Nat) : Nat := let v := row + spare * 2 ^ 17; v + (2 ^ 32 - 1 - v) * 2 ^ 32

/-- The program of copy `c` of a remap entry. -/
def remapProg (p : Prog) (c row spare entry unit att : Nat) : Prog :=
  { p with use := .retire row spare entry (2 + c) unit att, row := remapRow c entry, mask := 2 ^ (entry % 8),
           data := zeros (8 * (entry % 8)) ++ natLe 8 (remapWord row spare) ++ zeros (56 - 8 * (entry % 8)), attempts := 0 }

/-- A retirement ends: the mapping holds, and the requester whose program failed goes on. -/
def endRetire (s : State) (p : Prog) (row spare unit att : Nat) : State :=
  let b := pg pGRN
  let s1 := setGrn s { s.grn with remap := SMap.set s.grn.remap row spare }
  let s2 := setEvt (inc (wr (wr s1 b GRN.LAST_RETIRE.ROW row) b GRN.LAST_RETIRE.SPARE spare) b GRN.RETIRED.COUNT) pGRN GRN.EVT.ROW_RETIRED
  let s3 := chaff s2 { unit := 5, member := 0, kind := 0xA01, access := 8, port := unit, addr := 64 * row, detail := 0x0518 + att * 65536 }
  match p.held with | some u => progEnded s3 u row 0 | none => s3

/-- A step of a retirement has verified after `n` attempts. -/
def retireStep (s : State) (p : Prog) (row spare entry stage unit att n : Nat) : State :=
  if pfRefuse s then showSpares (match p.held with | some u => progEnded s u row 0x0513 | none => s)
  else if stage = 1 then
    if rd s (pg pGRN) GRN.WEAR_CFG.RETRY_WARN < n then startRetire s (p.held.getD .refresh) row p.data att unit p.held.isSome (spare + 1)
    else queueProg s (remapProg p 0 row spare entry unit att)
  else if stage = 2 then queueProg s (remapProg p 1 row spare entry unit att)
  else showSpares (endRetire s p row spare unit att)

/-- A program has verified at attempt `n`. -/
def progVerified (s : State) (p : Prog) (n : Nat) : State :=
  let b := pg pGRN
  let w := physRow s p.row
  let s1 := setRow (inc (inc s b (GRN.ATTEMPTS.COUNT.at (n - 1))) b GRN.ROWS_PROGRAMMED.COUNT) w (progRow (rowAt s w) p.mask p.data)
  match p.use with
  | .retire row spare entry stage unit att => retireStep s1 p row spare entry stage unit att n
  | u =>
    let s2 := progEnded s1 u p.row 0
    if rd s b GRN.WEAR_CFG.RETRY_WARN < n && partOf p.row != 6 && !pfRefuse s && !pfFlush s then
      startRetire s2 u p.row (readRow s2 p.row).data n (progUnit u) false 0
    else s2

/-- A program has failed all 8 attempts. -/
def progFailed (s : State) (p : Prog) : State :=
  let b := pg pGRN
  let s1 := inc (inc s b GRN.PROG_FAILED.COUNT) b GRN.ROWS_PROGRAMMED.COUNT
  match p.use with
  | .retire row spare entry stage unit att =>
    let s2 := spoilRow s1 p.row p.mask
    if pfRefuse s then showSpares (match p.held with | some u => progEnded s2 u row 0x0513 | none => s2)
    else if stage = 1 then startRetire s2 (p.held.getD .refresh) row p.data att unit p.held.isSome (spare + 1)
    else if stage = 2 then
      let e := freeEntry s2 (entry + 1)
      if 3200 ≤ e then
        let s3 := sparesOut s2 row
        (match p.held with | some u => progEnded s3 u row 0x0515 | none => s3)
      else showSpares (queueProg s2 (remapProg p 0 row spare e unit att))
    else showSpares (endRetire s2 p row spare unit att)
  | u =>
    if partOf p.row = 6 || pfFlush s then progEnded (spoilRow s1 (physRow s1 p.row) p.mask) u p.row 0x0515
    else startRetire s1 u p.row (progRow (readRow s1 p.row) p.mask p.data).data 8 (progUnit u) true 0

/-- PROGRAM_ATTEMPT_DONE (R376, R396): the attempt that runs in bank `b` ends. -/
def attemptFx (s : State) (b : Nat) (verified : Bool) : State :=
  match SMap.get? s.grn.cur b with
  | none => s
  | some p =>
    let n := p.attempts + 1
    let s0 := setBusy (setGrn s { s.grn with cur := SMap.erase s.grn.cur b }) b false
    let s1 :=
      if verified then progVerified s0 p n
      else if 8 ≤ n then progFailed s0 p
      else if pfRefuse s && !pfOwn s p.use then
        (match p.use, p.held with
          | .retire row _ _ _ _ _, some u => showSpares (progEnded (spoilRow s0 p.row p.mask) u row 0x0513)
          | u, _ => showSpares (progEnded (spoilRow s0 (physRow s0 p.row) p.mask) u p.row 0x0513))
      else setBusy (setGrn s { s.grn with cur := SMap.set s.grn.cur b { p with attempts := n } }) b true
    pumpBank (pumpBank s1 b) (1 - b)

/-- A read of row `n` corrects a word (R386): counted, reported and refreshed. -/
def correctedFx (s : State) (n unit : Nat) : State :=
  let s1 := chaff (inc s (pg pGRN) GRN.ECC_CORR.COUNT)
    { unit := 5, member := bankOf n, kind := 0xA02, access := 7, port := unit, addr := 64 * n, detail := anyDetail 0xA02 }
  (submitProg s1 .refresh n 255 (readRow s n).data 3).1

/-! ### The staging (R389 to R391) -/

/-- The record completed with the Granary's fields. -/
def fillRec (s : State) (b : Bytes) : Bytes :=
  let r := natLe 4 (seqNext s) ++ natLe 4 (opSeconds s) ++ natLe 3 (powerCycles s) ++ slice b 11 5 ++ zeros 2 ++ slice b 18 10
  r ++ natLe 4 (crc32c r)

/-- A record whose repeat count grows by one. -/
def repeatRec (b : Bytes) : Bytes :=
  let r := slice b 0 16 ++ natLe 2 (min (leNat (slice b 16 2) + 1) 0xFFFF) ++ slice b 18 10
  r ++ natLe 4 (crc32c r)

/-- Take the flushed record of the lowest SEQ out of a full staging. -/
def makeRoom (l : List LogRec) : List LogRec :=
  if l.length < 2048 then l else match l.find? fun r => r.flushed with | some r => l.erase r | none => l

/-- Whether a staged record takes a repeat of the new one (R391). -/
def takesRepeat (r : LogRec) (b : Bytes) : Bool :=
  !r.flushed && !r.started && !bitAt (leNat (slice b 11 1)) 2 && slice r.bytes 11 5 == slice b 11 5 && slice r.bytes 18 10 == slice b 18 10

/-- Give a record its slot, with `u` records unflushed; a record without one is dropped (R390). -/
def putRec (s : State) (b : Bytes) (raised fatal : Bool) (u : Nat) : State :=
  if u < 1984 ∨ (u < 2047 ∧ raised) ∨ fatal then
    let g := { s.grn with staged := makeRoom s.grn.staged ++ [{ bytes := fillRec s b, flushed := false, started := false }] }
    wr (setGrn s g) (pg pGRN) GRN.SEQ_NEXT.SEQ (seqNext s + 1)
  else setEvt (inc s (pg pGRN) GRN.LOG_DROPPED.COUNT) pGRN GRN.EVT.LOG_DROP

/-- Stage a record (R389 to R391): `raised` is its RAISED flag, `fatal` says that it moves its source to FATAL. -/
def stageRec (s : State) (b : Bytes) (raised fatal : Bool) : State :=
  let u := (unflushed s).length
  match s.grn.staged.reverse.find? fun r => slice r.bytes 12 2 == slice b 12 2 with
  | some r => if takesRepeat r b then markRecs s [recSeq r] fun x => { x with bytes := repeatRec x.bytes } else putRec s b raised fatal u
  | none => putRec s b raised fatal u

/-! ### The log as it is read (R393, R398) -/

/-- A record as the log window sees it: its place (a log slot, or 98,304 + SEQ in the staging), bytes, and marks. -/
structure LogItem where
  key : Nat
  bytes : Bytes
  bad : Bool
  staged : Bool
deriving DecidableEq, Repr

/-- A slot's record, none when the slot is empty. -/
def slotItem (s : State) (k : Nat) : Option LogItem :=
  let r := readRow s (logRow (k / 2))
  let b := slice r.data (32 * (k % 2)) 32
  let f := bitsAt r.flagged (4 * (k % 2)) 4
  if f = 0 ∧ b.all (· == 0xFF) then none
  else some { key := k, bytes := b, bad := f != 0 || leNat (slice b 28 4) != crc32c (slice b 0 28), staged := false }

/-- The log rows that hold something, in rising order. -/
def usedLogRows (s : State) : List Nat :=
  let inLog := fun (n : Nat) => partOf n == 3 || partOf n == 7
  let plain := (s.grn.rows.map (·.1)).filter fun n => inLog n && (SMap.get? s.grn.remap n).isNone
  let moved := (s.grn.remap.map (·.1)).filter inLog
  (moved.foldl (fun l n => l.filter (fun x => decide (x < n)) ++ [n] ++ l.filter (fun x => decide (n < x))) plain).map logIndex

/-- The log's records in ring order, oldest first. -/
def logItems (s : State) : List LogItem :=
  let l := (usedLogRows s).flatMap fun r => [2 * r, 2 * r + 1].filterMap (slotItem s)
  l.filter (fun i => decide (s.grn.head ≤ i.key)) ++ l.filter (fun i => decide (i.key < s.grn.head))

def LogItem.seq (i : LogItem) : Nat := leNat (slice i.bytes 0 4)

/-- The log and the staging as one ordered set. -/
def allRecs (s : State) : List LogItem :=
  let l := logItems s
  let extra := s.grn.staged.filter fun r => !(r.flushed && l.any fun i => !i.bad && i.seq == recSeq r)
  l ++ extra.map fun r => { key := 98304 + recSeq r, bytes := r.bytes, bad := false, staged := !r.flushed }

/-- The record at or after a SEQ. -/
def seekRec (s : State) (v : Nat) : Option LogItem := (allRecs s).find? fun i => !i.bad && !seqBefore i.seq v

/-- A port's cursor, on a record of the set; none at the end. -/
def cursorItem (s : State) (port : Nat) : Option LogItem :=
  match SMap.get? s.grn.cursors port with
  | some c => (allRecs s).find? fun i => if i.bad then i.key == c.key else c.key != 2 ^ 40 && i.seq == c.seq
  | none => none

/-- Put a port's cursor on a record, or at the end. -/
def setCursor (s : State) (port : Nat) (i : Option LogItem) : State :=
  let c : LogCursor := match i with | some x => { key := x.key, seq := x.seq } | none => { key := 2 ^ 40, seq := 0 }
  let s1 := setGrn s { s.grn with cursors := SMap.set s.grn.cursors port c }
  match i with | some x => if x.key < 98304 then noteFlagged s1 (logRow (x.key / 2)) 5 else s1 | none => s1

/-- The record after a port's cursor. -/
def nextItem (s : State) (port : Nat) : Option LogItem :=
  match cursorItem s port with
  | some c => ((allRecs s).dropWhile fun i => i.key != c.key)[1]?
  | none => none

/-! ### The start-up scan (R388, R394) -/

/-- A checkpoint read back. -/
structure Ckpt where
  slot : Nat
  op : Nat
  cycles : Nat
  pf : Bool
  floor : Nat
deriving DecidableEq, Repr

/-- The checkpoint in slot `j`, when it is valid. -/
def ckptAt? (s : State) (j : Nat) : Option Ckpt :=
  let r := rowAt s (clockRow j)
  let b := slice r.data (16 * (j % 4)) 16
  if bitsAt r.flagged (2 * (j % 4)) 2 = 0 ∧ leNat (slice b 15 1) = crc8 (b.take 15) then
    some { slot := j, op := leNat (slice b 0 4), cycles := leNat (slice b 4 3), pf := bitAt (leNat (slice b 7 1)) 0, floor := leNat (slice b 8 4) }
  else none

/-- The newest valid checkpoint. -/
def newestCkpt (s : State) : Option Ckpt :=
  let rows := (s.grn.rows.map (·.1)).filter fun n => decide (102400 ≤ n ∧ n < 102464)
  let cs := (rows.flatMap fun n => (List.range 4).map (4 * (n - 102400) + ·)).filterMap (ckptAt? s)
  cs.foldl (fun acc c => match acc with
    | none => some c
    | some a => if a.op < c.op ∨ (a.op = c.op ∧ seqBefore a.floor c.floor) then some c else acc) none

/-- Flagged words in the clock rows and the remap rows, and bad slots of the log's head row (R386, R394). -/
def tornCount (s : State) (head : Nat) : Nat :=
  let f := (s.grn.rows.filter fun p => decide (102400 ≤ p.1 ∧ p.1 < 103264)).foldl (fun n p => n + popCount 8 p.2.flagged) 0
  let r := head / 2
  f + (([2 * r, 2 * r + 1].filterMap (slotItem s)).filter fun i => i.bad).length

/-- The newest good record of the log. -/
def newestRec (s : State) : Option LogItem :=
  ((usedLogRows s).flatMap fun r => [2 * r, 2 * r + 1].filterMap (slotItem s)).foldl (fun acc i =>
    if i.bad then acc else match acc with | none => some i | some a => if seqBefore a.seq i.seq then some i else acc) none

/-- Rebuild the retained values after a supply loss (R388): values that no checkpoint or record supplies count as 0. -/
def rebuildFx (s : State) (c : Option Ckpt) (l : Option LogItem) : State :=
  let b := pg pGRN
  let k : Ckpt := c.getD { slot := 0, op := 0, cycles := 0, pf := false, floor := 0 }
  let r : Bytes := match l with | some i => i.bytes | none => zeros 32
  let opc := if k.pf then k.op + 1 else k.op + 32
  let opl := leNat (slice r 4 4) + 1
  let cyc := max k.cycles (leNat (slice r 8 3))
  let n := (leNat (slice r 0 4) + 1) % 2 ^ 32
  let seq := if seqBefore n k.floor then k.floor else n
  wr (wr (wr s b GRN.OP_SECONDS.SECONDS (max opc opl)) b GRN.POWER_CYCLES.COUNT (min (cyc + 1) 0xFFFFFF)) b GRN.SEQ_NEXT.SEQ (seq + 4096)

/-- GRANARY_SCAN_DONE (R394). -/
def scanDoneFx (s : State) : State :=
  let b := pg pGRN
  let s1 := scanRemap s
  let c := newestCkpt s1
  let l := newestRec s1
  let head := match l with | some i => (i.key + 1) % 98304 | none => 0
  let good := s1.grn.staged.filter fun r => leNat (slice r.bytes 28 4) == crc32c (slice r.bytes 0 28)
  let torn := tornCount s1 head + (s1.grn.staged.length - good.length)
  let s2 := setGrn s1 { s1.grn with head, staged := good.map (fun r => { r with started := false }), ckptSlot := (match c with | some k => (k.slot + 1) % 256 | none => 0) }
  let s3 := if torn = 0 then s2 else setEvt (incBy s2 b GRN.TORN.COUNT torn) pGRN GRN.EVT.TORN_FOUND
  let s4 := wr s3 b GRN.STAT.SCAN 0
  let s5 := if flag s (pg pSYS) SYS.STAT.SUPPLY_LOSS then checkpoint (rebuildFx s4 c l) false else s4
  pumpBank (pumpBank (startFlush s5 1) 0) 1

/-- What a reset does to the Granary's sequencers (R380): running rows are torn, waiting programs are gone. -/
def stopGranary (s : State) : State :=
  let s1 := s.grn.cur.foldl (fun st p => tearRow st (physRow st p.2.row) p.2.mask p.2.data) s
  setGrn s1 { s1.grn with queue := [], cur := [], flush := none, clearing := 0, pfStage := 0, cursors := [],
                          staged := s1.grn.staged.map fun r => { r with started := false } }

/-! ### Commands -/

/-- LOG_FLUSH (R394): the next log row of the running flush; with none running, a routine flush starts at the threshold. -/
def logFlushFx (s : State) : State :=
  match s.grn.flush with
  | some _ => flushRow s
  | none => if rd s (pg pGRN) GRN.LOG_CFG.HIGH ≤ (unflushed s).length then flushRow (startFlush s 0) else s

def grnUp (s : State) : Bool := running s && !flag s (pg pGRN) GRN.STAT.SCAN

/-- LOG_FLUSH. -/
def execLogFlush (s : State) : Out := .next (if grnUp s then logFlushFx s else s)

/-- FLUSH_AGE_EXPIRE (R394). -/
def ageFx (s : State) : State :=
  match unflushed s with
  | r :: _ => if leNat (slice r.bytes 4 4) + rd s (pg pGRN) GRN.LOG_CFG.AGE ≤ opSeconds s then startFlush s 0 else s
  | [] => s

/-- FLUSH_AGE_EXPIRE. -/
def execFlushAgeExpire (s : State) : Out := .next (if grnUp s then ageFx s else s)

/-- FLUSH_DONE (R394): every covered record is flushed; a power-fail flush goes on to its checkpoint (R396). -/
def flushDoneFx (s : State) : State :=
  match s.grn.flush with
  | none => s
  | some f =>
    if (unflushed s).any (fun r => f.covers.contains (recSeq r)) || logBusy s then s
    else if f.kind = 3 then
      if s.grn.pfStage = 1 then (let s1 := checkpoint s true; setGrn s1 { s1.grn with pfStage := 2 }) else s
    else
      let s1 := wr (setGrn s { s.grn with flush := none }) (pg pGRN) GRN.STAT.FLUSHING 0
      if f.kind = 0 then s1 else setEvt s1 pGRN GRN.EVT.FLUSH_DONE

/-- FLUSH_DONE. -/
def execFlushDone (s : State) : Out := .next (if grnUp s then flushDoneFx s else s)

/-- A write to GRN.FLUSH (R394): GO acts while GRN is ENABLED (R401). -/
def flushGoFx (s : State) (v : Nat) : State := if bitAt v 0 && enabled s pGRN && grnUp s then startFlush s 1 else s

/-- FLUSH. -/
def execFlush (src id : BitVec 8) (value : BitVec 32) (s : State) : Out :=
  .next (pageWrite s src.toNat id.toNat pGRN 0x94 fun st => flushGoFx st value.toNat)

/-- CLOCK_CHECKPOINT (R387): due 32 operating seconds after the last checkpoint. -/
def execClockCheckpoint (s : State) : Out :=
  .next (if grnUp s && decide (s.grn.ckptAt + 32 ≤ opSeconds s) then checkpoint s false else s)

/-- GRANARY_SCAN_DONE (R394). -/
def execGranaryScanDone (s : State) : Out := .next (if running s && flag s (pg pGRN) GRN.STAT.SCAN then scanDoneFx s else s)

/-- A write to LOG_SEEK (R398): each of ports 0 and 1 moves its own cursor. -/
def logSeekFx (s : State) (src v : Nat) : State := if enabled s pGRN then setCursor s src (seekRec s v) else s

/-- LOG_SEEK. -/
def execLogSeek (src id : BitVec 8) (value : BitVec 32) (s : State) : Out :=
  .next (pageWrite s src.toNat id.toNat pGRN 0x68 fun st => logSeekFx st src.toNat value.toNat)

/-- Bytes 8k to 8k + 7 of the record under a port's cursor; 0 while none stands there (R398). -/
def logData (s : State) (port k : Nat) : Nat :=
  if enabled s pGRN then (match cursorItem s port with | some i => leNat (slice i.bytes (8 * k) 8) | none => 0) else 0

/-- A read of LOG_DATA[3] moves the cursor on (R398). -/
def advanceCursor (s : State) (port : Nat) : State :=
  if enabled s pGRN && (cursorItem s port).isSome then setCursor s port (nextItem s port) else s

/-- A write to LOG_CLEAR under its unlock (R399). -/
def logClearFx (s : State) (src v : Nat) : State :=
  if !bitAt v 0 then s
  else if 3 ≤ lcState s then writeIgnored (wr s (pg pGRN) HDR.CHK.REASON 0x0502) 5 0 src (pg pGRN + 0x90) 0x0502
  else if s.grn.clearing = 0 then setGrn s { s.grn with clearing := 1 } else s

/-- LOG_CLEAR. -/
def execLogClear (src id : BitVec 8) (value : BitVec 32) (s : State) : Out :=
  .next (pageLocked s src.toNat id.toNat pGRN 0x90 fun st => logClearFx st src.toNat value.toNat)

/-- Whether the erase of a row of the log is accepted: its bank and its partition can be written (R385, R386). -/
def logErasable (s : State) (n : Nat) : Bool := (partOf n == 3 || partOf n == 7) && !bankRo s (bankOf n) && !partRo s n

/-- LOG_CLEAR_DONE (R399): every log row that can be written is erased, each in one attempt, and a checkpoint follows. -/
def logClearDoneFx (s : State) : State :=
  if s.grn.clearing ≠ 1 || s.grn.flush.isSome || pfRefuse s then s
  else
    let b := pg pGRN
    let moved := s.grn.remap.filter fun p => logErasable s p.1
    let spares := moved.map fun p => spareRow p.2
    let keep := s.grn.rows.filter fun p => !(logErasable s p.1 || spares.contains p.1)
    let s0 := setGrn s { s.grn with rows := keep }
    let head := match newestRec s0 with | some i => (i.key + 1) % 98304 | none => 0
    let s1 := setGrn s0 { s0.grn with head, clearing := 2 }
    let n := 24576 * (bit (logErasable s (logRow 0)) + bit (logErasable s (logRow 24576)))
    let cur := fun (p : Nat × LogCursor) => if p.2.key < 98304 then (p.1, ({ key := 2 ^ 40, seq := 0 } : LogCursor)) else p
    let s2 := setGrn s1 { s1.grn with cursors := s1.grn.cursors.map cur }
    checkpoint (incBy (incBy s2 b GRN.ROWS_PROGRAMMED.COUNT n) b (GRN.ATTEMPTS.COUNT.at 0) n) false

/-- LOG_CLEAR_DONE. -/
def execLogClearDone (s : State) : Out := .next (if grnUp s then logClearDoneFx s else s)

/-- OP_SECONDS_ADVANCE (R387). -/
def execOpSecondsAdvance (s : State) : Out :=
  .next (if s.phase = .cold then s else wr s (pg pGRN) GRN.OP_SECONDS.SECONDS (opSeconds s + 1))

end Sys2Proof.Machine
end

