-- ==== Sys2Proof/Machine/StepOps.lean ====
section
/-! DEFINITION. The operations of a chain (R131 to R141): when a step's result can form, and what each operation computes, counts
and leaves behind; dispatch, gates, held output and sampled checks. -/

namespace Sys2Proof.Machine

/-! ### When a result forms -/

/-- The output range of a step is known: its chained tables have been read (R119), or those that its output needs. -/
def dstReady (t : StepRun) : Bool :=
  t.dst.tabs == 0 && !t.dst.mid && ((t.dst.table.isNone && t.dst.closed) || (match t.dst.limit with | some l => decide (l ≤ rangeCap t.dst) | none => false))

/-- Whether a step's key stands ready, where it needs one. -/
def keyReady (s : State) (x : Job) (k : Nat) (t : StepRun) : Bool :=
  !keyedOp (x.desc k).op (realmStored s x.realm) || (match t.key with | .ready _ => true | _ => false)

/-- Whether a step's message stands in its unit: in a lane's table or the suspend store, in a group's store, in its bank; a message without a
block needs no place. -/
def unitReady (s : State) (j k op : Nat) (x : Job) (t : StepRun) : Bool :=
  if isAes op then (match t.place with | some l => holdsCtx s l j k || isSuspended s j k | none => stepWork s x k t == some 0)
  else if isDigest op || op == 0x2F then (match t.place with | some g => enabled s (pEMR g) && t.ectx.isSome | none => false)
  else if isArith op then (match t.place with
    | some n => bankState s n == bkRUNNING || bankState s n == bkPAUSED | none => false)
  else enabled s (pSPK (j / 16))

/-- Whether a step's instances have come to all the work it needs, its Emmer work included (R160, R294). -/
def workDone (s : State) (j : Nat) (x : Job) (k : Nat) (t : StepRun) : Bool :=
  (match stepWork s x k t with | some w => decide (w ≤ t.work - lostWork s j k false) | none => false) &&
    decide (auxWork s x k t ≤ t.aux - lostWork s j k true)

/-- Whether a job's steps go on: TCK runs (R180), its entry is not being aborted short of its commit point (R104, R185), and the holding store
runs where it has bins (R226). -/
def mayForm (s : State) (x : Job) : Bool :=
  running s && enabled s pTCK && !(x.aborting && !committedJob s x) && (x.bins == 0 || enabled s pHLD)

/-- The ISSUE stamp of a probed entry, once a step's first block can have issued (R274). -/
def stampIssue (s : State) (j : Nat) (x : Job) (k : Nat) (t : StepRun) : State :=
  if keyReady s x k t && unitReady s j k (x.desc k).op x t && (decide (0 < t.work) || stepWork s x k t == some 0) then probeStamp s x.eid 5 else s

/-- The RESULT stamp, of the last result that leaves a unit (R274). -/
def stampResult (s : State) (x : Job) : State :=
  if s.probeEid = some x.eid then probeStamp (wr s (pg pPMU) (PMU.PROBE_STAMP.KC.at 6) 0xFFFFFFFF) x.eid 6 else s

/-- A step of operation `op` forms its result: once it runs, has its input, key, output range and work, `fx` is applied to its
input. A source that is too short ends it with MALFORMED (R120), a bad length with PARAM (R135). -/
def formOp (s : State) (j k op : Nat) (fx : State → Job → StepRun → Bytes → State) : State :=
  match job? s j, step? s j k with
  | some x, some t =>
    if !mayForm s x || !stepRuns s j k || (x.desc k).op != op || lookPending s j x.eid k then s
    else match inputOf x k t with
      | none => s
      | some (.error e) => failLate s j k e
      | some (.ok inp) =>
        let e := opParam op (x.param k) (x.desc k).verifyOnly (x.desc k).outC x.realm (some inp.length)
        if !isArith op && e != 0 then failStep s j k { status := 0x12, detail := e, loc := 0 }
        else
          let s1 := stampIssue s j x k t
          if dstReady t && keyReady s x k t && unitReady s j k op x t && workDone s j x k t then fx (stampResult s1 x) x t inp else s1
  | _, _ => s

/-- The outcome of a row whose step lets others ask the planner, a released gate or the end of arithmetic (R117): what stands new is admitted
from the reserve where it can be (R166). -/
def opNext (s : State) : Out := .next (admitNew s)

/-! ### Control and data movement (R131, R132) -/

/-- NOP. -/
def execNop (job : BitVec 9) (step : BitVec 3) (s : State) : Out :=
  .next (formOp s job.toNat step.toNat 0x00 fun st _ _ _ => formStep st job.toNat step.toNat (okRes []) false 0)

/-- MOVE. -/
def execMove (job : BitVec 9) (step : BitVec 3) (s : State) : Out :=
  .next (formOp s job.toNat step.toNat 0x61 fun st _ _ inp => formStep st job.toNat step.toNat (okRes inp) false 0)

/-- The bytes of a repeated pattern. -/
def fillBytes (pat : Bytes) (n : Nat) : Bytes := ((List.replicate (ceilDiv n 8) pat).flatten).take n

/-- FILL. -/
def execFill (job : BitVec 9) (step : BitVec 3) (s : State) : Out :=
  .next (formOp s job.toNat step.toNat 0x62 fun st x _ _ =>
    let p := x.param step.toNat
    formStep st job.toNat step.toNat (okRes (fillBytes (slice p 0 8) (pfield p 8 4))) false 0)

/-- Offset of the first byte in which two strings differ. -/
def firstDiff : Bytes → Bytes → Nat
  | a :: as, b :: bs => if a = b then firstDiff as bs + 1 else 0
  | _, _ => 0

/-- The result of a comparison: the pair, or a failure, where COMPARE_FAIL gives the offset of the first difference (R128). Sources of
different lengths differ where the shorter ends (DESIGN CHOICE, log entry 63). -/
def pairRes (got want : Bytes) (bad : Nat) : OpRes :=
  if got = want then okRes pairMatch else failRes bad 0 (if bad = 3 then firstDiff got want else 0)

/-- COMPARE (R132): both sources must be there. -/
def compareFx (s : State) (j k : Nat) (x : Job) (t : StepRun) (inp : Bytes) : State :=
  match input2Of x k t with
  | none => s
  | some (.error e) => failStep s j k { status := 0x10, detail := e, loc := 0 }
  | some (.ok b) => formStep s j k (pairRes inp b 3) false 0

/-- COMPARE. -/
def execCompare (job : BitVec 9) (step : BitVec 3) (s : State) : Out :=
  .next (formOp s job.toNat step.toNat 0x63 fun st x t inp => compareFx st job.toNat step.toNat x t inp)

/-! ### GATE (R144 to R147) -/

/-- The output of a released GATE step, once its bytes are there. -/
def gateOut (x : Job) (k : Nat) (t : StepRun) (p : Post) : Option (Except Nat Bytes) :=
  if p.result = 0 then (if srcDone t.src2 then some (.ok (srcBytes t.src2)) else none) else inputOf x k t

/-- A GATE step: it arms its gate when it starts; once released and with its quanta it hands on its output. -/
def gateFx (s : State) (j k : Nat) : State :=
  match job? s j, step? s j k with
  | some x, some t =>
    if !mayForm s x || !stepRuns s j k || (x.desc k).op != 0x60 then s
    else match t.gate with
      | .none => armGate s j k
      | .armed => s
      | .released p =>
        match gateOut x k t p with
        | none => s
        | some (.error e) => failStep s j k { status := 0x10, detail := e, loc := 0 }
        | some (.ok b) =>
          let s1 := stampIssue s j x k t
          if dstReady t && enabled s (pSPK (j / 16)) && workDone s j x k t then formStep (stampResult s1 x) j k (okRes b) false 0 else s1
  | _, _ => s

/-- GATE. -/
def execGate (job : BitVec 9) (step : BitVec 3) (s : State) : Out := opNext (gateFx s job.toNat step.toNat)

/-- A post (R146). -/
def postFx (s : State) (g v src : Nat) : State :=
  let p : Post := { token := v % 65536, result := bitsAt v 16 2, len := v / 2 ^ 32 }
  let st := gateState s g
  if st = gOFF then gateIgnore s g true src
  else if st = gFREE then
    if (gatex s g).dead = some p.token then gateIgnore s g false src
    else wr (setGatex (setGateState s g gPOSTED) g { gatex s g with post := some p }) (gsB g) GS.STAT.TOKEN p.token
  else if st = gPOSTED then gateIgnore s g false src
  else if p.token ≠ rd s (gsB g) GS.STAT.TOKEN then gateIgnore s g true src
  else match (gatex s g).armed with
    | some (j, k) =>
      let s1 := setGatex (setGateState s g gFREE) g { gatex s g with armed := none, post := none, ticksLeft := 0 }
      releaseGate (wr s1 (gsB g) GS.STAT.TOKEN (((gatex s g).dead).getD 0)) j k p
    | none => s

/-- A write to GS_POST (R144): a post is a 64-bit write; a 32-bit write is ignored with a NOTICE. -/
def gsPostFx (s : State) (wide : Bool) (g v src : Nat) : State :=
  if wide then postFx s g v src else writeIgnored s 0x13 0 src (gsB g) (anyDetail 0x003)

/-- GS_POST. -/
def execGsPost (src id : BitVec 8) (wide : Bool) (gate : BitVec 12) (value : BitVec 64) (s : State) : Out :=
  .next (entryWrite s src.toNat id.toNat .gs gate.toNat 0 wide fun st => admitNew (gsPostFx st wide gate.toNat value.toNat src.toNat))

/-- A write to GS_GRANT (R145): ignored with a NOTICE while a gate is POSTED or ARMED; EN moves it between OFF and FREE. -/
def grantFx (s : State) (g v src : Nat) : State :=
  let st := gateState s g
  if st = gPOSTED ∨ st = gARMED then writeIgnored s 0x13 0 src (gsB g + 0xC) 0x1312
  else
    let s1 := wr (wr (wr (wr s (gsB g) GS.STAT.IGNORED 0) (gsB g) GS.GRANT.PORT (v % 256)) (gsB g) GS.GRANT.REALM (bitsAt v 8 10)) (gsB g) GS.GRANT.EN (bitsAt v 31 1)
    if bitAt v 31 then (if st = gOFF then setGateState s1 g gFREE else s1) else setGateState s1 g gOFF

/-- GS_GRANT_WRITE (R145). -/
def execGsGrantWrite (src id : BitVec 8) (gate : BitVec 12) (value : BitVec 32) (s : State) : Out :=
  .next (entryWrite s src.toNat id.toNat .gs gate.toNat 0xC false fun st => grantFx st gate.toNat value.toNat src.toNat)

/-! ### AES (R188 to R217) -/

/-- Sampled checks of a step's `n` blocks, those that wait and those that were skipped (R215): none for EXPRESS steps or with the checker off. Those of a
lane without protection are counted with its blocks (R220), so that here only what the queue did not take is left. -/
def sampled (s : State) (l : Nat) (x : Job) (checks skipped n : Nat) : Nat × Nat :=
  let b := pg (pSPL l)
  if x.cls = 0 ∨ rd s b SPL.CHECK_CFG.RATE_LOG2 = 0 ∨ flag s b SPL.STAT.UNPROTECTED then (0, 0)
  else (min checks n, min skipped (n - checks))

/-- Samples of an unprotected lane that found the queue full: they are no longer awaited (R215). -/
def skipSamples (s : State) (j k l n : Nat) : State :=
  match step? s j k with
  | some t =>
    if flag s (pg (pSPL l)) SPL.STAT.UNPROTECTED then
      modStep (incBy s (pg (pSPL l)) SPL.CHECK_SKIPPED.COUNT (min n t.checks)) j k fun u => { u with checks := u.checks - min n u.checks }
    else s
  | none => s

/-- An AES step of `n` blocks on lane `l`: its tags and checks; a text that must be proven is held (R211), or withheld when it fails (R212). -/
def aesOn (s : State) (j k op l n : Nat) (checks : Nat × Nat) (x : Job) (key iv inp : Bytes) : State :=
  let a := aesBlk (x.param k)
  let vo := (x.desc k).verifyOnly
  let r := aesStep op a vo key iv inp
  let b := pg (pSPL l)
  let s1 := skipSamples (countWork s j k n) j k l checks.2
  let s2 := if r.v.status = 2 then inc s1 b SPL.TAG_FAILS.COUNT else if r.v.status = 4 then inc s1 b SPL.GUARD_FAILS.COUNT else s1
  let c := sampled s l x checks.1 checks.2 n
  let s3 := incBy s2 b SPL.CHECK_SKIPPED.COUNT c.2
  let hold := holdsInput op a && !vo
  if hold && r.v.status != 0 then
    formStep (incBy s3 (pg pHLD) HLD.WITHHELD.BYTES (aesOutLen op a vo inp.length)) j k r false c.1
  else formStep s3 j k r hold c.1

/-- An AES step on its lane; one without a block takes no lane, but a generated IV comes from the lowest enabled one (R196). -/
def aesFx (s : State) (j k op checks skipped : Nat) (x : Job) (t : StepRun) (inp : Bytes) : State :=
  match t.key, t.place with
  | .ready c, some l =>
    let n := aesBlocks op (aesBlk (x.param k)) (keyLen t) inp.length
    aesOn s j k op l (n.1 + n.2) (checks, skipped) x c.key t.out inp
  | .ready c, none =>
    let l := (enLanes s).headD 0
    let s1 := drawIv s l j k
    (match step? s1 j k with
      | some u => if u.bad.isSome then s1 else aesOn s1 j k op l 0 (0, 0) x c.key u.out inp
      | none => s1)
  | _, _ => s

/-- An AES row of the table. -/
def aesRow (s : State) (j k op checks skipped : Nat) : State :=
  formOp s j k op fun st x t inp => aesFx st j k op checks skipped x t inp

/-- ECB (R134). -/
def execEcb (job : BitVec 9) (step : BitVec 3) (checks skipped : BitVec 16) (s : State) : Out :=
  .next (aesRow s job.toNat step.toNat 0x10 checks.toNat skipped.toNat)
/-- CBC (R198). -/
def execCbc (job : BitVec 9) (step : BitVec 3) (checks skipped : BitVec 16) (s : State) : Out :=
  .next (aesRow s job.toNat step.toNat 0x11 checks.toNat skipped.toNat)
/-- CTR (R199). -/
def execCtr (job : BitVec 9) (step : BitVec 3) (checks skipped : BitVec 16) (s : State) : Out :=
  .next (aesRow s job.toNat step.toNat 0x12 checks.toNat skipped.toNat)
/-- XTS (R200 to R203). -/
def execXts (job : BitVec 9) (step : BitVec 3) (checks skipped : BitVec 16) (s : State) : Out :=
  .next (aesRow s job.toNat step.toNat 0x13 checks.toNat skipped.toNat)
/-- GCM (R204, R205). -/
def execGcm (job : BitVec 9) (step : BitVec 3) (checks skipped : BitVec 16) (s : State) : Out :=
  .next (aesRow s job.toNat step.toNat 0x14 checks.toNat skipped.toNat)
/-- GMAC (R204). -/
def execGmac (job : BitVec 9) (step : BitVec 3) (checks skipped : BitVec 16) (s : State) : Out :=
  .next (aesRow s job.toNat step.toNat 0x15 checks.toNat skipped.toNat)
/-- CCM (R206). -/
def execCcm (job : BitVec 9) (step : BitVec 3) (checks skipped : BitVec 16) (s : State) : Out :=
  .next (aesRow s job.toNat step.toNat 0x16 checks.toNat skipped.toNat)
/-- GCM-SIV (R207). -/
def execGcmSiv (job : BitVec 9) (step : BitVec 3) (checks skipped : BitVec 16) (s : State) : Out :=
  .next (aesRow s job.toNat step.toNat 0x17 checks.toNat skipped.toNat)
/-- CMAC (R208). -/
def execCmac (job : BitVec 9) (step : BitVec 3) (checks skipped : BitVec 16) (s : State) : Out :=
  .next (aesRow s job.toNat step.toNat 0x18 checks.toNat skipped.toNat)
/-- KW (R209). -/
def execKw (job : BitVec 9) (step : BitVec 3) (checks skipped : BitVec 16) (s : State) : Out :=
  .next (aesRow s job.toNat step.toNat 0x19 checks.toNat skipped.toNat)
/-- KWP (R209). -/
def execKwp (job : BitVec 9) (step : BitVec 3) (checks skipped : BitVec 16) (s : State) : Out :=
  .next (aesRow s job.toNat step.toNat 0x1A checks.toNat skipped.toNat)

/-- HELD_RELEASE (R211, R212): held text goes out once no check is outstanding; a step that has failed meanwhile withholds it. -/
def heldFx (s : State) (j k : Nat) : State :=
  match step? s j k with
  | some t =>
    if !running s || !t.held || t.st != .formed then s
    else if t.bad.isSome then
      modStep (incBy s (pg pHLD) HLD.WITHHELD.BYTES t.out.length) j k fun u => { u with held := false, out := [] }
    else if t.checks ≠ 0 then s
    else handOut (modStep (incBy s (pg pHLD) HLD.RELEASED.BYTES t.out.length) j k fun u => { u with held := false }) j k
  | none => s

/-- HELD_RELEASE. -/
def execHeldRelease (job : BitVec 9) (step : BitVec 3) (s : State) : Out := .next (heldFx s job.toNat step.toNat)

/-- Whether the sampled block at hand ran on the decrypt pipeline (R190): for a decrypting XTS step, whose data and tweak blocks run on two
pipelines, a free value says which of them it is. -/
def decPipe (s : State) (x : Job) (k : Nat) : State × Bool :=
  let d := planUnit (x.desc k).op (x.param k) == some .dec
  if d && (x.desc k).op == 0x13 then let r := freshFree s; (r.2, !Config.tweakCheck r.1) else (s, d)

/-- The end of a sampled check (R216): a mismatch, or an armed failure, ends the step. -/
def checkFx (s : State) (j k : Nat) (mismatch : Bool) : State :=
  match job? s j, step? s j k with
  | some x, some t =>
    match t.place with
    | none => s
    | some l =>
      if !running s || t.checks == 0 || !isAes (x.desc k).op then s
      else
        let w := decPipe s x k
        let d := w.2
        let ln := lane s l
        let armed := if d then ln.injDec else ln.injEnc
        let b := pg (pSPL l)
        let s1 := setLane (inc w.1 b SPL.CHECKED.COUNT) l (if d then { ln with injDec := false } else { ln with injEnc := false })
        let s2 := modStep s1 j k fun u => { u with checks := u.checks - 1 }
        if mismatch || armed then
          let s3 := chaffPlain (setEvt (inc s2 b SPL.CHECK_FAILS.COUNT) (pSPL l) SPL.EVT.CHECK_FAIL) 0x10 l 0x301 (0x1013 + bit d * 65536)
          failStep s3 j k { status := 0x28, detail := 0x10, loc := 0 }
        else s2
  | _, _ => s

/-- INVERSE_CHECK_DONE (R215, R216). -/
def execInverseCheckDone (job : BitVec 9) (step : BitVec 3) (mismatch : Bool) (s : State) : Out :=
  .next (checkFx s job.toNat step.toNat mismatch)

/-- A write to CHECK_CFG (R216, R225, R503): a rate of 1 to 3 or 13 to 15 is ignored; a write that injects is refused where EVT_FORCE is
not permitted. -/
def checkCfgFx (s : State) (l src v : Nat) : State :=
  let r := v % 16
  let inj := bitAt v 8 || bitAt v 9
  if inj && !testPermit s then writeIgnored s 0x10 l src (pg (pSPL l) + 0x44) (anyDetail 0x003)
  else
    let s1 := if r = 0 ∨ (4 ≤ r ∧ r ≤ 12) then wr s (pg (pSPL l)) SPL.CHECK_CFG.RATE_LOG2 r else s
    if inj then
      setLane s1 l { lane s1 l with injEnc := (lane s1 l).injEnc || bitAt v 8, injDec := (lane s1 l).injDec || bitAt v 9 }
    else s1

/-- SPL_INJECT_WRITE (R216). -/
def execSplInjectWrite (src id : BitVec 8) (lane : BitVec 3) (value : BitVec 32) (s : State) : Out :=
  .next (pageWrite s src.toNat id.toNat (pSPL lane.toNat) 0x44 fun st => checkCfgFx st lane.toNat src.toNat value.toNat)

/-! ### Digests (R277 to R293) -/

/-- The first `n` bytes of a digest of a message. -/
def digestOf (op : Nat) (m : Bytes) (n : Nat) : Bytes :=
  if op = 0x20 then (sha256 m).take n else if op = 0x21 then (sha224 m).take n else if op = 0x22 then (sha384 m).take n
  else if op = 0x23 then (sha512 m).take n else if op = 0x24 then (sha3_256 m).take n else if op = 0x25 then (sha3_384 m).take n
  else if op = 0x26 then (sha3_512 m).take n else if op = 0x27 then shake128 m n else shake256 m n

/-- The HMAC kind of an opcode (R234). -/
def hmacKind (op : Nat) : Nat := op - 0x29 + 8

/-- What a digest step answers: the digest, or the pair of its comparison (R136, R283, R287). A VERIFY of more than the 64 bytes of
EXPECTED compares with the block's bytes from 16 on, those past EXPECTED too (DESIGN CHOICE, log entry 63). -/
def digestRes (op : Nat) (p pre inp : Bytes) : OpRes :=
  let n := digestOutLen op p
  let inInp := bitAt (pfield p 4 1) 1
  let m := if inInp then inp.take (inp.length - n) else inp
  let d := if isHmac op then (hmacFrom (hmacKind op) pre m).take n else digestOf op m n
  if bitAt (pfield p 4 1) 0 then
    pairRes d (if inInp then inp.drop (inp.length - n) else slice p 16 n) (if isHmac op then 2 else 3)
  else okRes d

/-- A digest step. -/
def digestFx (s : State) (j k op : Nat) (x : Job) (t : StepRun) (inp : Bytes) : State :=
  match t.place with
  | none => s
  | some g =>
    let p := x.param k
    let n := digestOutLen op p
    let r := digestRes op p (match t.key with | .ready c => c.pre | _ => []) inp
    let s1 := countWork s j k (digestBlocks op (if bitAt (pfield p 4 1) 1 then inp.length - n else inp.length) n)
    formStep (if r.v.status = 0 then s1 else inc s1 (pg (pEMR g)) EMR.VERIFY_FAILS.COUNT) j k r false 0

/-- A digest row of the table. -/
def digestRow (s : State) (j k op : Nat) : State := formOp s j k op fun st x t inp => digestFx st j k op x t inp

/-- SHA-256 (R137). -/
def execSha256 (job : BitVec 9) (step : BitVec 3) (s : State) : Out := .next (digestRow s job.toNat step.toNat 0x20)
/-- SHA-224 (R137). -/
def execSha224 (job : BitVec 9) (step : BitVec 3) (s : State) : Out := .next (digestRow s job.toNat step.toNat 0x21)
/-- SHA-384 (R137). -/
def execSha384 (job : BitVec 9) (step : BitVec 3) (s : State) : Out := .next (digestRow s job.toNat step.toNat 0x22)
/-- SHA-512 (R137). -/
def execSha512 (job : BitVec 9) (step : BitVec 3) (s : State) : Out := .next (digestRow s job.toNat step.toNat 0x23)
/-- SHA3-256 (R137). -/
def execSha3x256 (job : BitVec 9) (step : BitVec 3) (s : State) : Out := .next (digestRow s job.toNat step.toNat 0x24)
/-- SHA3-384 (R137). -/
def execSha3x384 (job : BitVec 9) (step : BitVec 3) (s : State) : Out := .next (digestRow s job.toNat step.toNat 0x25)
/-- SHA3-512 (R137). -/
def execSha3x512 (job : BitVec 9) (step : BitVec 3) (s : State) : Out := .next (digestRow s job.toNat step.toNat 0x26)
/-- SHAKE128 (R137). -/
def execShake128 (job : BitVec 9) (step : BitVec 3) (s : State) : Out := .next (digestRow s job.toNat step.toNat 0x27)
/-- SHAKE256 (R137). -/
def execShake256 (job : BitVec 9) (step : BitVec 3) (s : State) : Out := .next (digestRow s job.toNat step.toNat 0x28)
/-- HMAC-SHA-256 (R287). -/
def execHmacSha256 (job : BitVec 9) (step : BitVec 3) (s : State) : Out := .next (digestRow s job.toNat step.toNat 0x29)
/-- HMAC-SHA-384 (R287). -/
def execHmacSha384 (job : BitVec 9) (step : BitVec 3) (s : State) : Out := .next (digestRow s job.toNat step.toNat 0x2A)
/-- HMAC-SHA-512 (R287). -/
def execHmacSha512 (job : BitVec 9) (step : BitVec 3) (s : State) : Out := .next (digestRow s job.toNat step.toNat 0x2B)

/-- Extend register `n` by a digest (R290); a step that does so holds the register's lock until then, and releases it (R291). -/
def extendMeas (s : State) (n : Nat) (d : Bytes) : State :=
  let m := measReg s n
  { s with meas := SMap.set s.meas n { m with data := sha512 (m.data ++ d), count := min (m.count + 1) 0xFFFFFFFF, lock := none } }

/-- MEASURE_EXTEND (R290, R291, R293): it commits while it holds its register's lock, and waits for the lock until then. -/
def extendFx (s : State) (j k : Nat) (x : Job) (t : StepRun) (inp : Bytes) : State :=
  let n := pfield (x.param k) 0 1
  match t.place with
  | none => s
  | some _ =>
    if (measReg s n).broken then formStep s j k (failRes 0x28 0x11 0) false 0
    else if lockHolder s n ≠ some (j, k) then s
    else let s2 := extendMeas (countWork s j k (ceilDiv (64 + inp.length + 17) 128)) n inp; formStep s2 j k (okRes (measReg s2 n).data) false 0

/-- MEASURE_EXTEND. -/
def execMeasureExtend (job : BitVec 9) (step : BitVec 3) (s : State) : Out :=
  .next (formOp s job.toNat step.toNat 0x2F fun st x t inp => extendFx st job.toNat step.toNat x t inp)

/-- A write to MEAS_SEL copies a register into the page's snapshot (R292, R293). -/
def measSelFx (s : State) (g v : Nat) : State :=
  let n := v % 64
  let m := measReg s n
  let b := pg (pEMR g)
  let d := if m.broken then zeros 64 else m.data
  let s1 := wr (wr (wr s b EMR.MEAS_SEL.REG n) b EMR.MEAS_SEL.BROKEN (bit m.broken)) b EMR.MEAS_COUNT.COUNT (if m.broken then 0 else m.count)
  (List.range 16).foldl (fun st i => wr st b (EMR.MEAS_DATA.BYTES.at i) (leNat (slice d (4 * i) 4))) s1

/-- MEAS_SEL_WRITE (R292). -/
def execMeasSelWrite (src id : BitVec 8) (group : BitVec 2) (value : BitVec 32) (s : State) : Out :=
  .next (pageWrite s src.toNat id.toNat (pEMR group.toNat) 0x48 fun st => measSelFx st group.toNat value.toNat)

/-- MEAS_BROKEN (R293). -/
def measBrokenFx (s : State) (n : Nat) : State :=
  let s1 := { s with meas := SMap.set s.meas n { measReg s n with broken := true } }
  let g := ((List.range 4).find? fun i => present s .emr i).getD 0
  chaffPlain (setEvt s1 (pEMR g) EMR.EVT.MEAS_BROKEN) 0x11 g 0x204 0x1113

/-- MEAS_BROKEN. -/
def execMeasBroken (reg : BitVec 6) (s : State) : Out := .next (if running s then measBrokenFx s reg.toNat else s)

/-- The step that runs on group `g` on a kind of core: the digest or extend of the lowest spikelet, else the arithmetic step whose Emmer work
runs there (R294). -/
def stepOnGroup (s : State) (g : Nat) (keccak : Bool) : Option (Nat × Nat) :=
  let own := s.jobs.findSome? fun p => (List.range p.2.steps.length).findSome? fun k => match p.2.steps[k]? with
    | some t =>
      let op := bitsAt t.d0 0 8
      if t.st == .run && t.place == some g && (isDigest op || op == 0x2F) && isKeccak op == keccak && decide (0 < t.work) then some (p.1, k) else none
    | none => none
  match own with
  | some p => some p
  | none => (s.plan.running.find? fun h => h.aux && h.place == g && (h.kind == .keccak) == keccak && stepRuns s h.job h.step).map fun h => (h.job, h.step)

/-- CORE_PARITY_ERROR (R297): cores 0 to 15 are SHA-2 cores and 16 to 19 Keccak cores; the core is excluded, and the step it runs
ends and loses its context. Which step that is, is stepOnGroup's choice (log entry 21). -/
def parityFx (s : State) (g c : Nat) : State :=
  let b := pg (pEMR g)
  let s1 := if c < 16 then wr s b EMR.CORE_OFF.SHA2 (setBit (rd s b EMR.CORE_OFF.SHA2) c)
    else wr s b EMR.CORE_OFF.KECCAK (setBit (rd s b EMR.CORE_OFF.KECCAK) (c - 16))
  let s2 := setEvt (inc (wr s1 b EMR.STAT.CORES_SHORT 1) b EMR.PARITY_ERRS.COUNT) (pEMR g) EMR.EVT.PARITY
  let s3 := chaffPlain s2 0x11 g 0x303 0x1111
  match stepOnGroup s g (decide (16 ≤ c)) with
  | some (j, k) =>
    modStep (failStep s3 j k { status := 0x28, detail := 0x11, loc := 0 }) j k fun t =>
      if isArith (bitsAt t.d0 0 8) then t else { t with place := none, ectx := none }
  | none => s3

/-- CORE_PARITY_ERROR. -/
def execCoreParityError (group : BitVec 2) (core : BitVec 5) (s : State) : Out :=
  .next (if running s && present s .emr group.toNat && decide (core.toNat < 20) then parityFx s group.toNat core.toNat else s)

/-- HOLD_ECC_UNCORR (R214): the step that owns the held data or the suspended context ends. Where the data has been released and waits to
be written, its write goes out poisoned and the job ends (R29). -/
def holdEccFx (s : State) (j k : Nat) : State :=
  let owns := isSuspended s j k || (match job? s j, step? s j k with
    | some x, some t => t.held || (t.st == .run && holdsBins x.bytes k) || (t.st == .ended && (x.desc k).outC == outBIN)
    | _, _ => false)
  let s1 := chaffAny (setEvt (inc s (pg pHLD) HLD.ECC_UNCORR.COUNT) pHLD HLD.EVT.ECC_UNCORR) 9 0 0x202
  if owns then
    let s2 := { s1 with susp := s1.susp.filter fun c => !(c.job == j && c.step == k) }
    match step? s j k with
    | some t =>
      let v : Verdict := { status := 0x28, detail := 9, loc := 0 }
      if t.st = .ended then endChain s2 j (some (v, k))
      else failStep s2 j k v
    | none => s2
  else poisonOut s1 j 9

/-- HOLD_ECC_UNCORR. -/
def execHoldEccUncorr (job : BitVec 9) (step : BitVec 3) (s : State) : Out := .next (if running s then holdEccFx s job.toNat step.toNat else s)

/-! ### Arithmetic (R302 to R326) -/

/-- The chaff message of an operation whose own check fails (R320). -/
def srgCheckFail (s : State) (n op : Nat) : State :=
  chaffPlain (setEvt (inc s (bankPg n) SRG.CHECK_FAILS.COUNT) (pSRG (n / 2)) SRG.EVT.CHECK_FAIL) 0x12 (n / 2) 0x305
    (if op = 0x32 then 0x1212 else 0x1213)

/-- An arithmetic step's result: computed from its bank on the array's unit, and sealed where SEAL_OUT asks for it (R252); the operation in the
array's other bank goes on. -/
def arithFx (s : State) (j k op : Nat) (x : Job) (t : StepRun) (inp : Bytes) : State :=
  match t.place with
  | none => s
  | some n =>
    let a := arBlk (x.param k)
    let bk := bank s n
    let r := arithRes op a inp bk.priv bk.rnd
    let need := srgNeed op a inp bk.priv bk.rnd
    let s1 := countEmmer (countWork (runMicro s n op a (leNat (inp ++ bk.priv ++ bk.rnd))) j k need) j k (auxNeed op a inp bk.priv bk.rnd)
    let s2 := resumeOther (setBankState s1 n bkUNLOADING) n
    let s3 := if r.v.status = 0x28 then srgCheckFail s2 n op else s2
    if op = 0x3B ∧ bitAt a.flags 1 ∧ r.v.status = 0 then
      match realmKeys s x.realm with
      | some rk =>
        let ek := (latticeSizes a.set).1
        formStep (kccBlocks s3 (n / 2) (2 + ceilDiv (r.out.length - ek) 16)) j k
          (okRes (r.out.take ek ++ sealOperand rk.wk x.realm 0x3A 0 (bk.rnd.drop 64) (r.out.drop ek))) false 0
      | none => formStep s3 j k (failRes 8 0 0) false 0
    else formStep s3 j k r false 0

/-- An arithmetic row of the table. -/
def arithRow (s : State) (j k op : Nat) : State := formOp s j k op fun st x t inp => arithFx st j k op x t inp

/-- SRG_MAC (R318). -/
def execSrgMac (job : BitVec 9) (step : BitVec 3) (s : State) : Out := opNext (arithRow s job.toNat step.toNat 0x30)
/-- MODEXP (R313). -/
def execModexp (job : BitVec 9) (step : BitVec 3) (s : State) : Out := opNext (arithRow s job.toNat step.toNat 0x31)
/-- RSA_CRT (R313). -/
def execRsaCrt (job : BitVec 9) (step : BitVec 3) (s : State) : Out := opNext (arithRow s job.toNat step.toNat 0x32)
/-- ECDSA_SIGN (R313). -/
def execEcdsaSign (job : BitVec 9) (step : BitVec 3) (s : State) : Out := opNext (arithRow s job.toNat step.toNat 0x33)
/-- ECDSA_VERIFY (R313). -/
def execEcdsaVerify (job : BitVec 9) (step : BitVec 3) (s : State) : Out := opNext (arithRow s job.toNat step.toNat 0x34)
/-- ECDH (R313). -/
def execEcdh (job : BitVec 9) (step : BitVec 3) (s : State) : Out := opNext (arithRow s job.toNat step.toNat 0x35)
/-- EDDSA_SIGN (R313). -/
def execEddsaSign (job : BitVec 9) (step : BitVec 3) (s : State) : Out := opNext (arithRow s job.toNat step.toNat 0x36)
/-- EDDSA_VERIFY (R313). -/
def execEddsaVerify (job : BitVec 9) (step : BitVec 3) (s : State) : Out := opNext (arithRow s job.toNat step.toNat 0x37)
/-- X25519 (R313). -/
def execX25519 (job : BitVec 9) (step : BitVec 3) (s : State) : Out := opNext (arithRow s job.toNat step.toNat 0x38)
/-- MLKEM_ENCAPS (R313). -/
def execMlkemEncaps (job : BitVec 9) (step : BitVec 3) (s : State) : Out := opNext (arithRow s job.toNat step.toNat 0x39)
/-- MLKEM_DECAPS (R313). -/
def execMlkemDecaps (job : BitVec 9) (step : BitVec 3) (s : State) : Out := opNext (arithRow s job.toNat step.toNat 0x3A)
/-- MLKEM_KEYGEN (R313, R252). -/
def execMlkemKeygen (job : BitVec 9) (step : BitVec 3) (s : State) : Out := opNext (arithRow s job.toNat step.toNat 0x3B)
/-- MLDSA_SIGN (R313). -/
def execMldsaSign (job : BitVec 9) (step : BitVec 3) (s : State) : Out := opNext (arithRow s job.toNat step.toNat 0x3C)
/-- MLDSA_VERIFY (R313). -/
def execMldsaVerify (job : BitVec 9) (step : BitVec 3) (s : State) : Out := opNext (arithRow s job.toNat step.toNat 0x3D)
/-- NTT_RAW (R319). -/
def execNttRaw (job : BitVec 9) (step : BitVec 3) (s : State) : Out := opNext (arithRow s job.toNat step.toNat 0x3E)

/-! ### Random numbers (R141, R342) -/

/-- Whether an RNG step reseeds first. -/
def wantsReseed (x : Job) (k : Nat) : Bool := (x.desc k).op == 0x41 || ((x.desc k).op == 0x40 && bitAt (pfield (x.param k) 4 1) 0)

/-- RNG steps waiting for a seed mark it in `tok`: some 1 while they wait, some 2 once served. -/
def rngFx (s : State) (j k : Nat) (x : Job) (t : StepRun) (inp : Bytes) : State :=
  let no := fun (st : State) => formStep st j k (failRes 0x38 11 0) false 0
  let give := fun (st : State) =>
    if (x.desc k).op = 0x41 then formStep st j k (okRes []) false 0
    else if expLive st 11 then
      let r := expCall st 11 (if wantsReseed x k then [] else inp) (pfield (x.param k) 0 4)
      formStep r.1 j k (okRes r.2) false 0
    else no st
  if !enabled s pTEF then no s
  else if !wantsReseed x k ∨ t.tok = some 2 then give s
  else if t.tok = some 1 then s
  else if flag s (pg pTEF) TEF.STAT.POOL_LOW then no s
  else modStep s j k fun u => { u with tok := some 1 }

/-- RNG_GENERATE (R141). -/
def execRngGenerate (job : BitVec 9) (step : BitVec 3) (s : State) : Out :=
  .next (formOp s job.toNat step.toNat 0x40 fun st x t inp => rngFx st job.toNat step.toNat x t inp)
/-- RNG_RESEED (R141). -/
def execRngReseed (job : BitVec 9) (step : BitVec 3) (s : State) : Out :=
  .next (formOp s job.toNat step.toNat 0x41 fun st x t inp => rngFx st job.toNat step.toNat x t inp)

/-! ### Entries and steps (R122 to R128, R148, R240, R255) -/

/-- The entry that is forwarded next: by class, then by age. -/
def nextForward (s : State) : Option DqEnt :=
  [1, 2, 3].findSome? fun c => s.rch.dq.find? fun d => d.cls == c && mayForward s d && fwdRoom s d

/-- ENTRY_DISPATCH (R148): entries of rings that are forwarded leave over their link instead (R473). No entry starts while TCK is not ENABLED
(R180), but those that meet a fenced TCK end UNSUPPORTED (R125). -/
def execEntryDispatch (s : State) : Out :=
  .next (if running s then match nextForward s with
    | some d => sendJob s d
    | none =>
      if !enabled s pTCK && ustate s pTCK != 4 then s
      else match nextEntry s (mayForward s) with
        | some (d, j) => admitNew (dispatch s d j)
        | none => s
  else s)

/-- BINS_RESERVED (R122). -/
def execBinsReserved (s : State) : Out :=
  .next (if running s then match nextBins s with
    | some j => match job? s j with
      | some x => admitNew (pumpJob (reserveBins s j (chainBins x.bytes)) j)
      | none => s
    | none => s
  else s)

/-- KCC_FILL_DONE (R236, R240). -/
def execKccFillDone (fill : BitVec 4) (s : State) : Out :=
  .next (if running s && enabled s pKCC then admitNew (pumpJobs (endFill s fill.toNat)) else s)

/-- KEY_REFUSED (R255). -/
def execKeyRefused (n : BitVec 12) (s : State) : Out := .next (if running s then admitNew (pumpJobs (answerRefusal s n.toNat)) else s)

/-- STEP_END (R127). -/
def execStepEnd (job : BitVec 9) (step : BitVec 3) (s : State) : Out :=
  .next (if running s then admitNew (endStep s job.toNat step.toNat) else s)

/-- BANK_LOADED (R308): the operation's request reaches the planner. -/
def execBankLoaded (array : BitVec 4) (bank : BitVec 1) (s : State) : Out :=
  .next (if running s then admitNew (bankLoadedFx s (2 * array.toNat + bank.toNat)) else s)

end Sys2Proof.Machine
end

