-- ==== Sys2Proof/Machine/KeyOps.lean ====
section
/-! DEFINITION. Key management (R142, R143, R241, R242, R250, R251): installs, exports, revokes and the status record, and the
husk records in the Granary. -/

namespace Sys2Proof.Machine

/-! ### The key block (R142) -/

structure KeyBlk where
  kind : Nat
  flags : Nat
  limit : Nat
  label : Bytes
deriving DecidableEq, Repr

def keyBlk (p : Bytes) : KeyBlk := { kind := pfield p 4 1, flags := pfield p 5 1, limit := pfield p 8 6, label := slice p 16 32 }

/-- The lookup that stands for a key-management step's access of its slot. -/
def stepLook (x : Job) (j k : Nat) : Lookup :=
  { job := j, eid := x.eid, step := k, realm := x.realm, k := keySlotOf x.bytes (x.desc k), op := (x.desc k).op, wait := .unit }

/-- The absolute slot of a step (R233). -/
def stepSlot (s : State) (x : Job) (k : Nat) : Nat := realmBase s x.realm + keySlotOf x.bytes (x.desc k)

/-- A step that can draw no nonce (R249): neither KCC expander supplies, and 9 was tried last. -/
def noNonce (s : State) (j k : Nat) : State := formStep s j k (failRes 0x38 9 0) false 0

/-! ### Steps that only read their line -/

/-- KEY_WRAP_EXPORT (R251). -/
def exportFx (s : State) (j k : Nat) (x : Job) (t : StepRun) : State :=
  match t.key, realmKeys s x.realm with
  | .ready c, some rk =>
    match pinnedLine s c x.realm with
    | none => s
    | some (_, l) =>
      if !bitAt l.flags 1 then
        refuse (modStep (unpin s c x.realm) j k fun u => { u with key := .waiting }) (stepLook x j k) 0x0819
      else match kccDraw s 8 with
        | (s1, some rnd) => formStep (kccBlocks s1 l.slot 13) j k (okRes ((lineEntry s rk l l.count).wrap rk.wk rnd)) false 0
        | (s1, none) => noNonce s1 j k
  | _, _ => s

/-- KEY_WRAP_EXPORT. -/
def execKeyWrapExport (job : BitVec 9) (step : BitVec 3) (s : State) : Out :=
  .next (formOp s job.toNat step.toNat 0x52 fun st x t _ => exportFx st job.toNat step.toNat x t)

/-- HMAC_PRESTATE (R250): the delivered line holds the prestates. -/
def execHmacPrestate (job : BitVec 9) (step : BitVec 3) (s : State) : Out :=
  .next (formOp s job.toNat step.toNat 0x54 fun st _ _ _ => formStep st job.toNat step.toNat (okRes []) false 0)

/-- The status record of a line (R251). -/
def statusRec (l : Line) (cached : Nat) : Bytes :=
  natLe 4 l.gen ++ [byteOf l.kind, byteOf l.alg, byteOf (l.flags % 4 + 4 * cached), 0] ++
    natLe 6 (if l.limit = 0 then 2 ^ 48 - 1 else l.limit - l.count) ++ zeros 2

/-- KEY_STATUS (R251). -/
def statusFx (s : State) (j k : Nat) (x : Job) (t : StepRun) : State :=
  match t.key with
  | .ready c => match pinnedLine s c x.realm with
    | some (_, l) => formStep s j k (okRes (statusRec l (t.tok.getD 0))) false 0
    | none => s
  | _ => s

/-- KEY_STATUS. -/
def execKeyStatus (job : BitVec 9) (step : BitVec 3) (s : State) : Out :=
  .next (formOp s job.toNat step.toNat 0x56 fun st x t _ => statusFx st job.toNat step.toNat x t)

/-! ### Installs (R251, R254, R472) -/

/-- The reason code that refuses an install or a revoke before its own checks, 0 when none does. -/
def slotReason (s : State) (x : Job) (k : Nat) : Nat :=
  let slot := stepSlot s x k
  match realmKeys s x.realm with
  | none => 0x081C
  | some rk =>
    if !realmActive s x.realm then 0x081C
    else if realmCount s x.realm ≤ keySlotOf x.bytes (x.desc k) then 0x0811
    else if rk.stored && decide (rd s (pg pKCC) KCC.SB_SLOTS.COUNT ≤ slot) then 0x0812
    else if slotFinal s x.realm slot then 0x081E
    else 0

/-- What an install writes: a reason code, a tag failure (none), or the entry. `mat` is generated material. -/
def installEntry (s : State) (x : Job) (k : Nat) (inp mat : Bytes) : Except (Option Nat) Entry :=
  let op := (x.desc k).op
  let slot := stepSlot s x k
  let b := keyBlk (x.param k)
  let e0 : Entry := { realm := x.realm, kind := b.kind, alg := 0, flags := b.flags % 4, format := 1, limit := b.limit, gen := slotGen s x.realm slot,
                      slot, count := 0, mat, matLen := mat.length }
  match realmKeys s x.realm with
  | none => .error (some 0x081C)
  | some rk =>
    if !rk.stored then .error (some 0x081D)
    else if op = 0x51 then
      let u := unwrapEntry rk.wk inp
      if !u.2 then .error none
      else if u.1.realm ≠ x.realm then .error (some 0x0813)
      else if kindLen u.1.kind = 0 then .error (some 0x0816)
      else if u.1.format ≠ 1 ∨ !matFits u.1.kind u.1.matLen then .error (some 0x0813)
      else .ok { u.1 with slot, gen := e0.gen }
    else if kindLen b.kind = 0 then .error (some 0x0816)
    else if op = 0x50 then
      let m := deriveLabel s rk x.realm slot b.kind b.label
      .ok { e0 with mat := m, matLen := m.length }
    else .ok e0

/-- A line that reserves a way for an install; no lookup sees it. -/
def holdLine (slot : Nat) : Line := blankLine 1024 slot

/-- Send a PREPARE of an install to every link of a realm's peer set, to be answered for write `tok` (R472). -/
def sendPrepares (s : State) (r slot tok : Nat) (entry : Bytes) : State :=
  (peerSet s r).foldl (fun st l =>
    let t := newTx st l
    let x := link t.2 l
    sendMsg (setLink t.2 l { x with outs := x.outs ++ [{ tx := t.1, slot, tok, done := none }] }) l mPREPARE
      { bareMsg mPREPARE t.1 r with addr := slot, len := 256, body := entry }) s

/-- Decide the outcome of an install for the peers that hold its PREPARE: COMMIT or CANCEL goes to each. -/
def decideOuts (s : State) (r slot tok : Nat) (good : Bool) : State :=
  (List.range 4).foldl (fun st l =>
    let mine := (link st l).outs.filter fun o => o.tok == tok && o.done.isNone
    mine.foldl (fun u o =>
      let x := link u l
      let m := if good then mCOMMIT else mCANCEL
      sendMsg (setLink u l { x with outs := x.outs.map fun q => if q.tx = o.tx then { q with done := some good } else q }) l m
        { bareMsg m o.tx r with addr := slot }) st) s

/-- Draw what an install needs: a nonce, and material for a generated key. -/
def installDraw (s : State) (x : Job) (k : Nat) : State × Option (Bytes × Bytes) :=
  let n := if (x.desc k).op = 0x55 then kindLen (keyBlk (x.param k)).kind else 0
  match kccDraw s 8 with
  | (s1, none) => (s1, none)
  | (s1, some nonce) =>
    if n = 0 then (s1, some (nonce, []))
    else match kccDraw s1 n with
      | (s2, some m) => (s2, some (nonce, m))
      | (s2, none) => (s2, none)

/-- Encrypt blocks of an install on the lane of its slot (R236): its derivation or unwrap, and the wrap of its entry. -/
def installBlocks (op len : Nat) : Nat := 13 + (if op = 0x50 then 3 * ceilDiv len 16 else if op = 0x51 then 13 else 0)

/-- Start an install with its way taken: entry wrapped, peers prepared, the Seedbank write presented. It waits for a way or, where an open
lease must be rewrapped first, for an expander (R246, R249). -/
def beginInstall (s : State) (j k : Nat) (x : Job) (inp : Bytes) : State :=
  let slot := stepSlot s x k
  match takeWay s x.realm slot with
  | none =>
    if (pickWay s (kccSet s slot x.realm)).isSome || (step? s j k).any fun t => t.tok == some 1 then s
    else modStep (setEvt (inc s (pg pKCC) KCC.PIN_WAITS.COUNT) pKCC KCC.EVT.PIN_WAIT) j k fun t => { t with tok := some 1 }
  | some (key, s1) =>
    match installDraw s1 x k, realmKeys s x.realm with
    | (s2, some (nonce, mat)), some rk =>
      match installEntry s2 x k inp mat with
      | .error _ => s2
      | .ok e =>
        let entry := e.wrap rk.wk nonce
        let v := validLine (kccBlocks s2 slot (installBlocks (x.desc k).op e.matLen)) (holdLine slot) e entry
        let s3 := setLine v.1 key (holdLine slot)
        let tok := s3.kcc.nextTok
        let peers := if bitAt e.flags 0 then (peerSet s x.realm).length else 0
        let w : SeedWr := { use := .install j k key { v.2 with realm := x.realm }, entry, answered := false, acks := peers }
        let s4 := modStep s3 j k fun t => { t with tok := some (tok + 10) }
        if peers = 0 then seedWrite s4 slot w else sendPrepares (seedWrite s4 slot w) x.realm slot tok w.entry
    | (s2, _), _ => noNonce s2 j k

/-- Whether another operation on a slot is under way: a revoke, a fill, a prepared install or a Seedbank write. -/
def slotBusy (s : State) (r slot : Nat) : Bool :=
  (s.kcc.revokes.any fun v => v.slot == slot && v.realm == r) || prepPending s r slot ||
    (s.kcc.lines.any fun p => p.2.slot == slot && (p.2.realm == r || p.2.realm == 1024) && (p.2.st == .filling || p.2.leaseWait)) ||
    s.kcc.writes.any fun p => (match p.2.use with
      | .install _ _ _ l => l.slot == slot
      | .evict sl | .peer _ _ sl _ => sl == slot
      | .lease ln _ => (lineAt s ln).any (·.slot == slot)
      | .pull _ => false)

/-- An install step (R251): refused, failed, waiting, or started. -/
def installFx (s : State) (j k : Nat) (x : Job) (t : StepRun) (inp : Bytes) : State :=
  let slot := stepSlot s x k
  let e := slotReason s x k
  let no := fun (c : Nat) => refuse (modStep s j k fun u => { u with key := .waiting }) (stepLook x j k) c
  if (match t.tok with | some n => decide (10 ≤ n) | none => false) || !enabled s pKCC then s
  else if e ≠ 0 then no e
  else match installEntry s x k inp (zeros (kindLen (keyBlk (x.param k)).kind)) with
    | .error none => formStep s j k (failRes 2 0 0) false 0
    | .error (some c) => no c
    | .ok en =>
      if (fillLanes s).isEmpty then s
      else if bitAt en.flags 0 && !coherent s x.realm then no 0x0818
      else if bitAt en.flags 0 && en.limit != 0 && !(peerSet s x.realm).isEmpty then no 0x1418
      else if slotBusy s x.realm slot then s
      else beginInstall s j k x inp

/-- KEY_DERIVE_INSTALL (R251): in a DERIVED realm the lookup has loaded the slot's derived context. -/
def execKeyDeriveInstall (job : BitVec 9) (step : BitVec 3) (s : State) : Out :=
  .next (formOp s job.toNat step.toNat 0x50 fun st x t inp =>
    if realmStored st x.realm then installFx st job.toNat step.toNat x t inp else formStep st job.toNat step.toNat (okRes []) false 0)

/-- KEY_UNWRAP_INSTALL (R251). -/
def execKeyUnwrapInstall (job : BitVec 9) (step : BitVec 3) (s : State) : Out :=
  .next (formOp s job.toNat step.toNat 0x51 fun st x t inp => installFx st job.toNat step.toNat x t inp)

/-- KEY_GENERATE_INSTALL (R251). -/
def execKeyGenerateInstall (job : BitVec 9) (step : BitVec 3) (s : State) : Out :=
  .next (formOp s job.toNat step.toNat 0x55 fun st x t inp => installFx st job.toNat step.toNat x t inp)

/-- Whether a step still waits for the Seedbank write `tok`. -/
def awaitsWrite (s : State) (j k tok : Nat) : Bool := stepRuns s j k && (step? s j k).any fun t => t.tok == some (tok + 10)

/-- The Seedbank write of an install was answered with a status, 0 for none (R251): the line is written and the peers are told, or the
step fails. An install whose chain has ended short of this point has no effect (R127). -/
def installAnswer (s : State) (tok j k key : Nat) (l : Line) (status addr : Nat) : State :=
  let s0 := { s with kcc := { s.kcc with writes := SMap.erase s.kcc.writes tok } }
  if status = 0 && awaitsWrite s j k tok then
    retryAll (formStep (decideOuts (firstLease (commitLine s0 key l) key l) l.realm l.slot tok true) j k (okRes []) false 0)
  else
    let s1 := decideOuts (dropLine s0 key) l.realm l.slot tok false
    retryAll (if awaitsWrite s j k tok then failStep s1 j k { status, detail := 0, loc := addr } else s1)

/-- A PACK for write `tok` has come (R472): the last one lets the write go; an install whose step has ended is cancelled. -/
def packArrived (s : State) (tok : Nat) : State :=
  match SMap.get? s.kcc.writes tok with
  | none => s
  | some w => match w.use with
    | .install j k key l =>
      if !awaitsWrite s j k tok then
        retryAll (decideOuts (dropLine { s with kcc := { s.kcc with writes := SMap.erase s.kcc.writes tok } } key) l.realm l.slot tok false)
      else
        let s1 := { s with kcc := { s.kcc with writes := SMap.set s.kcc.writes tok { w with acks := w.acks - 1 } } }
        if w.acks = 1 then seedSend s1 l.slot tok else s1
    | _ => s

/-- A peer's install is in this side's Seedbank (R472): the line goes, what waited is looked up again, and CACK answers. A write
that fails is reported as any write-back's. -/
def peerAnswer (s : State) (tok l tx slot r : Nat) (err : Bool) : State :=
  let s1 := evictAnswer s tok err
  let s2 := { s1 with kcc := { s1.kcc with lines := s1.kcc.lines.filter fun p => !(p.2.slot == slot && p.2.realm == r && p.2.pins == 0) } }
  let s3 := match findLine s2 r slot with | some (k, o) => setLine s2 k { o with st := .stale } | none => s2
  let x := link s3 l
  let s4 := setLink s3 l { x with preps := x.preps.filter fun q => q.tx != tx }
  retry (sendMsg s4 l mCACK { bareMsg mCACK tx r with addr := slot }) fun k => k.wait == .revoke && k.realm == r

/-- A pulled entry is in this side's Seedbank, and its fill goes on (R471); a write that fails ends it as a failed read does. -/
def pullAnswer (s : State) (tok n : Nat) (entry : Bytes) (err : Bool) (addr : Nat) : State :=
  let s1 := { s with kcc := { s.kcc with writes := SMap.erase s.kcc.writes tok } }
  if err || (SMap.get? s1.kcc.fills n).any (·.bad) then seedRead s1 n none addr
  else match SMap.get? s1.kcc.fills n with
    | some f => { s1 with kcc := { s1.kcc with fills := SMap.set s1.kcc.fills n { f with entry := some entry } } }
    | none => s1

/-- The answer to any Seedbank entry write: a status, 0 for none. -/
def seedAnswer (s : State) (tok status addr : Nat) : State :=
  let err := status != 0
  match SMap.get? s.kcc.writes tok with
  | none => s
  | some w => match w.use with
    | .install j k key l => installAnswer s tok j k key l status addr
    | .lease line n => leaseAnswer s tok line n err
    | .evict _ => evictAnswer s tok err
    | .peer l tx slot r => peerAnswer s tok l tx slot r err
    | .pull n => pullAnswer s tok n w.entry err addr

/-! ### Husk records in the Granary (R230, R241) -/

/-- The row of husk record `i` in a copy, in the last 128 KiB of WRAPPED_ROOTS: copy A, then copy B (log entry 30). -/
def huskRow (copy i : Nat) : Nat := 98304 + 2048 + 1024 * copy + i / 8

/-- The word of a husk record; a final record, whose mark the layout does not show, has a generation field of 0 (log entry 30). -/
def huskWord (slot : Nat) (h : Husk) : Nat := h.realm + slot * 2 ^ 10 + (if h.final then 0 else h.gen) * 2 ^ 33

/-- The husk record of a word, with its slot. -/
def huskOfWord (w : Nat) : Nat × Husk :=
  let g := w / 2 ^ 33
  (bitsAt w 10 23, { realm := w % 1024, gen := if g = 0 then 2 ^ 31 - 1 else g, final := g == 0 })

/-- Word `i` of a husk copy, when it is good and not erased. -/
def huskAt (s : State) (copy i : Nat) : Option Nat :=
  let r := readRow s (huskRow copy i)
  let w := r.word (i % 8)
  if bitAt r.flagged (i % 8) ∨ w = 2 ^ 64 - 1 then none else some w

/-- Husk places in use, by the rows that hold something. -/
def huskPlaces (s : State) : List Nat :=
  let rs := (s.grn.rows.map (·.1)).filterMap fun n => if 100352 ≤ n ∧ n < 102400 then some ((n - 100352) % 1024) else none
  let ms := (s.grn.remap.map (·.1)).filterMap fun n => if 100352 ≤ n ∧ n < 102400 then some ((n - 100352) % 1024) else none
  (((List.range 1024).filter fun r => rs.contains r || ms.contains r).flatMap fun r => (List.range 8).map (8 * r + ·)).filter
    fun i => (huskAt s 0 i).isSome || (huskAt s 1 i).isSome

/-- The place of a slot's husk record, or the first one that no record holds or is being given. -/
def huskPlace (s : State) (r slot : Nat) : Nat :=
  match SMap.get? s.kcc.places (huskKey r slot) with
  | some i => i
  | none =>
    let used := huskPlaces s ++ s.kcc.places.map (·.2)
    ((List.range 8192).find? fun i => !used.contains i).getD 0

/-- The CP programs a word of a row; a refusal is noted under the tag. -/
def cpWord (s : State) (tag row word v : Nat) : State :=
  let r := submitProg s (.cp tag) row (2 ^ word) (zeros (8 * word) ++ natLe 8 v ++ zeros (56 - 8 * word)) 5
  if r.2 = 0 then r.1 else { s with cp := { s.cp with fails := SMap.set s.cp.fails tag r.2 } }

/-- Program both copies of a husk record. -/
def writeHusk (s : State) (tag slot : Nat) (h : Husk) : State :=
  let i := huskPlace s h.realm slot
  let s1 := { s with kcc := { s.kcc with places := SMap.set s.kcc.places (huskKey h.realm slot) i } }
  cpWord (cpWord s1 tag (huskRow 0 i) (i % 8) (huskWord slot h)) tag (huskRow 1 i) (i % 8) (huskWord slot h)

/-- Whether the CP has programs of a tag waiting or running. -/
def cpBusy (s : State) (tag : Nat) : Bool :=
  let mine := fun (p : Prog) => p.use == .cp tag || p.held == some (.cp tag)
  s.grn.queue.any mine || s.grn.cur.any fun p => mine p.2

/-- Husk table occupancy (R241). -/
def showHusks (s : State) : State :=
  let high := decide (huskCap s * 15 < s.kcc.husks.length * 16)
  let s1 := wr s (pg pKCC) KCC.STAT.HUSK_HIGH (bit high)
  if high && !flag s (pg pKCC) KCC.STAT.HUSK_HIGH then setEvt s1 pKCC KCC.EVT.HUSK_HIGH else s1

/-- Put a husk record into the on-chip table. -/
def setHusk (s : State) (slot : Nat) (h : Husk) : State := showHusks { s with kcc := { s.kcc with husks := SMap.set s.kcc.husks (huskKey h.realm slot) h } }

/-- Whether the husk table has no room for a record of the slot, counting the records that revokes under way will need (R242). -/
def huskFull (s : State) (r slot : Nat) : Bool :=
  let due := s.kcc.revokes.filter fun v => !(SMap.get? s.kcc.husks (huskKey v.realm v.slot)).isSome
  (huskOf s r slot).isNone && decide (huskCap s ≤ s.kcc.husks.length + due.length)

/-! ### KEY_REVOKE (R242) -/

/-- Whether a slot is SHARED as far as the KCC can tell: by its line, its range, or, for a STORED slot without a line, by its
realm's having peers (log entry 31). -/
def slotShared (s : State) (r slot : Nat) : Bool :=
  match findLine s r slot with
  | some (_, l) => bitAt l.flags 0
  | none =>
    if realmStored s r then !(peerSet s r).isEmpty
    else match rangeOf s r (slot - realmBase s r) with | some n => bitAt (rangeFlags s r n) 0 | none => false

/-- The husk record that a revoke leaves. -/
def revokedHusk (s : State) (r slot : Nat) : Husk :=
  let g := slotGen s r slot
  if g = 2 ^ 31 - 1 then { realm := r, gen := g, final := true } else { realm := r, gen := g + 1, final := false }

def modRevoke (s : State) (r slot : Nat) (f : Revoking → Revoking) : State :=
  { s with kcc := { s.kcc with revokes := s.kcc.revokes.map fun v => if v.slot = slot ∧ v.realm = r then f v else v } }

/-- The CP takes up a revoke once no pin and no Seedbank write of the slot remains: both husk copies are programmed. -/
def takeUpRevoke (s : State) (v : Revoking) : State :=
  let pinned := s.kcc.lines.any fun p => p.2.slot == v.slot && p.2.realm == v.realm && decide (0 < p.2.pins)
  let writing := s.kcc.writes.any fun p => match p.2.use with
    | .install _ _ _ l => l.slot == v.slot
    | .evict sl | .peer _ _ sl _ => sl == v.slot
    | .lease ln _ => (lineAt s ln).any (·.slot == v.slot)
    | .pull _ => false
  if v.asked || pinned || writing || !cpRuns s || pfRefuse s then s
  else
    let s1 := modRevoke { s with cp := { s.cp with fails := SMap.erase s.cp.fails (v.slot + 1) } } v.realm v.slot fun w => { w with asked := true }
    writeHusk s1 (v.slot + 1) v.slot v.husk

/-- A KEY_REVOKE step. -/
def revokeFx (s : State) (j k : Nat) (x : Job) (t : StepRun) : State :=
  let slot := stepSlot s x k
  let e := slotReason s x k
  let no := fun (c : Nat) => refuse (modStep s j k fun u => { u with key := .waiting }) (stepLook x j k) c
  if t.tok = some 3 then
    (match s.kcc.revokes.find? fun v => v.slot == slot && v.realm == x.realm with | some v => takeUpRevoke s v | none => s)
  else if !enabled s pKCC then s
  else if e ≠ 0 then no e
  else if slotShared s x.realm slot && !coherent s x.realm then no 0x0818
  else if huskFull s x.realm slot then setEvt (no 0x081A) pKCC KCC.EVT.HUSK_FULL
  else if slotBusy s x.realm slot then s
  else
    let s1 := match findLine s x.realm slot with | some (key, l) => setLine s key { l with st := .revoking } | none => s
    let v : Revoking := { job := j, step := k, realm := x.realm, slot, husk := revokedHusk s x.realm slot, asked := false, recorded := false, acks := [] }
    let s2 := modStep { s1 with kcc := { s1.kcc with revokes := s1.kcc.revokes ++ [v] } } j k fun u => { u with tok := some 3 }
    takeUpRevoke s2 v

/-- KEY_REVOKE. -/
def execKeyRevoke (job : BitVec 9) (step : BitVec 3) (s : State) : Out :=
  .next (formOp s job.toNat step.toNat 0x53 fun st x t _ => revokeFx st job.toNat step.toNat x t)

/-- Zeroize the lines of a slot and refuse what waited on it. -/
def dropSlot (s : State) (r slot reason : Nat) : State :=
  let s1 := { s with kcc := { s.kcc with lines := s.kcc.lines.filter fun p => !(p.2.slot == slot && p.2.realm == r) } }
  let mine := fun (l : Lookup) => l.wait == .revoke && l.realm == r && realmBase s r + l.k == slot
  let ls := s1.kcc.lookups.filter mine
  ls.foldl (fun st l => refuse st l reason) { s1 with kcc := { s1.kcc with lookups := s1.kcc.lookups.filter fun l => !mine l } }

/-- Both copies of a revoke's record have verified: the revoke commits, its record stands in the on-chip table, and every coherent peer of a
SHARED slot is told (R242, R472). -/
def revokeRecorded (s : State) (v : Revoking) : State :=
  let peers := if slotShared s v.realm v.slot then peerSet s v.realm else []
  let s1 := modRevoke (setHusk s v.slot v.husk) v.realm v.slot fun w => { w with recorded := true, acks := peers }
  let s2 := if stepRuns s v.job v.step && (step? s v.job v.step).any (fun t => t.tok == some 3) then modStep s1 v.job v.step fun t => { t with committed := true } else s1
  peers.foldl (fun st l =>
    let t := newTx st l
    sendMsg t.2 l mREVOKE { bareMsg mREVOKE t.1 v.realm with addr := v.slot, len := 4, body := natLe 4 v.husk.gen }) s2

/-- A revoke whose acknowledgements are all there ends: the line is zeroized, what waited is refused, and its step completes. -/
def revokeEnds (s : State) (v : Revoking) : State :=
  let s1 := dropSlot s v.realm v.slot (if v.husk.final then 0x081E else 0x0814)
  let s2 := { s1 with kcc := { s1.kcc with revokes := s1.kcc.revokes.filter fun w => !(w.slot == v.slot && w.realm == v.realm) } }
  let s3 := if stepRuns s v.job v.step && (step? s v.job v.step).any (fun t => t.tok == some 3) then formStep s2 v.job v.step (okRes []) false 0 else s2
  pumpJobs (retryAll s3)

/-- REVOKE_COMMIT (R242): the CP takes the next step of a slot's revoke. A refused program (R396) is tried again. -/
def revokeCommitFx (s : State) (slot : Nat) : State :=
  match s.kcc.revokes.find? fun v => v.slot == slot with
  | none => s
  | some v =>
    if !v.asked then takeUpRevoke s v
    else if cpBusy s (slot + 1) || !cpRuns s then s
    else match SMap.get? s.cp.fails (slot + 1) with
      | some _ => modRevoke s v.realm slot fun w => { w with asked := false }
      | none =>
        let s1 := if v.recorded then s else revokeRecorded s v
        match s1.kcc.revokes.find? fun w => w.slot == slot && w.realm == v.realm with
        | some w => if w.acks.isEmpty then revokeEnds s1 w else s1
        | none => s1

/-- REVOKE_COMMIT. -/
def execRevokeCommit (slot : BitVec 23) (s : State) : Out := .next (if running s && enabled s pKCC then revokeCommitFx s slot.toNat else s)

end Sys2Proof.Machine
end

