-- ==== Sys2Proof/Machine/Peers.lean ====
section
/-! DEFINITION. The states of a Culm link (R463 to R468): training flits, the end of the work shared with a peer, loss,
fence and the fatal lock. -/

namespace Sys2Proof.Machine


/-- The control flit TRAIN of a link (R458, R463): its EPOCH is one above the last. -/
def trainFlit (s : State) (l : Nat) : Bytes :=
  let b := pg (pCLM l)
  let x := link s l
  controlFlit x 3 (zeros 2 ++ natLe 8 (deviceId s) ++ natLe 1 (rd s b CLM.LINK_CFG.NODE) ++ natLe 1 (rd s b CLM.PROTO.MIN) ++
    natLe 1 (rd s b CLM.PROTO.MAX) ++ natLe 1 (rd s b CLM.FENCE.FENCE + 2 * bit (locked s)) ++ natLe 2 (x.epoch + 1))

/-- A link shows its state and presents what that state sends: TRAIN flits in TRAINING and FENCED (R464). -/
def enterLink (s : State) (l v : Nat) : State :=
  let s1 := setLinkState s l v
  let x := link s1 l
  setLink s1 l { x with out := if v = lkTRAINING ∨ v = lkFENCED then trainFlit s1 l else [] }

/-- Training starts (R463); a link that comes back to it counts a retrain (R482). -/
def startTraining (s : State) (l : Nat) : State :=
  enterLink (if linkState s l = lkDOWN then s else inc s (pg (pCLM l)) CLM.RETRAINS.COUNT) l lkTRAINING

/-- A realm's lookups that waited for a peer's install, or find its coherence gone, are looked up again. -/
def retryRealm (s : State) (r : Nat) : State := pumpJobs (retry s fun k => k.wait == .revoke && k.realm == r)

/-- The originating side of a lost peer (R466): every forwarded entry that has no DONE completes ORPHANED, with COVER 1. -/
def orphanJobs (s : State) (l : Nat) : State :=
  let js := (link s l).jobs
  let s1 := setLink s l { link s l with jobs := [] }
  incBy (js.foldl (fun st j => finishEntry st j.ent.sq j.ent.eid j.ent.index (entTag j.ent.bytes) { status := 0x19, detail := 0, loc := 0 } 0 []
    false []) s1) (pg (pCLM l)) CLM.ORPHANED.COUNT js.length

/-- The executing side of a lost peer (R466): its jobs stop at their next quantum boundary, and no answer is sent. -/
def dropPeerJobs (s : State) (l : Nat) : State :=
  let mine := fun (p : Option PeerRef) => match p with | some r => r.link == l | none => false
  let s1 := { s with rch := { s.rch with dq := s.rch.dq.filter fun d => !mine d.peer } }
  let s2 := setLink s1 l { link s1 l with runs := [], asks := [] }
  let gone := fun (p : Nat × Job) =>
    if mine p.2.peer then (p.1, { p.2 with aborting := true, peer := p.2.peer.map fun r => { r with lost := true } }) else p
  endWaiting { s2 with jobs := s2.jobs.map gone }

/-- Pulled fills that were under way end, and their lookups are looked up again. -/
def dropPulls (s : State) (l : Nat) : State :=
  let ns := (link s l).pulls.map (·.2)
  ns.foldl (fun st n => match SMap.get? st.kcc.fills n with
    | some f =>
      let s1 := { st with kcc := { st.kcc with fills := SMap.erase st.kcc.fills n } }
      if f.bad then s1 else retry (dropLine s1 f.line) fun k => k.wait == .fill n
    | none => st) (setLink s l { link s l with pulls := [] })

/-- An install of this side that its peers cannot all hold is cancelled (R472): the step ends KEY_UNAVAILABLE for want of
coherence. -/
def cancelInstall (s : State) (tok : Nat) : State :=
  match SMap.get? s.kcc.writes tok with
  | some w => match w.use with
    | .install j k key ln =>
      let s1 := decideOuts (dropLine { s with kcc := { s.kcc with writes := SMap.erase s.kcc.writes tok } } key) ln.realm ln.slot tok false
      let s2 := if awaitsWrite s j k tok then (match job? s1 j with
        | some x => refuse (modStep s1 j k fun u => { u with key := .waiting }) (stepLook x j k) 0x0818
        | none => s1) else s1
      retryAll s2
    | _ => s
  | none => s

/-- Installs of this side that still wait for a PACK of the lost peer are cancelled. -/
def dropInstalls (s : State) (l : Nat) : State :=
  ((link s l).outs.filter fun o => o.done.isNone).foldl (fun st o => cancelInstall st o.tok) s

/-- The end of all work shared with a peer (R466): entries, jobs, window requests, pulls and installs; its realms lose
coherence, and installs it left here wait for their outcome. -/
def endShared (s : State) (l : Nat) : State :=
  let s1 := dropInstalls (dropPulls (dropPeerJobs (orphanJobs s l) l) l) l
  let x := link s1 l
  let s2 := setLink s1 l { x with
    txq := [], replay := [], resends := 0, partials := [], inbox := [], serves := [], swap := none, syncs := [], syncOk := [], cred := [0, 0, 0],
    preps := x.preps.map fun q => { q with lost := true } }
  let s3 := { s2 with kcc := { s2.kcc with revokes := s2.kcc.revokes.map fun v => { v with acks := v.acks.filter (· != l) } } }
  let s4 := (List.range 16).foldl (fun st n => wr st (pg (pCLM l)) (CLM.SHR.COHERENT.at n) 0) s3
  (List.range 16).foldl (fun st n =>
    if flag st (pg (pCLM l)) (CLM.SHR.EN.at n) then retryRealm st (rd st (pg (pCLM l)) (CLM.SHR.REALM.at n)) else st) s4

/-- Whether a link carries a peer. -/
def linkLive (s : State) (l : Nat) : Bool := linkState s l == lkUP || linkState s l == lkISOLATED

/-- Loss of the peer (R465): 0x1416, or 0 for a LEAVE. `next` is the state that follows, LOST unless the instance leaves service. -/
def loseLink (s : State) (l reason next : Nat) : State :=
  if linkLive s l then
    chaffPlain (setEvt (enterLink (endShared s l) l next) (pCLM l) CLM.EVT.LOST) 0x14 l 0x802 reason
  else s

/-- The instance goes out of service, by disable, retirement or fence: a peer counts as lost, and the link is DOWN (R465, R497). -/
def linkOff (s : State) (l : Nat) : State :=
  let s1 := loseLink s l 0x1416 lkDOWN
  if linkState s1 l = lkLOCKED then s1 else enterLink s1 l lkDOWN

/-- The message MIRROR of a record (R478): the source, kind and class of its ADDR field, this block's NODE and the record's SEQ. -/
def sendMirror (s : State) (l source kind cls seq : Nat) : State :=
  let a := source + kind * 2 ^ 16 + cls * 2 ^ 28 + rd s (pg (pCLM l)) CLM.LINK_CFG.NODE * 2 ^ 30 + seq % 65536 * 2 ^ 32
  if linkLive s l then sendMsg s l mMIRROR { bareMsg mMIRROR 0 0 with addr := a } else s

/-- A LEAVE on a live link. -/
def sendLeave (s : State) (l : Nat) : State := if linkLive s l then sendMsg s l mLEAVE (bareMsg mLEAVE 0 0) else s

/-- The fatal lock holds every link LOCKED, after a LEAVE on every UP link (R467). -/
def lockLinks (s : State) : State :=
  (List.range s.part.links).foldl (fun st l =>
    if present st .clm l then
      let s1 := if linkState st l = lkUP then sendLeave st l else st
      let o := (link s1 l).out
      let s2 := setLinkState (endShared s1 l) l lkLOCKED
      setLink s2 l { link s2 l with out := o }
    else st) s

/-! ### The steward's fence (R468) -/

/-- A write to CLM.FENCE under its unlock. A fence ends all work shared with the peer, makes this side authoritative for the link's
realms (R470) and lets the values stand that the peer's pending installs would have replaced (R472). -/
def fenceFx (s : State) (l v : Nat) : State :=
  let b := pg (pCLM l)
  if bitAt v 0 then
    if flag s b CLM.FENCE.FENCE then s
    else
      let s1 := wr s b CLM.FENCE.FENCE 1
      let s2 := if linkLive s1 l then endShared s1 l else s1
      let s3 := (List.range 16).foldl (fun st n =>
        if flag st b (CLM.SHR.EN.at n) then wr st b (CLM.SHR.AUTH.at n) 1 else st) s2
      let s4 := setLink s3 l { link s3 l with preps := [] }
      let s5 := if linkState s4 l = lkLOCKED then s4 else enterLink s4 l lkFENCED
      s5.kcc.lookups.foldl (fun st k => if k.wait = .revoke then retryRealm st k.realm else st) s5
  else if flag s b CLM.FENCE.FENCE then
    let s1 := wr s b CLM.FENCE.FENCE 0
    if linkState s1 l = lkFENCED then
      (if enabled s1 (pCLM l) && flag s1 b CLM.LINK_STAT.PHY_UP then startTraining s1 l else enterLink s1 l lkDOWN)
    else s1
  else s

/-- CLM_FENCE_WRITE (R468). -/
def execClmFenceWrite (src id : BitVec 8) (link : BitVec 2) (value : BitVec 32) (s : State) : Out :=
  .next (pageLocked s src.toNat id.toNat (pCLM link.toNat) 0x60 fun st => fenceFx st link.toNat value.toNat)

end Sys2Proof.Machine
end

