-- ==== Sys2Proof/Machine/Teff.lean ====
section
/-! DEFINITION. Teff (R331 to R350): noise cells and their health tests, the pool and its conditioner, instantiation and reseeds of the
expanders, raw-sample mode and the software port. -/

namespace Sys2Proof.Machine

/-! ### Cells (R331, R332) -/

/-- A cell whose tests have not run. -/
def freshCell : Cell := { startup := false, passes := 0, windows := 0, lastBit := 2, run := 0 }

def cell (s : State) (c : Nat) : Cell := SMap.getD s.tef.cells c freshCell
def setCell (s : State) (c : Nat) (x : Cell) : State := { s with tef := { s.tef with cells := SMap.set s.tef.cells c x } }

/-- Whether a cell is present (R407) and not OFF. -/
def cellPresent (s : State) (c : Nat) : Bool := decide (c < 16) && !fused s (64 + c)
def cellOn (s : State) (c : Nat) : Bool := cellPresent s c && bitAt (rd s (pg pTEF) TEF.CELL_EN.MASK) c

def cellHealthy (s : State) (c : Nat) : Bool := bitAt (rd s (pg pTEF) TEF.CELL_STAT.HEALTHY) c
def cellDropped (s : State) (c : Nat) : Bool := bitAt (rd s (pg pTEF) TEF.CELL_STAT.DROPPED) c

/-- Cells HEALTHY, and cells HEALTHY or in STARTUP. -/
def healthyCount (s : State) : Nat := ((List.range 16).filter fun c => cellOn s c && cellHealthy s c).length
def poolCount (s : State) : Nat := ((List.range 16).filter fun c => cellOn s c && (cellHealthy s c || (cell s c).startup)).length

/-- Recompute POOL_LOW (R337). -/
def checkPool (s : State) : State :=
  let low := decide (poolCount s < 4)
  let was := flag s (pg pTEF) TEF.STAT.POOL_LOW
  let s1 := wr s (pg pTEF) TEF.STAT.POOL_LOW (bit low)
  if low && !was then chaffPlain (setEvt s1 pTEF TEF.EVT.POOL_LOW) 7 0x30 0x403 0x0715 else s1

/-- Every cell that is neither OFF nor DROPPED enters STARTUP (R332). -/
def startCells (s : State) : State :=
  let b := pg pTEF
  let go := fun (st : State) (c : Nat) =>
    if cellOn st c && !cellDropped st c then
      wr (setCell st c { cell st c with startup := true, passes := 0 }) b TEF.CELL_STAT.HEALTHY (clearBit (rd st b TEF.CELL_STAT.HEALTHY) c)
    else st
  checkPool ((List.range 16).foldl go s)

/-- With fewer than 4 cells HEALTHY the conditioner finishes the window that it works on, and takes no other (R337, R350). -/
def trimWindows (s : State) : State :=
  if healthyCount s < 4 then { s with tef := { s.tef with windows := s.tef.windows.take 1 } } else s

/-- The collector has classified a cell's source DEGRADED: the cell is dropped (R335), but none is in raw-sample mode (R346). -/
def dropCell (s : State) (c : Nat) : State :=
  let b := pg pTEF
  if flag s b TEF.STAT.RAW then s
  else
  let s1 := setCell s c { cell s c with startup := false, passes := 0 }
  let s2 := wr s1 b TEF.CELL_STAT.HEALTHY (clearBit (rd s1 b TEF.CELL_STAT.HEALTHY) c)
  let s3 := setEvt (wr s2 b TEF.CELL_STAT.DROPPED (setBit (rd s2 b TEF.CELL_STAT.DROPPED) c)) pTEF TEF.EVT.CELL_DROP
  checkPool (trimWindows (chaffPlain s3 7 c 0x402 0x0716))

/-! ### Health tests (R333 to R335) -/

/-- The samples of a window, first sample first. -/
def samplesOf (w : BitVec 1024) : List Nat := (List.range 1024).map fun i => bit (w.getLsbD i)

/-- One sample of the repetition-count test: last sample, run and whether a run has reached the cutoff. -/
def rctStep (cut : Nat) (a : Nat × Nat × Bool) (x : Nat) : Nat × Nat × Bool :=
  let r := if x = a.1 then a.2.1 + 1 else 1
  (x, r, a.2.2 || r == cut)

/-- A window as bytes, sample k in bit (k mod 8) of byte floor(k / 8). -/
def windowBytes (w : BitVec 1024) : Bytes := natLe 128 w.toNat

/-- A failure of a test of cell `c`: 1 repetition count, 2 adaptive proportion. -/
def healthFail (s : State) (c test : Nat) : State :=
  let b := pg pTEF
  let s1 := setEvt (inc s b ((if test = 1 then TEF.CELL_FAILS.RCT else TEF.CELL_FAILS.APT).at c)) pTEF TEF.EVT.HEALTH_FAIL
  if cellDropped s c || flag s b TEF.STAT.RAW then s1 else chaffPlain s1 7 c 0x401 (test + (cell s c).windows % 65536 * 65536)

/-- The end of a window of cell `c` (R332 to R337). -/
def windowFx (s : State) (c : Nat) (w : BitVec 1024) : State :=
  let b := pg pTEF
  let x := cell s c
  let l := samplesOf w
  let r := l.foldl (rctStep (rd s b TEF.HT_CFG.RCT_CUTOFF)) (x.lastBit, x.run, false)
  let first := l.headD 0
  let apt := decide (rd s b TEF.HT_CFG.APT_CUTOFF ≤ (l.filter (· == first)).length)
  let s1 := setCell s c { x with windows := x.windows + 1, lastBit := r.1, run := r.2.1 }
  if r.2.2 || apt then
    let s2 := inc s1 b TEF.WINDOWS_FAILED.COUNT
    let s3 := if r.2.2 then healthFail s2 c 1 else s2
    let s4 := if apt then healthFail s3 c 2 else s3
    setCell s4 c { cell s4 c with passes := 0 }
  else
    let s2 := inc s1 b TEF.WINDOWS_PASSED.COUNT
    if cellDropped s c then s2
    else if x.startup then
      if x.passes + 1 = 4 then
        wr (setCell s2 c { cell s2 c with startup := false, passes := 0 }) b TEF.CELL_STAT.HEALTHY (setBit (rd s2 b TEF.CELL_STAT.HEALTHY) c)
      else setCell s2 c { cell s2 c with passes := x.passes + 1 }
    else if cellHealthy s c && !flag s b TEF.STAT.RAW && decide (4 ≤ healthyCount s) then
      { s2 with tef := { s2.tef with windows := s2.tef.windows ++ [windowBytes w] } }
    else s2

/-- HEALTH_WINDOW_END (R333). -/
def execHealthWindowEnd (cell : BitVec 4) (samples : BitVec 1024) (s : State) : Out :=
  .next (if running s && enabled s pTEF && cellOn s cell.toNat then windowFx s cell.toNat samples else s)

/-! ### Seeds (R336 to R342) -/

/-- The seed that a window yields: the CBC-MACs of its halves. -/
def seedOf (w : Bytes) : Bytes :=
  let rks := roundKeys (natLe 32 Config.condKey.toNat)
  cbcMac rks (w.take 64) ++ cbcMac rks (w.drop 64)

/-- The waiting RNG step that a seed serves: the oldest (R342). -/
def waitingRng (s : State) : Option (Nat × Nat) :=
  (s.jobs.flatMap fun p => (List.range p.2.steps.length).filterMap fun k => match p.2.steps[k]? with
    | some t => if isRng (bitsAt t.d0 0 8) && t.tok == some 1 && stepRuns s p.1 k then some (t.asked.getD 0, p.1, k) else none
    | none => none).foldl (fun (acc : Option (Nat × Nat × Nat)) r => match acc with
      | none => some r | some a => if r.1 < a.1 then some r else acc) none |>.map fun r => r.2

/-- Whether an expander has a reseed request pending. -/
def wantsSeed (s : State) (e : Nat) : Bool := bitAt (rd s (pg pTEF) TEF.RESEED_REQ.REQ) e || (e == 11 && (waitingRng s).isSome)

/-- The best of some expanders: the higher counter, then the lower number. -/
def bestExp (s : State) (l : List Nat) : Option Nat :=
  l.foldl (fun acc e => match acc with
    | none => some e
    | some a => if rd s (pg pTEF) (TEF.EXP.CALLS.at a) < rd s (pg pTEF) (TEF.EXP.CALLS.at e) then some e else acc) none

/-- The expander whose last reseed is oldest. -/
def oldestExp (s : State) (l : List Nat) : Option Nat :=
  l.foldl (fun acc e => match acc with
    | none => some e
    | some a =>
      let x := (expRec s a).seeded
      let y := (expRec s e).seeded
      if y < x ∨ (y = x ∧ rd s (pg pTEF) (TEF.EXP.CALLS.at a) < rd s (pg pTEF) (TEF.EXP.CALLS.at e)) then some e else acc) none

/-- The expander that gets the next seed (R341). -/
def seedTarget (s : State) : Option Nat :=
  match [8, 9, 0, 1, 2, 3, 4, 5, 6, 7, 10, 11].find? fun e => expState s e == 1 with
  | some e => some e
  | none =>
    let all := List.range 12
    let pick := fun (p : Nat → Bool) => bestExp s (all.filter p)
    match pick (fun e => expState s e == 4) with
    | some e => some e
    | none => match pick (fun e => expLive s e && wantsSeed s e) with
      | some e => some e
      | none => match pick (fun e => expState s e == 3) with
        | some e => some e
        | none => oldestExp s (all.filter fun e => expState s e == 2)

/-- The personalisation string of an expander (R339). -/
def persOf (s : State) (e : Nat) : Bytes :=
  natLe 8 (deviceId s) ++ [byteOf e] ++ (List.range 8).flatMap fun i => natLe 4 (rd s (pg pTEF) (TEF.PERS.BYTES.at i))

/-- What supply by expander `e` sets going again: its FIFO, and for 8 and 9 what waited in the KCC (R249). -/
def supplyAgain (s : State) (e : Nat) : State :=
  let s1 := refill s e
  if e = 8 ∨ e = 9 then pumpJobs (retryAll (retryLeases (wr s1 (pg pKCC) KCC.STAT.RNG_SHORT 0))) else s1

/-- Give a seed to an expander that is not instantiated: the first is entropy, the second gives the nonce (R339). -/
def instantiate (s : State) (e : Nat) (seed : Bytes) : State :=
  let x := expRec s e
  match x.ent with
  | none => setExp s e { x with kat := true, ent := some seed }
  | some ent =>
    let d := drbgInstantiate (ent ++ seed.take 16 ++ persOf s e)
    let s1 := setExp s e { x with key := d.k, v := d.v, ent := none, seeded := s.tef.stamp }
    let s2 := wr (wr s1 (pg pTEF) (TEF.EXP.STATE.at e) 2) (pg pTEF) (TEF.EXP.CALLS.at e) 0
    supplyAgain s2 e

/-- Reseed an expander; a waiting RNG step's input enters the reseed and the step goes on (R342). -/
def reseedExp (s : State) (e : Nat) (seed : Bytes) : State :=
  let b := pg pTEF
  let x := expRec s e
  let w := if e = 11 then waitingRng s else none
  let add := match w with
    | some (j, k) => (match job? s j, step? s j k with
      | some y, some t => (match inputOf y k t with | some (.ok a) => a | _ => [])
      | _, _ => [])
    | none => []
  let d := drbgReseed { k := x.key, v := x.v } (seed ++ add)
  let was := expState s e
  let s1 := setExp s e { x with key := d.k, v := d.v, seeded := s.tef.stamp }
  let s2 := wr (wr (wr s1 b (TEF.EXP.STATE.at e) 2) b (TEF.EXP.CALLS.at e) 0) b TEF.RESEED_REQ.REQ (clearBit (rd s1 b TEF.RESEED_REQ.REQ) e)
  let s3 := if was = 3 ∨ was = 4 then setEvt s2 pTEF TEF.EVT.EXP_LIVE else s2
  let s4 := match w with | some (j, k) => modStep s3 j k fun t => { t with tok := some 2 } | none => s3
  supplyAgain s4 e

/-- Whether the next seed runs the known-answer test of its expander first. -/
def needsKat (s : State) (e : Nat) : Bool := expState s e == 1 && !(expRec s e).kat

/-- Hand a seed on, or hold it when no expander takes it. -/
def giveSeed (s : State) (seed : Bytes) : State :=
  match seedTarget s with
  | none => { s with tef := { s.tef with seeds := (s.tef.seeds ++ [seed]).take 4 } }
  | some e =>
    let s1 := inc { s with tef := { s.tef with stamp := s.tef.stamp + 1 } } (pg pTEF) TEF.SEEDS.COUNT
    if expState s e = 1 then instantiate s1 e seed else reseedExp s1 e seed

/-- The conditioner forms a seed of the oldest window (R336). A failed known-answer test takes its expander out first (R339). -/
def seedFx (s : State) (katFail : Bool) : State :=
  match s.tef.windows with
  | [] => s
  | w :: ws =>
    let s1 := { s with tef := { s.tef with windows := ws } }
    let s2 := match seedTarget s1 with
      | some e =>
        if katFail && needsKat s1 e then
          expChaff (setEvt (wr s1 (pg pTEF) (TEF.EXP.STATE.at e) 5) pTEF TEF.EVT.KAT_FAIL) e 0x404 0x0713
        else s1
      | none => s1
    giveSeed s2 (seedOf w)

/-- SEED_FORMED (R336). -/
def execSeedFormed (katFail : Bool) (s : State) : Out :=
  .next (if running s && enabled s pTEF && !flag s (pg pTEF) TEF.STAT.RAW then seedFx s katFail else s)

/-! ### Enable, disable and raw-sample mode (R345 to R349) -/

/-- A cell's tests begin anew. -/
def freshRun (x : Cell) : Cell := { x with lastBit := 2, run := 0 }

/-- TEF reaches ENABLED: FAILED expanders are to be instantiated again, and the cells start with new windows. -/
def startTef (s : State) : State :=
  let go := fun (st : State) (e : Nat) =>
    setExp (if expState st e = 5 then wr st (pg pTEF) (TEF.EXP.STATE.at e) 1 else st) e { expRec st e with kat := false }
  let cells := s.tef.cells.map fun p => (p.1, freshRun p.2)
  startCells ((List.range 12).foldl go { s with tef := { s.tef with cells } })

/-- Zeroize the capture buffer. -/
def zeroCapture (s : State) : State :=
  wr (wr { s with tef := { s.tef with capture := [] } } (pg pTEF) TEF.RAW_STAT.FILLED 0) (pg pTEF) TEF.RAW_CTL.CAPTURE 0

/-- Leave raw-sample mode (R348); `restart` starts the cells. -/
def leaveRaw (s : State) (restart : Bool) : State :=
  let b := pg pTEF
  let s1 := wr (wr (zeroCapture s) b TEF.STAT.RAW 0) b TEF.RAW_CTL.RAW_EN 0
  if restart then startCells s1 else s1

/-- What a disable does (R349). -/
def stopTef (s : State) : State := zeroExps (leaveRaw s false)

/-- A write to RAW_CTL (R345 to R348). -/
def rawCtlFx (s : State) (src v : Nat) : State :=
  let b := pg pTEF
  let raw := flag s b TEF.STAT.RAW
  let s1 :=
    if bitAt v 0 then
      if raw || !enabled s pTEF then s
      else if testPermit s then wr (wr (zeroExps s) b TEF.STAT.RAW 1) b TEF.RAW_CTL.RAW_EN 1
      else writeIgnored s 7 0x30 src (b + 0x90) 0x0712
    else if raw then leaveRaw s true else s
  if bitAt v 0 && !flag s1 b TEF.STAT.RAW then s1
  else
    let s2 := wr (wr s1 b TEF.RAW_CTL.CELL (bitsAt v 2 4)) b TEF.RAW_CTL.ALL (bitsAt v 6 1)
    if bitAt v 1 && flag s2 b TEF.STAT.RAW then wr (zeroCapture s2) b TEF.RAW_CTL.CAPTURE 1 else s2

/-- RAW_ENTER (R346): RAW_CTL written with RAW_EN = 1. -/
def execRawEnter (src id : BitVec 8) (value : BitVec 32) (s : State) : Out :=
  .next (pageWrite s src.toNat id.toNat pTEF 0x90 fun st => rawCtlFx st src.toNat (setBit value.toNat 0))

/-- RAW_EXIT (R348): RAW_CTL written with RAW_EN = 0. -/
def execRawExit (src id : BitVec 8) (value : BitVec 32) (s : State) : Out :=
  .next (pageWrite s src.toNat id.toNat pTEF 0x90 fun st => rawCtlFx st src.toNat (clearBit value.toNat 0))

/-- CAPTURE (R347): RAW_CTL written with CAPTURE = 1. -/
def execCapture (src id : BitVec 8) (value : BitVec 32) (s : State) : Out :=
  .next (pageWrite s src.toNat id.toNat pTEF 0x90 fun st => rawCtlFx st src.toNat (setBit value.toNat 1))

/-- The capture buffer is full (R347). -/
def captureDoneFx (s : State) (data : Bytes) : State :=
  let b := pg pTEF
  if flag s b TEF.STAT.RAW && flag s b TEF.RAW_CTL.CAPTURE then
    setEvt (wr (wr { s with tef := { s.tef with capture := data } } b TEF.RAW_STAT.FILLED 65536) b TEF.RAW_CTL.CAPTURE 0) pTEF TEF.EVT.RAW_DONE
  else s

/-- CAPTURE_DONE (R347): the samples that filled the buffer; any other number of bytes is no capture. -/
def execCaptureDone (data : List (BitVec 8)) (s : State) : Out :=
  if data.length = 65536 then .next (captureDoneFx s data) else .refused .illFormed

/-! ### The software port and the remaining registers (R341, R350, R352) -/

/-- RESEED_REQ: requests of ABSENT and FAILED expanders are ignored (R350). -/
def reseedReqFx (s : State) (v : Nat) : State :=
  let ok := (List.range 12).foldl (fun m e => if bitAt v e && expState s e != 0 && expState s e != 5 then setBit m e else m) 0
  wr s (pg pTEF) TEF.RESEED_REQ.REQ (rd s (pg pTEF) TEF.RESEED_REQ.REQ ||| ok)

/-- RESEED_REQ_WRITE (R341). -/
def execReseedReqWrite (src id : BitVec 8) (value : BitVec 32) (s : State) : Out :=
  .next (pageWrite s src.toNat id.toNat pTEF 0x58 fun st => reseedReqFx st value.toNat)

/-- CELL_CLR (R332): while TEF is DISABLED. -/
def cellClrFx (s : State) (v : Nat) : State :=
  if ustate s pTEF = 0 then
    (List.range 16).foldl (fun st c =>
      if bitAt v c then wr st (pg pTEF) TEF.CELL_STAT.DROPPED (clearBit (rd st (pg pTEF) TEF.CELL_STAT.DROPPED) c) else st) s
  else s

/-- CELL_CLR_WRITE (R332). -/
def execCellClrWrite (src id : BitVec 8) (value : BitVec 32) (s : State) : Out :=
  .next (pageWrite s src.toNat id.toNat pTEF 0x48 fun st => cellClrFx st value.toNat)

/-- A non-peek read of SWP_DATA: 8 bytes of the FIFO, or zero and an underrun (R350, R352). -/
def swpRead (s : State) : State × Nat :=
  let x := expRec s 11
  if 8 ≤ x.fifo.length then
    (refill (setExp s 11 { x with fifo := x.fifo.drop 8 }) 11, leNat (x.fifo.take 8))
  else (setEvt (inc s (pg pTEF) TEF.SWP_UNDERRUN.COUNT) pTEF TEF.EVT.SWP_UNDERRUN, 0)

end Sys2Proof.Machine
end

