-- ==== Sys2Proof/Machine/Units.lean ====
section
/-! DEFINITION. Units as a whole (R57 to R65): the checks of an enable, what enabling and disabling do, and the fence of an
instance (R364, R497). -/

namespace Sys2Proof.Machine

/-! ### Test permission (R503 to R505) -/

/-- Whether memory tests are permitted (R504). -/
def memPermit (s : State) : Bool := !locked s && (lcState s == 0 || lcState s == 1 || lcState s == 4)

/-- The pages whose unit a memory test of the given target needs DISABLED (R514). -/
def memTestPages (target inst : Nat) : List Nat :=
  if target = 0 then [pKCC] else if target = 1 ∨ target = 2 then [pHLD] else if target = 3 ∨ target = 4 then [pRCH]
  else if target = 5 then (if inst < 16 then [pSPK inst, pSRG inst] else if inst < 32 then [pSPK inst] else [])
  else if target = 6 ∧ inst < 16 then [pSRG inst] else if target = 7 ∧ inst < 4 then [pEMR inst] else if target = 8 ∧ inst < 8 then [pSPL inst]
  else if target = 9 then [pTEF] else []

/-- The pages that a running memory test keeps from being enabled (R515). -/
def testedPages (s : State) : List Nat :=
  let b := pg pPMU
  if flag s b PMU.MEMTEST.GO then memTestPages (rd s b PMU.MEMTEST.TARGET) (rd s b PMU.MEMTEST.UNIT) else []

/-- The memory under test is zeroized at the end of a test (R515): the units that own it are DISABLED and hold nothing there but what
this clears. -/
def zeroTarget (s : State) (target inst : Nat) : State :=
  if target = 3 then setStash s []
  else if target = 6 then
    [2 * inst, 2 * inst + 1].foldl (fun st n => setBankOp (setBankRealm (setBank (setBankState st n bkEMPTY) n freshBank) n 0) n 0 false) s
  else if target = 9 then zeroCapture s
  else s

/-- A running memory test ends ABORTED (R505, R515, R516). -/
def abortMemTest (s : State) : State :=
  let b := pg pPMU
  if flag s b PMU.MEMTEST.GO then
    wr (wr (zeroTarget s (rd s b PMU.MEMTEST.TARGET) (rd s b PMU.MEMTEST.UNIT)) b PMU.MEMTEST.GO 0) b PMU.MEMTEST_STAT.RESULT 3
  else s

/-- What follows when TEST_PERMIT falls (R505). -/
def dropTests (s : State) : State :=
  let s1 := wr (wr s (pg pPMU) PMU.CHAFF_INJ.GO 0) (pg pPMU) PMU.POISON_INJ.COUNT 0
  let s2 := { s1 with lanes := s1.lanes.map fun p => (p.1, { p.2 with injEnc := false, injDec := false }) }
  let s3 := (List.range 4).foldl (fun st l => wr st (pg (pCLM l)) CLM.INJECT.MODE 0) s2
  if flag s3 (pg pTEF) TEF.STAT.RAW then leaveRaw s3 (enabled s3 pTEF) else s3

/-- The state `t` that follows `s`, with the effects of a permission that fell (R505). -/
def checkPermit (s t : State) : State :=
  let t1 := if testPermit s && !testPermit t then dropTests t else t
  if memPermit s && !memPermit t then abortMemTest t1 else t1

/-! ### The checks of an enable (R60) -/

/-- Whether the life-cycle state forbids a unit (R408, R410): before Glume is ENABLED no other unit can be enabled; in SCRAP only those
that serve status and the log; the KCC only where keyed service is. -/
def lcForbids (s : State) (k : PageKind) : Bool :=
  ustate s pGLM != 2 ||
    (lcState s == 5 && !(k == .sys || k == .ctl || k == .chf || k == .grn || k == .snt)) || (k == .kcc && !keyedService s)

/-- The pages that a unit depends on (R109, R151, R180, R224, R226, R258, R298, R328, R349, R401, R402, R481, R517). -/
def dependsOn (s : State) (k : PageKind) (i : Nat) : List Nat :=
  match k with
  | .sys | .ctl | .chf | .glm => []
  | .rch | .snt | .grn | .hld | .pmu | .tef | .clm | .tck => [pCHF]
  | .kcc => if s.part.masked then [pCHF, pTEF] else [pCHF]
  | .spl => [pCHF, pTCK, pKCC, pHLD] ++ (if flag s (pg (pSPL i)) SPL.CTL.MASK_EN then [pTEF] else [])
  | .emr | .spk => [pCHF, pTCK]
  | .srg => [pCHF, pTCK, pSPK i]
  | _ => []

/-- Whether a parameter of a unit lies outside its range (R60, check 5): SYS (R450), the health tests (R333, R334), the sentinel
(R395). -/
def paramBad (s : State) (k : PageKind) (i : Nat) : Bool :=
  let inR := fun (v lo hi : Nat) => decide (lo ≤ v ∧ v ≤ hi)
  match k with
  | .sys => !(inR (rd s (pg pSYS) SYS.KCLK_MHZ.MHZ) 800 2000 && inR (rd s (pg pSYS) SYS.FABRIC_TMO.FC) 65536 16777216)
  | .tef => !(inR (rd s (pg pTEF) TEF.HT_CFG.RCT_CUTOFF) 32 121 && inR (rd s (pg pTEF) TEF.HT_CFG.APT_CUTOFF) 760 830)
  | .snt =>
    let t := rd s (pg pSNT) SNT.TRIP.TRIP_MV
    let w := rd s (pg pSNT) SNT.WARN.WARN_MV
    !(decide (30000 ≤ t) && decide (t + rd s (pg pSNT) SNT.RECOVER.HYST_MV ≤ 80000) &&
      (!flag s (pg pSNT) SNT.WARN.WARN_EN || decide (t < w ∧ w ≤ 80000)))
  | .spk => decide (4 < rd s (pg (pSPK i)) SPK.CTL.EXPRESS_RSV)
  | .kcc => decide (2 ^ 23 < rd s (pg pKCC) KCC.SB_SLOTS.COUNT)
  | .clm => !(inR (rd s (pg (pCLM i)) CLM.HB_CFG.INTERVAL) 1024 1048576 && inR (rd s (pg (pCLM i)) CLM.HB_CFG.MISS) 2 15)
  | _ => false

/-- Sensors that are enabled and valid (R181): while TCK is ENABLED those that are not dropped. At an enable every DROPPED bit is about to be
cleared (R187), so none counts against it (DEDUCED, log entry 65). -/
def sensorsGood (s : State) : Nat :=
  let b := pg pTCK
  let m := rd s b TCK.SENSOR_EN.MASK
  popCount 8 (if enabled s pTCK then m - (m &&& rd s b TCK.SENSOR_EN.DROPPED) else m)

/-- The checks of R181 on the parameters that TCK shows, for a profile's own cap: a reason code, 0 when they pass. -/
def tckReason (s : State) (splEn : Nat) : Nat :=
  let b := pg pTCK
  let cap := rd s b TCK.POWER_CAP.PROFILE_MW
  let mhz := rd s (pg pSYS) SYS.KCLK_MHZ.MHZ
  let lg := rd s b TCK.TICK.LOG2_KC
  let f := rd s b TCK.LIMITS.FLOOR_FRAC
  if floorBad s cap splEn then 0x0310
  else if mhz < 800 ∨ 2000 < mhz then 0x0311
  else if s.plan.costs.isEmpty then 0x0312
  else if sensorsGood s < 4 then 0x0313
  else if lg < 9 ∨ 12 < lg ∨ 128 < rd s b TCK.EXPRESS.BLOCKS ∨ 64 < rd s b TCK.EXPRESS.EMR_BLOCKS ∨ f < 16 ∨ 256 < f ∨
      cap < s.part.capRange.1 ∨ s.part.capRange.2 < cap ∨ rd s b TCK.THERM_CFG.FLOORT_C ≤ rd s b TCK.THERM_CFG.THROTTLE_C ∨
      rd s b TCK.THERM_CFG.TRIP_C ≤ rd s b TCK.THERM_CFG.FLOORT_C then 0x0314
  else 0

/-- The unit-specific checks (R60, check 7). `kat` has a bit set for a known-answer test that failed. -/
def unitReason (s : State) (k : PageKind) (i kat : Nat) : Nat :=
  match k with
  | .tck => tckReason s s.cp.splEn
  | .tef => if (popCount 16 ((List.range 16).foldl (fun m c => if cellOn s c then setBit m c else m) 0)) < 4 then 0x0710 else if kat ≠ 0 then 0x0711 else 0
  | .kcc => if s.kcc.devKey.isNone then 0x0820 else 0
  | .spl => if flag s (pg (pSPL i)) SPL.CTL.MASK_EN && !expLive s i then 0x1010 else 0
  | .emr => if kat % 2 ^ 16 = 2 ^ 16 - 1 ∨ bitsAt kat 16 4 = 15 then 0x1110 else 0
  | .srg => if !s.cp.srgMicro then 0x1210 else if kat ≠ 0 then 0x1211 else 0
  | .spk => if !s.cp.micro then 0x1310 else 0
  | .clm => if rd s (pg (pCLM i)) CLM.PROTO.MIN = 0 then 0x1410 else 0
  | _ => 0

/-- The reason code of a page's enable, 0 when it is accepted. -/
def enableReason (s : State) (p kat : Nat) : Nat :=
  match pageKind p with
  | none => 0
  | some (k, i) =>
    let u := 256 * unitId k
    if lcForbids s k then u + 2
    else if (testedPages s).contains p || (dependsOn s k i).any (fun d => !enabled s d) then u + 4
    else if paramBad s k i then u + 5
    else unitReason s k i kat

/-! ### What enabling does -/

/-- The failed cores of a group's known-answer tests: excluded, and reported (R296). -/
def katCores (s : State) (g kat : Nat) : State :=
  let b := pg (pEMR g)
  let s1 := wr (wr (wr s b EMR.CORE_OFF.SHA2 (kat % 2 ^ 16)) b EMR.CORE_OFF.KECCAK (bitsAt kat 16 4)) b EMR.STAT.CORES_SHORT (bit (kat % 2 ^ 20 != 0))
  (List.range 20).foldl (fun st c => if bitAt kat c then chaffAny (setEvt st (pEMR g) EMR.EVT.KAT_FAIL) 0x11 g 0x304 else st) s1

/-- A unit has reached ENABLED. -/
def onEnable (s : State) (k : PageKind) (i kat : Nat) : State :=
  match k with
  | .tef => startTef s
  | .kcc => pumpJobs (retryAll s)
  | .emr => katCores s i kat
  | .tck =>
    let s1 := wr s (pg pTCK) TCK.SENSOR_EN.DROPPED 0
    (List.range 8).foldl (fun st n => wr st (pg pTCK) (TCK.SENSOR.DROPPED.at n) 0) s1
  | .snt =>
    wr { s with snt := { s.snt with below := 0, above := 0, warnBelow := 0, warnAbove := 0, codes := [] } } (pg pSNT) SNT.RAW_AVG.VALID 0
  | .spl =>
    let b := pg (pSPL i)
    wr (wr (wr (setLane s i { lane s i with next := none }) b SPL.SEED_AGE.TICKS 0) b SPL.STAT.STARVED 0) b SPL.STAT.GRACE 0
  | .clm =>
    if flag s (pg (pCLM i)) CLM.FENCE.FENCE then enterLink s i lkFENCED
    else if flag s (pg (pCLM i)) CLM.LINK_STAT.PHY_UP then startTraining s i
    else enterLink s i lkDOWN
  | _ => s

/-! ### What disabling does (R62) -/

/-- The steps of running jobs that a test picks. -/
def stepsWhere (s : State) (f : Nat → Job → Nat → StepRun → Bool) : List (Nat × Nat) :=
  s.jobs.flatMap fun p => (List.range p.2.steps.length).filterMap fun k => match p.2.steps[k]? with
    | some t => if p.2.phase == .run && t.st != .ended && f p.1 p.2 k t then some (p.1, k) else none
    | none => none

/-- The digest steps whose context stands on group `g`. -/
def stepsOnGroup (s : State) (g : Nat) : List (Nat × Nat) :=
  stepsWhere s fun _ _ _ t => (isDigest (bitsAt t.d0 0 8) || bitsAt t.d0 0 8 == 0x2F) && t.place == some g

/-- Every context of a group moves to another enabled group with a free entry, or its step ends ABORTED (R280). A message that moves gives back
this tick's quantum (DESIGN CHOICE, log entry 64). -/
def moveGroup (s : State) (g : Nat) : State :=
  (stepsOnGroup s g).foldl (fun st jk =>
    let x := jobCls st jk.1 == 0
    match (enGroups st).find? fun h => h != g && !(emrFree st h x).isEmpty with
    | some h =>
      let n := (emrFree st h x).headD 0
      let c := emrState st jk.1 jk.2 n
      modStep (ungrant st jk.1 jk.2) jk.1 jk.2 fun t => { t with place := some h, ectx := some c }
    | none =>
      let s1 := failStep (notice st 0x11 g 0x1114) jk.1 jk.2 { status := 0x18, detail := 0, loc := 0 }
      modStep s1 jk.1 jk.2 fun t => { t with place := none, ectx := none }) s

/-- A bank of an array that leaves service (R324): an operation past its commit point runs on, another ends ABORTED and its bank is
wiped, and a bank that holds nothing of a running operation is wiped too. -/
def stopBank (s : State) (n : Nat) : State :=
  match (bank s n).owner with
  | some (j, eid, k) =>
    match job? s j, step? s j k with
    | some x, some t =>
      if x.eid ≠ eid then wipeBank s n none
      else if t.committed || (match stepWork s x k t with | some w => decide (w ≤ t.work - lostWork s j k false) && t.st == .run && bankState s n != bkLOADING | none => false) then s
      else failStep (dropBank (countAbort (notice s 0x12 (n / 2) 0x1216) n) n j k) j k { status := 0x18, detail := 0, loc := 0 }
    | _, _ => wipeBank s n none
  | none => if bankState s n = bkEMPTY ∨ bankState s n = bkWIPING then s else wipeBank s n none

/-- Both banks of array `a`. -/
def stopArray (s : State) (a : Nat) : State := stopBank (stopBank s (2 * a)) (2 * a + 1)

/-- Every line that can go leaves the KCC: open leases are rewrapped first, and pinned lines go with their last pin (R257, R258). A line
whose rewrap finds no expander stays. -/
def emptyLines (s : State) : State :=
  s.kcc.lines.foldl (fun st p =>
    let gone := fun (u : State) => if p.2.pins = 0 then dropLine u p.1 else setLine u p.1 { p.2 with st := .stale, leaseWait := false }
    match p.2.st with
    | .filling | .stale => st
    | _ => if leaseOpen p.2 then (match rewrap st p.2 p.2.count (.evict p.2.slot) with | some u => gone u | none => st) else gone st) s

/-- The KCC stops (R258): fills under way end without a line, and what waits is looked up again once it is ENABLED. -/
def stopKcc (s : State) : State :=
  let lookups := s.kcc.lookups.map fun l => { l with wait := .unit }
  emptyLines (dropFills { s with kcc := { s.kcc with lookups } } fun _ => true)

/-- The ledger probe is disarmed (R510). -/
def disarmProbe (s : State) : State :=
  { wr (wr s (pg pPMU) PMU.PROBE_STAT.ARMED 0) (pg pPMU) PMU.PROBE_CTL.ARM 0 with probeEid := none }

/-- Whether a chain holds bins or has a context in the suspend store. -/
def usesHold (s : State) (j : Nat) (x : Job) : Bool := x.bins != 0 || s.susp.any fun c => c.job == j

/-- A unit begins its disable. Chains that hold bins or stand in the suspend store end when HLD stops, as those of a drained ring do (R226 lets
none of them run; that they are aborted is a DESIGN CHOICE, log entry 65). -/
def onDisable (s : State) (k : PageKind) (i : Nat) : State :=
  match k with
  | .spl => setLane s i { lane s i with injEnc := false, injDec := false }
  | .emr => moveGroup s i
  | .srg => stopArray s i
  | .spk =>
    let jobs := s.jobs.map fun p => if p.1 / 16 = i then (p.1, { p.2 with aborting := true }) else p
    let s1 := { s with jobs }
    if i < 16 ∧ present s .srg i then stopArray s1 i else s1
  | .kcc => stopKcc s
  | .rch => (liveSqs s).foldl (fun st q => if sqState st q = 1 ∨ sqState st q = 2 then sqDrainFx st q else st) s
  | .tef => stopTef s
  | .tck => { s with plan := { s.plan with grants := [], booked := false } }
  | .hld =>
    let jobs := s.jobs.map fun (p : Nat × Job) => if usesHold s p.1 p.2 then (p.1, { p.2 with aborting := true }) else p
    { s with jobs }
  | .clm => linkOff s i
  | .pmu => disarmProbe s
  | _ => s

/-- A page's unit goes to DISABLING (R62). -/
def startDisable (s : State) (p : Nat) : State :=
  match pageKind p with
  | some (k, i) => onDisable (setUstate (wr s (pg p) HDR.CTL.EN 0) p 3) k i
  | none => s

/-- Whether a disabling unit's work has drained. -/
def unitEmpty (s : State) (k : PageKind) (i : Nat) : Bool :=
  match k with
  | .spl => (lane s i).ctxs.isEmpty && (stepsWhere s fun _ _ _ t => isAes (bitsAt t.d0 0 8) && t.place == some i && t.checks != 0).isEmpty
  | .emr => emrCtxUsed s i == 0
  | .hld => s.jobs.all fun p => !usesHold s p.1 p.2
  | .srg => bankState s (2 * i) == bkEMPTY && bankState s (2 * i + 1) == bkEMPTY
  | .spk => !s.jobs.any fun p => p.1 / 16 == i
  | .rch => (liveSqs s).isEmpty
  | .kcc =>
    s.kcc.lines.isEmpty && s.kcc.writes.isEmpty && s.kcc.fills.isEmpty
  | _ => true

/-! ### Fences (R364, R497) -/

/-- Steps end ENGINE_FAULT with a unit ID. -/
def faultSteps (s : State) (u : Nat) (l : List (Nat × Nat)) : State :=
  l.foldl (fun st jk => failStep st jk.1 jk.2 { status := 0x28, detail := u, loc := 0 }) s

/-- The jobs of a spike, or all of them, end ENGINE_FAULT at their lowest step that has not ended. -/
def faultJobs (s : State) (u : Nat) (f : Nat → Bool) : State :=
  s.jobs.foldl (fun st p =>
    if f p.1 then
      let k := ((List.range p.2.steps.length).find? fun i => match p.2.steps[i]? with | some t => t.st != .ended | none => false).getD 0
      endChain st p.1 (some ({ status := 0x28, detail := u, loc := 0 }, k))
    else st) s

/-- An array's operations end ENGINE_FAULT and its banks are zeroized. -/
def faultArray (s : State) (a : Nat) : State :=
  let l := stepsWhere s fun _ _ _ t => isArith (bitsAt t.d0 0 8) && (t.place == some (2 * a) || t.place == some (2 * a + 1))
  let s1 := l.foldl (fun st jk => modStep st jk.1 jk.2 fun t => { t with place := none }) (faultSteps s 0x12 l)
  [2 * a, 2 * a + 1].foldl (fun st n => setBankRealm (setBank (setBankState st n bkEMPTY) n freshBank) n 0) s1

/-- Whether a waiting request moves a job's data: an output write or a notify word. -/
def jobReq : FabReq → Bool
  | .rd _ => false
  | .wr t => match t.who with | .out .. | .notify .. => true | _ => false

/-- The ports are held idle (R16): what waits and moves a job's data is dropped, its writes no longer awaited. -/
def holdPorts (s : State) : State :=
  let gone := s.fab.waiting.filter jobReq
  let s1 := { s with fab := { s.fab with idle := true, waiting := s.fab.waiting.filter fun r => !jobReq r } }
  gone.foldl (fun st r => match r with
    | .wr t => (match t.who with | .out j eid k pos => outAnswer (endFault st j eid k 1) j eid k pos t.addr 0 | _ => st)
    | .rd _ => st) s1

/-- What a fence does on an instance: nothing in flight on it runs on (R364). -/
def onFence (s : State) (k : PageKind) (i : Nat) : State :=
  match k with
  | .spl =>
    let l := (lane s i).ctxs.map (fun c => (c.job, c.step)) ++ stepsWhere s fun _ _ _ t => isAes (bitsAt t.d0 0 8) && t.place == some i
    setLane (faultSteps s 0x10 l) i { lane s i with ctxs := [], injEnc := false, injDec := false, seed := [], next := none }
  | .emr =>
    let l := stepsOnGroup s i
    l.foldl (fun st jk => modStep st jk.1 jk.2 fun t => { t with place := none, ectx := none }) (faultSteps s 0x11 l)
  | .srg => faultArray s i
  | .spk =>
    let s1 := faultJobs s 0x13 fun j => j / 16 == i
    if i < 16 ∧ present s .srg i then faultArray s1 i else s1
  | .hld =>
    let l := stepsWhere s fun j x k t => t.held || isSuspended s j k || (t.st == .run && holdsBins x.bytes k)
    { faultSteps s 9 l with susp := [] }
  | .kcc =>
    let ls := s.kcc.lookups
    let s0 := dropFills s fun _ => true
    let s1 := { s0 with kcc := { s0.kcc with lookups := [], lines := [] } }
    pumpJobs (ls.foldl (fun st l => failLook st l { status := 0x28, detail := 8, loc := 0 }) s1)
  | .tef => stopTef s
  | .tck =>
    let l := stepsWhere s fun _ x k t => t.st == .run && (planUnit (x.desc k).op (x.param k)).isSome
    faultSteps { s with plan := { s.plan with grants := [], booked := false } } 3 l
  | .clm => linkOff s i
  | .pmu => disarmProbe s
  | .ctl => { s with cp := { s.cp with up := false, rom := false, task := { rows := [], next := .none } } }
  | .sys =>
    let mine := s.rch.dq.filter fun d => d.peer.isNone
    let s0 := holdPorts s
    let s1 := { s0 with rch := { s0.rch with dq := s0.rch.dq.filter fun d => d.peer.isSome } }
    let s2 := mine.foldl (fun st d => finishEntry st d.sq d.eid d.index (entTag d.bytes) { status := 0x28, detail := 1, loc := 0 } 0 [] false []) s1
    faultJobs s2 1 fun _ => true
  | _ => s

/-- The instance on a page is fenced. -/
def fencePage (s : State) (p : Nat) : State :=
  match pageKind p with
  | some (k, i) => onFence (setUstate (wr s (pg p) HDR.CTL.EN 0) p 4) k i
  | none => s

/-! ### The commands -/

/-- Whether every page but CHF, SYS, CTL and GLM is DISABLED (R354). -/
def othersOff (s : State) : Bool :=
  (List.range 0x61).all fun p => !pagePresent s p || p == pCHF || p == pSYS || p == pCTL || p == pGLM || ustate s p == 0

/-- The unit-specific bits of CTL that a write stores, beside what R55 lets through (R187, R224, R225, R300, R329). -/
def ctlBits (s : State) (k : PageKind) (i v : Nat) : Nat :=
  let b := pg (match k with | .spl => pSPL i | .emr => pEMR i | _ => pSRG i)
  let keep := fun (f : Field) (w : Nat) => putBits w f.lo f.w (rd s b f)
  match k with
  | .spl => if s.part.masked then keep SPL.CTL.DUMMY_EN v else keep SPL.CTL.MASK_EN v
  | .emr => if 4 < bitsAt v EMR.CTL.KECCAK_LAT_MAX.lo 3 then keep EMR.CTL.KECCAK_LAT_MAX v else v
  | .srg => if s.part.hasLattice then v else keep SRG.CTL.LATTICE_EN v
  | _ => v

/-- A write to CTL of a present page (R57, R59, R62, R354). -/
def ctlFx (s : State) (src p v : Nat) : State :=
  match pageKind p with
  | none => s
  | some (k, i) =>
    let en := rd s (pg p) HDR.CTL.EN
    let s1 := wr (storePage s src p 8 (ctlBits s k i v)) (pg p) HDR.CTL.EN en
    let st := ustate s p
    if p = pGLM ∨ p = pCTL then s1
    else if bitAt v 0 then (if st = 0 then setUstate (wr s1 (pg p) HDR.CTL.EN 1) p 1 else s1)
    else if st = 1 then wr s1 (pg p) HDR.CTL.EN 0
    else if st = 2 then
      if p = pCHF ∧ ¬ othersOff s1 then wr s1 (pg p) HDR.CHK.REASON 0x0410 else startDisable s1 p
    else s1

/-- UNIT_ENABLE (R59): CTL written with EN = 1. -/
def execUnitEnable (src id page : BitVec 8) (ctl : BitVec 32) (s : State) : Out :=
  .next (pageWrite s src.toNat id.toNat page.toNat 8 fun st => ctlFx st src.toNat page.toNat (setBit ctl.toNat 0))

/-- UNIT_DISABLE (R62): CTL written with EN = 0. -/
def execUnitDisable (src id page : BitVec 8) (ctl : BitVec 32) (s : State) : Out :=
  .next (pageWrite s src.toNat id.toNat page.toNat 8 fun st => ctlFx st src.toNat page.toNat (clearBit ctl.toNat 0))

/-- A profile switch goes on with a page that has become DISABLED (R221, R257): its new values, and its enable; a lane waits for a KCC
that is on its own way back. -/
def cyclePage (s : State) (p v : Nat) : State :=
  if ustate s p ≠ 0 ∨ (p ≠ pKCC ∧ ((SMap.get? s.cp.cycle pKCC).isSome ∨ ustate s pKCC = 1)) then s
  else
    let b := pg p
    let s1 := { s with cp := { s.cp with cycle := SMap.erase s.cp.cycle p } }
    let s2 := if p = pKCC then wr (wr s1 b KCC.CFG.WAYS (bitsAt v 0 2)) b KCC.CFG.HASH (bitsAt v 2 1)
      else if s.part.masked then wr s1 b SPL.CTL.MASK_EN (bitsAt v 0 1) else wr s1 b SPL.CTL.DUMMY_EN (bitsAt v 1 1)
    if bitAt v 3 then setUstate (wr s2 b HDR.CTL.EN 1) p 1 else s2

/-- Every page of a profile switch, while the control processor serves. -/
def cycleStep (s : State) : State :=
  if cpRuns s then s.cp.cycle.foldl (fun st e => cyclePage st e.1 e.2) s else s

/-- The end of a consistency check (R59, R62). -/
def enableDone (s : State) (p kat : Nat) : State :=
  match pageKind p with
  | none => s
  | some (k, i) =>
    let e := enableReason s p kat
    let s1 := wr s (pg p) HDR.CHK.REASON e
    if e = 0 then
      let s2 := onEnable (setUstate s1 p 2) k i kat
      cycleStep (if flag s (pg p) HDR.CTL.EN then s2 else startDisable s2 p)
    else
      let s1 := if e = 0x1110 then katCores s1 i kat else s1
      let s2 := setEvt (setUstate (wr s1 (pg p) HDR.CTL.EN 0) p (if s1.chaff.retiring.contains p then 5 else 0)) p 0
      cycleStep { s2 with chaff := { s2.chaff with retiring := s2.chaff.retiring.filter (· != p) } }

/-- UNIT_ENABLE_DONE (R60). -/
def execUnitEnableDone (page : BitVec 8) (katFail : BitVec 32) (s : State) : Out :=
  .next (if running s && pageBuilt s page.toNat && ustate s page.toNat == 1 then enableDone s page.toNat katFail.toNat else s)

/-- A disable ends once its unit is empty: DISABLED, or RETIRED (R62, R363). -/
def disableDone (s : State) (p : Nat) : State :=
  match pageKind p with
  | none => s
  | some (k, i) =>
    let s1 := if k = .kcc then emptyLines s else s
    if unitEmpty s1 k i then
      let r := s1.chaff.retiring.contains p
      cycleStep (setUstate { s1 with chaff := { s1.chaff with retiring := s1.chaff.retiring.filter (· != p) } } p (if r then 5 else 0))
    else s1

/-- UNIT_DISABLE_DONE (R62). -/
def execUnitDisableDone (page : BitVec 8) (s : State) : Out :=
  .next (if running s && pageBuilt s page.toNat && ustate s page.toNat == 3 then disableDone s page.toNat else s)

/-- EVT_FORCE (R57). -/
def execEvtForce (src id page : BitVec 8) (bits : BitVec 32) (s : State) : Out :=
  .next (pageWrite s src.toNat id.toNat page.toNat 0x18 fun st => evtForceFx st src.toNat page.toNat bits.toNat)

/-- The capture whose FEC_SRC stands at an offset: a page's, or a fabric port's (R372). -/
def fecAt (a : Nat) : Option Nat :=
  match placeOf a with
  | .page p off =>
    if off = 0x28 then some (pg p)
    else if p = pCHF ∧ 0x90 ≤ off ∧ off < 0x290 ∧ (off - 0x90) % 32 = 8 then some (fecB ((off - 0x90) / 32))
    else none
  | _ => none

/-- FEC_CLEAR (R57): FEC_SRC written with VALID = 1. -/
def execFecClear (src id : BitVec 8) (addr : BitVec 25) (s : State) : Out :=
  .next (match placeOf addr.toNat with
    | .page p off => pageWrite s src.toNat id.toNat p off fun st => match fecAt addr.toNat with | some b => fecClear st b | none => st
    | _ => s)

/-- UNLOCK_EXPIRE (R64): the live unlock of a page has stood for 64 fc. -/
def execUnlockExpire (page : BitVec 8) (s : State) : Out :=
  .next (match SMap.get? s.unlocks page.toNat with
    | some _ => if running s then lapse s page.toNat 0 0 0 else s
    | none => s)

end Sys2Proof.Machine
end

