-- ==== Sys2Proof/Machine/Glume.lean ====
section
/-! DEFINITION. Glume (R406 to R430): the OTP and its burns, the start-up completions, life-cycle transitions, the device key, the
anti-rollback counter, debug tokens and the halt of the control processor. -/

namespace Sys2Proof.Machine

/-! ### The OTP (R406, R407) -/

def otpWordRec (s : State) (w : Nat) : OtpWord := SMap.getD s.glm.otp w { data := 0, whole := false }

def setOtp (s : State) (w : Nat) (o : OtpWord) : State := { s with glm := { s.glm with otp := SMap.set s.glm.otp w o } }

/-- Whether a word has check bits (R406). -/
def isEccWord (w : Nat) : Bool := decide (32 ≤ w ∧ w < 116)

/-- Words of the two seed slots. -/
def seedWords (slot : Nat) : List Nat := (List.range 16).map (36 + 16 * slot + ·)

/-- Whether a seed slot is blank (R406). -/
def seedBlank (s : State) (slot : Nat) : Bool := (seedWords slot).all fun w => otpWord s w == 0 && !(otpWordRec s w).whole

/-- The active seed slot (R417): the higher-numbered one that is not blank. -/
def seedSlot (s : State) : Nat := if seedBlank s 1 then 0 else 1

/-- Bits of WIPE_MARK that are set. -/
def wipeBits (s : State) : Nat := popCount 16 (otpWord s 6)

/-- Add bits to a word; `whole` says that its whole codeword is burned now. -/
def burnWord (s : State) (w bits : Nat) (whole : Bool) : State :=
  let o := otpWordRec s w
  let new := o.data ||| bits % 65536
  incBy (setOtp s w { data := new, whole := o.whole || whole }) (pg pGLM) GLM.BURNS.COUNT (popCount 16 new - popCount 16 o.data)

/-- Burn a list of words in full. -/
def burnAll (s : State) (ws : List (Nat × Nat)) : State := ws.foldl (fun st p => burnWord st p.1 p.2 true) s

/-- Burn a list of words of which some bits fail or stay unburned: a free choice among the bits (R407). -/
def burnSome (s : State) (ws : List (Nat × Nat)) : State :=
  ws.foldl (fun st p =>
    burnWord { st with freeCtr := st.freeCtr + 1 } p.1 (p.2 &&& (Config.burnMask st.freeCtr).toNat) false) s

/-- Queue a burn (R407). -/
def addBurn (s : State) (b : Burn) : State := { s with glm := { s.glm with burns := s.glm.burns ++ [b] } }

/-- A burn stopped by a reset or a loss of supply (R407); the transition and the verification that ran are gone. -/
def stopGlume (s : State) : State :=
  let s1 := match s.glm.burns with | b :: _ => burnSome s b.words | [] => s
  { s1 with glm := { s1.glm with burns := [], trans := none, verify := none } }

/-! ### Requests -/

/-- Whether Glume takes requests: ENABLED, or LOCKED (R408). -/
def glumeUp (s : State) : Bool := ustate s pGLM == 2 || ustate s pGLM == 6

/-- A request refused with a reason code: shown in CHK and sent as WRITE_IGNORED (R412, R430). -/
def glmRefuse (s : State) (src off reason : Nat) : State :=
  writeIgnored (wr s (pg pGLM) HDR.CHK.REASON reason) 6 0 src (pg pGLM + off) reason

/-! ### The halt of the control processor (R425, R426) -/

/-- The CP runs again. -/
def resumeCp (s : State) : State :=
  if flag s (pg pGLM) GLM.DBG_CP.HALTED then
    let s1 := wr (wr (wr s (pg pGLM) GLM.DBG_CP.HALTED 0) (pg pGLM) GLM.DBG_CP.PC 0) (pg pGLM) GLM.DBG_CTL.HALT 0
    { s1 with cp := { s1.cp with heldFc := s1.cp.heldFc + (s1.fcNow - s1.cp.haltFc) } }
  else s

/-- The CP halts, and shows its program counter: a free value. -/
def haltCp (s : State) : State :=
  if flag s (pg pGLM) GLM.DBG_CP.HALTED then s
  else
    let pc := (Config.haltPc s.freeCtr).toNat
    let s1 := { s with freeCtr := s.freeCtr + 1, cp := { s.cp with haltFc := s.fcNow } }
    wr (wr (wr s1 (pg pGLM) GLM.DBG_CP.HALTED 1) (pg pGLM) GLM.DBG_CP.PC pc) (pg pGLM) GLM.DBG_CTL.HALT 1

/-! ### Grants (R419 to R424) -/

/-- A token grant ends (R423). -/
def endGrantFx (s : State) : State :=
  let b := pg pGLM
  if flag s b GLM.DBG_STAT.TOKEN then
    let s1 := wr (wr (wr s b GLM.DBG_STAT.TOKEN 0) b GLM.DBG_STAT.COUNT_PEEK 0) b GLM.DBG_STAT.KEY_INDEX 0
    let s2 := wr { s1 with glm := { s1.glm with level := 0, keyIndex := 0 } } b GLM.DBG_EXPIRY.SECONDS 0xFFFFFFFF
    checkPermit s (resumeCp (setEvt s2 pGLM GLM.EVT.GRANT_END))
  else s

/-- Highest level a token can give in the state (R410, R424). -/
def maxLevel (s : State) : Nat :=
  let l := if lcState s = 2 ∨ lcState s = 3 ∨ lcState s = 4 then 3 else 0
  if locked s then min l 1 else l

/-- Whether a debug key is revoked (R407). -/
def keyRevoked (s : State) (k : Nat) : Bool := decide (2 ≤ popCount 4 (bitsAt (otpWord s 116) (4 * k) 4))

/-- The hash of a debug key. -/
def dbgHash (s : State) (k : Nat) : Bytes := (List.range 24).flatMap fun i => natLe 2 (otpWord s (68 + 24 * k + i))

/-- What is wrong with a token, 0 when it is accepted (R421, R422). -/
def tokenReason (s : State) (t : TokenRun) : Nat :=
  let b := t.bytes
  let f := fun (o n : Nat) => leNat (slice b o n)
  let zero := fun (o n : Nat) => (slice b o n).all (· == 0)
  let dur := f 32 4
  let ok1 := slice b 0 4 == [0x47, 0x4C, 0x44, 0x54] && f 4 1 == 1 && decide (1 ≤ f 5 1 ∧ f 5 1 ≤ 3 ∧ f 6 1 ≤ 1 ∧ f 7 1 < 64) &&
    decide (1 ≤ dur ∧ dur ≤ 86400) && decide (f 36 4 < 2) && zero 40 8 && zero 145 15
  let pk := slice b 48 97
  let x := beNat (slice pk 1 48)
  let y := beNat (slice pk 49 48)
  let h := dbgHash s (f 6 1)
  if !ok1 then 0x061B
  else if f 8 8 ≠ deviceId s then 0x061C
  else if t.nonce ≠ some (slice b 16 16) then 0x061D
  else if h.all (· == 0) || keyRevoked s (f 6 1) || sha384 pk != h then 0x061E
  else if !(f 48 1 == 4 && p384.on x y &&
      p384.verify (x, y) (p384.hashNum (sha384 (slice b 0 160))) (beNat (slice b 160 48)) (beNat (slice b 208 48))) then 0x061F
  else if !bitAt (f 7 1) (lcState s) || decide (maxLevel s < f 5 1) then 0x0620
  else 0

/-- An accepted token (R422). -/
def startGrant (s : State) (b : Bytes) : State :=
  let g := pg pGLM
  let f := fun (o n : Nat) => leNat (slice b o n)
  let s1 := { s with glm := { s.glm with level := f 5 1, keyIndex := f 6 1 } }
  let s2 := wr (wr (wr (wr s1 g GLM.DBG_STAT.TOKEN 1) g GLM.DBG_STAT.COUNT_PEEK (f 36 1)) g GLM.DBG_STAT.KEY_INDEX (f 6 1)) g GLM.DBG_STAT.REFUSED 0
  let s3 := setEvt (wr s2 g GLM.DBG_EXPIRY.SECONDS (opSeconds s2 + f 32 4)) pGLM GLM.EVT.GRANT_START
  checkPermit s (if dbgLevel s3 < 3 then resumeCp s3 else s3)

/-- The end of a verification (R422). -/
def tokenDone (s : State) : State :=
  let g := pg pGLM
  match s.glm.verify with
  | none => s
  | some t =>
    let s1 := { s with glm := { s.glm with verify := none, token := [] } }
    let e := tokenReason s t
    if e = 0 then startGrant s1 t.bytes
    else
      let s2 := setEvt (inc (wr s1 g GLM.DBG_STAT.REFUSED 1) g GLM.DBG_FAILS.COUNT) pGLM GLM.EVT.TOKEN_REFUSED
      writeIgnored { s2 with glm := { s2.glm with refusedFc := some s2.fcNow } } 6 0 254 (g + 0x80) e

/-- TOKEN_VERIFY_DONE (R422). -/
def execTokenVerifyDone (s : State) : Out := .next (if running s then tokenDone s else s)

/-- Whether the token grant has reached its end: OP_SECONDS stands at DBG_EXPIRY or beyond (R423). -/
def grantOver (s : State) : Bool :=
  flag s (pg pGLM) GLM.DBG_STAT.TOKEN && decide (rd s (pg pGLM) GLM.DBG_EXPIRY.SECONDS ≤ opSeconds s)

/-- GRANT_EXPIRE (R423). -/
def execGrantExpire (s : State) : Out :=
  .next (if running s && grantOver s then endGrantFx s else s)

/-- A write of DBG_CTL.CHALLENGE (R420). -/
def challengeFx (s : State) : State :=
  let g := pg pGLM
  let recent := match s.glm.refusedFc with | some t => decide (s.fcNow < t + 1000000000) | none => false
  if recent || s.glm.verify.isSome || powerCycles s == 0xFFFFFF then
    glmRefuse (wr s g GLM.DBG_STAT.NONCE_VALID 0) 254 0x80 0x0621
  else
    let n := natLe 3 (powerCycles s) ++ natLe 5 s.glm.chal ++ natLe 8 (ticks s)
    let s1 := wr (wr s g GLM.DBG_NONCE_LO.BYTES (leNat (slice n 0 8))) g GLM.DBG_NONCE_HI.BYTES (leNat (slice n 8 8))
    wr { s1 with glm := { s1.glm with chal := (s1.glm.chal + 1) % 2 ^ 40 } } g GLM.DBG_STAT.NONCE_VALID 1

/-- A write of DBG_CTL.SUBMIT (R422, R427). -/
def submitFx (s : State) : State :=
  let g := pg pGLM
  if s.glm.verify.isSome then s
  else
    let nonce := natLe 8 (rd s g GLM.DBG_NONCE_LO.BYTES) ++ natLe 8 (rd s g GLM.DBG_NONCE_HI.BYTES)
    let t : TokenRun := { bytes := (List.range 32).flatMap fun k => natLe 8 (SMap.getD s.glm.token k 0),
                          nonce := if flag s g GLM.DBG_STAT.NONCE_VALID then some nonce else none }
    wr { s with glm := { s.glm with verify := some t } } g GLM.DBG_STAT.NONCE_VALID 0

/-- A write of DBG_CTL.HALT (R425): an expiry that has come wins over it (R427). -/
def haltFx (s : State) (v : Bool) : State :=
  let s1 := if grantOver s then endGrantFx s else s
  if v then (if 3 ≤ dbgLevel s1 then haltCp s1 else glmRefuse s1 254 0x80 0x0622) else resumeCp s1

/-- A write to DBG_CTL: port 0 writes END only (R428). -/
def dbgCtlFx (s : State) (src v : Nat) : State :=
  if !glumeUp s then s
  else if src ≠ 254 then (if bitAt v 2 then endGrantFx s else s)
  else
    let s1 := if bitAt v 0 then challengeFx s else s
    let s2 := if bitAt v 1 then submitFx s1 else s1
    let s3 := if bitAt v 2 then endGrantFx s2 else s2
    haltFx s3 (bitAt v 3)

/-- A write to DBG_TOKEN (R422): one 32-bit half of a word. -/
def tokenWrite (s : State) (off v : Nat) : State :=
  let k := (off - 0x100) / 8
  let old := SMap.getD s.glm.token k 0
  { s with glm := { s.glm with token := SMap.set s.glm.token k (putBits old (32 * (off / 4 % 2)) 32 v) } }

/-- CHALLENGE (R420): DBG_CTL written with CHALLENGE = 1. -/
def execChallenge (src id : BitVec 8) (value : BitVec 32) (s : State) : Out :=
  .next (pageWrite s src.toNat id.toNat pGLM 0x80 fun st => dbgCtlFx st src.toNat (setBit value.toNat 0))

/-- SUBMIT (R422): DBG_CTL written with SUBMIT = 1. -/
def execSubmit (src id : BitVec 8) (value : BitVec 32) (s : State) : Out :=
  .next (pageWrite s src.toNat id.toNat pGLM 0x80 fun st => dbgCtlFx st src.toNat (setBit value.toNat 1))

/-- END (R423): DBG_CTL written with END = 1. -/
def execEndGrant (src id : BitVec 8) (value : BitVec 32) (s : State) : Out :=
  .next (pageWrite s src.toNat id.toNat pGLM 0x80 fun st => dbgCtlFx st src.toNat (setBit value.toNat 2))

/-- HALT (R425): a write of DBG_CTL. -/
def execHalt (src id : BitVec 8) (value : BitVec 32) (s : State) : Out :=
  .next (pageWrite s src.toNat id.toNat pGLM 0x80 fun st => dbgCtlFx st src.toNat value.toNat)

/-! ### Transitions (R412 to R415) -/

/-- The stage shown. -/
def setStage (s : State) (n : Nat) : State := wr s (pg pGLM) GLM.LC_STAT.STAGE n

/-- The running transition's result is decided. -/
def transResult (s : State) (r : Nat) : State := { s with glm := { s.glm with trans := s.glm.trans.map fun t => { t with result := some r } } }

/-- Stage 4: the segments of the target. -/
def stage4 (s : State) (target : Nat) : State :=
  addBurn (setStage s 4) { use := .segment, words := if target = 5 then [(4, 0xFFFF), (5, 0xFFFF)] else [(target - 1, 0xFFFF)] }

/-- Stage 3: WIPE_MARK, or the new root seed from expander 8. -/
def stage3 (s : State) (target : Nat) : State :=
  let s1 := setStage s 3
  if target = 4 then addBurn s1 { use := .data, words := [(6, 0xFFFF)] }
  else
    let (s2, r) := draw s1 8 32
    let slot := if seedBlank s 0 then 0 else 1
    addBurn s2 { use := .data, words := (seedWords slot).mapIdx fun i w => (w, leNat (slice r (2 * i) 2)) }

/-- Stage 2: the erases of PROFILES and SETTINGS, and of WRAPPED_ROOTS. -/
def stage2 (s : State) : State :=
  let go := fun (st : State) (row n : Nat) =>
    let r := submitProg st (.glume (n - 1)) row 255 erasedRow.data 4
    if r.2 = 0 then r.1 else transResult r.1 0x0616
  go (go (setStage s 2) 32768 8192) 98304 4096

/-- What the zeroize of stage 1 clears (R413): the KCC with its keys, the holding and suspend stores, and the Sorghum banks. The
units that own them are DISABLED. -/
def wipeStores (s : State) : State :=
  let k : Kcc := { freshKcc with husks := s.kcc.husks, places := s.kcc.places, nextTok := s.kcc.nextTok }
  emptyBanks { s with kcc := k, susp := [] }

/-- A transition starts. -/
def startTransition (s : State) (target : Nat) : State :=
  let s1 := wr { s with glm := { s.glm with trans := some { target, result := none } } } (pg pGLM) GLM.LC_STAT.PENDING 1
  if target = 4 then setStage s1 1 else if target = 2 then stage3 s1 2 else stage4 s1 target

/-- Whether a unit page bars a transition (R412, check 4). -/
def barsLc (s : State) (p : Nat) : Bool :=
  pagePresent s p && !(p == pSYS || p == pCTL || p == pCHF || p == pGRN || p == pGLM || p == pSNT || p == pTCK || p == pPMU || p == pTEF) &&
    ustate s p != 0

/-- The reason code of a transition request, 0 when it is accepted (R412). -/
def lcReason (s : State) (target : Nat) : Nat :=
  if locked s then 0x0611
  else if target ≠ lcState s + 1 ∨ 5 < target then 0x0610
  else if (List.range 0x61).any (barsLc s) then 0x0612
  else if flag s (pg pSNT) SNT.STAT.PF || flag s (pg pSNT) SNT.STAT.WARN then 0x0613
  else if (target = 1 ∧ deviceId s = 0) ∨ (target = 2 ∧ seedBlank s 0 = false ∧ seedBlank s 1 = false) then 0x0614
  else if target = 2 ∧ expLive s 8 = false then 0x0615
  else 0

/-- A write to LC_REQ under its unlock (R412). -/
def lcReqFx (s : State) (src v : Nat) : State :=
  let target := bitsAt v 0 3
  if !glumeUp s || (!locked s && s.glm.trans.isSome) then s
  else
    let e := lcReason s target
    if e = 0 then startTransition (endGrantFx s) target
    else writeIgnored (wr s (pg pGLM) GLM.LC_RESULT.REASON e) 6 0 src (pg pGLM + 0x48) e

/-- LC_REQ. -/
def execLcReq (src id : BitVec 8) (value : BitVec 32) (s : State) : Out :=
  .next (pageLocked s src.toNat id.toNat pGLM 0x48 fun st => lcReqFx st src.toNat value.toNat)

/-- Whether an erase of the running transition waits or runs. -/
def erasing (s : State) : Bool :=
  let isG := fun (u : ProgUse) => match u with | .glume _ => true | _ => false
  let mine := fun (p : Prog) => isG p.use || (match p.held with | some u => isG u | none => false)
  s.grn.queue.any mine || s.grn.cur.any fun p => mine p.2

/-- After a program attempt: stage 2 ends once no erase is left (R413, R414). -/
def glumePump (s : State) : State :=
  match s.glm.trans with
  | some t => if t.result.isNone && rd s (pg pGLM) GLM.LC_STAT.STAGE == 2 && !erasing s then stage3 s 4 else s
  | none => s

/-- The wipe of stage 1 ends. -/
def wipeDoneLc (s : State) : State :=
  match s.glm.trans with
  | some t => if t.result.isNone && rd s (pg pGLM) GLM.LC_STAT.STAGE == 1 then stage2 (wipeStores s) else s
  | none => s

/-- LC_TRANSITION_DONE (R413). -/
def lcDone (s : State) : State :=
  match s.glm.trans with
  | some { result := some r, .. } =>
    let b := pg pGLM
    let s1 := setStage (wr { s with glm := { s.glm with trans := none } } b GLM.LC_STAT.PENDING 0) 0
    setEvt (wr s1 b GLM.LC_RESULT.REASON r) pGLM (if r = 0 then GLM.EVT.LC_DONE else GLM.EVT.LC_FAIL)
  | _ => s

/-- LC_TRANSITION_DONE. -/
def execLcTransitionDone (s : State) : Out := .next (if running s then lcDone s else s)

/-- The fatal lock at Glume (R414, R424): a transition in stage 1 or 2 ends, a grant drops to level 1, and the CP runs. -/
def lockGlume (s : State) : State :=
  let st := rd s (pg pGLM) GLM.LC_STAT.STAGE
  let s1 := if st = 1 ∨ st = 2 then
      let isG := fun (p : Prog) => match p.use with | .glume _ => true | _ => false
      let s0 := { s with glm := { s.glm with trans := none }, grn := { s.grn with queue := s.grn.queue.filter fun p => !isG p } }
      setStage (wr s0 (pg pGLM) GLM.LC_STAT.PENDING 0) 0
    else s
  resumeCp { s1 with glm := { s1.glm with level := min s1.glm.level 1 } }

/-! ### Burns (R407, R416, R418) -/

/-- Bits of ARB region step `i`, by word. -/
def arbBits (i : Nat) : List (Nat × Nat) := [2 * (i - 1), 2 * i - 1].map fun b => (16 + b / 16, 2 ^ (b % 16))

/-- The anti-rollback counter (R418): the highest step with a bit set. -/
def arbValue (s : State) : Nat :=
  (List.range 129).foldl (fun v i => if i ≠ 0 ∧ (arbBits i).any (fun p => otpWord s p.1 &&& p.2 != 0) then i else v) 0

/-- Steps burned by a request, by word. -/
def arbWords (v target : Nat) : List (Nat × Nat) :=
  let bits := (List.range (target + 1)).flatMap fun i => if v < i then arbBits i else []
  (List.range 16).filterMap fun w =>
    let m := bits.foldl (fun a p => if p.1 = 16 + w then a ||| p.2 else a) 0
    if m = 0 then none else some (16 + w, m)

/-- Raise the counter: 0, or 0x0618 (R418). -/
def arbRaise (s : State) (target : Nat) : State × Nat :=
  if target ≤ arbValue s ∨ 128 < target then (s, 0x0618)
  else (addBurn s { use := .arb target, words := arbWords (arbValue s) target }, 0)

/-- ARB_REQ by port 0 under its unlock. -/
def arbReqFx (s : State) (src v : Nat) : State :=
  if !glumeUp s then s
  else if locked s then glmRefuse s src 0x64 0x0611
  else
    let r := arbRaise s (bitsAt v 0 8)
    if r.2 = 0 then r.1 else glmRefuse s src 0x64 r.2

/-- ARB_REQ. -/
def execArbReq (src id : BitVec 8) (value : BitVec 32) (s : State) : Out :=
  .next (pageLocked s src.toNat id.toNat pGLM 0x64 fun st => arbReqFx st src.toNat value.toNat)

/-- The states in which OTP_PROG accepts a word (R416). -/
def progStates (w : Nat) : List Nat :=
  if 32 ≤ w ∧ w < 36 then [0] else if 68 ≤ w ∧ w < 92 then [0, 1] else if 92 ≤ w ∧ w < 116 then [0, 1, 2]
  else if w = 116 then [2, 3, 4] else if 128 ≤ w ∧ w < 138 then [0, 1] else []

/-- Whether OTP_PROG accepts a word and its bits (R416). -/
def otpAccepts (s : State) (w d : Nat) : Bool :=
  let o := otpWordRec s w
  (progStates w).contains (lcState s) && (if isEccWord w && o.whole then o.data == d else o.data &&& d == o.data)

/-- OTP_PROG under its unlock. -/
def otpProgFx (s : State) (src v : Nat) : State :=
  let w := bitsAt v 0 10
  let d := bitsAt v 16 16
  if !glumeUp s then s
  else if locked s then glmRefuse s src 0x58 0x0611
  else if otpAccepts s w d then addBurn s { use := .prog, words := [(w, d)] }
  else glmRefuse s src 0x58 0x0619

/-- OTP_PROG. -/
def execOtpProg (src id : BitVec 8) (value : BitVec 32) (s : State) : Out :=
  .next (pageLocked s src.toNat id.toNat pGLM 0x58 fun st => otpProgFx st src.toNat value.toNat)

/-- What a burn's end means for the running transition. -/
def dataBurned (s : State) (b : Burn) (ok : Bool) : State :=
  match s.glm.trans with
  | none => s
  | some t =>
    if t.target = 4 then
      if b.words.any fun p => p.1 == 6 then
        (if wipeBits s < 12 then transResult s 0x0617
         else addBurn s { use := .data, words := (seedWords 0 ++ seedWords 1).map fun w => (w, 0xFFFF) })
      else stage4 s 4
    else if ok then stage4 s t.target else transResult s 0x0617

/-- A segment burn ends: the transition commits when each of its segments counts as set (R409, R413). -/
def segmentBurned (s t : State) (b : Burn) : State :=
  if b.words.all fun p => decide (12 ≤ popCount 16 (otpWord t p.1)) then checkPermit s (transResult t 0) else transResult t 0x0617

/-- Failed bits of a burn: three attempts beyond the first, and the failure. -/
def failedBits (s : State) (ws : List (Nat × Nat)) : Nat :=
  ws.foldl (fun n p => n + popCount 16 (p.2 - (p.2 &&& otpWord s p.1))) 0

/-- OTP_BURN_DONE (R407): the burn that runs ends; `ok` says that every bit verified. -/
def burnDone (s : State) (ok : Bool) : State :=
  match s.glm.burns with
  | [] => s
  | b :: bs =>
    let s0 := { s with glm := { s.glm with burns := bs } }
    let s1 := if ok then burnAll s0 b.words
      else let u := burnSome s0 b.words; incBy u (pg pGLM) GLM.BURN_RETRIES.COUNT (4 * failedBits u b.words)
    match b.use with
    | .prog => if flag s1 (pg pGLM) GLM.DBG_STAT.TOKEN && keyRevoked s1 s1.glm.keyIndex then endGrantFx s1 else s1
    | .arb _ => setEvt s1 pGLM GLM.EVT.ARB_DONE
    | .data => dataBurned s1 b ok
    | .segment => segmentBurned s s1 b

/-- OTP_BURN_DONE. -/
def execOtpBurnDone (ok : Bool) (s : State) : Out := .next (if running s then burnDone s ok else s)

/-! ### The device key (R417) -/

/-- The device key. -/
def deviceKey (s : State) : Bytes :=
  let root := (seedWords (seedSlot s)).flatMap fun w => natLe 2 (otpWord s w)
  kdf root (fun i => [byteOf i, 0x44, 0x45, 0x56, 0x4B] ++ natLe 8 (deviceId s) ++ [0x00, 0x01, 0x00]) 32

/-- Derive the device key and deliver it to the KCC, as two shares in a masked part. -/
def keyLoadFx (s : State) : State × Nat :=
  if lcState s = 2 ∨ lcState s = 3 then
    let r := shareOf s (deviceKey s)
    ({ r.1 with kcc := { r.1.kcc with devKey := some (r.2.1, r.2.2) } }, 0)
  else (s, 0x061A)

/-- A write of KEY_LOAD.GO by port 0. -/
def keyLoadReq (s : State) (src v : Nat) : State :=
  if !bitAt v 0 || !glumeUp s then s
  else if locked s then glmRefuse s src 0x68 0x0611
  else
    let r := keyLoadFx s
    if r.2 = 0 then r.1 else glmRefuse r.1 src 0x68 r.2

/-- KEY_LOAD (R417): KEY_LOAD written with GO = 1. -/
def execKeyLoad (src id : BitVec 8) (value : BitVec 32) (s : State) : Out :=
  .next (pageWrite s src.toNat id.toNat pGLM 0x68 fun st => keyLoadReq st src.toNat (setBit value.toNat 0))

/-! ### Start-up (R408, R411, R415) -/

/-- How an ECC word reads at start: 0 good, 1 corrected, otherwise uncorrectable (R406, R415). A blank word and a whole codeword
are good. -/
def eccRead (s : State) (w : Nat) : Nat :=
  match SMap.get? s.glm.otp w with
  | some o => if o.whole || !isEccWord w then 0 else if o.data = 0 then 0 else Config.otpPartial w o.data
  | none => 0

/-- Whether a word reads uncorrectable. -/
def eccBad (s : State) (w : Nat) : Bool := decide (2 ≤ eccRead s w)

/-- The segment burns that start completes (R415). -/
def segFixes (s : State) : List (Nat × Nat) :=
  let c := segments s
  let part := (List.range c).filterMap fun k => if popCount 16 (otpWord s k) < 16 then some (k, 0xFFFF) else none
  if c = 5 then part ++ [(5, 0xFFFF)] else part

/-- The second bit of the highest ARB step, when one of its bits is missing (R418). -/
def arbFix (s : State) : List (Nat × Nat) :=
  let v := arbValue s
  if v = 0 then [] else (arbBits v).filter fun p => otpWord s p.1 &&& p.2 == 0

/-- The integrity failures found (R411). -/
def integrityReasons (s : State) : List Nat :=
  let set := fun (k : Nat) => decide (12 ≤ popCount 16 (otpWord s k))
  let keys := (List.range 4).map (32 + ·) ++ (List.range 48).map (68 + ·) ++ seedWords (seedSlot s)
  let seed : Bool := ((lcState s == 2 || lcState s == 3) && seedBlank s 0 && seedBlank s 1) ||
      (decide (4 ≤ lcState s) && (seedWords 0 ++ seedWords 1).any fun w => otpWord s w != 0xFFFF)
  (if (List.range 6).any fun k => set k && !((List.range k).all set) then [0x0623] else []) ++
    (if keys.any (eccBad s) then [0x0624] else []) ++ (if seed then [0x0625] else [])

/-- Glume's start-up ends: completions of one step are burned here; an interrupted wipe runs its stages first (R415). -/
def glumeStart (s : State) : State :=
  let b := pg pGLM
  let resumed := fun (st : State) => setEvt (wr st b GLM.LC_STAT.RESUMED 1) pGLM GLM.EVT.RESUMED
  if lcState s < 4 && decide (12 ≤ wipeBits s) then resumed (startTransition s 4)
  else
    let corr := ((List.range 84).filter fun i => eccRead s (32 + i) == 1).length
    let fixes := segFixes s
    let s1 := wr (burnAll s (fixes ++ arbFix s)) b GLM.OTP_STAT.CORR corr
    let s2 := if fixes.isEmpty then s1 else resumed s1
    let s3 := wr (wr (setUstate s2 pGLM (if locked s2 then 6 else 2)) b HDR.CTL.EN 1) b GLM.STAT.STARTUP 0
    (integrityReasons s3).foldl (fun st e => chaffPlain st 6 0 0x901 e) s3

/-- GLUME_STARTUP_DONE (R408). -/
def execGlumeStartupDone (s : State) : Out :=
  .next (if running s && flag s (pg pGLM) GLM.STAT.STARTUP && s.glm.trans.isNone then glumeStart s else s)

end Sys2Proof.Machine
end

