-- ==== Sys2Proof/Machine/Chaff.lean ====
section
/-! DEFINITION. The Chaff collector (R354 to R373, R478): the rule table, acceptance and classification of messages, records, first-error
capture, and the reactions up to the fatal lock; releases and rule writes. -/

namespace Sys2Proof.Machine

/-! ### The rule table (R360, R361) -/

/-- The properties of a kind: entry class, N and W (N = 0 for a kind that is not counted), ceiling, and the unit IDs that send it,
none listed for any. Classes: 0 NOTICE, 1 DEGRADED, 2 SEVERE, 3 FATAL. -/
structure Rule where
  kind : Nat
  entry : Nat
  n : Nat
  w : Nat
  ceil : Nat
  units : List Nat
deriving DecidableEq, Repr

def rulesA : List Rule :=
  [⟨0x001, 0, 0, 0, 0, [1]⟩, ⟨0x002, 0, 0, 0, 0, [4, 5, 6, 0x14]⟩, ⟨0x003, 0, 0, 0, 0, []⟩, ⟨0x004, 0, 0, 0, 0, [2]⟩, ⟨0x005, 0, 0, 0, 0, []⟩,
   ⟨0x101, 0, 16, 1024, 1, [0x16]⟩, ⟨0x102, 0, 16, 1024, 1, [0x16]⟩, ⟨0x103, 0, 16, 1024, 1, [0x16]⟩, ⟨0x104, 0, 4, 1024, 1, [0x16]⟩,
   ⟨0x201, 0, 64, 65536, 1, [9, 8, 0x13, 0x11, 0x15, 2]⟩, ⟨0x202, 1, 2, 65536, 2, [9, 8, 0x13, 0x11, 0x15, 2]⟩, ⟨0x203, 0, 4, 65536, 2, [0x12]⟩,
   ⟨0x204, 2, 0, 0, 2, [0x11]⟩, ⟨0x205, 3, 0, 0, 3, [8]⟩]

def rulesB : List Rule :=
  [⟨0x301, 0, 2, 65536, 2, [0x10]⟩, ⟨0x302, 0, 2, 65536, 2, [0x11]⟩, ⟨0x303, 0, 2, 65536, 2, [0x11]⟩, ⟨0x304, 1, 0, 0, 1, [0x11]⟩,
   ⟨0x305, 0, 2, 65536, 2, [0x12]⟩, ⟨0x306, 1, 2, 65536, 2, [0x12]⟩, ⟨0x307, 2, 2, 1024, 3, [3, 4, 8, 9, 0x13, 0x14, 0x15, 0x16]⟩,
   ⟨0x401, 0, 3, 1024, 1, [7]⟩, ⟨0x402, 0, 0, 0, 0, [7]⟩, ⟨0x403, 1, 0, 0, 1, [7]⟩, ⟨0x404, 1, 0, 0, 1, [7]⟩, ⟨0x405, 0, 0, 0, 0, [7]⟩,
   ⟨0x406, 1, 0, 0, 1, [7]⟩, ⟨0x407, 1, 0, 0, 1, [0x10]⟩]

def rulesC : List Rule :=
  [⟨0x501, 2, 0, 0, 2, [1]⟩, ⟨0x502, 2, 0, 0, 2, [3]⟩, ⟨0x503, 0, 4, 1048575, 1, [3]⟩, ⟨0x504, 0, 4, 65536, 1, [11]⟩, ⟨0x601, 0, 0, 0, 0, [0x15]⟩,
   ⟨0x701, 0, 0, 0, 0, [8]⟩, ⟨0x702, 2, 0, 0, 2, [8]⟩, ⟨0x703, 0, 16, 1024, 1, [8]⟩, ⟨0x801, 0, 8, 1024, 2, [0x14]⟩, ⟨0x802, 1, 0, 0, 1, [0x14]⟩,
   ⟨0x803, 0, 0, 0, 0, [0x14]⟩, ⟨0x901, 3, 0, 0, 3, [6]⟩, ⟨0x902, 1, 0, 0, 1, [2]⟩, ⟨0x903, 1, 0, 0, 1, [2]⟩]

def rulesD : List Rule :=
  [⟨0xA01, 0, 0, 0, 0, [5]⟩, ⟨0xA02, 0, 32, 1048575, 1, [5]⟩, ⟨0xA03, 1, 0, 0, 1, [5]⟩, ⟨0xA04, 1, 4, 1048575, 2, [5]⟩,
   ⟨0xC01, 0, 4, 1024, 3, []⟩, ⟨0xC03, 3, 0, 0, 3, [4]⟩]

/-- The kinds with their defaults, CHF_MERGED apart: it has the merged kind's rule. -/
def ruleTable : List Rule := rulesA ++ rulesB ++ rulesC ++ rulesD

/-- A kind's defaults. -/
def ruleDef (kind : Nat) : Rule :=
  match ruleTable.find? fun r => r.kind == kind with
  | some r => r
  | none => ⟨kind, 0, 0, 0, 0, []⟩

/-- The rule in force for a kind. -/
def ruleOf (s : State) (kind : Nat) : Rule :=
  let r := ruleDef kind
  { r with n := SMap.getD s.chaff.ruleN kind r.n, w := SMap.getD s.chaff.ruleW kind r.w }

/-- Make a rule stricter: 0, or 0x0415 when it would loosen it. Kinds that are not counted ignore it (R360, R372). -/
def setRule (s : State) (kind n w : Nat) : State × Nat :=
  let r := ruleDef kind
  if r.n = 0 then (s, 0)
  else if n = 0 ∨ r.n < n ∨ w < r.w ∨ 1048575 < w then (s, 0x0415)
  else ({ s with chaff := { s.chaff with ruleN := SMap.set s.chaff.ruleN kind n, ruleW := SMap.set s.chaff.ruleW kind w } }, 0)

/-- Whether a kind is listed for a source (R361, R511). -/
def kindListed (kind unit member : Nat) : Bool :=
  match ruleTable.find? fun r => r.kind == kind with
  | none => false
  | some r => (r.units.isEmpty || r.units.contains unit) &&
      (if kind = 0x401 ∨ kind = 0x402 then decide (member < 16)
       else if kind = 0x403 then member == 0x30
       else if kind = 0x404 ∨ kind = 0x405 ∨ kind = 0x406 then decide (0x20 ≤ member ∧ member < 0x2C)
       else true)

/-! ### Acceptance (R356 to R358) -/

/-- The kind a message counts as. -/
def ChaffMsg.kindOf (m : ChaffMsg) : Nat := if m.kind = 0xC02 then bitsAt m.detail 16 12 else m.kind

/-- Events that a message stands for. -/
def ChaffMsg.events (m : ChaffMsg) : Nat := if m.kind = 0xC02 then m.detail % 65536 else 1

def ChaffMsg.src (m : ChaffMsg) : Nat := srcKey m.unit m.member

/-- Whether a source raises URGENT for a message (R357). -/
def ChaffMsg.urgent (m : ChaffMsg) : Bool := decide (2 ≤ (ruleDef m.kindOf).entry)

/-- The message accepted next: the oldest URGENT one, or the oldest of the next source in round robin. -/
def nextMsg (s : State) : Option (ChaffMsg × Bool) :=
  match s.chaff.bus.find? ChaffMsg.urgent with
  | some m => some (m, true)
  | none =>
    let keys := s.chaff.bus.map ChaffMsg.src
    let after := keys.filter fun k => decide (s.chaff.last < k)
    match (if after.isEmpty then keys else after).min? with
    | some k => (s.chaff.bus.find? fun m => m.src == k).map fun m => (m, false)
    | none => none

/-- A waiting injection goes out once its source holds a credit (R511, R516). -/
def sendInjected (s : State) : State :=
  let b := pg pPMU
  let k := rd s b PMU.CHAFF_INJ.SOURCE
  if flag s b PMU.CHAFF_INJ.GO && decide (0 < (srcOf s k).credits) then
    chaffPlain (inc (wr s b PMU.CHAFF_INJ.GO 0) b PMU.INJECTED.COUNT) (k / 256) (k % 256) (rd s b PMU.CHAFF_INJ.KIND)
      (rd s b PMU.CHAFF_INJ_DETAIL.DETAIL)
  else s

/-- A credit returns to a source; a held fault goes out as CHF_MERGED (R356). -/
def returnChaff (s : State) (k : Nat) : State :=
  let r := srcOf s k
  let s1 := setSrc s k { r with credits := min 4 (r.credits + 1), hold := none, merged := 0 }
  match r.hold with
  | some m => sendInjected (chaff s1 { m with kind := 0xC02, detail := min (r.merged + 1) 0xFFFF + m.kind * 65536 })
  | none => sendInjected s1

/-! ### Records and first-error capture (R366, R367) -/

/-- The bytes of a record that the collector gives. -/
def chaffRec (m : ChaffMsg) (cls detail : Nat) (raised : Bool) : Bytes :=
  zeros 11 ++ [byteOf (cls + 4 * bit raised + 8 * bit (m.kind == 0xC02) + 16 * bit (m.kind == 0x803)), byteOf m.member, byteOf m.unit] ++
    natLe 2 (m.kind % 4096) ++ zeros 2 ++ [byteOf m.port, byteOf m.access] ++
    (if m.access = 0 then natLe 4 detail ++ zeros 4 else natLe 6 m.addr ++ natLe 2 detail) ++ zeros 4

/-- The base of the capture that a source's messages are offered to, with the page whose EVT it sets; none for an absent page. -/
def captureAt (s : State) (m : ChaffMsg) : Option (Nat × Nat) :=
  if m.unit = 0x16 then some (fecB (m.member % 16), pCHF)
  else match unitPage m.unit (if m.unit < 0x10 then 0 else m.member) with
    | some p => if pagePresent s p then some (pg p, p) else none
    | none => none

/-- Offer a message to its page's first-error capture (R367). -/
def capture (s : State) (m : ChaffMsg) : State :=
  if m.access = 0 then s
  else match captureAt s m with
    | none => s
    | some (b, p) =>
      if flag s b HDR.FEC_SRC.VALID then
        wr (wr s b HDR.FEC_MERGE.COUNT (min (rd s b HDR.FEC_MERGE.COUNT + m.events) 0xFFFF)) b HDR.FEC_MERGE.KINDS
          (setBit (rd s b HDR.FEC_MERGE.KINDS) (bitsAt m.kindOf 8 4))
      else
        let byUnit := m.access == 7 || m.access == 8
        let s1 := wr (wr s b HDR.FEC_ADDR_LO.ADDR m.addr) b HDR.FEC_ADDR_HI.ADDR (m.addr / 2 ^ 32)
        let s2 := wr (wr (wr s1 b HDR.FEC_SRC.PORT (if byUnit then 0 else m.port)) b HDR.FEC_SRC.UNIT (if byUnit then m.port else 0))
          b HDR.FEC_SRC.ACCESS m.access
        let s3 := wr (wr s2 b HDR.FEC_TIME_LO.TICK (ticks s)) b HDR.FEC_TIME_HI.TICK (ticks s / 2 ^ 32)
        setEvt (wr s3 b HDR.FEC_SRC.VALID 1) p 1

/-! ### Reactions (R362 to R365, R478) -/

/-- Whether retirement is permitted for a source's unit and not excluded for the kind (R363). -/
def retires (s : State) (m : ChaffMsg) : Bool :=
  decide (0x10 ≤ m.unit ∧ m.unit ≤ 0x14) && bitAt (rd s (pg pCHF) CHF.RETIRE_POLICY.UNITS) (m.unit - 0x10) &&
    !(m.kindOf == 0x304 || m.kindOf == 0x407)

/-- Whether another instance of a source's unit is ENABLED. -/
def othersEnabled (s : State) (m : ChaffMsg) : Bool :=
  match unitPage m.unit m.member with
  | some p => (unitPages p).any fun q => q != p && pagePresent s q && enabled s q
  | none => false

/-- An instance is retired: its disable runs and ends in RETIRED (R363). -/
def retirePage (s : State) (p : Nat) : State :=
  let s1 := { s with chaff := { s.chaff with retiring := s.chaff.retiring ++ [p] } }
  if ustate s p = 2 then startDisable s1 p
  else if ustate s p = 0 then setUstate s p 5
  else if ustate s p = 1 then wr s1 (pg p) HDR.CTL.EN 0
  else if ustate s p = 3 then s1
  else s

/-- DEGRADED: a noise cell is dropped (R335), a replicated instance is retired, or its retirement is skipped (R363). -/
def degradeFx (s : State) (m : ChaffMsg) : State :=
  if m.kindOf = 0x401 then dropCell s m.member
  else if retires s m then
    match unitPage m.unit m.member with
    | some p =>
      if !othersEnabled s m then setEvt s pCHF CHF.EVT.RETIRE_SKIPPED
      else if pagePresent s p && !s.chaff.retiring.contains p then retirePage s p
      else s
    | none => s
  else s

/-- The fence of a SEVERE source, or what R361 names in its place. -/
def severeFx (s : State) (m : ChaffMsg) : State :=
  let k := m.kindOf
  if k = 0x204 ∨ k = 0x502 ∨ k = 0x702 then s
  else if k = 0xA04 then
    let s1 := wr s (pg pGRN) (if m.member = 0 then GRN.BANK_STAT.B0_RO else GRN.BANK_STAT.B1_RO) 1
    refuseWhere (setEvt s1 pGRN GRN.EVT.BANK_RO) (fun p => bankOf p.row == m.member) 0x0512
  else
    let s1 := if k = 0x501 then setEvt s pSYS SYS.EVT.CLK_RATIO else s
    match unitPage m.unit m.member with
    | some p => if pagePresent s1 p && decide (ustate s1 p < 4) then fencePage s1 p else s1
    | none => s1

/-- Every present unit page reads LOCKED. -/
def lockPages (s : State) : State := (List.range 0x61).foldl (fun st p => if pageBuilt st p then setUstate st p 6 else st) s

/-- All work in flight completes LOCKED: queued entries, and running chains with their running step. -/
def lockWork (s : State) : State :=
  let v : Verdict := { status := 0x3F, detail := 0, loc := 0 }
  let mine := s.rch.dq.filter fun d => d.peer.isNone
  let s1 := { s with rch := { s.rch with dq := [] }, plan := { s.plan with grants := [], booked := false } }
  let s2 := mine.foldl (fun st d => finishEntry st d.sq d.eid d.index (entTag d.bytes) v 0 [] false []) s1
  s2.jobs.foldl (fun st p =>
    let k := ((List.range p.2.steps.length).find? fun i => match p.2.steps[i]? with | some t => t.st != .ended | none => false).getD 0
    endChain st p.1 (some (v, k))) s2

/-- What the zeroize sequencer clears (R365): the KCC's lines and keys, the mask seeds of every lane, Teff's expanders, seeds, FIFOs and
capture buffer, the suspend store and the Sorghum banks. -/
def zeroizeFx (s : State) : State :=
  let lanes := s.lanes.map fun p => (p.1, { p.2 with ctxs := [], seed := [], next := none })
  wipeStores (stopTef { s with lanes })

/-- The fatal lock (R365, R467, R414, R424, R505). -/
def enterLock (s : State) (m : ChaffMsg) : State :=
  if locked s then s
  else
    let b := pg pCHF
    let s1 := lockWork (lockLinks s)
    let s2 := wr (wr (wr s1 b CHF.LOCK_STAT.SOURCE m.src) b CHF.LOCK_STAT.KIND m.kindOf) b CHF.LOCK_STAT.LOCKED 1
    checkPermit s (lockGlume (lockPages s2))

/-- The MIRROR of a record on every link that carries one (R478). -/
def mirrorRec (s : State) (m : ChaffMsg) (cls seq : Nat) : State :=
  (List.range s.part.links).foldl (fun st l => if present st .clm l then sendMirror st l m.src m.kindOf cls seq else st) s

/-- A source rises from `before` to `now` (R362). -/
def reactFx (s : State) (m : ChaffMsg) (before now seq : Nat) : State :=
  let s1 := if before < 1 then setEvt s pCHF CHF.EVT.DEGRADED else s
  if now < 2 then degradeFx s1 m
  else
    let s2 := if before < 2 then startFlush (setEvt s1 pCHF CHF.EVT.SEVERE) 1 else s1
    let s3 := mirrorRec s2 m now seq
    if now = 2 then severeFx s3 m else startFlush (enterLock s3 m) 2

/-! ### Classification (R358, R359) -/

/-- The class and windows of a source after a message. -/
def classify (s : State) (m : ChaffMsg) : ChaffSrc :=
  let r := srcOf s m.src
  let k := ruleOf s m.kindOf
  let c0 := max r.cls k.entry
  if k.n ≠ 0 ∧ c0 < k.ceil then
    let w0 : ChaffWin := SMap.getD r.wins m.kindOf { start := 0, count := 0 }
    let w : ChaffWin := if w0.count = 0 ∨ w0.start + k.w ≤ ticks s then { start := ticks s, count := m.events } else { w0 with count := w0.count + m.events }
    if k.n ≤ w.count then { r with cls := c0 + 1, wins := SMap.set r.wins m.kindOf { w with count := 0 } }
    else { r with cls := c0, wins := SMap.set r.wins m.kindOf w }
  else { r with cls := c0 }

/-- An accepted message is classified, recorded, captured and reacted to, and its credit returned (R359). -/
def classifyFx (s : State) (m : ChaffMsg) : State :=
  let b := pg pCHF
  let before := (srcOf s m.src).cls
  let r := classify s m
  let raised := decide (before < r.cls)
  let s1 := setSrc s m.src { r with msgs := min (r.msgs + 1) 0xFFFFFFFF, raised := if raised then m.kindOf else r.raised }
  let s2 := pmu (incBy s1 b CHF.MESSAGES.COUNT 1) 0x15 m.unit 1
  let s3 := if raised then inc s2 b CHF.RAISES.COUNT else s2
  let s4 := if m.kind = 0xC02 then inc s3 b CHF.MERGED.COUNT else s3
  let skipped := raised && r.cls == 1 && retires s m && !othersEnabled s m
  let detail := if skipped then m.detail / 65536 * 65536 + 0x0417 else m.detail
  let seq := seqNext s4
  let s5 := capture (stageRec s4 (chaffRec m (min r.cls (ruleOf s m.kindOf).ceil) detail raised) raised (raised && r.cls == 3)) m
  let s6 := if raised then reactFx s5 m before r.cls seq else s5
  returnChaff s6 m.src

/-- CHAFF_CLASSIFY: the next message is accepted; `corrupt` says that its check or identity did not match, and `kind` is then the
kind received (R358). -/
def chaffNext (s : State) (corrupt : Bool) (kind : Nat) : State :=
  match nextMsg s with
  | none => s
  | some (m, urgent) =>
    let s1 := { s with chaff := { s.chaff with bus := s.chaff.bus.erase m, last := if urgent then s.chaff.last else m.src } }
    if corrupt then
      let bad : ChaffMsg := { unit := m.unit, member := m.member, kind := 0xC01, access := 0, port := 0, addr := 0, detail := kind + 0x0416 * 65536 }
      classifyFx (setEvt (inc s1 (pg pCHF) CHF.BUS_ERRORS.COUNT) pCHF CHF.EVT.BUS_ERR) bad
    else classifyFx s1 m

/-- CHAFF_CLASSIFY (R359). -/
def execChaffClassify (corrupt : Bool) (kind : BitVec 12) (s : State) : Out :=
  .next (if running s then chaffNext s corrupt kind.toNat else s)

/-- ZEROIZE_DONE (R365, R413): the sequencer of the fatal lock ends, or that of an entry to ANALYSIS. -/
def execZeroizeDone (s : State) : Out :=
  .next (if !running s then s else if locked s then zeroizeFx s else wipeDoneLc s)

/-! ### Release and rules (R360, R368) -/

/-- The reason code that refuses a release, 0 when it is accepted. -/
def releaseReason (s : State) (k : Nat) : Nat :=
  let r := srcOf s k
  let u := k / 256
  if u = 1 ∨ u = 4 ∨ u = 6 ∨ r.raised = 0x204 ∨ r.raised = 0x501 ∨ r.raised = 0x502 ∨ r.raised = 0x702 ∨ (r.raised = 0xA04 ∧ r.cls = 2) then 0x0412
  else if 2 ≤ SMap.getD s.chaff.releases k 0 then 0x0413
  else if r.cls != 2 || (match unitPage u (k % 256) with | some p => ustate s p != 4 || !pagePresent s p | none => true) then 0x0414
  else 0

/-- A write to RELEASE under its unlock (R368); in the fatal lock a release does not complete (R370). -/
def releaseFx (s : State) (v : Nat) : State :=
  let k := v % 65536
  if locked s then s
  else
    let e := releaseReason s k
    let s1 := wr s (pg pCHF) HDR.CHK.REASON e
    if e ≠ 0 then notice s1 4 0 e
    else
      let s2 := setSrc s1 k { srcOf s1 k with cls := 1, wins := [] }
      let n := SMap.getD s2.chaff.releases k 0 + 1
      let s3 := { s2 with chaff := { s2.chaff with releases := SMap.set s2.chaff.releases k n } }
      let s4 := match unitPage (k / 256) (k % 256) with | some p => setUstate s3 p 0 | none => s3
      setEvt s4 pCHF CHF.EVT.RELEASE_DONE

/-- RELEASE. -/
def execRelease (src id : BitVec 8) (value : BitVec 32) (s : State) : Out :=
  .next (pageLocked s src.toNat id.toNat pCHF 0x78 fun st => releaseFx st value.toNat)

/-- A write to RULE_VAL, from port 0 and while CHF is DISABLED (R360, R372). -/
def ruleValFx (s : State) (src v : Nat) : State :=
  if src ≠ 0 ∨ ustate s pCHF ≠ 0 then s
  else
    let r := setRule s (rd s (pg pCHF) CHF.RULE_SEL.KIND) (bitsAt v 0 8) (bitsAt v 8 20)
    if r.2 = 0 then r.1 else wr r.1 (pg pCHF) HDR.CHK.REASON r.2

/-- RULE_VAL_WRITE. -/
def execRuleValWrite (src id : BitVec 8) (value : BitVec 32) (s : State) : Out :=
  .next (pageWrite s src.toNat id.toNat pCHF 0x68 fun st => ruleValFx st src.toNat value.toNat)

/-! ### Faults that units find in themselves (R184, R361) -/

/-- CHF_SELF_CHECK (R361): the collector's own check fails, and its source is classified FATAL. -/
def execChfSelfCheck (s : State) : Out := .next (if running s then chaffAny s 4 0 0xC03 else s)

/-- BOOKS_IMBALANCE (R184): a unit that keeps a book reports it out of balance. -/
def execBooksImbalance (unit member : BitVec 8) (s : State) : Out :=
  .next (if running s && (ruleDef 0x307).units.contains unit.toNat then chaffAny s unit.toNat member.toNat 0x307 else s)

end Sys2Proof.Machine
end

