-- ==== Sys2Proof/Machine/Culm.lean ====
section
/-! DEFINITION. The Culm links from flits up to training (R455 to R465, R479): receiving, replay, credits, training and its decision,
heartbeats, and realm synchronisation (R470). -/

namespace Sys2Proof.Machine

/-! ### Retraining and replay (R457) -/

/-- A link whose training has agreed on an EPOCH: SEQ and credits restart, and nothing is in flight (R463). -/
def resetLink (x : Link) (epoch : Nat) : Link :=
  { x with txq := [], replay := [], nextSeq := 0, resends := 0, cred := vcAllow, seen := [0, 0, 0], expSeq := 0, nakOut := false, partials := [],
           given := [0, 0, 0], inbox := [], swap := none, missed := 0, epoch }

/-- Eight resends in a row had no progress: the link trains again, and what it shared with the peer ends (R457, R463). -/
def retrainFx (s : State) (l : Nat) : State :=
  chaffPlain (setEvt (startTraining (endShared s l) l) (pCLM l) CLM.EVT.RETRAIN) 0x14 l 0x801 0x1417

/-- Resend every flit not acknowledged, from the oldest. -/
def resendFx (s : State) (l : Nat) : State :=
  let x := link s l
  if x.replay.isEmpty then s
  else if 8 ≤ x.resends then retrainFx s l
  else x.replay.foldl (fun st p => presentFlit st l p.1 p.2) (inc (setLink s l { x with resends := x.resends + 1 }) (pg (pCLM l)) CLM.REPLAYS.COUNT)

/-- Flits that stay in the replay buffer after an ACK. -/
def dropAcked (a : Nat) (r : List (Nat × TxFlit)) : List (Nat × TxFlit) :=
  match r.findIdx? fun p => p.1 == a with
  | some i => r.drop (i + 1)
  | none => r

/-- An ACK arrives; one that acknowledges a flit is progress. -/
def takeAck (s : State) (l a : Nat) : State :=
  let x := link s l
  let r := dropAcked a x.replay
  setLink s l { x with replay := r, resends := if r.length < x.replay.length then 0 else x.resends }

/-- Cumulative credit counts arrive (R458): what is new is added, up to the allowance (R459), and waiting flits go. -/
def takeCredits (s : State) (l : Nat) (c : List Nat) : State :=
  let x := link s l
  let cred := (List.range 3).map fun v => min (vcAllow.getD v 0) (x.cred.getD v 0 + (c.getD v 0 + 65536 - x.seen.getD v 0) % 65536)
  pumpLink (x.txq.length + 1) (setLink s l { x with cred, seen := c }) l

/-- A NAK names the SEQ that the peer expects (R457): the flits before it have arrived, and the rest is sent again. -/
def nakFx (s : State) (l e : Nat) : State :=
  let x := link s l
  if e = x.nextSeq then setLink s l { x with replay := [], resends := 0 }
  else match x.replay.findIdx? fun p => p.1 == e with
    | some i => resendFx (setLink s l { x with replay := x.replay.drop i, resends := if i = 0 then x.resends else 0 }) l
    | none => s

/-- Present an IDLE control flit, with the ACK and the credits now due. -/
def sendIdle (s : State) (l : Nat) : State := setLink s l { link s l with out := controlFlit (link s l) 0 [] }

/-- A discarded flit: the first one sends a NAK. -/
def sendNak (s : State) (l : Nat) : State :=
  let x := link s l
  if x.nakOut then s else setLink s l { x with nakOut := true, out := controlFlit x 2 (natLe 2 x.expSeq) }

/-- The message types that a VC carries. -/
def vcTypes (vc : Nat) : List Nat := (List.range 24).filter fun m => msgVc m == vc

/-- A whole message arrives: one of another EPOCH, or of a type the VC does not carry, is discarded (R460). -/
def deliverMsg (s : State) (l vc : Nat) (m : LinkMsg) : State :=
  let x := link s l
  if m.epoch = x.epoch ∧ carries s l vc ∧ ((vcTypes vc).any fun t => mcode t == m.mtype) then setLink s l { x with inbox := x.inbox ++ [(vc, m)] } else s

/-- A sequenced flit with a good CRC (R457): delivered in order, otherwise discarded. -/
def seqRx (s : State) (l vc h : Nat) (payload : Bytes) : State :=
  let x := link s l
  if bitsAt h 8 12 ≠ x.expSeq then sendNak s l
  else
    let s1 := inc (takeAck s l (bitsAt h 20 12)) (pg (pCLM l)) CLM.FLITS_RX.COUNT
    let x1 := link s1 l
    let got := if bitAt h 2 then some payload else (SMap.get? x1.partials vc).map (· ++ payload)
    let x2 := { x1 with expSeq := (x1.expSeq + 1) % 4096, nakOut := false, given := listSet x1.given vc ((x1.given.getD vc 0 + 1) % 65536),
                        partials := (match got with | some b => if bitAt h 3 then SMap.erase x1.partials vc else SMap.set x1.partials vc b | none => x1.partials) }
    let s2 := setLink s1 l x2
    let s3 := match got with
      | some b => if bitAt h 3 then deliverMsg s2 l vc (msgOfBytes b) else s2
      | none => s2
    pumpLink ((link s3 l).txq.length + 1) (sendIdle s3 l) l

/-! ### Realm synchronisation (R470) -/

/-- The check value of a realm's synchronisation. -/
def syncCheck (rk : RealmKeys) (r : Nat) : Bytes := (cmac rk.dk ([0x43, 0x55, 0x4C, 0x4D] ++ natLe 2 r)).take 8

/-- Husk records that one REALM_SYNC carries. -/
def syncMax : Nat := 128

/-- Send the REALM_SYNC of SHR entry `n`, in as many messages as its husk records need (log entry 46): STATUS has MODE, AUTH, a mark for
all but the last message and, from bit 3, the number of records behind the check value. -/
def sendSync (s : State) (l n : Nat) : State :=
  let b := pg (pCLM l)
  let r := rd s b (CLM.SHR.REALM.at n)
  match realmKeys s r with
  | none => s
  | some rk =>
    let hs := (s.kcc.husks.filter fun p => p.2.realm == r).map fun p => natLe 8 (huskWord (p.1 / 1024) p.2)
    let ps := chunks (8 * syncMax) hs.flatten
    let pieces := if ps.isEmpty then [[]] else ps
    (pieces.mapIdx fun i p => (i, p)).foldl (fun st p =>
      sendMsg st l mREALMSYNC { bareMsg mREALMSYNC 0 r with
        status := bit rk.stored + 2 * rd s b (CLM.SHR.AUTH.at n) + 4 * bit (p.1 + 1 != pieces.length) + 8 * (p.2.length / 8)
        addr := realmBase s r, len := realmCount s r, body := syncCheck rk r ++ p.2 }) s

/-- Every SHARED line of a realm is invalidated (R254), and the fills of the realm under way, which may bring an entry from before, are
given up: their lookups are resolved again. -/
def dropShared (s : State) (r : Nat) : State :=
  let gone := fun (p : Nat × Line) => p.2.realm == r && bitAt p.2.flags 0 && p.2.st != .filling
  let ours := fun (f : Nat × Fill) => !f.2.bad && (lineAt s f.2.line).any fun l => l.realm == r
  let lookups := s.kcc.lookups.map fun l => if s.kcc.fills.any fun f => ours f && l.wait == .fill f.1 then { l with wait := .unit } else l
  let s1 := dropFills { s with kcc := { s.kcc with lookups } } ours
  let lines := (s1.kcc.lines.filter fun p => !(gone p && p.2.pins == 0)).map fun p => if gone p then (p.1, { p.2 with st := .stale }) else p
  { s1 with kcc := { s1.kcc with lines } }

/-- A realm synchronisation ends well (R470, steps 5 and 6). -/
def finishSync (s : State) (l n r : Nat) (peerAuth : Bool) : State :=
  let b := pg (pCLM l)
  let s1 := dropShared s r
  let s2 := if realmStored s r && !flag s b (CLM.SHR.AUTH.at n) && peerAuth then wr s1 b (CLM.SHR.PULL.at n) 1 else s1
  retryAll (retryRealm (wr (wr s2 b (CLM.SHR.COHERENT.at n) 1) b (CLM.SHR.AUTH.at n) 0) r)

/-- A synchronisation fails with a reason code. -/
def failSync (s : State) (l n code : Nat) : State :=
  notice (wr (wr s (pg (pCLM l)) (CLM.SHR.COHERENT.at n) 0) (pg (pCLM l)) HDR.CHK.REASON code) 0x14 l code

/-- Adopt a husk record of a peer when its generation is higher (R470, step 3): none when the table cannot take it. -/
def adoptHusk (s : State) (slot : Nat) (h : Husk) : Option State :=
  let old := huskOf s h.realm slot
  let rank := fun (x : Husk) => 2 * x.gen + bit x.final
  if (match old with | some o => decide (rank h ≤ rank o) | none => rank h == 0) then some s
  else if huskFull s h.realm slot then none
  else some (writeHusk (setHusk s slot h) (slot + 1) slot h)

/-- Adopt the husk records of a synchronisation for realm `r`. -/
def adoptAll (s : State) (r : Nat) : List Bytes → Option State
  | [] => some s
  | w :: ws =>
    let p := huskOfWord (leNat w)
    if p.2.realm ≠ r then adoptAll s r ws
    else match adoptHusk s p.1 p.2 with
      | some s1 => adoptAll s1 r ws
      | none => none

/-- Run the steps of R470 for SHR entry `n` against the peer's whole synchronisation, once it is there. -/
def evalSync (s : State) (l n : Nat) : State :=
  let b := pg (pCLM l)
  let r := rd s b (CLM.SHR.REALM.at n)
  match SMap.get? (link s l).syncs r, realmKeys s r with
  | some m, some rk =>
    if bitAt m.status 2 ∨ linkState s l ≠ lkUP then s
    else if bitAt m.status 0 != rk.stored || m.addr != realmBase s r || m.len != realmCount s r || m.body.take 8 != syncCheck rk r then
      setEvt (failSync s l n 0x1414) (pCLM l) CLM.EVT.REALM_MISMATCH
    else if bitAt m.status 1 && flag s b (CLM.SHR.AUTH.at n) then failSync s l n 0x1415
    else match adoptAll s r (chunks 8 (m.body.drop 8)) with
      | none => failSync s l n 0x141C
      | some s1 =>
        let lost := (link s1 l).preps.filter fun q => q.lost && q.realm == r
        if lost.isEmpty then finishSync s1 l n r (bitAt m.status 1)
        else
          let body := lost.flatMap fun q => natLe 2 q.tx
          sendMsg (setLink s1 l { link s1 l with syncOk := (link s1 l).syncOk ++ [r] }) l mOUTCOMEQ
            { bareMsg mOUTCOMEQ 0 r with len := body.length, body }
  | _, _ => s

/-- A REALM_SYNC arrives: records of several messages are put together, and the last one is acted on. -/
def syncFx (s : State) (l : Nat) (m : LinkMsg) : State :=
  let x := link s l
  let n := bitsAt m.status 3 8
  let old := match SMap.get? x.syncs m.realm with | some o => if bitAt o.status 2 then o.body.drop 8 else [] | none => []
  let s1 := setLink s l { x with syncs := SMap.set x.syncs m.realm { m with body := m.body.take 8 ++ old ++ slice m.body 8 (8 * n) } }
  match shrEntry s1 l m.realm with
  | some e => evalSync s1 l e
  | none => s1

/-! ### Training (R463, R464) -/

/-- The link reaches UP under an agreed version and EPOCH, and its realms are synchronised (R463, R470). -/
def linkUp (s : State) (l version epoch : Nat) : State :=
  let b := pg (pCLM l)
  let s1 := setLink s l (resetLink (link s l) epoch)
  let s2 := wr (wr s1 b CLM.LINK_STAT.EPOCH epoch) b CLM.PROTO.AGREED version
  let s3 := setEvt (enterLink s2 l lkUP) (pCLM l) CLM.EVT.UP
  (List.range 16).foldl (fun st n => if flag st b (CLM.SHR.EN.at n) then sendSync st l n else st) s3

/-- What a TRAIN flit says of its sender (R458, R463). -/
structure TrainInfo where
  id : Nat
  node : Nat
  mn : Nat
  mx : Nat
  fenced : Bool
  locked : Bool
  epoch : Nat
deriving DecidableEq, Repr

/-- The handshake of a TRAIN flit's payload. -/
def trainOf (p : Bytes) : TrainInfo :=
  { id := leNat (slice p 9 8), node := leNat (slice p 17 1) % 4, mn := leNat (slice p 18 1), mx := leNat (slice p 19 1),
    fenced := bitAt (leNat (slice p 20 1)) 0, locked := bitAt (leNat (slice p 20 1)) 1, epoch := leNat (slice p 21 2) }

/-- Record what the peer says of itself. -/
def notePeer (s : State) (l : Nat) (t : TrainInfo) : State :=
  let b := pg (pCLM l)
  let s1 := wr (wr s b CLM.PEER_ID.ID t.id) b CLM.PEER_STAT.NODE t.node
  let s2 := wr (wr s1 b CLM.PEER_STAT.PROTO_MIN t.mn) b CLM.PEER_STAT.PROTO_MAX t.mx
  wr (wr s2 b CLM.PEER_STAT.FENCES_US (bit t.fenced)) b CLM.PEER_STAT.LOCKED (bit t.locked)

/-- Whether a peer has the local NODE, or is trained on another link already (R453, R454). -/
def peerClash (s : State) (l : Nat) (t : TrainInfo) : Bool :=
  t.node == rd s (pg (pCLM l)) CLM.LINK_CFG.NODE ||
    (List.range 4).any fun k => k != l && present s .clm k && linkLive s k && rd s (pg (pCLM k)) CLM.PEER_ID.ID == t.id

/-- A TRAIN flit decides a link in training (R463). -/
def trainDecide (s : State) (l : Nat) (t : TrainInfo) : State :=
  let b := pg (pCLM l)
  let s1 := notePeer s l t
  let e := max (((link s l).epoch + 1) % 65536) t.epoch
  let hi := min (rd s b CLM.PROTO.MAX) t.mx
  if peerClash s l t then notice (wr (enterLink s1 l lkDOWN) b HDR.CHK.REASON 0x1411) 0x14 l 0x1411
  else if t.fenced then
    if linkState s l = lkFENCED then s1
    else setEvt (notice (wr (enterLink s1 l lkFENCED) b HDR.CHK.REASON 0x1413) 0x14 l 0x1413) (pCLM l) CLM.EVT.FENCED_BY_PEER
  else if t.locked then s1
  else if hi < max (rd s b CLM.PROTO.MIN) t.mn then
    let s2 := enterLink (wr (setLink s1 l (resetLink (link s1 l) e)) b CLM.LINK_STAT.EPOCH e) l lkISOLATED
    chaffPlain (setEvt (wr (wr s2 b CLM.PROTO.AGREED 0) b HDR.CHK.REASON 0x1412) (pCLM l) CLM.EVT.ISOLATED) 0x14 l 0x802 0x1412
  else linkUp s1 l hi e

/-- A TRAIN flit arrives: it counts in TRAINING, in FENCED once the local fence is gone, and in ISOLATED when the peer has come back with
another range (R464). -/
def trainRx (s : State) (l : Nat) (t : TrainInfo) : State :=
  let b := pg (pCLM l)
  let st := linkState s l
  if st = lkTRAINING then trainDecide s l t
  else if st = lkFENCED then (if flag s b CLM.FENCE.FENCE then s else trainDecide s l t)
  else if st = lkISOLATED ∧ (rd s b CLM.PEER_STAT.PROTO_MIN ≠ t.mn ∨ rd s b CLM.PEER_STAT.PROTO_MAX ≠ t.mx) then
    trainDecide (startTraining (endShared s l) l) l t
  else s

/-! ### Receiving a flit (R456 to R458) -/

/-- A control flit with a good CRC: `p` is its payload. -/
def ctlRx (s : State) (l h : Nat) (p : Bytes) : State :=
  let ty := leNat (slice p 0 1)
  if ty = 3 then trainRx s l (trainOf p)
  else if linkLive s l then
    let s1 := takeCredits (takeAck s l (bitsAt h 20 12)) l [leNat (slice p 1 2), leNat (slice p 3 2), leNat (slice p 5 2)]
    if ty = 2 then nakFx s1 l (leNat (slice p 7 2) % 4096) else s1
  else s

/-- A received flit: discarded in DOWN, LOST and LOCKED; a bad CRC is counted and reported. -/
def flitRx (s : State) (l : Nat) (f : BitVec 512) : State :=
  let b := beatBytes f
  let h := leNat (slice b 0 4)
  let st := linkState s l
  if st = lkDOWN ∨ st = lkLOST ∨ st = lkLOCKED then s
  else if leNat (slice b 60 4) ≠ crc32c (b.take 60) then
    let s1 := chaffPlain (inc s (pg (pCLM l)) CLM.CRC_ERRS.COUNT) 0x14 l 0x801 0
    if h % 4 = 3 ∨ !linkLive s l then s1 else sendNak s1 l
  else if h % 4 = 3 then ctlRx s l h (slice b 4 56)
  else if linkLive s l then seqRx s l (h % 4) h (slice b 4 56)
  else s

/-- Whether commands act on link `l`: the block runs and the link is there. -/
def linkRuns (s : State) (l : Nat) : Bool := running s && present s .clm l

/-- FLIT_RECEIVE (R457). -/
def execFlitReceive (link : BitVec 2) (flit : BitVec 512) (s : State) : Out :=
  .next (if linkRuns s link.toNat then flitRx s link.toNat flit else s)

/-- TRAIN (R463): a received flit that is a TRAIN flit. -/
def execTrain (link : BitVec 2) (flit : BitVec 512) (s : State) : Out :=
  .next (if linkRuns s link.toNat && leNat (slice (beatBytes flit) 0 1) % 4 == 3 && leNat (slice (beatBytes flit) 4 1) == 3 then
    flitRx s link.toNat flit else s)

/-- NAK (R457). -/
def execNak (link : BitVec 2) (seq : BitVec 16) (s : State) : Out :=
  .next (if linkRuns s link.toNat && linkLive s link.toNat then nakFx s link.toNat (seq.toNat % 4096) else s)

/-- CREDIT (R458). -/
def execCredit (link : BitVec 2) (c0 c1 c2 : BitVec 16) (s : State) : Out :=
  .next (if linkRuns s link.toNat && linkLive s link.toNat then takeCredits s link.toNat [c0.toNat, c1.toNat, c2.toNat] else s)

/-- IDLE (R458). -/
def execIdle (link : BitVec 2) (c0 c1 c2 : BitVec 16) (s : State) : Out :=
  .next (if linkRuns s link.toNat && linkLive s link.toNat then takeCredits s link.toNat [c0.toNat, c1.toNat, c2.toNat] else s)

/-- REPLAY_TIMEOUT (R457): 4,096 fc without ACK progress. -/
def execReplayTimeout (link : BitVec 2) (s : State) : Out :=
  .next (if linkRuns s link.toNat && linkLive s link.toNat then resendFx s link.toNat else s)

/-! ### The PHY, heartbeats and loss (R463 to R465) -/

/-- CL_PHY_UP rises: an enabled link trains, unless its peer is fenced. Outside operation the pin is only shown. -/
def phyUpFx (s : State) (l : Nat) : State :=
  let b := pg (pCLM l)
  let s1 := wr (wr { s with freeCtr := s.freeCtr + 1 } b CLM.LINK_STAT.PHY_UP 1) b CLM.LINK_STAT.RATE (if Config.clRate s.freeCtr then 2 else 1)
  if linkRuns s l && enabled s (pCLM l) && (linkState s l == lkDOWN || linkState s l == lkLOST) then
    (if flag s b CLM.FENCE.FENCE then enterLink s1 l lkFENCED else startTraining s1 l)
  else s1

/-- LINK_PHY_UP (R463). -/
def execLinkPhyUp (link : BitVec 2) (s : State) : Out :=
  .next (if present s .clm link.toNat && !flag s (pg (pCLM link.toNat)) CLM.LINK_STAT.PHY_UP then phyUpFx s link.toNat else s)

/-- CL_PHY_UP falls: a live link loses its peer, and one in training is DOWN. -/
def phyDownFx (s : State) (l : Nat) : State :=
  let b := pg (pCLM l)
  let s1 := wr (wr s b CLM.LINK_STAT.PHY_UP 0) b CLM.LINK_STAT.RATE 0
  if !running s then s1
  else if linkState s1 l = lkTRAINING then enterLink s1 l lkDOWN else loseLink s1 l 0x1416 lkLOST

/-- LINK_PHY_DOWN (R465). -/
def execLinkPhyDown (link : BitVec 2) (s : State) : Out :=
  .next (if present s .clm link.toNat && flag s (pg (pCLM link.toNat)) CLM.LINK_STAT.PHY_UP then phyDownFx s link.toNat else s)

/-- An HB is due; an armed SILENCE withholds it (R479). -/
def hbSendFx (s : State) (l : Nat) : State :=
  let b := pg (pCLM l)
  if rd s b CLM.INJECT.MODE = 4 ∧ rd s b CLM.INJECT.COUNT ≠ 0 then
    let n := rd s b CLM.INJECT.COUNT - 1
    let s1 := wr s b CLM.INJECT.COUNT n
    if n = 0 then wr s1 b CLM.INJECT.MODE 0 else s1
  else sendMsg s l mHB (bareMsg mHB 0 0)

/-- HB_SEND (R465): INTERVAL fc have passed. -/
def execHbSend (link : BitVec 2) (s : State) : Out :=
  .next (if linkRuns s link.toNat && linkLive s link.toNat then hbSendFx s link.toNat else s)

/-- An interval has passed without an HB: after MISS of them the peer is lost. -/
def hbMissFx (s : State) (l : Nat) : State :=
  let b := pg (pCLM l)
  let x := link s l
  let s1 := setLink (inc s b CLM.HB_MISSED.COUNT) l { x with missed := x.missed + 1 }
  if rd s b CLM.HB_CFG.MISS ≤ x.missed + 1 then loseLink s1 l 0x1416 lkLOST else s1

/-- HB_MISS (R465). -/
def execHbMiss (link : BitVec 2) (s : State) : Out :=
  .next (if linkRuns s link.toNat && linkLive s link.toNat then hbMissFx s link.toNat else s)

/-- LOST_RETRAIN (R464): 65,536 fc in LOST. -/
def execLostRetrain (link : BitVec 2) (s : State) : Out :=
  .next (if linkRuns s link.toNat && linkState s link.toNat == lkLOST then
    (if enabled s (pCLM link.toNat) && flag s (pg (pCLM link.toNat)) CLM.LINK_STAT.PHY_UP then startTraining s link.toNat
     else enterLink s link.toNat lkDOWN)
  else s)

/-! ### Registers (R473, R470, R479) -/

/-- A write to SHR[n] (R482): the realm only while EN is 0, a PULL of 0 clears it, and YIELD gives up authority. An entry that is enabled on
a link that is UP is synchronised. -/
def shrFx (s : State) (l n v : Nat) : State :=
  let b := pg (pCLM l)
  let en := flag s b (CLM.SHR.EN.at n)
  let s1 := if en then s else wr s b (CLM.SHR.REALM.at n) (bitsAt v 0 10)
  let s2 := wr s1 b (CLM.SHR.EN.at n) (bitsAt v 10 1)
  let s3 := if bitAt v 13 then s2 else wr s2 b (CLM.SHR.PULL.at n) 0
  let r := rd s3 b (CLM.SHR.REALM.at n)
  let yields := bitAt v 12 && flag s b (CLM.SHR.AUTH.at n)
  let s4 := if yields then wr s3 b (CLM.SHR.AUTH.at n) 0 else s3
  let s5 := if en != bitAt v 10 then retryRealm (wr s4 b (CLM.SHR.COHERENT.at n) 0) r else s4
  if bitAt v 10 && (!en || yields) && linkState s l == lkUP then evalSync (sendSync s5 l n) l n else s5

/-- YIELD (R470): SHR[n] written. -/
def execYield (src id : BitVec 8) (link : BitVec 2) (n : BitVec 4) (value : BitVec 32) (s : State) : Out :=
  .next (pageWrite s src.toNat id.toNat (pCLM link.toNat) (0x80 + 4 * n.toNat) fun st => shrFx st link.toNat n.toNat value.toNat)

/-- A write to FWD_CFG of the entry shown (R473, R482): an SQ is forwarded on one link at most, and from the next entry taken. -/
def fwdCfgFx (s : State) (l src v : Nat) : State :=
  let n := rd s (pg (pCLM l)) CLM.FWD_SEL.ENTRY
  let b := fwdB l n 0
  if flag s b CLM.FWD_CFG.EN then wr s b CLM.FWD_CFG.EN (bitsAt v 13 1)
  else
    let q := v % 8192
    let s1 := wr s b CLM.FWD_CFG.SQ q
    if !bitAt v 13 then s1
    else if (List.range 4).any fun k => (List.range 16).any fun i =>
        flag s (fwdB k i 0) CLM.FWD_CFG.EN && rd s (fwdB k i 0) CLM.FWD_CFG.SQ == q then
      writeIgnored s1 0x14 l src (pg (pCLM l) + 0x6C) (anyDetail 0x003)
    else
      wr { s1 with rch := { s1.rch with dq := s1.rch.dq.map fun d => if d.sq = q ∧ d.peer.isNone then { d with stay := true } else d } }
        b CLM.FWD_CFG.EN 1

/-- FWD_CFG_WRITE (R473). -/
def execFwdCfgWrite (src id : BitVec 8) (link : BitVec 2) (value : BitVec 32) (s : State) : Out :=
  .next (pageWrite s src.toNat id.toNat (pCLM link.toNat) 0x6C fun st => fwdCfgFx st link.toNat src.toNat value.toNat)

/-- A write to INJECT (R479): it acts where EVT_FORCE is permitted. -/
def clmInjectFx (s : State) (l src v : Nat) : State :=
  let b := pg (pCLM l)
  if !testPermit s then writeIgnored s 0x14 l src (b + 0x64) (anyDetail 0x003)
  else
    let n := bitsAt v 8 4
    let s1 := wr (wr s b CLM.INJECT.MODE (if n = 0 then 0 else bitsAt v 0 3)) b CLM.INJECT.COUNT n
    setLink (wr s1 b CLM.INJECT.VC (bitsAt v 12 2)) l { link s l with swap := none }

/-- CLM_INJECT_WRITE (R479). -/
def execClmInjectWrite (src id : BitVec 8) (link : BitVec 2) (value : BitVec 32) (s : State) : Out :=
  .next (pageWrite s src.toNat id.toNat (pCLM link.toNat) 0x64 fun st => clmInjectFx st link.toNat src.toNat value.toNat)

end Sys2Proof.Machine
end

