-- ==== Sys2Proof/Machine/CulmMsgs.lean ====
section
/-! DEFINITION. The messages of Culm links (R461, R466, R470 to R478): each command processes the oldest message delivered on its
virtual channel, when it is of the command's type. -/

namespace Sys2Proof.Machine

/-! ### Taking a message -/

/-- The oldest message delivered on a VC and not yet processed. -/
def frontMsg (s : State) (l vc : Nat) : Option LinkMsg := ((link s l).inbox.find? fun p => p.1 == vc).map (·.2)

/-- A link without its oldest message of a VC. -/
def popMsg (s : State) (l vc : Nat) : State :=
  let x := link s l
  match x.inbox.findIdx? fun p => p.1 == vc with
  | some i => setLink s l { x with inbox := x.inbox.eraseIdx i }
  | none => s

/-- Process the oldest message of type `m`'s VC, when it is of type `m`. -/
def onMsg (s : State) (l m : Nat) (fx : State → LinkMsg → State) : State :=
  if linkRuns s l && carries s l (msgVc m) then
    match frontMsg s l (msgVc m) with
    | some g => if g.mtype = mcode m then fx (popMsg s l (msgVc m)) g else s
    | none => s
  else s

/-- Answer a message with one that carries its TAG and REALM. -/
def answerMsg (s : State) (l m : Nat) (g : LinkMsg) (status : Nat) (body : Bytes) : State :=
  sendMsg s l m { bareMsg m g.tag g.realm with status, addr := g.addr, len := body.length, body }

/-! ### Forwarded jobs (R474, R476) -/

/-- Whether a JOB is accepted (R474). -/
def jobAccepted (s : State) (l : Nat) (g : LinkMsg) : Bool :=
  let x := link s l
  flag s (pg (pCLM l)) CLM.LINK_CFG.ACCEPT_JOBS && (shrEntry s l g.realm).isSome && coherent s g.realm && decide (x.runs.length < 64) &&
    !x.runs.contains g.tag

/-- A JOB arrives: it takes a job slot, or is refused. -/
def jobFx (s : State) (l : Nat) (g : LinkMsg) : State :=
  let b := pg (pCLM l)
  if jobAccepted s l g then
    let x := link s l
    let bytes := g.body.take g.len
    let d : DqEnt := { sq := 16 * l + g.tag / 4096, eid := s.rch.nextEid, index := 0, units := ceilDiv bytes.length 64, bytes,
                       cls := bitsAt (leNat (slice bytes 0 8)) 12 2, peer := some { link := l, tag := g.tag, realm := g.realm }, stay := true }
    let s1 := { s with rch := { s.rch with nextEid := s.rch.nextEid + 1, dq := s.rch.dq ++ [d] } }
    inc (setLink s1 l { x with runs := x.runs ++ [g.tag] }) b CLM.JOBS_RUN.COUNT
  else inc (answerMsg s l mREFUSED g 0x141B []) b CLM.JOBS_REFUSED.COUNT

/-- JOB. -/
def execJob (link : BitVec 2) (s : State) : Out := .next (onMsg s link.toNat mJOB fun st g => jobFx st link.toNat g)

/-- Whether a job or entry is the peer's transaction `tag` on a link. -/
def isPeer (l tag : Nat) (p : Option PeerRef) : Bool := match p with | some r => r.link == l && r.tag == tag && !r.lost | none => false

/-- ABORT (R476): an entry not yet dispatched ends at once, a running one at its next quantum boundary. -/
def abortFx (s : State) (l : Nat) (g : LinkMsg) : State :=
  match s.rch.dq.find? fun d => isPeer l g.tag d.peer with
  | some d =>
    let s1 := { s with rch := { s.rch with dq := s.rch.dq.filter fun e => e.eid != d.eid } }
    sendDone s1 { link := l, tag := g.tag, realm := g.realm } (doneBody { status := 0x18, detail := 0, loc := 0 } 0 (entTag d.bytes) [])
  | none =>
    let jobs := s.jobs.map fun (p : Nat × Job) => if isPeer l g.tag p.2.peer then (p.1, { p.2 with aborting := true }) else p
    endWaiting { s with jobs }

/-- ABORT. -/
def execAbort (link : BitVec 2) (s : State) : Out := .next (onMsg s link.toNat mABORT fun st g => abortFx st link.toNat g)

/-- The forwarded entry that a response answers. -/
def fwdJob (s : State) (l : Nat) (g : LinkMsg) : Option FwdJob :=
  (link s l).jobs.find? fun j => j.tx == g.tag % 4096 && j.fwd == g.tag / 4096

/-- A forwarded entry no longer outstanding. -/
def dropFwd (s : State) (l : Nat) (j : FwdJob) : State := setLink s l { link s l with jobs := (link s l).jobs.filter fun k => k.tx != j.tx }

/-- DONE (R473, R476): the originator writes the completion from its fields. -/
def doneFx (s : State) (l : Nat) (g : LinkMsg) : State :=
  match fwdJob s l g with
  | none => s
  | some j =>
    let w := leNat (slice g.body 7 4)
    let v : Verdict := { status := leNat (slice g.body 0 1), detail := bitsAt w 19 13, loc := leNat (slice g.body 11 8) }
    finishEntry (dropFwd s l j) j.ent.sq j.ent.eid j.ent.index (entTag j.ent.bytes) v (bitsAt w 16 3) (slice g.body 19 (g.len - 19))
      (entInlineOut j.ent.bytes) []

/-- DONE. -/
def execDone (link : BitVec 2) (s : State) : Out := .next (onMsg s link.toNat mDONE fun st g => doneFx st link.toNat g)

/-- Put an entry back into the dispatch queue by its age. -/
def putBack (d : DqEnt) : List DqEnt → List DqEnt
  | [] => [d]
  | e :: es => if d.eid < e.eid then d :: e :: es else e :: putBack d es

/-- REFUSED (R474): the entry is dispatched here; when its ring drains meanwhile it ends ABORTED, as R104 has it. -/
def refusedFx (s : State) (l : Nat) (g : LinkMsg) : State :=
  match fwdJob s l g with
  | none => s
  | some j =>
    let s1 := dropFwd s l j
    if sqState s j.ent.sq = 3 then
      finishEntry s1 j.ent.sq j.ent.eid j.ent.index (entTag j.ent.bytes) { status := 0x18, detail := 0, loc := 0 } 0 [] false []
    else { s1 with rch := { s1.rch with dq := putBack { j.ent with stay := true } s1.rch.dq } }

/-- REFUSED. -/
def execRefused (link : BitVec 2) (s : State) : Out := .next (onMsg s link.toNat mREFUSED fun st g => refusedFx st link.toNat g)

/-! ### Windows (R475) -/

/-- Whether a window of a forwarding entry covers a range and grants the access. -/
def windowOk (s : State) (l n a len : Nat) (write : Bool) : Bool :=
  (List.range 4).any fun w =>
    let b := fwdB l n w
    let k := rd s b CLM.WIN_SIZE.LOG2
    let base := rd s b CLM.WIN_BASE_LO.BASE * 4096 + rd s b CLM.WIN_BASE_HI.BASE * 2 ^ 32
    decide (12 ≤ k ∧ k ≤ 36) && base % 2 ^ k == 0 && decide (base ≤ a ∧ a + len ≤ base + 2 ^ k) &&
      flag s b (if write then CLM.WIN_SIZE.WRITE else CLM.WIN_SIZE.READ)

/-- Whether a window request is served. DEDUCED: a request that breaks R475's own limits of 1 KiB and one 4 KiB page is a violation too. -/
def serveOk (s : State) (l : Nat) (g : LinkMsg) (write : Bool) : Bool :=
  decide (1 ≤ g.len ∧ g.len ≤ 1024 ∧ g.addr % 4096 + g.len ≤ 4096) && windowOk s l (g.tag / 4096) g.addr g.len write

/-- The number under which a request is served: its TAG, and the link's EPOCH above it. -/
def serveTag (s : State) (l tag : Nat) : Nat := tag + 65536 * (link s l).epoch

/-- WREAD. -/
def wreadFx (s : State) (l : Nat) (g : LinkMsg) : State :=
  if serveOk s l g false then
    readReq s (fragPort g.addr) g.addr g.len 255 false false (.peerRead l (serveTag s l g.tag) (g.addr % 64) g.len)
  else inc (sendMsg s l mRDATA { bareMsg mRDATA g.tag g.realm with status := 0x141A }) (pg (pCLM l)) CLM.WIN_FAULTS.COUNT

/-- WREAD. -/
def execWread (link : BitVec 2) (s : State) : Out := .next (onMsg s link.toNat mWREAD fun st g => wreadFx st link.toNat g)

/-- WWRITE. -/
def wwriteFx (s : State) (l : Nat) (g : LinkMsg) : State :=
  if serveOk s l g true then
    let x := link s l
    let t := serveTag s l g.tag
    let ws := cutRange g.len g.addr g.len writeLines 0
    let s1 := setLink s l { x with serves := x.serves ++ [{ tag := t, left := ws.length, bad := false }] }
    ws.foldl (fun st w => writeReq st (fragPort (g.addr + w.1)) (g.addr + w.1) 255 false false false (.peerWrite l t) (slice g.body w.1 w.2)) s1
  else inc (sendMsg s l mWACK { bareMsg mWACK g.tag g.realm with status := 0x141A }) (pg (pCLM l)) CLM.WIN_FAULTS.COUNT

/-- WWRITE. -/
def execWwrite (link : BitVec 2) (s : State) : Out := .next (onMsg s link.toNat mWWRITE fun st g => wwriteFx st link.toNat g)

/-- A window read served for a peer has ended: with its lines, or with an error; one of an old EPOCH is discarded (R466). -/
def peerReadDone (s : State) (l t skip len : Nat) (d : Option Bytes) : State :=
  if t / 65536 ≠ (link s l).epoch ∨ linkState s l ≠ lkUP then s
  else match d with
    | some b => sendMsg s l mRDATA { bareMsg mRDATA (t % 65536) 0 with len, body := slice b skip len }
    | none => sendMsg s l mRDATA { bareMsg mRDATA (t % 65536) 0 with status := 0x20 }

/-- A port write of a window write has been answered; the last answer sends WACK (R25, R475). -/
def peerWriteDone (s : State) (l t : Nat) (err : Bool) : State :=
  let x := link s l
  match x.serves.find? fun v => v.tag == t with
  | none => s
  | some v =>
    let bad := v.bad || err
    if v.left ≤ 1 then
      sendMsg (setLink s l { x with serves := x.serves.filter fun w => w.tag != t }) l mWACK
        { bareMsg mWACK (t % 65536) 0 with status := if bad then 0x21 else 0 }
    else setLink s l { x with serves := x.serves.map fun w => if w.tag = t then { w with left := w.left - 1, bad } else w }

/-- The window access of a job here that a response answers. -/
def winAsk (s : State) (l : Nat) (g : LinkMsg) : Option WinAsk := (link s l).asks.find? fun a => a.tx == g.tag % 4096

def dropAsk (s : State) (l : Nat) (a : WinAsk) : State := setLink s l { link s l with asks := (link s l).asks.filter fun b => b.tx != a.tx }

/-- RDATA: the data reaches what asked for it, or its step ends FABRIC_ERROR. -/
def rdataFx (s : State) (l : Nat) (g : LinkMsg) : State :=
  match winAsk s l g with
  | none => s
  | some a =>
    let s1 := dropAsk s l a
    let d := fun (skip len : Nat) => zeros skip ++ slice g.body 0 len
    match a.who with
    | .frag j eid k n off skip len pos => if g.status = 0 then fragArrived s1 j eid k n off skip len (d skip len) else readFailed s1 j eid k pos a.addr
    | .table j eid k n skip len => if g.status = 0 then tableArrived s1 j eid k n skip len (d skip len) else readFailed s1 j eid k 0 a.addr
    | _ => s1

/-- RDATA. -/
def execRdata (link : BitVec 2) (s : State) : Out := .next (onMsg s link.toNat mRDATA fun st g => rdataFx st link.toNat g)

/-- WACK: a window write is answered. -/
def wackFx (s : State) (l : Nat) (g : LinkMsg) : State :=
  match winAsk s l g with
  | none => s
  | some a => match a.who with
    | .out j eid k pos => outAnswer (dropAsk s l a) j eid k pos a.addr (if g.status = 0 then 0 else 0x21)
    | _ => dropAsk s l a

/-- WACK. -/
def execWack (link : BitVec 2) (s : State) : Out := .next (onMsg s link.toNat mWACK fun st g => wackFx st link.toNat g)

/-! ### SHARED installs and revokes (R472) -/

/-- PREPARE: held in a pending place. DEDUCED: a realm that this side does not share is answered with STATUS 0x0818. -/
def prepareFx (s : State) (l : Nat) (g : LinkMsg) : State :=
  let x := link s l
  if (shrEntry s l g.realm).isNone then answerMsg s l mPACK g 0x0818 []
  else
    let q : Prepared := { tx := g.tag % 4096, realm := g.realm, slot := g.addr, entry := slice g.body 0 256, lost := false }
    answerMsg (setLink s l { x with preps := x.preps ++ [q] }) l mPACK g 0 []

/-- PREPARE: it waits while every pending place of the link is taken. -/
def execPrepare (link : BitVec 2) (s : State) : Out :=
  .next (if (Sys2Proof.Machine.link s link.toNat).preps.length < 64 then onMsg s link.toNat mPREPARE fun st g => prepareFx st link.toNat g else s)

/-- PACK: the last one lets the install commit; one with a STATUS cancels it. -/
def packFx (s : State) (l : Nat) (g : LinkMsg) : State :=
  match (link s l).outs.find? fun o => o.tx == g.tag % 4096 && o.done.isNone with
  | none => s
  | some o => if g.status = 0 then packArrived s o.tok else cancelInstall s o.tok

/-- PACK. -/
def execPack (link : BitVec 2) (s : State) : Out := .next (onMsg s link.toNat mPACK fun st g => packFx st link.toNat g)

/-- A peer's install commits here: its entry goes to the Seedbank, and CACK follows its write response (KeyOps.lean). -/
def commitPrep (s : State) (l : Nat) (q : Prepared) : State :=
  let x := link s l
  let s1 := setLink s l { x with preps := x.preps.map fun p => if p.tx = q.tx then { p with lost := false } else p }
  seedWrite s1 q.slot { use := .peer l q.tx q.slot q.realm, entry := q.entry, answered := false, acks := 0 }

/-- A peer's install is discarded here, and what waited for it is looked up again. -/
def discardPrep (s : State) (l : Nat) (q : Prepared) : State :=
  let x := link s l
  retryRealm (sendMsg (setLink s l { x with preps := x.preps.filter fun p => p.tx != q.tx }) l mCACK
    { bareMsg mCACK q.tx q.realm with addr := q.slot }) q.realm

/-- COMMIT or CANCEL of a transaction; one that is not held is acknowledged at once. -/
def decidePrep (s : State) (l : Nat) (g : LinkMsg) (good : Bool) : State :=
  match (link s l).preps.find? fun q => q.tx == g.tag % 4096 with
  | some q => if good then commitPrep s l q else discardPrep s l q
  | none => answerMsg s l mCACK g 0 []

/-- COMMIT. -/
def execCommit (link : BitVec 2) (s : State) : Out := .next (onMsg s link.toNat mCOMMIT fun st g => decidePrep st link.toNat g true)

/-- CANCEL. -/
def execCancel (link : BitVec 2) (s : State) : Out := .next (onMsg s link.toNat mCANCEL fun st g => decidePrep st link.toNat g false)

/-- CACK: the outcome need not be kept any longer. -/
def cackFx (s : State) (l : Nat) (g : LinkMsg) : State :=
  setLink s l { link s l with outs := (link s l).outs.filter fun o => o.tx != g.tag % 4096 }

/-- CACK. -/
def execCack (link : BitVec 2) (s : State) : Out := .next (onMsg s link.toNat mCACK fun st g => cackFx st link.toNat g)

/-- REVOKE: the slot's new generation is applied, its line goes (STALE while steps hold it), and RACK answers. A husk table that is full
leaves the realm incoherent, as in R470. -/
def revokePeerFx (s : State) (l : Nat) (g : LinkMsg) : State :=
  let gen := leNat (slice g.body 0 4)
  let h : Husk := { realm := g.realm, gen, final := gen == 2 ^ 31 - 1 && slotGen s g.realm g.addr == 2 ^ 31 - 1 }
  match adoptHusk s g.addr h with
  | none =>
    let s1 := match shrEntry s l g.realm with | some n => failSync s l n 0x141C | none => s
    answerMsg s1 l mRACK g 0 []
  | some s1 =>
    let mine := fun (p : Nat × Line) => p.2.slot == g.addr && p.2.realm == g.realm
    let lines := (s1.kcc.lines.filter fun p => !(mine p && p.2.pins == 0)).map fun p => if mine p then (p.1, { p.2 with st := .stale }) else p
    answerMsg (retryRealm { s1 with kcc := { s1.kcc with lines } } g.realm) l mRACK g 0 []

/-- REVOKE. -/
def execRevoke (link : BitVec 2) (s : State) : Out := .next (onMsg s link.toNat mREVOKE fun st g => revokePeerFx st link.toNat g)

/-- RACK: one of a revoke's acknowledgements (R242). -/
def rackFx (s : State) (l : Nat) (g : LinkMsg) : State := modRevoke s g.realm g.addr fun v => { v with acks := v.acks.filter (· != l) }

/-- RACK. -/
def execRack (link : BitVec 2) (s : State) : Out := .next (onMsg s link.toNat mRACK fun st g => rackFx st link.toNat g)

/-- OUTCOME_Q: each transaction asked about is answered COMMITTED (1) or CANCELLED (0). -/
def outcomeQFx (s : State) (l : Nat) (g : LinkMsg) : State :=
  let one := fun (b : Bytes) =>
    let good := (link s l).outs.any fun o => o.tx == leNat b % 4096 && o.done == some true
    slice b 0 2 ++ [byteOf (bit good)]
  answerMsg s l mOUTCOME g 0 ((chunks 2 (slice g.body 0 g.len)).flatMap one)

/-- OUTCOME_Q. -/
def execOutcomeQ (link : BitVec 2) (s : State) : Out := .next (onMsg s link.toNat mOUTCOMEQ fun st g => outcomeQFx st link.toNat g)

/-- OUTCOME: the installs that a lost link left undecided are settled, and the realm's synchronisation goes on. -/
def outcomeFx (s : State) (l : Nat) (g : LinkMsg) : State :=
  let s1 := (chunks 3 (slice g.body 0 g.len)).foldl (fun st b =>
    match (link st l).preps.find? fun q => q.tx == leNat (slice b 0 2) % 4096 && q.lost with
    | some q => if bitAt (leNat (slice b 2 1)) 0 then commitPrep st l q else discardPrep st l q
    | none => st) s
  if (link s1 l).syncOk.contains g.realm then
    let x := link s1 l
    let s2 := setLink s1 l { x with syncOk := x.syncOk.filter (· != g.realm) }
    match shrEntry s2 l g.realm, SMap.get? x.syncs g.realm with
    | some n, some m => finishSync s2 l n g.realm (bitAt m.status 1)
    | _, _ => s2
  else s1

/-- OUTCOME. -/
def execOutcome (link : BitVec 2) (s : State) : Out := .next (onMsg s link.toNat mOUTCOME fun st g => outcomeFx st link.toNat g)

/-! ### Pulled entries (R471) -/

/-- KEY_PULL: the slot's Seedbank entry is read for the peer. -/
def keyPullFx (s : State) (l : Nat) (g : LinkMsg) : State :=
  if (shrEntry s l g.realm).isNone || !realmStored s g.realm || decide (rd s (pg pKCC) KCC.SB_SLOTS.COUNT ≤ g.addr) then
    sendMsg s l mPULLDATA { bareMsg mPULLDATA g.tag g.realm with status := 0x0812 }
  else readReq s (g.addr % 16) (seedAddr s g.addr) 256 0 false false (.pullRead l (serveTag s l g.tag) g.addr)

/-- KEY_PULL. -/
def execKeyPull (link : BitVec 2) (s : State) : Out := .next (onMsg s link.toNat mKEYPULL fun st g => keyPullFx st link.toNat g)

/-- The read of an entry for a peer has ended. -/
def pullReadDone (s : State) (l t slot : Nat) (d : Option Bytes) : State :=
  if t / 65536 ≠ (link s l).epoch ∨ linkState s l ≠ lkUP then s
  else match d with
    | some b => sendMsg s l mPULLDATA { bareMsg mPULLDATA (t % 65536) 0 with addr := slot, len := 256, body := slice b 0 256 }
    | none => sendMsg s l mPULLDATA { bareMsg mPULLDATA (t % 65536) 0 with status := 0x20, addr := slot }

/-- A fill whose entry no peer has ends with its line REFUSED. -/
def refuseFill (s : State) (n reason : Nat) : State :=
  match SMap.get? s.kcc.fills n with
  | none => s
  | some f =>
    let s1 := { s with kcc := { s.kcc with fills := SMap.erase s.kcc.fills n } }
    match (if f.bad then none else lineAt s1 f.line) with
    | some ln => pumpJobs (retryAll (retry (touchWay (setLine s1 f.line { ln with st := .refused reason }) f.line) fun k => k.wait == .fill n))
    | none => s1

/-- PULL_DATA: the entry is written into the local Seedbank, and the fill goes on; a STATUS refuses the slot. -/
def pullDataFx (s : State) (l : Nat) (g : LinkMsg) : State :=
  let x := link s l
  match x.pulls.find? fun p => p.1 == g.tag % 4096 with
  | none => s
  | some p =>
    let s1 := setLink s l { x with pulls := x.pulls.filter fun q => q.1 != p.1 }
    if g.status ≠ 0 then refuseFill s1 p.2 0x0817
    else match SMap.get? s1.kcc.fills p.2 with
      | none => s1
      | some f => match (if f.bad then none else lineAt s1 f.line) with
        | some ln => seedWrite s1 ln.slot { use := .pull p.2, entry := slice g.body 0 256, answered := false, acks := 0 }
        | none => seedRead s1 p.2 none 0

/-- PULL_DATA. -/
def execPullData (link : BitVec 2) (s : State) : Out := .next (onMsg s link.toNat mPULLDATA fun st g => pullDataFx st link.toNat g)

/-! ### VC2 (R465, R470, R478) -/

/-- HELLO: no rule gives it an effect, and it expects no response. -/
def execHello (link : BitVec 2) (s : State) : Out := .next (onMsg s link.toNat mHELLO fun st _ => st)

/-- HB: the peer lives. -/
def execHb (link : BitVec 2) (s : State) : Out :=
  .next (onMsg s link.toNat mHB fun st _ => setLink st link.toNat { Sys2Proof.Machine.link st link.toNat with missed := 0 })

/-- REALM_SYNC. -/
def execRealmSync (link : BitVec 2) (s : State) : Out := .next (onMsg s link.toNat mREALMSYNC fun st g => syncFx st link.toNat g)

/-- MIRROR (R478). DEDUCED: the mirror of a FATAL record shows that the peer goes into its fatal lock (PEER_STAT.LOCKED). -/
def mirrorFx (s : State) (l : Nat) (g : LinkMsg) : State :=
  let b := pg (pCLM l)
  let s1 := setEvt (inc s b CLM.MIRRORS.COUNT) (pCLM l) CLM.EVT.MIRROR
  let s2 := if bitsAt g.addr 28 2 = 3 then wr s1 b CLM.PEER_STAT.LOCKED 1 else s1
  chaff s2 { unit := 0x14, member := l, kind := 0x803, access := 9, port := 255, addr := g.addr % 2 ^ 48, detail := 0x1419 }

/-- MIRROR. -/
def execMirror (link : BitVec 2) (s : State) : Out := .next (onMsg s link.toNat mMIRROR fun st g => mirrorFx st link.toNat g)

/-- LEAVE (R465): the planned loss of the peer. -/
def execLeave (link : BitVec 2) (s : State) : Out := .next (onMsg s link.toNat mLEAVE fun st _ => loseLink st link.toNat 0 lkLOST)

end Sys2Proof.Machine
end

