-- ==== Sys2Proof/Machine/Resets.lean ====
section
/-! DEFINITION. Resets and starts (R16 to R21, R484, R489): what each reset keeps, the drain of outstanding transactions, the supply
keeper, and the ratio monitor. -/

namespace Sys2Proof.Machine

/-! ### What a reset keeps (R18) -/

/-- Keys of a field, of every element when it is repeated. -/
def fkeys (b : Nat) (f : Field) : List Nat := (List.range (max 1 f.cnt)).map fun i => fkey b (f.at i)

/-- Registers that both resets keep: the fatal lock, the snapshots of measurement registers (R300), the Granary's retained values, and the pins that
a link shows. -/
def keptAlways : List Nat :=
  fkeys (pg pCHF) CHF.LOCK_STAT.LOCKED ++ fkeys (pg pCHF) CHF.LOCK_STAT.SOURCE ++ fkeys (pg pCHF) CHF.LOCK_STAT.KIND ++
  ((List.range 4).flatMap fun g => fkeys (pg (pEMR g)) EMR.MEAS_COUNT.COUNT ++ fkeys (pg (pEMR g)) EMR.MEAS_DATA.BYTES) ++
  fkeys (pg pGRN) GRN.OP_SECONDS.SECONDS ++ fkeys (pg pGRN) GRN.POWER_CYCLES.COUNT ++ fkeys (pg pGRN) GRN.SEQ_NEXT.SEQ ++
  (List.range 4).flatMap fun l => fkeys (pg (pCLM l)) CLM.LINK_STAT.PHY_UP ++ fkeys (pg (pCLM l)) CLM.LINK_STAT.RATE

/-- Registers that a warm reset keeps as well: the tick count and the active profile (R18), the fences of peers (R468), and the counts
that only PORST_N clears (R402, R449); a fuse takes effect at the next PORST_N (R407). -/
def keptWarm : List Nat :=
  fkeys (pg pTCK) TCK.TICK_COUNT.COUNT ++ fkeys (pg pSYS) SYS.PROFILE.STRAP ++ fkeys (pg pSYS) SYS.PROFILE.ACTIVE ++
  fkeys (pg pSYS) SYS.PROFILE.SOURCE ++ fkeys (pg pSYS) SYS.FUSED.FUSES ++ fkeys (pg pSYS) SYS.FUSED_HI.FUSES ++ fkeys (pg pCTL) CTL.WDOG.EXPIRIES ++ ((List.range 4).flatMap fun l => fkeys (pg (pCLM l)) CLM.FENCE.FENCE) ++
  [GRN.LOG_DROPPED.COUNT, GRN.TORN.COUNT, GRN.ECC_CORR.COUNT, GRN.ECC_UNCORR.COUNT, GRN.RETIRED.COUNT, GRN.ATTEMPTS.COUNT, GRN.PROG_FAILED.COUNT,
   GRN.FLUSHES_FORCED.COUNT, GRN.ROWS_PROGRAMMED.COUNT].flatMap (fkeys (pg pGRN))

/-- The registers after a reset. -/
def resetRegs (s : State) (keep : List Nat) : SMap Nat :=
  keep.foldl (fun m k => match SMap.get? s.regs k with | some v => SMap.set m k v | none => m) (baseRegs s.part)

/-- The state after a reset: everything as State.cold has it, but what both resets keep; a warm reset keeps more. SYS.STAT.SUPPLY_LOSS is not
among it: a reset before GRANARY_SCAN_DONE drops that loss's increment of POWER_CYCLES (R20 says nothing of such a reset; DESIGN CHOICE, log
entry 66). -/
def resetFx (s : State) (warm : Bool) (ph : Phase) : State :=
  let u := stopGlume (stopGranary s)
  let meas := s.meas.map fun (p : Nat × Meas) => (p.1, { p.2 with lock := none })
  { State.cold s.part with
    phase := ph, started := s.started, keeper := s.keeper, strap := s.strap, fcNow := s.fcNow, tickFc := s.tickFc, tp := s.tp,
    regs := resetRegs u (if warm then keptAlways ++ keptWarm else keptAlways)
    chaff := { (State.cold s.part).chaff with releases := if warm then s.chaff.releases else [] }
    cp := { freshCp with cold := !warm }, meas, grn := { u.grn with remap := [], ckptSlot := 0, tripFc := 0 }
    glm := { freshGlume with otp := u.glm.otp, chal := s.glm.chal }, freeCtr := u.freeCtr, pending := s.pending }

/-- An internal warm restart keeps the credits: no transaction is outstanding, and the fabric is not reset (R438). -/
def keepCredits (s t : State) : State := { t with fab := { t.fab with reqCr := s.fab.reqCr, wdCr := s.fab.wdCr } }

/-! ### Starts (R484, R489) -/

/-- The fuses that SYS shows (R407). -/
def showFuses (s : State) : State :=
  let w := fun (n : Nat) (i : Nat) => otpWord s i * 2 ^ (16 * n)
  let lo := w 0 128 + w 1 129 + w 2 130 + w 3 131 + w 4 132 + w 5 133 + w 6 134 + w 7 135 + w 8 136 + w 9 137
  let bits := (List.range 80).foldl (fun m f => if bitAt lo (2 * f) || bitAt lo (2 * f + 1) then setBit m f else m) 0
  wr (wr s (pg pSYS) SYS.FUSED.FUSES (bits % 2 ^ 64)) (pg pSYS) SYS.FUSED_HI.FUSES (bits / 2 ^ 64)

/-- The block runs; a fatal lock that stands holds every page (R365). -/
def startFx (s : State) : State :=
  let s1 := { s with phase := .run }
  if locked s1 then lockPages s1 else s1

/-- The keeper is read and re-armed (R20): a loss clears the fatal lock and the measurement registers. A part that has never started
has lost its supply. -/
def readKeeper (s : State) : State :=
  let loss := s.keeper || !s.started
  let s1 := wr { s with keeper := false, started := true } (pg pSYS) SYS.STAT.SUPPLY_LOSS (bit loss)
  if loss then
    let b := pg pCHF
    { wr (wr (wr s1 b CHF.LOCK_STAT.LOCKED 0) b CHF.LOCK_STAT.SOURCE 0) b CHF.LOCK_STAT.KIND 0 with meas := [] }
  else s1

/-- PORST_N_ASSERT (R18). -/
def execPorstNAssert (s : State) : Out := .next (if s.phase = .cold then s else resetFx s false .cold)

/-- PORST_N_DEASSERT (R20, R43, R484): the keeper is read and PROFILE_SEL sampled. -/
def execPorstNDeassert (strap : BitVec 2) (s : State) : Out :=
  .next (if s.phase = .cold then
    let s1 := readKeeper { s with strap := strap.toNat }
    startFx (wr (wr (showFuses s1) (pg pSYS) SYS.PROFILE.STRAP strap.toNat) (pg pSYS) SYS.PROFILE.ACTIVE strap.toNat)
  else s)

/-- Requests stop at once: those not yet presented are dropped (R21). -/
def startDrain (s : State) (ph : Phase) : State :=
  wr { s with phase := ph, fab := { s.fab with waiting := [] } } (pg pSYS) SYS.STAT.RST_DRAIN 1

/-- SRST_N_ASSERT (R21). -/
def execSrstNAssert (s : State) : Out :=
  .next (match s.phase with
    | .run => startDrain s .drain
    | .restart => { s with phase := .drain }
    | _ => s)

/-- RST_DRAIN_DONE (R21): no transaction is outstanding, and the internal reset completes. -/
def execRstDrainDone (s : State) : Out :=
  .next (if s.fab.reads.isEmpty && s.fab.writes.isEmpty then
    match s.phase with
    | .drain => resetFx s true .warm
    | .restart => startFx (resetFx s true .warm)
    | _ => s
  else s)

/-- SRST_N_DEASSERT (R489). -/
def execSrstNDeassert (s : State) : Out :=
  .next (match s.phase with
    | .warm => startFx s
    | .drain => { s with phase := .restart }
    | _ => s)

/-- An internal warm restart (R438): at once when no transaction is outstanding, otherwise after a drain. -/
def warmRestart (s : State) : State :=
  if s.fab.reads.isEmpty && s.fab.writes.isEmpty then keepCredits s (startFx (resetFx s true .warm)) else startDrain s .restart

/-- SUPPLY_LOSS (R18, R20): the keeper notes the loss, and all but the Granary's medium and the OTP is lost. -/
def execSupplyLoss (s : State) : Out :=
  let u := stopGlume (stopGranary s)
  .next { State.cold s.part with
    started := s.started, keeper := true, fcNow := s.fcNow, grn := { freshGranary with rows := u.grn.rows }
    glm := { freshGlume with otp := u.glm.otp }, freeCtr := u.freeCtr, pending := s.pending }

/-- CLK_RATIO (R16): a period with another count than two. -/
def execClkRatio (edges : BitVec 8) (s : State) : Out := .next (if running s && edges.toNat != 2 then chaffAny s 1 0 0x501 else s)

end Sys2Proof.Machine
end

