-- ==== Sys2Proof/Machine/Sheaf.lean ====
section
/-! DEFINITION. What the control processor keeps in the Granary (R431 to R433, R442 to R445): the sheaf and its checks, the settings and the
BOOT item, profiles, and the wrapped roots (R230). -/

namespace Sys2Proof.Machine

/-! ### Rows -/

/-- `n` bytes of the medium from a row on. -/
def rowsBytes (s : State) (row n : Nat) : Bytes := ((List.range (ceilDiv n 64)).flatMap fun i => (readRow s (row + i)).data).take n

/-- Whether one of the rows that hold `n` bytes has a flagged word. -/
def rowsBad (s : State) (row n : Nat) : Bool := (List.range (ceilDiv n 64)).any fun i => (readRow s (row + i)).flagged != 0

/-- Flagged words found by the control processor's reads (R386). -/
def noteRows (s : State) (row n : Nat) : State := (List.range (ceilDiv n 64)).foldl (fun st i => noteFlagged st (row + i) 2) s

/-- Rows that take a byte string, the last one filled up with erased bytes. -/
def rowsFor (row : Nat) (b : Bytes) : List (Nat × Bytes) :=
  (chunks 64 b).mapIdx fun i c => (row + i, c ++ List.replicate (64 - c.length) 0xFF)

/-- A little-endian field of a byte string. -/
def le (b : Bytes) (off n : Nat) : Nat := leNat (slice b off n)

/-! ### The sheaf (R431, R432) -/

def sheafTotal (b : Bytes) : Nat := le b 4 4
def sheafSigned (b : Bytes) : Nat := le b 8 4
def sheafSections (b : Bytes) : Nat := le b 12 4
def sheafVersion (b : Bytes) : Nat := le b 16 4
def sheafSvn (b : Bytes) : Nat := le b 20 1
def sheafMcIf (b : Bytes) : Nat := le b 26 2
def sheafPeerMin (b : Bytes) : Nat := le b 28 2
def sheafPeerMax (b : Bytes) : Nat := le b 30 2
def sheafFmt (b : Bytes) : Nat := le b 32 2
def sheafFmtMin (b : Bytes) : Nat := le b 34 2

/-- The sections: type, offset and length. -/
def sections (b : Bytes) : List (Nat × Nat × Nat) :=
  (List.range (sheafSections b)).map fun j => (le b (272 + 16 * j) 4, le b (276 + 16 * j) 4, le b (280 + 16 * j) 4)

/-- The bytes of every section of a type. -/
def sectionBytes (b : Bytes) (t : Nat) : Bytes := (sections b).flatMap fun x => if x.1 = t then slice b x.2.1 x.2.2 else []

/-- Format and lengths (R431, R432). DEDUCED: TOTAL_LEN is the end of SIG_PQ, and a section of type 1 is there. -/
def sheafForm (b : Bytes) : Bool :=
  let n := sheafSections b
  let ty := fun (t : Nat) => ((sections b).filter fun x => x.1 == t)
  let sum := fun (l : List (Nat × Nat × Nat)) => l.foldl (fun (m : Nat) (x : Nat × Nat × Nat) => m + x.2.2) 0
  decide (272 ≤ b.length) && b.take 4 == [0x53, 0x48, 0x46, 0x31] && decide (sheafTotal b ≤ b.length) && decide (sheafTotal b ≤ 2 ^ 21) &&
    decide (1 ≤ n ∧ n ≤ 8) && decide (272 + 16 * n ≤ sheafSigned b) && sheafTotal b == sheafSigned b + 3405 &&
    (sections b).all (fun x => decide (1 ≤ x.1 ∧ x.1 ≤ 3 ∧ x.2.1 + x.2.2 ≤ sheafSigned b)) &&
    (List.range n).all (fun j => le b (284 + 16 * j) 4 == 0) && !(ty 1).isEmpty && decide (sum (ty 1) ≤ 524288) &&
    decide (sum (ty 2) + sum (ty 3) ≤ 32768) && le b 21 1 == 1 && decide (sheafSvn b ≤ 128) && bitsAt (le b 36 4) 3 29 == 0 &&
    (slice b 40 232).all (· == 0)

def signedBytes (b : Bytes) : Bytes := b.take (sheafSigned b)

/-- Both signatures verify under the keys of the boot ROM. -/
def sheafGood (b : Bytes) : Bool :=
  let m := signedBytes b
  let sg := sheafSigned b
  let q := Config.romEc.toNat
  p384.verify (q / 2 ^ 384, q % 2 ^ 384) (p384.hashNum (sha384 m)) (beNat (slice b sg 48)) (beNat (slice b (sg + 48) 48)) &&
    dsaVerify 0x31 (natLe 1952 Config.romPq.toNat) (slice b (sg + 96) 3309) [] m

/-- The manifest admits this configuration and revision (R433). -/
def sheafFits (s : State) (b : Bytes) : Bool :=
  let hw := s.part.idMajor * 256 + s.part.idMinor
  bitAt (le b 36 4) (s.part.pick 0 1 2) && decide (le b 22 2 ≤ hw ∧ hw ≤ le b 24 2)

def microFits (s : State) (b : Bytes) : Bool := decide (s.part.mcMin ≤ sheafMcIf b ∧ sheafMcIf b ≤ s.part.mcMax)

/-- The protocol of every coherent peer lies in the manifest's range (R433). -/
def peersFit (s : State) (b : Bytes) : Bool :=
  (List.range 4).all fun l =>
    let p := rd s (pg (pCLM l)) CLM.PROTO.AGREED
    let coh := present s .clm l && linkLive s l && (List.range 16).any fun n => flag s (pg (pCLM l)) (CLM.SHR.EN.at n) && flag s (pg (pCLM l)) (CLM.SHR.COHERENT.at n)
    !coh || decide (sheafPeerMin b ≤ p ∧ p ≤ sheafPeerMax b)

/-- The first row of a bank's image (R374). -/
def bankRow (bank : Nat) : Nat := if bank = 0 then 0 else 65536

/-- A bank's image; at most 2 MiB of it. -/
def bankImage (s : State) (bank : Nat) : Bytes :=
  let n := sheafTotal (rowsBytes s (bankRow bank) 64)
  rowsBytes s (bankRow bank) (if n ≤ 2 ^ 21 then max n 64 else 64)

/-- Why a bank is not bootable: 0x0213, 0x0214, or 0 when it is (R433, R434). A digest of zeros is none recorded (DEDUCED). -/
def bankReason (s : State) (bank : Nat) (dig : Bytes) : Nat :=
  let b := bankImage s bank
  if !sheafForm b || rowsBad s (bankRow bank) b.length || !sheafGood b then 0x0213
  else if dig.any (· != 0) && sha512 (signedBytes b) != dig then 0x0213
  else if !sheafFits s b || decide (sheafSvn b < arbValue s) then 0x0214
  else 0

/-! ### Settings (R443, R444) -/

/-- A copy of a settings block as read. -/
structure Copy where
  gen : Nat
  fmt : Nat
  items : List (Nat × Bytes)
  raw : Bytes
deriving DecidableEq, Repr

def settingsRow (kind c : Nat) : Nat := if kind = 0 then 36864 + 256 * c else 37376 + 512 * c
def settingsSize (kind : Nat) : Nat := if kind = 0 then 16384 else 32768

/-- Items by tag; none when they do not fill their length exactly. -/
def parseItems : Nat → Bytes → Option (List (Nat × Bytes))
  | 0, _ => none
  | f + 1, b =>
    let n := le b 2 2
    let m := 4 + ceilDiv n 4 * 4
    if b.isEmpty then some []
    else if b.length < m then none
    else (parseItems f (b.drop m)).map fun l => (le b 0 2, slice b 4 n) :: l

def itemBytes (l : List (Nat × Bytes)) : Bytes :=
  l.flatMap fun x => natLe 2 x.1 ++ natLe 2 x.2.length ++ x.2 ++ zeros (ceilDiv x.2.length 4 * 4 - x.2.length)

/-- A valid copy. LENGTH counts the items' bytes (DEDUCED). -/
def settingsCopy (s : State) (kind c : Nat) : Option Copy :=
  let row := settingsRow kind c
  let h := rowsBytes s row 16
  let n := le h 12 4
  if h.take 4 != [0x53, 0x54, 0x47, 0x31] || le h 10 1 != kind || le h 11 1 != 0 || decide (settingsSize kind < n + 20) then none
  else
    let b := rowsBytes s row (n + 20)
    if rowsBad s row (n + 20) || le b (16 + n) 4 != crc32c (b.take (16 + n)) then none
    else (parseItems (n / 4 + 2) (slice b 16 n)).map fun l => { gen := le h 4 4, fmt := le h 8 2, items := l, raw := b }

/-- The copy in use, with its number. -/
def currentCopy (s : State) (kind : Nat) : Option (Nat × Copy) :=
  match settingsCopy s kind 0, settingsCopy s kind 1 with
  | some a, some b => if a.gen < b.gen then some (1, b) else some (0, a)
  | some a, none => some (0, a)
  | none, some b => some (1, b)
  | none, none => none

/-- The bytes of a copy. -/
def copyBytes (kind gen fmt : Nat) (items : List (Nat × Bytes)) : Bytes :=
  let it := itemBytes items
  let b := [0x53, 0x54, 0x47, 0x31] ++ natLe 4 gen ++ natLe 2 fmt ++ [byteOf kind, 0] ++ natLe 4 it.length ++ it
  b ++ natLe 4 (crc32c b)

/-- Items with some replaced or added by tag. -/
def putItems (old new : List (Nat × Bytes)) : List (Nat × Bytes) :=
  new.foldl (fun l x => if l.any (fun y => y.1 == x.1) then l.map fun y => if y.1 = x.1 then x else y else l ++ [x]) old

/-- The rows that write items into the other copy of a block; none when they do not fit. -/
def settingsRows (s : State) (kind fmt : Nat) (new : List (Nat × Bytes)) : Option (List (Nat × Bytes)) :=
  let b := match currentCopy s kind with
    | some (c, x) => (1 - c, copyBytes kind (x.gen + 1) fmt (putItems x.items new))
    | none => (0, copyBytes kind 1 fmt (putItems [] new))
  if settingsSize kind < b.2.length then none else some (rowsFor (settingsRow kind b.1) b.2)

/-- The BOOT item (R444). -/
structure BootItem where
  active : Nat
  trial : Nat
  trialBank : Nat
  started : Nat
  dig0 : Bytes
  dig1 : Bytes
deriving DecidableEq, Repr

/-- The BOOT item in force; bank 0 and no trial by default. -/
def bootItem (s : State) : BootItem :=
  let items := match currentCopy s 1 with | some (_, c) => c.items | none => []
  match items.find? fun x => x.1 == 1 && x.2.length == 132 with
  | some (_, b) => { active := le b 0 1 % 2, trial := le b 1 1 % 2, trialBank := le b 2 1 % 2, started := le b 3 1 % 2, dig0 := slice b 4 64, dig1 := slice b 68 64 }
  | none => { active := 0, trial := 0, trialBank := 0, started := 0, dig0 := zeros 64, dig1 := zeros 64 }

def BootItem.bytes (i : BootItem) : Bytes := [byteOf i.active, byteOf i.trial, byteOf i.trialBank, byteOf i.started] ++ i.dig0 ++ i.dig1

def BootItem.dig (i : BootItem) (bank : Nat) : Bytes := if bank = 0 then i.dig0 else i.dig1

/-- The rows that write a BOOT item; the copy's format stays. -/
def bootRows (s : State) (i : BootItem) : List (Nat × Bytes) :=
  let fmt := match currentCopy s 1 with | some (_, c) => c.fmt | none => sheafFmt s.cp.stage
  (settingsRows s 1 fmt [(1, i.bytes)]).getD []

/-! ### Profiles (R445) -/

/-- A profile as loaded. -/
structure Prof where
  raw : Bytes
  cap : Nat
  tick : Nat
  splEn : Nat
  mask : Nat
  dummy : Nat
  ways : Nat
  hash : Nat
  blocks : Nat
  emrBlocks : Nat
  grains : Nat
  bulkMin : Nat
  odMax : Nat
  odEn : Nat
  thr : Nat
  flo : Nat
  trip : Nat
  hyst : Nat
  lead : Nat
  floor : Nat
  rate : Nat
deriving DecidableEq, Repr

def profOf (b : Bytes) : Prof :=
  { raw := b, cap := le b 12 4, tick := le b 16 1, splEn := le b 17 1, mask := bitsAt (le b 18 1) 0 1, dummy := bitsAt (le b 18 1) 1 1,
    ways := bitsAt (le b 19 1) 0 2, hash := bitsAt (le b 19 1) 2 1, blocks := le b 20 1, emrBlocks := le b 21 1, grains := le b 22 2,
    bulkMin := le b 24 2, odMax := le b 26 2, odEn := bitsAt (le b 28 1) 0 1, thr := le b 29 1, flo := le b 30 1, trip := le b 31 1,
    hyst := le b 32 1, lead := le b 33 1, floor := le b 34 2, rate := le b 36 1 }

/-- The built-in defaults (R446). -/
def defaultProf (s : State) : Prof :=
  { raw := [], cap := s.part.pick 14000 30000 48000, tick := TCK.TICK.LOG2_KC.rst, splEn := 255, mask := bit s.part.masked, dummy := bit (!s.part.masked),
    ways := KCC.CFG.WAYS.rst, hash := KCC.CFG.HASH.rst, blocks := TCK.EXPRESS.BLOCKS.rst, emrBlocks := TCK.EXPRESS.EMR_BLOCKS.rst,
    grains := TCK.EXPRESS.GRAINS.rst, bulkMin := TCK.BULK_MIN.GRAINS.rst, odMax := TCK.LIMITS.OVERDRAW_MAX.rst, odEn := TCK.CTL.OVERDRAW_EN.rst,
    thr := TCK.THERM_CFG.THROTTLE_C.rst, flo := TCK.THERM_CFG.FLOORT_C.rst, trip := TCK.THERM_CFG.TRIP_C.rst, hyst := TCK.THERM_CFG.HYST_C.rst,
    lead := TCK.THERM_CFG.LEAD.rst, floor := TCK.LIMITS.FLOOR_FRAC.rst, rate := 8 }

/-- Fields that have a place in their registers. -/
def Prof.inWidth (f : Prof) : Bool := decide (f.cap < 65536 ∧ f.tick < 16 ∧ f.hyst < 16 ∧ f.lead < 16 ∧ f.floor < 512 ∧ f.rate < 16)

/-- Load the planner's fields. -/
def loadTck (s : State) (f : Prof) : State :=
  let b := pg pTCK
  let l := [(TCK.POWER_CAP.PROFILE_MW, f.cap), (TCK.TICK.LOG2_KC, f.tick), (TCK.EXPRESS.BLOCKS, f.blocks), (TCK.EXPRESS.EMR_BLOCKS, f.emrBlocks),
    (TCK.EXPRESS.GRAINS, f.grains), (TCK.BULK_MIN.GRAINS, f.bulkMin), (TCK.LIMITS.OVERDRAW_MAX, f.odMax), (TCK.CTL.OVERDRAW_EN, f.odEn),
    (TCK.THERM_CFG.THROTTLE_C, f.thr), (TCK.THERM_CFG.FLOORT_C, f.flo), (TCK.THERM_CFG.TRIP_C, f.trip), (TCK.THERM_CFG.HYST_C, f.hyst),
    (TCK.THERM_CFG.LEAD, f.lead), (TCK.LIMITS.FLOOR_FRAC, f.floor)]
  l.foldl (fun st x => wr st b x.1 x.2) s

/-- Load the realms' weights (R74); the defaults give every realm 16. -/
def loadWeights (s : State) (f : Prof) : State :=
  (List.range 1024).foldl (fun st r =>
    let w := fun (o : Nat) => if f.raw.isEmpty then 16 else max 1 (le f.raw (o + 2 * r) 1)
    wr (wr st (rtB r) RT.WEIGHT.BULK_WEIGHT (w 64)) (rtB r) RT.WEIGHT.BG_WEIGHT (w 65)) s

/-- The checks of R181 on a profile: a reason code. -/
def profReason (s : State) (f : Prof) : Nat := if f.inWidth then tckReason (loadTck s f) f.splEn else 0x0314

def profRow (p c : Nat) : Nat := 32768 + 64 * (2 * p + c)

/-- Whether a record's CRC, MAGIC, FORMAT and NUMBER are right. -/
def recordOk (b : Bytes) (p : Nat) : Bool :=
  b.length == 4096 && b.take 4 == [0x50, 0x52, 0x46, 0x31] && le b 8 2 == 1 && le b 10 1 == p && le b 4092 4 == crc32c (b.take 4092)

/-- The records of profile `p` that are well formed, the higher generation first. -/
def profRecords (s : State) (p : Nat) : List Bytes :=
  let l := [0, 1].filterMap fun c =>
    let b := rowsBytes s (profRow p c) 4096
    if recordOk b p && !rowsBad s (profRow p c) 4096 then some b else none
  match l with
  | [a, b] => if le a 4 4 < le b 4 4 then [b, a] else [a, b]
  | _ => l

/-- The profile in use under a number, or the reason code that refuses it. -/
def pickProf (s : State) (p : Nat) : Except Nat Prof :=
  let l := (profRecords s p).map profOf
  match l.find? (fun f => profReason s f == 0), l with
  | some f, _ => .ok f
  | none, f :: _ => .error (profReason s f)
  | none, [] => .error 0x021A

/-- The copy that a new record of profile `p` goes into, beside the copy in use, and its generation (R445, R446). -/
def nextRecord (s : State) (p : Nat) : Nat × Nat :=
  let ok := fun (c : Nat) =>
    let b := rowsBytes s (profRow p c) 4096
    recordOk b p && !rowsBad s (profRow p c) 4096 && profReason s (profOf b) == 0
  let g := fun (c : Nat) => le (rowsBytes s (profRow p c) 16) 4 4
  if ok 0 && ok 1 then (if g 0 < g 1 then (0, g 1 + 1) else (1, g 0 + 1)) else if ok 0 then (1, g 0 + 1) else if ok 1 then (0, g 1 + 1) else (0, 1)

/-! ### Wrapped roots (R230) -/

/-- The row of a realm's wrapped root (log entry 32). -/
def rootRow (copy r : Nat) : Nat := 98304 + 1024 * copy + r

/-- Whether a record of realm `r` is there. -/
def rootThere (s : State) (r : Nat) : Bool := readRow s (rootRow 0 r) != erasedRow || readRow s (rootRow 1 r) != erasedRow

/-- The device key in clear. -/
def devKeyOf (s : State) : Option Bytes := s.kcc.devKey.map fun k => xorBytes k.1 k.2

/-- The additional data of a record: realm and mode. -/
def rootAad (r : Nat) (stored : Bool) : Bytes := natLe 2 r ++ [byteOf (bit stored)]

/-- A record of a root: nonce, wrapped root and tag, realm, mode, and a byte of zero (log entry 32). -/
def rootRecord (dk nonce root : Bytes) (r : Nat) (stored : Bool) : Bytes := nonce ++ gcmSeal dk nonce (rootAad r stored) root 16 ++ rootAad r stored ++ [0]

/-- A copy of a root that passes its tag check, with its mode. -/
def rootCopy (s : State) (dk : Bytes) (c r : Nat) : Option (Bytes × Bool) :=
  let x := readRow s (rootRow c r)
  let stored := bitAt (le x.data 62 1) 0
  if x.flagged != 0 || slice x.data 60 3 != rootAad r stored then none
  else (gcmOpen dk (slice x.data 0 12) (rootAad r stored) (slice x.data 12 32) (slice x.data 44 16)).map fun k => (k, stored)

/-- A realm's stored root. -/
def rootOf (s : State) (dk : Bytes) (r : Nat) : Option (Bytes × Bool) := match rootCopy s dk 0 r with | some x => some x | none => rootCopy s dk 1 r

/-- Load a realm's keys into the realm key store, as shares in a masked part (R229). -/
def loadKeys (s : State) (root : Bytes) (r : Nat) (stored : Bool) : State :=
  let k := keysOfRoot root r stored
  let a := shareOf s k.wk
  let b := shareOf a.1 k.dk
  let x : RealmKeys := { wk0 := a.2.1, wk1 := a.2.2, dk0 := b.2.1, dk1 := b.2.2, sub1 := k.sub1, sub2 := k.sub2, stored }
  { b.1 with kcc := { b.1.kcc with keys := SMap.set b.1.kcc.keys r x } }

/-- Load every stored root at a start; a realm whose copies both fail is named by a message of the KCC. -/
def loadRoots (s : State) : State :=
  match devKeyOf s with
  | none => s
  | some dk =>
    (List.range 1024).foldl (fun st r =>
      if rootThere st r then
        match rootOf st dk r with
        | some (root, stored) => loadKeys st root r stored
        | none => chaffPlain st 8 0 0x702 r
      else st) s

/-- Load the husk table at a start: the higher readable generation of a record's copies (R241). -/
def loadHusks (s : State) : State :=
  let rank := fun (h : Husk) => 2 * h.gen + bit h.final
  let one := fun (i : Nat) =>
    match (huskAt s 0 i).map huskOfWord, (huskAt s 1 i).map huskOfWord with
    | some a, some b => some (i, if rank a.2 < rank b.2 then b else a)
    | some a, none => some (i, a)
    | none, b => b.map fun x => (i, x)
  let t := (huskPlaces s).filterMap one
  showHusks { s with kcc := { s.kcc with husks := t.foldl (fun m x => SMap.set m (huskKey x.2.2.realm x.2.1) x.2.2) []
                                         places := t.foldl (fun m x => SMap.set m (huskKey x.2.2.realm x.2.1) x.1) [] } }

end Sys2Proof.Machine
end

