-- ==== Sys2Proof/Machine/Boot.lean ====
section
/-! DEFINITION. The boot ROM and the start of the control processor's firmware (R434 to R437, R439, R443, R446), the baseline of units
(R486, R487), and the notices of the control processor (R449). -/

namespace Sys2Proof.Machine

/-! ### Notices and measurement -/

/-- A notice of the control processor: queued in CTL.NOTICE, and sent by the unit whose reason code it is (R487, R525). -/
def cpNotice (s : State) (code member : Nat) : State :=
  let s1 := if s.cp.notices.length < 65 then { s with cp := { s.cp with notices := s.cp.notices ++ [code] } } else s
  notice s1 (code / 256) member code

/-- The control processor extends a measurement register (R290); a BROKEN one takes nothing. Its two blocks count on the lowest enabled group
(R300). -/
def cpExtend (s : State) (n : Nat) (d : Bytes) : State :=
  if (measReg s n).broken then s
  else
    let s1 := match enGroups s with | g :: _ => countBlocks s g 0x23 2 | [] => s
    let l := (measReg s1 n).lock
    let s2 := extendMeas s1 n d
    { s2 with meas := SMap.set s2.meas n { measReg s2 n with lock := l } }

/-- A message of kind FW_VERIFY (R434). -/
def fwVerify (s : State) (detail : Nat) : State := chaffPlain s 2 0 0x902 detail

/-! ### Tasks in the Granary -/

def setTask (s : State) (rows : List (Nat × Bytes)) (next : CpNext) : State :=
  { s with cp := { s.cp with task := { rows, next }, fails := SMap.erase s.cp.fails 0 } }

/-- No task of the control processor is under way. -/
def cpIdle (s : State) : Bool := s.cp.task.rows.isEmpty && s.cp.task.next == .none && !cpBusy s 0

/-- The control processor programs a row; a refusal is noted. -/
def cpRow (s : State) (row : Nat) (d : Bytes) : State :=
  let r := submitProg s (.cp 0) row 255 d 5
  if r.2 = 0 then r.1 else { s with cp := { s.cp with fails := SMap.set s.cp.fails 0 r.2 } }

/-! ### Loading settings (R443, R444) -/

def itemOf (l : List (Nat × Bytes)) (tag : Nat) : Option Bytes := (l.find? fun x => x.1 == tag).map (·.2)

/-- WEAR_CFG takes 2 to 7 (R402). -/
def wearFx (s : State) (v : Nat) : State := if 2 ≤ bitsAt v 0 3 then wr s (pg pGRN) GRN.WEAR_CFG.RETRY_WARN (bitsAt v 0 3) else s

/-- LOG_CFG takes 1 to 1,984 in HIGH, and stores an AGE of 0 as 1 (R402). -/
def logCfgFx (s : State) (v : Nat) : State :=
  let h := bitsAt v 0 12
  let s1 := if 1 ≤ h ∧ h ≤ 1984 then wr s (pg pGRN) GRN.LOG_CFG.HIGH h else s
  wr s1 (pg pGRN) GRN.LOG_CFG.AGE (max 1 (bitsAt v 16 8))

/-- A word of the SNT page from 0x40 to 0x53 while SNT is DISABLED; a count of 0 stores 1 (R404). -/
def sntCfgFx (s : State) (off v : Nat) : State :=
  let b := pg pSNT
  let one := fun (st : State) (f : Field) => wr st b f (max 1 (rd st b f))
  if ustate s pSNT = 0 then
    one (one (one (storeWord s b (b + off) v true true SNT.fields) SNT.TRIP.TRIP_COUNT) SNT.RECOVER.RECOVER_COUNT) SNT.WARN.WARN_COUNT
  else s

/-- Load the operator's items into units that are DISABLED. -/
def loadItems (s : State) (l : List (Nat × Bytes)) : State :=
  let s1 := match itemOf l 0x10 with | some b => sntCfgFx (sntCfgFx s 0x40 (le b 0 4)) 0x44 (le b 4 2) | none => s
  let s2 := match itemOf l 0x11 with | some b => sntCfgFx (sntCfgFx (sntCfgFx s1 0x48 (le b 0 4)) 0x4C (le b 4 4)) 0x50 (le b 8 4) | none => s1
  let s3 := match itemOf l 0x20 with
    | some b => if ustate s2 pCHF = 0 then (chunks 8 b).foldl (fun st x => (setRule st (le x 0 2 % 4096) (le x 2 1) (le x 4 4)).1) s2 else s2
    | none => s2
  let s4 := match itemOf l 0x30 with | some b => logCfgFx (wearFx s3 (le b 0 4)) (le b 4 4) | none => s3
  match itemOf l 0x40 with
  | some b => if ustate s4 pTCK = 0 then wr s4 (pg pTCK) TCK.SENSOR_EN.MASK (le b 0 1) else s4
  | none => s4

/-- Load the operator block for an image, measured; or every default with a notice. -/
def loadOperator (s : State) (img : Bytes) : State :=
  match (currentCopy s 1).filter fun x => decide (sheafFmtMin img ≤ x.2.fmt ∧ x.2.fmt ≤ sheafFmt img) with
  | some (_, c) => cpExtend (loadItems s c.items) 3 (sha512 c.raw)
  | none => setEvt (cpNotice s 0x021B 0) pCTL CTL.EVT.SETTINGS_RESET

/-- Load the factory block: the cost table and the sensors' offsets. -/
def loadFactory (s : State) : State :=
  match currentCopy s 0 with
  | none => s
  | some (_, c) =>
    let costs := match itemOf c.items 0x8001 with | some b => (List.range 64).map fun i => le b (4 * i) 4 | none => []
    let trims := match itemOf c.items 0x8002 with | some b => (List.range 8).map fun i => bitsSigned 16 (le b (2 * i) 2) | none => []
    { s with plan := { s.plan with costs, trims } }

/-! ### The profile at a start (R446) -/

/-- The first valid profile from `p` on, modulo 4. -/
def firstProf (s : State) (p : Nat) : Option (Nat × Prof) :=
  [p % 4, (p + 1) % 4, (p + 2) % 4, (p + 3) % 4].findSome? fun q => match pickProf s q with | .ok f => some (q, f) | .error _ => none

/-- Load a profile's fields into units that are DISABLED. -/
def loadProfile (s : State) (f : Prof) : State :=
  let s1 := loadWeights (if ustate s pTCK = 0 then loadTck s f else s) f
  let s2 := if ustate s1 pKCC = 0 then wr (wr s1 (pg pKCC) KCC.CFG.WAYS f.ways) (pg pKCC) KCC.CFG.HASH f.hash else s1
  let lane := fun (st : State) (l : Nat) =>
    let b := pg (pSPL l)
    if !present st .spl l then st
    else
      let st1 := wr st b SPL.CHECK_CFG.RATE_LOG2 f.rate
      if ustate st1 (pSPL l) ≠ 0 then st1
      else if st1.part.masked then wr st1 b SPL.CTL.MASK_EN f.mask else wr st1 b SPL.CTL.DUMMY_EN f.dummy
  let s3 := (List.range 8).foldl lane s2
  { s3 with cp := { s3.cp with splEn := f.splEn } }

/-- The profile of a start: the one in force, or a fallback, or the defaults; a profile selected after PORST_N is measured. -/
def startProfile (s : State) : State :=
  let b := pg pSYS
  let p := rd s b SYS.PROFILE.ACTIVE
  let kept := !s.cp.cold && rd s b SYS.PROFILE.SOURCE == 3
  match (if kept then none else firstProf s p) with
  | some (q, f) =>
    let s1 := loadProfile s f
    let s2 := if q = p then s1 else cpNotice (wr (wr s1 b SYS.PROFILE.ACTIVE q) b SYS.PROFILE.SOURCE 2) 0x021A 0
    if s.cp.cold || q != p then cpExtend s2 2 (sha512 f.raw) else s2
  | none =>
    let s1 := loadProfile s (defaultProf s)
    if kept then s1 else cpNotice (wr s1 b SYS.PROFILE.SOURCE 3) 0x021A 0

/-! ### Loading microcode (R434, R437) -/

/-- Show the microcode that the spikes and arrays hold. -/
def showMicro (s : State) (img : Bytes) (safe : Bool) : State :=
  let s1 := (List.range 32).foldl (fun st i =>
    if present st .spk i then
      let b := pg (pSPK i)
      wr (wr (wr st b SPK.STAT.SAFE_MC (bit safe)) b SPK.MC_VER.INTERFACE (if safe then 0 else sheafMcIf img)) b SPK.MC_VER.BUILD (if safe then 0 else sheafVersion img)
    else st) s
  let s2 := (List.range 16).foldl (fun st i =>
    if present st .srg i && st.cp.srgMicro then wr (wr st (pg (pSRG i)) SRG.MC_VER.INTERFACE (sheafMcIf img)) (pg (pSRG i)) SRG.MC_VER.BUILD (sheafVersion img)
    else st) s1
  wr (wr s2 (pg pSYS) SYS.BOOT.SAFE_MC (bit safe)) (pg pCTL) CTL.STAT.SAFE_MC (bit safe)

/-- The safe microcode (R437). -/
def loadSafe (s : State) : State :=
  let s1 := showMicro { s with cp := { s.cp with micro := true, srgMicro := false } } [] true
  cpExtend (cpNotice s1 0x021C 0) 1 (natLe 64 Config.safeMicro.toNat)

/-- The microcode of an image, or the safe one when its interface does not fit. -/
def loadMicro (s : State) (img : Bytes) : State :=
  if microFits s img then
    let has := fun (t : Nat) => (sections img).any fun x => x.1 == t
    let s1 := showMicro { s with cp := { s.cp with micro := has 2, srgMicro := has 3 } } img false
    cpExtend s1 1 (sha512 (sectionBytes img 2 ++ sectionBytes img 3))
  else loadSafe s

/-! ### What a start shows -/

/-- Show the BOOT item and the images of both banks (R449). -/
def showBoot (s : State) : State :=
  let b := pg pCTL
  let i := bootItem s
  let ver := fun (k : Nat) => let m := bankImage s k; if sheafForm m && sheafGood m then (sheafVersion m, sheafSvn m) else (0, 0)
  let s1 := wr (wr s b CTL.FW_STAT.ACTIVE_BANK i.active) b CTL.FW_STAT.TRIAL i.trial
  wr (wr (wr (wr s1 b CTL.FW_VER.BANK0 (ver 0).1) b CTL.FW_VER.BANK1 (ver 1).1) b CTL.FW_SVN.SVN0 (ver 0).2) b CTL.FW_SVN.SVN1 (ver 1).2

/-- The control processor serves commands: CTL.CTL.EN is set (R449), and the time since the start of the ROM is shown. -/
def serveStart (s : State) : State :=
  let s1 := wr (wr s (pg pCTL) HDR.CTL.EN 1) (pg pSYS) SYS.BOOT_TIME.FC (Config.bootTime s.freeCtr).toNat
  let s2 := if ustate s1 pCTL = 6 ∨ ustate s1 pCTL = 4 then s1 else setUstate s1 pCTL 2
  showBoot { s2 with freeCtr := s2.freeCtr + 1, cp := { s2.cp with up := true } }

/-- Service mode (R435): ROM-resident code with the safe microcode; no baseline runs. -/
def serviceMode (s : State) : State :=
  let s1 := wr (wr s (pg pSYS) SYS.BOOT.MODE 3) (pg pCTL) CTL.STAT.SERVICE 1
  serveStart (if s1.cp.micro then s1 else loadSafe s1)

/-- The firmware's part of a start (R434, step 7); in the fatal lock it loads no key and no baseline follows (R365). When the control
processor alone has restarted (`again`), the profile in force, the realm keys and the husk table stand (R441). -/
def firmwareStart (s : State) (img : Bytes) (again : Bool) : State :=
  let s0 := loadFactory (loadOperator s img)
  let s1 := if again then s0 else startProfile s0
  let s2 := (List.range 4).foldl (fun st l =>
    if present st .clm l then wr (wr st (pg (pCLM l)) CLM.PROTO.MIN (sheafPeerMin img)) (pg (pCLM l)) CLM.PROTO.MAX (sheafPeerMax img) else st) s1
  if locked s2 then serveStart s2
  else
    let s3 := serveStart (if again then s2 else loadHusks (loadRoots (keyLoadFx s2).1))
    { s3 with cp := { s3.cp with row := 1, rowFc := s3.fcNow } }

/-- The ROM runs a bank's image (R434, steps 5 to 7). When the control processor alone has restarted, the microcode stays (R441). -/
def runImage (s : State) (bank : Nat) (trial : Bool) : State :=
  let img := bankImage s bank
  let s1 := wr (wr s (pg pSYS) SYS.BOOT.BANK bank) (pg pSYS) SYS.BOOT.MODE (bit trial)
  let s2 := wr { s1 with cp := { s1.cp with stage := img, trialBank := bank, bootFc := s.fcNow, heldFc := 0 } } (pg pCTL) CTL.STAT.TRIAL (bit trial)
  let s3 := cpExtend s2 0 (sha512 (signedBytes img))
  if s3.cp.micro then firmwareStart s3 img true else firmwareStart (loadMicro s3 img) img false

/-- A trial has failed: TRIAL is programmed to 0, and the active bank boots next (R439). -/
def revertTrial (s : State) : State :=
  let i := bootItem s
  setTask (cpNotice (setEvt s pCTL CTL.EVT.REVERTED) 0x0218 0) (bootRows s { i with trial := 0 }) (.boot i.active false)

/-- The ROM verifies and runs a bank (R434, R439). -/
def bootBank (s : State) (bank : Nat) (trial : Bool) : State :=
  let i := bootItem s
  let go := fun (st : State) (k : Nat) => noteRows st (bankRow k) (bankImage st k).length
  let e := bankReason s bank (i.dig bank)
  if e = 0 then runImage (go s bank) bank trial
  else
    let s1 := fwVerify (go s bank) e
    if trial then revertTrial s1
    else
      let o := 1 - bank
      let e2 := bankReason s1 o (i.dig o)
      if e2 = 0 then runImage (go s1 o) o false else serviceMode (fwVerify (go s1 o) e2)

/-- Recovery mode (R436): IMAGE_A is verified in place and executed from bank 0, with the safe microcode. -/
def recoveryMode (s : State) : State :=
  let i := bootItem s
  let e := bankReason s 0 i.dig0
  if e ≠ 0 then serviceMode (fwVerify s e)
  else
    let img := bankImage s 0
    let s1 := wr (wr (wr s (pg pSYS) SYS.BOOT.BANK 0) (pg pSYS) SYS.BOOT.MODE 2) (pg pCTL) CTL.STAT.RECOVERY 1
    let s2 := cpExtend (wr s1 (pg pGRN) GRN.STAT.EXEC_BANK0 1) 0 (sha512 (signedBytes img))
    if s2.cp.micro then firmwareStart s2 img true else firmwareStart (loadSafe s2) img false

/-- The boot ROM (R434, R439). -/
def romFx (s : State) : State :=
  let t := (Config.ramTest s.freeCtr).toNat
  let s0 := if flag s (pg pGRN) GRN.STAT.SCAN then scanRemap s else s
  let s1 := { s0 with freeCtr := s0.freeCtr + 1, cp := { s0.cp with rom := false, bootFc := s0.fcNow, heldFc := 0 } }
  let i := bootItem s1
  if bitAt t 1 then fwVerify (wr s1 (pg pSYS) SYS.BOOT.MODE 4) (anyDetail 0x902)
  else if bitAt t 0 then recoveryMode s1
  else if i.trial = 0 then bootBank s1 i.active false
  else if i.started = 0 then setTask s1 (bootRows s1 { i with started := 1 }) (.boot i.trialBank true)
  else revertTrial s1

/-! ### The baseline (R486, R487) -/

/-- Realm 0's root is to be generated (R232). -/
def needsRoot0 (s : State) : Bool := keyedService s && s.kcc.devKey.isSome && !rootThere s 0

/-- The units of a row of the baseline. -/
def rowPages (s : State) (row : Nat) : List Nat :=
  let all := fun (k : PageKind) (n : Nat) (f : Nat → Nat) (t : Nat → Bool) => ((List.range n).filter fun i => present s k i && t i).map f
  if row = 1 then [pCHF]
  else if row = 2 then [pSNT, pGRN, pHLD]
  else if row = 3 then (if lcState s = 5 then [pTCK] else [pTEF, pTCK])
  else if row = 4 then all .spk 32 pSPK (fun _ => true) ++ all .emr 4 pEMR (fun _ => true)
  else if row = 5 then (if flag s (pg pSYS) SYS.BOOT.SAFE_MC then [] else all .srg 16 pSRG fun i => present s .spk i && enabled s (pSPK i))
  else if row = 6 then (if keyedService s then [pKCC] else [])
  else if row = 7 then all .spl 8 pSPL fun i => bitAt s.cp.splEn i
  else if row = 8 then pRCH :: all .clm 4 pCLM fun i => rd s (pg (pCLM i)) CLM.PROTO.MIN != 0
  else []

/-- The unit that a row waits for, by its unit ID. -/
def rowWait (s : State) (row : Nat) : Option Nat :=
  if (rowPages s row).isEmpty then none
  else if row = 3 then (if enabled s pSYS then none else some 1)
  else if row = 6 then
    if s.kcc.devKey.isNone then some 6
    else if (s.part.masked && !(expLive s 8 && expLive s 9)) || (needsRoot0 s && !expLive s 8) then some 7
    else none
  else if row = 7 then
    if (List.range 8).any (fun i => (rowPages s 7).contains (pSPL i) && flag s (pg (pSPL i)) SPL.CTL.MASK_EN && !expLive s i) then some 7 else none
  else none

/-- Realm 0's root, from expander 8 (R232): loaded, and written to both copies. -/
def makeRoot0 (s : State) : State :=
  match devKeyOf s with
  | none => s
  | some dk =>
    let a := draw s 8 32
    let n := draw a.1 8 12
    let b := rootRecord dk n.2 a.2 0 s.part.isX
    cpRow (cpRow (loadKeys n.1 a.2 0 s.part.isX) (rootRow 0 0) b) (rootRow 1 0) b

/-- The failures of a row, one notice each (R487). -/
def reportRow (s : State) (row : Nat) : State :=
  (rowPages s row).foldl (fun st p =>
    let e := rd st (pg p) HDR.CHK.REASON
    if ustate st p = 0 ∧ e ≠ 0 then cpNotice st e (pageUnit p).2 else st) s

/-- Every unit of the rows before `row` has reached ENABLED or failed. -/
def rowsSettled (s : State) (row : Nat) : Bool := (List.range row).all fun k => (rowPages s k).all fun p => ustate s p != 1

/-- Write EN of a row's units in one fc, and go to the next row. -/
def enableRow (s : State) : State :=
  let row := s.cp.row
  let s1 := reportRow s (row - 1)
  let s2 := if row = 6 ∧ (rowPages s1 6) ≠ [] ∧ needsRoot0 s1 then makeRoot0 s1 else s1
  let s3 := (rowPages s2 row).foldl (fun st p => if ustate st p = 0 then setUstate (wr st (pg p) HDR.CTL.EN 1) p 1 else st) s2
  { s3 with cp := { s3.cp with row := row + 1, rowFc := s3.fcNow } }

/-- CP_BASELINE_ROW: the next row, once the earlier rows have ended and its waits hold; READY after row 8. -/
def baselineFx (s : State) : State :=
  let row := s.cp.row
  if row = 0 ∨ 9 < row ∨ !rowsSettled s row then s
  else if row = 9 then
    let s1 := wr (reportRow s 8) (pg pCTL) CTL.FW_STAT.READY 1
    { s1 with cp := { s1.cp with row := 10 } }
  else if (rowWait s row).isSome ∨ (row = 6 ∧ needsRoot0 s ∧ !cpIdle s) then s
  else enableRow s

/-- CP_BASELINE_ROW (R486). -/
def execCpBaselineRow (s : State) : Out := .next (if running s && cpRuns s && !locked s then baselineFx s else s)

/-- A wait of 100 ms fails a row's units with the code of the unit waited for (R487). -/
def baselineTimeoutFx (s : State) : State :=
  let row := s.cp.row
  match rowWait s row with
  | some u =>
    if rowsSettled s row then
      let s1 := ((rowPages s row).filter fun p => ustate s p == 0).foldl (fun st _ => cpNotice st (256 * u + 4) 0) (reportRow s (row - 1))
      { s1 with cp := { s1.cp with row := row + 1, rowFc := s1.fcNow } }
    else s
  | none => s

/-- BASELINE_WAIT_TIMEOUT (R487). -/
def execBaselineWaitTimeout (s : State) : Out := .next (if running s && cpRuns s && !locked s then baselineTimeoutFx s else s)

end Sys2Proof.Machine
end

