-- ==== Sys2Proof/Machine/Cp.lean ====
section
/-! DEFINITION. The control processor's commands (R438, R440, R441, R446, R447), its tasks in the Granary, and its watchdog. A command that
reads host memory presents the reads on master port 0 and goes on when they have been answered. -/

namespace Sys2Proof.Machine

/-! ### Beginning and ending a command (R447) -/

def argAt (s : State) (k : Nat) : Nat := rd s (pg pCTL) (CTL.ARG.VALUE.at k)

/-- A command ends: its result, and its arguments zeroized but for what it returns. -/
def endCmd (s : State) (code : Nat) (rets : List Nat) : State :=
  let b := pg pCTL
  let s1 := (List.range 8).foldl (fun st k => wr st b (CTL.ARG.VALUE.at k) (rets.getD k 0)) s
  let s2 := { s1 with cp := { s1.cp with host := none } }
  setEvt (wr (wr (wr s2 b CTL.RESULT.REASON code) b CTL.CMD_STAT.BUSY 0) b CTL.CMD.GO 0) pCTL CTL.EVT.CMD_DONE

/-- Ask for `n` bytes of host memory for the running command, on master port 0 with MQ_PORT 0 (R24, R31). -/
def hostAsk (s : State) (a n : Nat) : State :=
  let cmd := rd s (pg pCTL) CTL.COMMANDS.COUNT
  let cs := cutRange (n / 4096 + 2) a n 64 0
  let s1 := { s with cp := { s.cp with host := some { cmd, got := [], left := cs.length, bad := false } } }
  cs.foldl (fun st c => readReq st 0 (a + c.1) c.2 0 false false (.cpRead cmd c.1 ((a + c.1) % 64) c.2)) s1

/-- The command's bytes of host memory: asked for first, and handed to `go` once they are all there; no bytes need no read. A read that fails ends the command
with a reason code that no rule gives. -/
def withHost (s : State) (a n : Nat) (go : State → Bytes → State) : State :=
  match s.cp.host with
  | none => if n = 0 then go s [] else hostAsk s a n
  | some h => if h.left ≠ 0 then s else if h.bad then endCmd s Config.cpReadFail.toNat [] else go s (h.got.flatMap (·.2))

/-- A read of the running command was answered, with its bytes or with none. -/
def cpArrived (s : State) (cmd off : Nat) (d : Option Bytes) : State :=
  match s.cp.host with
  | some h =>
    if h.cmd ≠ cmd then s
    else { s with cp := { s.cp with host := some { h with got := SMap.set h.got off (d.getD []), left := h.left - 1, bad := h.bad || d.isNone } } }
  | none => s

/-- Write bytes to host memory on master port 0 with MQ_PORT 0; the command ends with the last response. -/
def hostWrite (s : State) (a : Nat) (d : Bytes) : State :=
  (cutRange (d.length / 64 + 2) a d.length writeLines 0).foldl (fun st x => writeReq st 0 (a + x.1) 0 false false false .cp (slice d x.1 x.2)) s

def FabReq.byCp : FabReq → Bool
  | .rd t => t.who == .cp
  | .wr t => t.who == .cp

/-- Writes of the control processor wait or are outstanding. -/
def cpWrites (s : State) : Bool := s.fab.writes.any (fun t => t.who == .cp) || s.fab.waiting.any FabReq.byCp

/-- Where a failed write of the control processor is noted, beside the tags of its row programs. -/
def cpWriteTag : Nat := 2 ^ 24

/-- The control processor's writes have been answered: its command ends. -/
def cpWriteDone (s : State) : State :=
  if cpWrites s || !flag s (pg pCTL) CTL.CMD_STAT.BUSY then s
  else
    let e := SMap.getD s.cp.fails cpWriteTag 0
    endCmd { s with cp := { s.cp with fails := SMap.erase s.cp.fails cpWriteTag } } (if e = 0 then 0 else Config.cpWriteFail.toNat) []

/-! ### Images (R438) -/

/-- The image is checked, and programmed into the inactive bank. -/
def installImage (s0 : State) (img : Bytes) : State :=
  let force := bitAt (argAt s0 2) 0
  let b := img.take (sheafTotal img)
  let s := { s0 with cp := { s0.cp with stage := b } }
  if !sheafForm img then endCmd s 0x0212 []
  else if !sheafGood b then endCmd s 0x0213 []
  else if !sheafFits s b then endCmd s 0x0214 []
  else if sheafSvn b < arbValue s then endCmd s 0x0215 []
  else if !force && !microFits s b then endCmd s 0x021C []
  else if !force && !peersFit s b then endCmd s 0x021D []
  else
    let bank := if flag s (pg pCTL) CTL.STAT.RECOVERY then 1 else 1 - (bootItem s).active
    setTask s (rowsFor (bankRow bank) b) (.verify bank (sha512 (signedBytes b)))

/-- FW_INSTALL: the image is copied into the staging area. -/
def cpInstall (s : State) : State :=
  if 2 ^ 21 < argAt s 1 then endCmd s 0x0212 [] else withHost s (argAt s 0) (argAt s 1) installImage

/-- The programmed image is read back; the BOOT item follows when it is the image staged. -/
def verifyFx (s0 : State) (bank : Nat) (dig : Bytes) : State :=
  let b := bankImage s0 bank
  let s := noteRows s0 (bankRow bank) b.length
  if rowsBad s (bankRow bank) b.length || sha512 (signedBytes b) != dig then endCmd s 0x0216 []
  else
    let i := bootItem s
    let j : BootItem := { i with trial := 1, trialBank := bank, started := 0, dig0 := if bank = 0 then dig else i.dig0, dig1 := if bank = 0 then i.dig1 else dig }
    setTask s (bootRows s j) .result

/-- FW_ACTIVATE: with every SQ DISABLED the peers are told and the block restarts. -/
def activateFx (s : State) : State :=
  if !(liveSqs s).isEmpty then endCmd s 0x0217 []
  else warmRestart ((List.range s.part.links).foldl (fun st l => if present st .clm l then sendLeave st l else st) s)

/-- FW_STATUS: the manifests' first bytes of both banks, and the BOOT item's. -/
def cpStatus (s : State) : State :=
  let i := bootItem s
  endCmd s 0 [le (rowsBytes s 0 64) 16 8, le (rowsBytes s 65536 64) 16 8, leNat (i.bytes.take 4)]

/-! ### Profiles and settings -/

/-- PROFILE_SWITCH: an acceptable record orders the switch; the command ends at the switch boundary. -/
def switchFx (s : State) : State :=
  let p := bitsAt (argAt s 0) 0 2
  match pickProf s p with
  | .error e => endCmd s e []
  | .ok _ =>
    let s1 := { s with plan := { s.plan with swOrder := some p, swDue := false, swSeen := false } }
    wr (wr s1 (pg pSYS) SYS.PROFILE.PENDING p) (pg pSYS) SYS.PROFILE.SWITCHING 1

/-- PROFILE_STORE: the record goes into the other copy, with the next generation and its CRC. -/
def storeRecord (s : State) (rec : Bytes) : State :=
  let p := argAt s 0
  if !recordOk rec p then endCmd s 0x021A []
  else
    let e := profReason s (profOf rec)
    if e ≠ 0 then endCmd s e []
    else
      let n := nextRecord s p
      let b := rec.take 4 ++ natLe 4 n.2 ++ slice rec 8 4084
      setTask s (rowsFor (profRow p n.1) (b ++ natLe 4 (crc32c b))) .result

/-- PROFILE_STORE. -/
def storeFx (s : State) : State := if 3 < argAt s 0 then endCmd s 0x0205 [] else withHost s (argAt s 1) 4096 storeRecord

/-- SETTINGS_WRITE: items replaced by tag in the other copies of their blocks. -/
def storeItems (s : State) (items : Bytes) : State :=
  match parseItems (items.length / 4 + 2) items with
  | none => endCmd s 0x0205 []
  | some l =>
    let fac := l.filter fun x => decide (0x8000 ≤ x.1)
    let op := l.filter fun x => decide (x.1 < 0x8000)
    let fmt := sheafFmt (rowsBytes s (bankRow (rd s (pg pSYS) SYS.BOOT.BANK)) 64)
    if !fac.isEmpty && decide (1 < lcState s) then endCmd s 0x0202 []
    else match (if fac.isEmpty then some [] else settingsRows s 0 fmt fac), (if op.isEmpty then some [] else settingsRows s 1 fmt op) with
      | some a, some b => setTask s (a ++ b) .result
      | _, _ => endCmd s 0x0205 []

/-- SETTINGS_WRITE. -/
def settingsFx (s : State) : State := if 32768 < argAt s 1 then endCmd s 0x0205 [] else withHost s (argAt s 0) (argAt s 1) storeItems

/-! ### Realms (R75, R229 to R231) -/

/-- Enabled ranges that do not ascend, or a KIND that is none of R234's; EMPTY is one (0x0822, log entry 14). -/
def rangesBad (s : State) (r : Nat) : Bool :=
  let on := (List.range 4).filter fun n => flag s (rngB r) (KCC.RANGE_FIRST.EN.at n)
  let f := on.map fun n => rd s (rngB r) (KCC.RANGE_FIRST.FIRST.at n)
  (List.zip f (f.drop 1)).any (fun x => decide (x.2 ≤ x.1)) || on.any fun n => kindLen (rangeKind s r n) == 0 && rangeKind s r n != 0

/-- A realm is ACTIVE, with one more creation; its limits and weights are those written while it was not (R75). -/
def realmMade (s : State) (r : Nat) : State := endCmd (inc (wr (adoptRealm s r) (rtB r) RT.STATE.STATE 1) (rtB r) RT.GEN.GEN) 0 []

/-- A realm with a new root: its keys, and its record in both copies. -/
def newRealm (s : State) (dk root nonce : Bytes) (r : Nat) (stored : Bool) : State :=
  let b := rootRecord dk nonce root r stored
  setTask (loadKeys s root r stored) [(rootRow 0 r, b), (rootRow 1 r, b)] (.created r)

/-- REALM_CREATE. A create that needs an expander waits while none supplies. -/
def createFx (s : State) : State :=
  let a := argAt s 0
  let r := bitsAt a 0 10
  let stored := bitAt a 16
  let imp := bitAt a 17
  if r = 0 ∨ rd s (rtB r) RT.STATE.STATE ≠ 0 then endCmd s 0x021E []
  else if blockBad s r then endCmd s 0x0810 []
  else if stored && (!s.part.isX || decide (rd s (pg pKCC) KCC.SB_SLOTS.COUNT < realmBase s r + realmCount s r)) then endCmd s 0x0821 []
  else if !stored && rangesBad s r then endCmd s 0x0822 []
  else match devKeyOf s with
    | none => endCmd s 0x0820 []
    | some dk =>
      if rootThere s r then
        match rootOf s dk r with
        | some (root, old) => if imp || old != stored then endCmd s 0x021E [] else realmMade (loadKeys s root r stored) r
        | none => endCmd s 0x021E []
      else match kccDraw s (if imp then 12 else 44) with
        | (s1, none) => s1
        | (s1, some d) =>
          let root := if imp then natLe 8 (argAt s 1) ++ natLe 8 (argAt s 2) ++ natLe 8 (argAt s 3) ++ natLe 8 (argAt s 4) else slice d 12 32
          newRealm s1 dk root (slice d 0 12) r stored

/-- The records of a realm go from the Granary: both copies of its root and of every husk record (R447). -/
def eraseRecords (s : State) (r : Nat) : State :=
  let s1 := [0, 1].foldl (fun st c => if readRow st (rootRow c r) = erasedRow then st else cpRow st (rootRow c r) erasedRow.data) s
  (huskPlaces s).foldl (fun st i => [0, 1].foldl (fun u c =>
    match huskAt s c i with
    | some w => if (huskOfWord w).2.realm = r then cpWord u 0 (huskRow c i) (i % 8) (2 ^ 64 - 1) else u
    | none => u) st) s1

/-- REALM_DESTROY: RETIRING; with no pin left on a line of the realm its keys and records go. `fresh` marks the command's first turn. -/
def destroyFx (s : State) (fresh : Bool) : State :=
  let r := bitsAt (argAt s 0) 0 10
  let st := rd s (rtB r) RT.STATE.STATE
  if r = 0 ∨ (st ≠ 1 ∧ st ≠ 2) ∨ (fresh ∧ st = 2) then endCmd s 0x021E []
  else
    let mine := fun (l : Line) => l.realm == r
    let s1 := wr s (rtB r) RT.STATE.STATE 2
    let gone := s1.kcc.lines.filter fun (p : Nat × Line) => !(mine p.2 && p.2.pins == 0 && p.2.st != .filling && p.2.st != .revoking)
    let stale := gone.map fun (p : Nat × Line) => if mine p.2 && p.2.st != .filling && p.2.st != .revoking then (p.1, { p.2 with st := .stale }) else p
    let s2 := { s1 with kcc := { s1.kcc with lines := stale } }
    if stale.any fun p => mine p.2 then s2
    else
      let husks := s2.kcc.husks.filter fun p => p.2.realm != r
      let places := s2.kcc.places.filter fun p => p.1 % 1024 != r
      let s3 := showHusks { s2 with kcc := { s2.kcc with keys := SMap.erase s2.kcc.keys r, husks, places } }
      eraseRecords (setTask s3 [] (.destroyed r)) r

/-! ### SEAL_OPERAND and LOG_EXPORT -/

/-- The steward's plaintext is sealed for a realm and an opcode (R252), and written out. It waits while no expander supplies. -/
def sealBytes (s : State) (pt : Bytes) : State :=
  let a := argAt s 0
  let r := bitsAt a 0 10
  match realmKeys s r, kccDraw s 8 with
  | some k, (s1, some rnd) =>
    hostWrite (kccBlocks s1 0 (2 + ceilDiv pt.length 16)) (argAt s 3) (sealOperand k.wk r (bitsAt a 16 8) (bitsAt a 32 16) rnd pt)
  | _, (s1, _) => s1

/-- SEAL_OPERAND (R252). -/
def sealFx (s0 : State) : State :=
  let a := argAt s0 0
  let r := bitsAt a 0 10
  let alg := bitsAt a 16 8
  let n := argAt s0 2
  if n < 1 ∨ 5120 < n ∨ alg < 0x31 ∨ 0x3C < alg then endCmd s0 0x0205 []
  else if (realmKeys s0 r).isNone || !realmActive s0 r then endCmd s0 0x021E []
  else withHost s0 (argAt s0 1) n sealBytes

/-- LOG_EXPORT (R398): records from the first one not before a SEQ on; no port's cursor moves, and bad slots are passed over. -/
def cpExport (s : State) : State :=
  let l := (allRecs s).filter fun i => !i.bad
  let l1 : List LogItem := match seekRec s (argAt s 0 % 2 ^ 32) with | some i => l.dropWhile fun x => x.key != i.key | none => []
  let d := (l1.take (argAt s 1)).flatMap fun i => slice i.bytes 0 32
  if d.isEmpty then endCmd s 0 [] else hostWrite s (argAt s 2) d

/-! ### Serving commands -/

/-- Whether a port may give a command, and whether it is for port 0 alone; none for an unknown code. -/
def cmdPorts (code : Nat) : Option Bool :=
  if code = 0x03 ∨ code = 0x10 ∨ code = 0x11 ∨ code = 0x40 then some false
  else if code = 0x01 ∨ code = 0x02 ∨ code = 0x20 ∨ code = 0x30 ∨ code = 0x31 ∨ code = 0x38 then some true
  else none

/-- The command's work. -/
def cmdWork (s : State) (code : Nat) (fresh : Bool) : State :=
  if code = 0x01 then cpInstall s else if code = 0x02 then activateFx s else if code = 0x03 then cpStatus s
  else if code = 0x10 then switchFx s else if code = 0x11 then storeFx s else if code = 0x20 then settingsFx s
  else if code = 0x30 then createFx s else if code = 0x31 then destroyFx s fresh else if code = 0x38 then sealFx s
  else cpExport s

/-- Take up the command given: refused by port, by the fatal lock (R365), by the mode (R435, R436), by the life-cycle state (R410), or run. -/
def runCmd (s : State) (fresh : Bool) : State :=
  let b := pg pCTL
  let code := rd s b CTL.CMD_STAT.LAST_CODE
  let port := rd s b CTL.CMD_STAT.PORT
  let status := code == 0x03 || code == 0x40
  match cmdPorts code with
  | none => endCmd s 0x0210 []
  | some only0 =>
    if only0 && port != 0 then
      endCmd (chaff s { unit := 2, member := 0, kind := 0x004, access := 2, port, addr := b + 0x40, detail := anyDetail 0x004 }) 0x0210 []
    else if locked s && !status then endCmd s 0x0411 []
    else if (flag s b CTL.STAT.SERVICE || flag s b CTL.STAT.RECOVERY) && (!(code == 0x01 || code == 0x03) || port != 0) then endCmd s 0x0210 []
    else if lcState s == 5 && !status then endCmd s 0x0210 []
    else cmdWork s code fresh

/-- Serve a command that waits, unless it is under way. -/
def cpServe (s : State) (fresh : Bool) : State :=
  if cpServes s && flag s (pg pCTL) CTL.CMD_STAT.BUSY && cpIdle s && !cpWrites s && s.plan.swOrder.isNone then runCmd s fresh else s

/-! ### The end of a task -/

/-- A confirm has been programmed (R440). -/
def confirmedFx (s : State) (svn : Nat) : State :=
  let s1 := wr (wr (showBoot s) (pg pCTL) CTL.STAT.TRIAL 0) (pg pSYS) SYS.BOOT.MODE 0
  let s2 := setEvt s1 pCTL CTL.EVT.CONFIRMED
  if arbValue s2 < svn then (arbRaise s2 svn).1 else s2

/-- The rows of a task have ended, with the reason code of the first that failed or 0. A boot whose BOOT item could not be programmed goes
to the active bank (DEDUCED). -/
def taskEnd (s : State) (next : CpNext) (e : Nat) : State :=
  match next with
  | .none => if e = 0 then s else cpNotice s e 0
  | .result => if e = 0 then endCmd (showBoot s) 0 [] else endCmd s e []
  | .verify bank dig => if e = 0 then verifyFx s bank dig else endCmd s e []
  | .boot bank trial => if e = 0 then bootBank s bank trial else bootBank s (bootItem s).active false
  | .confirm svn => if e = 0 then confirmedFx s svn else cpNotice s e 0
  | .created r => if e = 0 then realmMade s r else endCmd { s with kcc := { s.kcc with keys := SMap.erase s.kcc.keys r } } e []
  | .destroyed r => if e = 0 then endCmd (wr s (rtB r) RT.STATE.STATE 0) 0 [] else endCmd s e []

/-- A confirm that waits starts once no other task runs (R440). -/
def startConfirm (s : State) : State :=
  if s.cp.confirmDue && cpIdle s then
    let i := bootItem s
    let s1 := { s with cp := { s.cp with confirmDue := false } }
    setTask s1 (bootRows s1 { i with active := s.cp.trialBank, trial := 0 }) (.confirm (sheafSvn (rowsBytes s (bankRow s.cp.trialBank) 64)))
  else s

/-- One move of the control processor's task: the next row, or its end. -/
def cpMove (s : State) : State :=
  let t := s.cp.task
  if flag s (pg pGLM) GLM.DBG_CP.HALTED || ustate s pCTL == 4 || cpBusy s 0 then s
  else match SMap.get? s.cp.fails 0, t.rows with
    | some e, _ => taskEnd (setTask s [] .none) t.next e
    | none, r :: rs => cpRow (setTask s rs t.next) r.1 r.2
    | none, [] => if t.next == .none then startConfirm s else taskEnd (setTask s [] .none) t.next 0

/-- The control processor goes on while it can: a task, what follows it, and a page that a profile switch takes through DISABLED. -/
def cpPump (s : State) : State := cycleStep (cpMove (cpMove (cpMove (cpMove (cpMove (cpMove s))))))

/-- A host read of the control processor has ended (R24): its command goes on. -/
def cpReadDone (s : State) (cmd off : Nat) (d : Option Bytes) : State := cpPump (cpServe (cpArrived s cmd off d) false)

/-- A write to CTL.CMD (R447). -/
def cmdFx (s : State) (src v : Nat) : State :=
  let b := pg pCTL
  let s1 := wr s b CTL.CMD.CODE (bitsAt v 0 8)
  if !bitAt v 31 then s1
  else if flag s b CTL.CMD_STAT.BUSY then cpNotice s1 0x0211 0
  else
    let s2 := wr (wr (wr (wr s1 b CTL.CMD_STAT.PORT src) b CTL.CMD_STAT.LAST_CODE (bitsAt v 0 8)) b CTL.CMD_STAT.BUSY 1) b CTL.CMD.GO 1
    cpPump (cpServe (inc s2 b CTL.COMMANDS.COUNT) true)

/-- A command row: CTL.CMD written with the code and GO. -/
def cmdRow (s : State) (src id : BitVec 8) (code : Nat) : State :=
  pageWrite s src.toNat id.toNat pCTL 0x40 fun st => cmdFx st src.toNat (code + 2 ^ 31)

/-- FW_INSTALL (R438). -/
def execFwInstall (src id : BitVec 8) (_ : List (BitVec 8)) (s : State) : Out := .next (cmdRow s src id 0x01)
/-- FW_ACTIVATE (R438). -/
def execFwActivate (src id : BitVec 8) (s : State) : Out := .next (cmdRow s src id 0x02)
/-- FW_STATUS (R447). -/
def execFwStatus (src id : BitVec 8) (s : State) : Out := .next (cmdRow s src id 0x03)
/-- PROFILE_SWITCH (R446). -/
def execProfileSwitch (src id : BitVec 8) (s : State) : Out := .next (cmdRow s src id 0x10)
/-- PROFILE_STORE (R446). -/
def execProfileStore (src id : BitVec 8) (_ : List (BitVec 8)) (s : State) : Out := .next (cmdRow s src id 0x11)
/-- SETTINGS_WRITE (R443). -/
def execSettingsWrite (src id : BitVec 8) (_ : List (BitVec 8)) (s : State) : Out := .next (cmdRow s src id 0x20)
/-- REALM_CREATE (R447). -/
def execRealmCreate (src id : BitVec 8) (s : State) : Out := .next (cmdRow s src id 0x30)
/-- REALM_DESTROY (R447). -/
def execRealmDestroy (src id : BitVec 8) (s : State) : Out := .next (cmdRow s src id 0x31)
/-- SEAL_OPERAND (R252, R447). -/
def execSealOperand (src id : BitVec 8) (_ : List (BitVec 8)) (s : State) : Out := .next (cmdRow s src id 0x38)
/-- LOG_EXPORT (R447). -/
def execLogExport (src id : BitVec 8) (s : State) : Out := .next (cmdRow s src id 0x40)

/-! ### The switch boundary (R183, R221, R257) -/

/-- A lane at the switch boundary: a change of its masking takes it through DISABLED, and SPL_EN enables or disables it. -/
def switchLane (s : State) (f : Prof) (l : Nat) : State :=
  let p := pSPL l
  if !present s .spl l then s
  else
    let s1 := wr s (pg p) SPL.CHECK_CFG.RATE_LOG2 f.rate
    let chg := if s.part.masked then rd s (pg p) SPL.CTL.MASK_EN != f.mask else rd s (pg p) SPL.CTL.DUMMY_EN != f.dummy
    let want := bitAt f.splEn l
    let on := enabled s p
    let s2 := { s1 with cp := { s1.cp with cycle := SMap.set s1.cp.cycle p (f.mask + 2 * f.dummy + 8 * bit want) } }
    if on && (chg || !want) then startDisable s2 p
    else if !on && (chg || want) then s2
    else s1

/-- The KCC at the switch boundary: a change of its geometry takes it through DISABLED, and it is enabled again if it was ENABLED. -/
def switchKcc (s : State) (f : Prof) : State :=
  if rd s (pg pKCC) KCC.CFG.WAYS = f.ways ∧ rd s (pg pKCC) KCC.CFG.HASH = f.hash then s
  else
    let on := enabled s pKCC
    let s1 := { s with cp := { s.cp with cycle := SMap.set s.cp.cycle pKCC (f.ways + 4 * f.hash + 8 * bit on) } }
    if on then startDisable s1 pKCC else s1

/-- The new profile takes effect (R183): its values, its reserve, and the EXPRESS requests that wait. -/
def adoptProfile (s : State) (p : Nat) (f : Prof) : State :=
  let b := pg pSYS
  let s1 := adoptLimits (loadWeights (loadTck s f) f)
  let s2 := loadReserve { s1 with plan := { s1.plan with deficits := [], grants := [], booked := false, swOrder := none, swDue := false, swSeen := false, switchTick := true } } (f.grains * 1000)
  let s3 := (List.range 8).foldl (fun st l => switchLane st f l) (switchKcc { admitStanding s2 with cp := { s2.cp with splEn := f.splEn } } f)
  let s4 := wr (wr (wr (wr s3 b SYS.PROFILE.ACTIVE p) b SYS.PROFILE.SOURCE 1) b SYS.PROFILE.PENDING 0) b SYS.PROFILE.SWITCHING 0
  endCmd (setEvt (cpExtend (cycleStep s4) 2 (sha512 f.raw)) pCTL CTL.EVT.PROFILE_SWITCHED) 0 []

/-- PROFILE_SWITCH_APPLY: at the switch boundary. A record that can no longer be read leaves the old profile in force, and the tick opens with
its reserve and no quanta. -/
def switchApplyFx (s : State) : State :=
  match s.plan.swOrder with
  | none => s
  | some p =>
    if !s.plan.swDue || !cpServes s then s
    else match pickProf s p with
      | .ok f => adoptProfile s p f
      | .error e =>
        let s1 := openTick { s with plan := { s.plan with swOrder := none, swDue := false, swSeen := false } } (rd s (pg pTCK) TCK.EXPRESS.GRAINS * 1000)
        endCmd (wr (wr s1 (pg pSYS) SYS.PROFILE.PENDING 0) (pg pSYS) SYS.PROFILE.SWITCHING 0) e []

/-- PROFILE_SWITCH_APPLY (R183). -/
def execProfileSwitchApply (s : State) : Out := .next (if running s then switchApplyFx s else s)

/-! ### Start, confirm and watchdog -/

/-- BOOT_ROM_START (R434): once Glume is up; a halted control processor starts later. -/
def execBootRomStart (s : State) : Out :=
  .next (if running s && s.cp.rom && glumeUp s && !flag s (pg pGLM) GLM.DBG_CP.HALTED && ustate s pCTL != 4 then
    cpPump (cpServe (cpPump (romFx s)) true) else s)

/-- fc of operation of the control processor since the start of its image (R426, R440). -/
def cpRunFc (s : State) : Nat :=
  let held := if flag s (pg pGLM) GLM.DBG_CP.HALTED then s.fcNow - s.cp.haltFc else 0
  s.fcNow - s.cp.bootFc - s.cp.heldFc - held

/-- fc in a second (R17). -/
def fcPerSecond (s : State) : Nat := rd s (pg pSYS) SYS.KCLK_MHZ.MHZ * 500000

/-- A trial runs that no confirm has reached. -/
def trialOpen (s : State) : Bool :=
  flag s (pg pCTL) CTL.STAT.TRIAL && !s.cp.confirmDue && (match s.cp.task.next with | .confirm _ => false | _ => true)

/-- A write of FW_CONFIRM (R440). -/
def confirmFx (s : State) (src v : Nat) : State :=
  if !bitAt v 0 then s
  else if flag s (pg pCTL) CTL.FW_STAT.READY && trialOpen s && decide (cpRunFc s ≤ 60 * fcPerSecond s) then
    cpPump { s with cp := { s.cp with confirmDue := true } }
  else writeIgnored s 2 0 src (pg pCTL + 0x90) 0x0219

/-- FW_CONFIRM (R440). -/
def execFwConfirm (src id : BitVec 8) (value : BitVec 32) (s : State) : Out :=
  .next (pageWrite s src.toNat id.toNat pCTL 0x90 fun st => confirmFx st src.toNat value.toNat)

/-- CONFIRM_WINDOW_EXPIRE (R440): the trial ends unconfirmed with an internal warm restart; the ROM then reverts. -/
def execConfirmWindowExpire (s : State) : Out :=
  .next (if running s && cpRuns s && trialOpen s then warmRestart (chaffAny s 2 0 0x903) else s)

/-- A missed kick (R441): in a trial an internal warm restart, otherwise a restart of the control processor alone. -/
def wdogFx (s : State) : State :=
  let b := pg pCTL
  let s1 := chaffPlain (setEvt (inc s b CTL.WDOG.EXPIRIES) pCTL CTL.EVT.WDOG) 2 0 0x903 0x021F
  if flag s b CTL.STAT.TRIAL then warmRestart s1
  else
    let s0 := pumpBank (wr (wr (wr s1 b CTL.STAT.SERVICE 0) b CTL.STAT.RECOVERY 0) (pg pGRN) GRN.STAT.EXEC_BANK0 0) 0
    let s2 := wr (wr (wr (wr s0 b HDR.CTL.EN 0) b CTL.CMD_STAT.BUSY 0) b CTL.CMD.GO 0) b CTL.FW_STAT.READY 0
    setTask { s2 with cp := { s2.cp with up := false, rom := true, row := 0, confirmDue := false, host := none } } [] .none

/-- WDOG_EXPIRE (R441): the watchdog does not advance while the control processor is halted (R426). -/
def execWdogExpire (s : State) : Out := .next (if running s && cpRuns s then wdogFx s else s)

/-- WDOG_KICK (R441): the firmware runs, and takes up what waits for it. -/
def execWdogKick (s : State) : Out := .next (if running s && cpRuns s then cpPump (cpServe (cpPump s) false) else s)

/-- PROGRAM_ATTEMPT_DONE (R376): what waits for the program's end goes on. -/
def execProgramAttemptDone (bank : BitVec 1) (verified : Bool) (s : State) : Out :=
  .next (if running s then cpPump (glumePump (attemptFx s bank.toNat verified)) else s)

end Sys2Proof.Machine
end

