-- ==== Sys2Proof/Machine/Fabric.lean ====
section
/-! DEFINITION. What the fabric gives the master ports (R22 to R32, R512): read beats, write responses, credits and timeouts, and what
each restarts. -/

namespace Sys2Proof.Machine

/-! ### Outstanding transactions -/

def findRead (s : State) (port tag : Nat) : Option RdTxn := s.fab.reads.find? fun t => t.port == port && t.tag == tag
def findWrite (s : State) (port tag : Nat) : Option WrTxn := s.fab.writes.find? fun t => t.port == port && t.tag == tag
def findQuar (s : State) (port : Nat) (isWrite : Bool) (tag : Nat) : Option Quar :=
  s.fab.quar.find? fun q => q.port == port && q.isWrite == isWrite && q.tag == tag

def setReads (s : State) (l : List RdTxn) : State := { s with fab := { s.fab with reads := l } }
def dropRead (s : State) (t : RdTxn) : State := setReads s (s.fab.reads.filter fun r => !(r.port == t.port && r.tag == t.tag))
def putRead (s : State) (t : RdTxn) : State := setReads s (s.fab.reads.map fun r => if r.port == t.port && r.tag == t.tag then t else r)
def dropWrite (s : State) (t : WrTxn) : State :=
  { s with fab := { s.fab with writes := s.fab.writes.filter fun r => !(r.port == t.port && r.tag == t.tag) } }

/-- One late arrival on a quarantined tag is discarded; the last one ends the quarantine (R30). -/
def lateArrival (s : State) (q : Quar) : State :=
  let l := if q.left ≤ 1 then s.fab.quar.filter fun r => r != q else s.fab.quar.map fun r => if r == q then { q with left := q.left - 1 } else r
  { s with fab := { s.fab with quar := l } }

/-- Waiting requests of a port go out as credits and tags allow. -/
def pumpPort (s : State) (p : Nat) : State := pump (s.fab.waiting.length + 1) s p

/-! ### Reads -/

/-- Latencies that the ledger probe keeps (R509). -/
def probeLat (s : State) (t : RdTxn) : State :=
  let kc := min (2 * (s.fcNow - t.since)) 0xFFFFFFFE
  match t.who with
  | .sqLines q _ _ _ => if probeWaits s q then wr s (pg pPMU) PMU.PROBE_SQ_LAT.KC kc else s
  | .seedRead n =>
    if flag s (pg pPMU) PMU.PROBE_STAT.ARMED && s.kcc.lookups.any (fun l => l.wait == .fill n && s.probeEid == some l.eid) then
      wr s (pg pPMU) PMU.PROBE_SB_LAT.KC kc
    else s
  | _ => s

/-- A bad beat, or a timeout, reaches what waits for a read at once where that is a step or a ring (R29, R102). -/
def readBad (s : State) (w : Who) (addr beat : Nat) : State :=
  match w with
  | .sqLines q first _ v => sqBeat s q v (first + beat) [] true addr
  | .frag j eid k _ _ _ _ pos => pumpJobs (readFailed s j eid k pos addr)
  | .table j eid k _ _ _ => pumpJobs (readFailed s j eid k 0 addr)
  | _ => s

/-- All beats of a read are in: its data, or none when a beat was bad. -/
def readDone (s : State) (t : RdTxn) (d : Option Bytes) (addr : Nat) : State :=
  match t.who, d with
  | .frag j eid k n off skip len _, some b => pumpJobs (fragArrived s j eid k n off skip len b)
  | .table j eid k n skip len, some b => pumpJobs (tableArrived s j eid k n skip len b)
  | .seedRead n, d => pumpJobs (seedRead s n d addr)
  | .peerRead l tag skip len, d => peerReadDone s l tag skip len d
  | .pullRead l tx slot, d => pullReadDone s l tx slot d
  | .cpRead cmd off skip len, d => cpReadDone s cmd off (d.map fun b => slice b skip len)
  | _, _ => s

/-- A struck beat (R512): whether it behaves as MD_ERR and as MD_POISON, and the state with one strike less. -/
def strike (s : State) (port : Nat) (err poison : Bool) : State × Bool × Bool :=
  let b := pg pPMU
  if 0 < rd s b PMU.POISON_INJ.COUNT ∧ rd s b PMU.POISON_INJ.PORT = port then
    let k := flag s b PMU.POISON_INJ.KIND
    (dec s b PMU.POISON_INJ.COUNT, err || k, poison || !k)
  else (s, err, poison)

/-- A beat of an outstanding read (R28, R29). -/
def beatFx (s : State) (t : RdTxn) (beat : Nat) (data : Bytes) (err poison : Bool) : State :=
  let r := strike s t.port err poison
  let bad := r.2.1 || r.2.2
  let addr := t.addr + 64 * beat
  let t1 := { t with got := SMap.set t.got beat (if bad then [] else data) }
  let s1 := putRead r.1 t1
  let s2 := if bad then readBad (fabChaff s1 (if r.2.1 then 0x101 else 0x102) 4 t.port t.mqPort addr) t.who addr beat else
    match t.who with
    | .sqLines q first _ v => sqBeat s1 q v (first + beat) data false addr
    | _ => s1
  if t1.got.length < t.beats then s2
  else
    let s3 := pmu (probeLat (dropRead s2 t) t) 0x11 t.port (2 * (s.fcNow - t.since))
    let badAt := (List.range t.beats).find? fun i => (SMap.getD t1.got i []).isEmpty
    let d := (List.range t.beats).flatMap fun i => SMap.getD t1.got i []
    pumpPort (readDone s3 t (if badAt.isSome then none else some d) (t.addr + 64 * badAt.getD 0)) t.port

/-- A beat in a reset drain only counts (R21). -/
def beatDrain (s : State) (t : RdTxn) (beat : Nat) : State :=
  let t1 := { t with got := SMap.set t.got beat [] }
  if t1.got.length < t.beats then putRead s t1 else dropRead s t

/-- READ_BEAT (R28). A beat whose tag names no outstanding read arrives late and is discarded (R30). -/
def execReadBeat (port : BitVec 4) (tag : BitVec 9) (beat : BitVec 6) (data : BitVec 512) (err poison : Bool) (s : State) : Out :=
  if s.phase = .cold ∨ s.phase = .warm then .next s
  else match findRead s port.toNat tag.toNat, findQuar s port.toNat false tag.toNat with
    | some t, _ =>
      if t.beats ≤ beat.toNat ∨ (SMap.get? t.got beat.toNat).isSome then .fault .unknownBeat
      else if running s then .next (beatFx s t beat.toNat (beatBytes data) err poison)
      else .next (beatDrain s t beat.toNat)
    | none, some q => .next (pumpPort (lateArrival s q) q.port)
    | none, none => .next s

/-! ### Writes -/

/-- What depends on a write response goes on (R26, R29): `status` is 0, or the status that a failed output write gives its job. -/
def writeDone (s : State) (w : Who) (addr status : Nat) : State :=
  let err := status != 0
  match w with
  | .out j eid k pos => pumpJobs (outAnswer s j eid k pos addr status)
  | .notify j eid k => pumpJobs (notifyAnswer s j eid k addr status)
  | .cqe cids => cids.foldl (fun st c => complAnswer st c err) s
  | .ret q eids => returnAnswer s q eids err
  | .msi v =>
    let s1 := setVec s v { vec s v with inflight := false, err := (vec s v).err || err }
    sendPending (if err then setEvt s1 pRCH RCH.EVT.VEC_ERR else s1) v
  | .seedWrite tok => pumpJobs (seedAnswer s tok status addr)
  | .peerWrite l tag => peerWriteDone s l tag err
  | .cp => cpPump (cpWriteDone (if err then { s with cp := { s.cp with fails := SMap.set s.cp.fails cpWriteTag 1 } } else s))
  | _ => s

/-- A write response (R29). -/
def responseFx (s : State) (t : WrTxn) (err : Bool) : State :=
  let s1 := dropWrite s t
  let s2 := if err then fabChaff s1 0x103 5 t.port t.mqPort t.addr else s1
  pumpPort (writeDone s2 t.who t.addr (if err then 0x21 else 0)) t.port

/-- WRITE_RESPONSE (R26). A response whose tag names no outstanding write arrives late and is discarded (R30). -/
def execWriteResponse (port : BitVec 4) (tag : BitVec 8) (err : Bool) (s : State) : Out :=
  if s.phase = .cold ∨ s.phase = .warm then .next s
  else match findWrite s port.toNat tag.toNat, findQuar s port.toNat true tag.toNat with
    | some t, _ => .next (if running s then responseFx s t err else dropWrite s t)
    | none, some q => .next (pumpPort (lateArrival s q) q.port)
    | none, none => .next s

/-! ### Credits and timeouts -/

/-- Credits reach a port (R27): beats that a presented write still owes go out before anything else of the port. -/
def addCredits (s : State) (p q w : Nat) : State :=
  let o := credOf s.fab.owed p
  { s with fab := { s.fab with reqCr := SMap.set s.fab.reqCr p q, wdCr := SMap.set s.fab.wdCr p (w - o), owed := SMap.set s.fab.owed p (o - w) } }

/-- CREDIT_RETURN (R27). In a reset the counts stay zero. -/
def execCreditReturn (port : BitVec 4) (req wd : BitVec 2) (s : State) : Out :=
  let p := port.toNat
  let q := credOf s.fab.reqCr p + req.toNat
  let w := credOf s.fab.wdCr p + wd.toNat
  if s.phase = .cold ∨ s.phase = .warm then .next s
  else if 255 < q ∨ 255 < w then .fault .creditOverflow
  else .next (pumpPort (addCredits s p q w) p)

/-- A tag goes into quarantine (R30). -/
def quarantine (s : State) (port : Nat) (isWrite : Bool) (tag left : Nat) : State :=
  { s with fab := { s.fab with quar := s.fab.quar ++ [{ port, isWrite, tag, left }] } }

/-- A read has timed out. -/
def readTimeout (s : State) (t : RdTxn) : State :=
  let s1 := quarantine (dropRead s t) t.port false t.tag (t.beats - t.got.length)
  let s2 := fabChaff s1 0x104 4 t.port t.mqPort t.addr
  pumpPort (readDone (readBad s2 t.who t.addr 0) t none t.addr) t.port

/-- A write has timed out: its job ends FABRIC_ERROR; anything else takes it as a failed write. -/
def writeTimeout (s : State) (t : WrTxn) : State :=
  let s1 := quarantine (dropWrite s t) t.port true t.tag 1
  pumpPort (writeDone (fabChaff s1 0x104 5 t.port t.mqPort t.addr) t.who t.addr 0x20) t.port

/-- FABRIC_TIMEOUT (R30). In a reset drain a transaction that has passed its timeout no longer holds the drain (R21), and its tag stays
quarantined for what arrives late; a tag that names nothing outstanding has no timeout. -/
def execFabricTimeout (port : BitVec 4) (isWrite : Bool) (tag : BitVec 9) (s : State) : Out :=
  if s.phase = .cold ∨ s.phase = .warm then .next s
  else if isWrite then
    match findWrite s port.toNat tag.toNat with
    | some t => .next (if running s then writeTimeout s t else quarantine (dropWrite s t) t.port true t.tag 1)
    | none => .next s
  else
    match findRead s port.toNat tag.toNat with
    | some t => .next (if running s then readTimeout s t else quarantine (dropRead s t) t.port false t.tag (t.beats - t.got.length))
    | none => .next s

end Sys2Proof.Machine
end

