-- ==== Sys2Proof/Machine/Sentinel.lean ====
section
/-! DEFINITION. The sentinel (R44 to R46, R395 to R397): samples, the warning, the power-fail state and its recovery, the stale input,
and the end of the power-fail flush. -/

namespace Sys2Proof.Machine

/-! ### Conversion (R45) -/

/-- The signed millivolts of a sample before it is held to the calibrated range: a negative sum is held at its lower bound, where the pseudocode's
u32 would wrap to its upper one (R45; DESIGN CHOICE, log entry 66). -/
def mvRaw (s : State) (code : Nat) : Int :=
  ((code * rd s (pg pSNT) SNT.GAIN.GAIN / 65536 : Nat) : Int) + bitsSigned 16 (rd s (pg pSNT) SNT.OFFSET.OFFSET)

/-- The millivolts of a sample: held at the nearer of 30,000 mV and 80,000 mV outside them. -/
def mvOf (s : State) (code : Nat) : Nat := (max 30000 (min 80000 (mvRaw s code))).toNat

/-- Whether a sample's conversion is held at a bound. -/
def mvHeld (s : State) (code : Nat) : Bool := decide (mvRaw s code < 30000 ∨ 80000 < mvRaw s code)

/-- A sample is converted, whether or not the sentinel is ENABLED: the level, its extremes, the average of the last 256 codes since the
enable, and the end of the stale state (R44, R45, R404). -/
def convertFx (s : State) (code : Nat) : State :=
  let b := pg pSNT
  let mv := mvOf s code
  let s1 := wr (wr (inc s b SNT.SAMPLES.COUNT) b SNT.STAT.STALE 0) b SNT.LEVEL.MV mv
  let s2 := wr (wr s1 b SNT.MIN.MV (min (rd s1 b SNT.MIN.MV) mv)) b SNT.MAX.MV (max (rd s1 b SNT.MAX.MV) mv)
  let s3 := wr s2 b SNT.STAT.OUT_OF_RANGE (bit (mvHeld s code))
  let s4 := if mvHeld s code then setEvt s3 pSNT SNT.EVT.OUT_OF_RANGE else s3
  let codes := (code :: s4.snt.codes).take 256
  let s5 := { s4 with snt := { s4.snt with codes } }
  if codes.length = 256 ∧ ustate s pSNT = 2 then
    wr (wr s5 b SNT.RAW_AVG.CODE (codes.foldl (· + ·) 0 / 256)) b SNT.RAW_AVG.VALID 1
  else s5

/-! ### Warning, trip and recovery (R395, R396) -/

/-- Consecutive samples: one more, or none. -/
def tally (c : Bool) (n : Nat) : Nat := if c then n + 1 else 0

/-- Programs not yet started are refused with 0x0513, except the flush's own (R396). -/
def refuseQueued (s : State) : State := refuseWhere s (fun p => !pfOwn s p.use) 0x0513

/-- A trip: the power-fail state, in which programs are refused, and the power-fail flush. -/
def tripFx (s : State) : State :=
  let s1 := inc (setEvt (wr s (pg pSNT) SNT.STAT.PF 1) pSNT SNT.EVT.TRIP) (pg pSNT) SNT.TRIPS.COUNT
  let s2 := startFlush (wr s1 (pg pGRN) GRN.STAT.PF_REFUSE 1) 3
  refuseQueued (setGrn s2 { s2.grn with pfStage := 1, tripFc := s2.fcNow })

/-- The end of the power-fail state: PF_ACK falls and programs are accepted again. -/
def recoverFx (s : State) : State :=
  let s1 := wr (setEvt (wr s (pg pSNT) SNT.STAT.PF 0) pSNT SNT.EVT.RECOVER) (pg pGRN) GRN.STAT.PF_REFUSE 0
  pumpBank (pumpBank { s1 with snt := { s1.snt with pfAck := false } } 0) 1

/-- The warning begins or ends (R395). -/
def warnFx (s : State) : State :=
  let b := pg pSNT
  if flag s b SNT.STAT.WARN then
    if rd s b SNT.RECOVER.RECOVER_COUNT ≤ s.snt.warnAbove then wr s b SNT.STAT.WARN 0 else s
  else if flag s b SNT.WARN.WARN_EN && decide (rd s b SNT.WARN.WARN_COUNT ≤ s.snt.warnBelow) then
    startFlush (inc (setEvt (wr s b SNT.STAT.WARN 1) pSNT SNT.EVT.WARN) b SNT.WARNS.COUNT) 1
  else s

/-- The power-fail state begins or ends (R395). -/
def pfFx (s : State) : State :=
  let b := pg pSNT
  if flag s b SNT.STAT.PF then
    if rd s b SNT.RECOVER.RECOVER_COUNT ≤ s.snt.above then recoverFx s else s
  else if rd s b SNT.TRIP.TRIP_COUNT ≤ s.snt.below then tripFx s else s

/-- The counts of consecutive samples with one more at `mv` millivolts (R395). -/
def countFx (s : State) (mv : Nat) : State :=
  let b := pg pSNT
  let t := rd s b SNT.TRIP.TRIP_MV
  let h := rd s b SNT.RECOVER.HYST_MV
  let w := rd s b SNT.WARN.WARN_MV
  { s with snt := { s.snt with
      below := tally (decide (mv < t)) s.snt.below, above := tally (decide (t + h ≤ mv)) s.snt.above,
      warnBelow := tally (decide (mv < w)) s.snt.warnBelow, warnAbove := tally (decide (w + h ≤ mv)) s.snt.warnAbove } }

/-- A sample: converted always, and acted on only while SNT is ENABLED (R395). -/
def sampleFx (s : State) (code : Nat) : State :=
  let s1 := convertFx s code
  if ustate s pSNT = 2 then pfFx (warnFx (countFx s1 (mvOf s code))) else s1

/-- SNT_SAMPLE. -/
def execSntSample (code : BitVec 16) (s : State) : Out := .next (if running s then sampleFx s code.toNat else s)

/-! ### The stale input (R44) -/

/-- 16,000 fc have passed without a sample: STALE, a message, and one flush as a precaution. -/
def staleFx (s : State) : State :=
  if flag s (pg pSNT) SNT.STAT.STALE then s
  else
    let s1 := inc (setEvt (wr s (pg pSNT) SNT.STAT.STALE 1) pSNT SNT.EVT.STALE) (pg pSNT) SNT.STALES.COUNT
    startFlush (chaffAny s1 11 0 0x504) 1

/-- SNT_STALE. -/
def execSntStale (s : State) : Out := .next (if running s then staleFx s else s)

/-! ### The end of the power-fail flush (R396) -/

/-- Whether the power-fail flush and its checkpoint have verified, with both banks idle. -/
def pfDone (s : State) : Bool :=
  let mine := fun (p : Prog) => match p.use with | .checkpoint pf => pf | _ => false
  s.grn.pfStage == 2 && s.grn.cur.isEmpty && !s.grn.queue.any mine && !flag s (pg pSNT) SNT.STAT.STALE

/-- PF_ACK rises while the power-fail state lasts, with the fc since the trip in LAST_PF; the flush ends. -/
def pfDoneFx (s : State) : State :=
  let s1 := setEvt (wr (setGrn s { s.grn with flush := none, pfStage := 0 }) (pg pGRN) GRN.STAT.FLUSHING 0) pGRN GRN.EVT.PF_DONE
  if flag s1 (pg pSNT) SNT.STAT.PF then
    wr { s1 with snt := { s1.snt with pfAck := true } } (pg pSNT) SNT.LAST_PF.FC (s1.fcNow - s1.grn.tripFc)
  else s1

/-- PF_FLUSH_DONE. -/
def execPfFlushDone (s : State) : Out := .next (if grnUp s && pfDone s then pfDoneFx s else s)

end Sys2Proof.Machine
end

