-- ==== Sys2Proof/Machine/TestAccess.lean ====
section
/-! DEFINITION. Test access and provoked faults (R503 to R519): the ledger probe's control, the injectors and the memory test of the
PMU page, the wrap of its cycle counters, and memory errors that the block finds in itself (R214, R297, R361). -/

namespace Sys2Proof.Machine

/-- A write of a PMU register that is refused: ignored with a NOTICE, its reason in PMU.CHK (R503, R519). -/
def pmuRefuse (s : State) (src off code : Nat) : State :=
  writeIgnored (wr s (pg pPMU) HDR.CHK.REASON code) 10 0 src (pg pPMU + off) code

/-! ### The ledger probe (R509, R510) -/

/-- Every stamp and latency of the probe reads 0xFFFF_FFFF again. -/
def clearStamps (s : State) : State :=
  let b := pg pPMU
  let s1 := (List.range 8).foldl (fun st k => wr st b (PMU.PROBE_STAMP.KC.at k) 0xFFFFFFFF) s
  { wr (wr s1 b PMU.PROBE_SQ_LAT.KC 0xFFFFFFFF) b PMU.PROBE_SB_LAT.KC 0xFFFFFFFF with probeEid := none }

/-- A write to PROBE_CTL: ARM arms the probe for SQ, and a write while it is armed arms it anew. -/
def probeCtlFx (s : State) (src v : Nat) : State :=
  let b := pg pPMU
  if ustate s pPMU ≠ 2 then pmuRefuse s src 0x50 0x0A10
  else
    let armed := flag s b PMU.PROBE_STAT.ARMED
    let s1 := wr s b PMU.PROBE_CTL.SQ (bitsAt v 0 13)
    if bitAt v 31 || armed then
      clearStamps (wr (wr (wr s1 b PMU.PROBE_CTL.ARM 1) b PMU.PROBE_STAT.ARMED 1) b PMU.PROBE_STAT.DONE 0)
    else s1

/-- PROBE_CTL_WRITE. -/
def execProbeCtlWrite (src id : BitVec 8) (value : BitVec 32) (s : State) : Out :=
  .next (pageWrite s src.toNat id.toNat pPMU 0x50 fun st => probeCtlFx st src.toNat value.toNat)

/-! ### Injection (R511, R512) -/

/-- Whether a chaff source is present (R355, R511). -/
def sourcePresent (s : State) (k : Nat) : Bool :=
  let u := k / 256
  let m := k % 256
  if u = 7 then (decide (m < 16) && cellPresent s m) || (decide (0x20 ≤ m) && decide (m < 0x2C) && expPresent s (m - 0x20)) || m == 0x30
  else if u = 0x16 then decide (m < 16)
  else if u = 5 then decide (m < 2)
  else match unitPage u m with
    | some p => pagePresent s p && (pageUnit p).2 == m
    | none => false

/-- The reason code that refuses a write of CHAFF_INJ, 0 when it is accepted (R511). -/
def injReason (s : State) (v : Nat) : Nat :=
  let k := bitsAt v 0 16
  let kind := bitsAt v 16 12
  if !testPermit s then 0x0A10
  else if !sourcePresent s k then 0x0A11
  else if kind = 0xC02 ∨ !kindListed kind (k / 256) (k % 256) then 0x0A12
  else if flag s (pg pPMU) PMU.CHAFF_INJ.GO then 0x0A15
  else 0

/-- A write to CHAFF_INJ. -/
def chaffInjFx (s : State) (src v : Nat) : State :=
  let b := pg pPMU
  let e := injReason s v
  if e ≠ 0 then pmuRefuse s src 0x8C e
  else
    let s1 := wr (wr s b PMU.CHAFF_INJ.SOURCE (bitsAt v 0 16)) b PMU.CHAFF_INJ.KIND (bitsAt v 16 12)
    if bitAt v 31 then sendInjected (wr s1 b PMU.CHAFF_INJ.GO 1) else s1

/-- CHAFF_INJ. -/
def execChaffInj (src id : BitVec 8) (value : BitVec 32) (s : State) : Out :=
  .next (pageWrite s src.toNat id.toNat pPMU 0x8C fun st => chaffInjFx st src.toNat value.toNat)

/-- A write to POISON_INJ. -/
def poisonInjFx (s : State) (src v : Nat) : State :=
  let b := pg pPMU
  if testPermit s then
    wr (wr (wr s b PMU.POISON_INJ.PORT (bitsAt v 0 4)) b PMU.POISON_INJ.KIND (bitsAt v 4 1)) b PMU.POISON_INJ.COUNT (bitsAt v 8 8)
  else pmuRefuse s src 0x88 0x0A10

/-- POISON_INJ_WRITE. -/
def execPoisonInjWrite (src id : BitVec 8) (value : BitVec 32) (s : State) : Out :=
  .next (pageWrite s src.toNat id.toNat pPMU 0x88 fun st => poisonInjFx st src.toNat value.toNat)

/-! ### Memory test (R514, R515) -/

/-- Whether a memory test of a target can start: the target is one of R514, its instance is present, and its units are DISABLED. -/
def memTestable (s : State) (target inst : Nat) : Bool :=
  let ps := memTestPages target inst
  decide (target < 10) && (match ps with | p :: _ => pagePresent s p | [] => false) && ps.all fun p => ustate s p == 0

/-- A write to MEMTEST: refused without the permission, and while a test runs; GO starts a test. -/
def memTestFx (s : State) (src v : Nat) : State :=
  let b := pg pPMU
  if !memPermit s then pmuRefuse s src 0x94 0x0A14
  else if flag s b PMU.MEMTEST.GO || (bitAt v 16 && !memTestable s (bitsAt v 0 4) (bitsAt v 4 6)) then pmuRefuse s src 0x94 0x0A13
  else
    let s1 := wr (wr s b PMU.MEMTEST.TARGET (bitsAt v 0 4)) b PMU.MEMTEST.UNIT (bitsAt v 4 6)
    if bitAt v 16 then
      wr (wr (wr (wr s1 b PMU.MEMTEST.GO 1) b PMU.MEMTEST_STAT.RESULT 0) b PMU.MEMTEST_STAT.FAILS 0) b PMU.MEMTEST_ADDR.OFFSET 0
    else s1

/-- MEMTEST. -/
def execMemtest (src id : BitVec 8) (value : BitVec 32) (s : State) : Out :=
  .next (pageWrite s src.toNat id.toNat pPMU 0x94 fun st => memTestFx st src.toNat value.toNat)

/-- The running test ends with its count of failing words and the offset of the first; its memory is zeroized. -/
def memTestDoneFx (s : State) (first fails : Nat) : State :=
  let b := pg pPMU
  if flag s b PMU.MEMTEST.GO then
    let s1 := wr (zeroTarget s (rd s b PMU.MEMTEST.TARGET) (rd s b PMU.MEMTEST.UNIT)) b PMU.MEMTEST.GO 0
    let s2 := wr (wr s1 b PMU.MEMTEST_STAT.RESULT (if fails = 0 then 1 else 2)) b PMU.MEMTEST_STAT.FAILS (min fails 0xFFFF)
    setEvt (wr s2 b PMU.MEMTEST_ADDR.OFFSET (if fails = 0 then 0 else first)) pPMU PMU.EVT.MEMTEST_DONE
  else s

/-- MEMTEST_DONE. -/
def execMemtestDone (firstFail fails : BitVec 32) (s : State) : Out :=
  .next (if running s then memTestDoneFx s firstFail.toNat fails.toNat else s)

/-! ### The cycle counters (R506, R508) -/

/-- The fc until CYCLES or the first counter of kclk cycles passes 2^48 − 1. -/
def wrapFc (s : State) : Nat :=
  let b := pg pPMU
  let on := (List.range 16).filter fun n => flag s b (PMU.CNT_CFG.EN.at n) && rd s b (PMU.CNT_CFG.EVENT.at n) == 1
  let vs := rd s b PMU.CYCLES.COUNT :: on.map fun n => rd s b (PMU.CNT.COUNT.at n)
  ceilDiv (2 ^ 48 - vs.foldl max 0) 2

/-- PMU_CYCLES_WRAP: the time until the next of these wraps has passed. -/
def execPmuCyclesWrap (s : State) : Out := .next (if running s && enabled s pPMU then passFc s (wrapFc s) else s)

/-! ### Errors in the block's memories (R214, R297, R361, R386) -/

/-- A corrected error of a unit's memory. -/
def eccCorrFx (s : State) (u m : Nat) : State :=
  if u = 5 then
    let r := freshFree s
    correctedFx r.2 (m * 65536 + (Config.eccRow r.1).toNat) 5
  else if u = 9 then chaffAny (setEvt (inc s (pg pHLD) HLD.ECC_CORR.COUNT) pHLD HLD.EVT.ECC_CORR) 9 0 0x201
  else if u = 0x11 then chaffAny (setEvt (inc s (pg (pEMR m)) EMR.ECC_CORR.COUNT) (pEMR m) EMR.EVT.ECC_CORR) 0x11 m 0x201
  else if u = 0x12 then setEvt (inc s (pg (pSRG m)) SRG.ECC_CORR.COUNT) (pSRG m) SRG.EVT.ECC_CORR
  else if (ruleDef 0x201).units.contains u then chaffAny s u m 0x201
  else s

/-- ECC_CORRECTED. -/
def execEccCorrected (unit member : BitVec 8) (s : State) : Out :=
  .next (if running s && sourcePresent s (srcKey unit.toNat member.toNat) then eccCorrFx s unit.toNat member.toNat else s)

/-- An uncorrectable error in the Emmer context store of group `g`, in the context of a step (R297). -/
def ctxEccFx (s : State) (g j k : Nat) : State :=
  let b := pg (pEMR g)
  let s1 := chaffPlain (setEvt (inc s b EMR.ECC_UNCORR.COUNT) (pEMR g) EMR.EVT.ECC_UNCORR) 0x11 g 0x202 0x1115
  if (stepsOnGroup s g).contains (j, k) then
    modStep (failStep s1 j k { status := 0x28, detail := 0x11, loc := 0 }) j k fun t => { t with place := none }
  else s1

/-- An uncorrectable error in a line of the KCC: the line goes, and the steps that hold its key end. -/
def lineEccFx (s : State) (key : Nat) : State :=
  let s1 := chaffAny s 8 0 0x202
  match lineAt s key with
  | some l =>
    let holds := stepsWhere s fun _ x _ t => x.realm == l.realm && (match t.key with | .ready c => c.slot == l.slot | _ => false)
    let s2 := holds.foldl (fun st jk => failStep st jk.1 jk.2 { status := 0x28, detail := 8, loc := 0 }) s1
    match lineAt s2 key with
    | some l2 => if l2.st = .filling then s2 else if l2.pins = 0 then retryAll (dropLine s2 key) else setLine s2 key { l2 with st := .stale, leaseWait := false }
    | none => s2
  | none => s1

/-- An uncorrectable error in a unit's memory; `d` says where: step and job of an Emmer context, a KCC line, the spikelet of a spike,
or the ring. Bit 15 of a KCC error marks the realm key store. -/
def eccUncorrFx (s : State) (u m d : Nat) : State :=
  if u = 0x11 then ctxEccFx s m (d / 8) (d % 8)
  else if u = 8 then (if 0x8000 ≤ d then chaffAny s 8 0 0x205 else lineEccFx s d)
  else if u = 0x13 then faultJobs (poisonOut (chaffAny s 0x13 m 0x202) (16 * m + d % 16) 0x13) 0x13 fun j => j == 16 * m + d % 16
  else if u = 0x15 then
    let s1 := chaffAny s 0x15 0 0x202
    let mine := s1.jobs.filter fun p => p.2.sq == d && p.2.peer.isNone
    faultJobs s1 0x15 fun j => mine.any fun p => p.1 == j
  else if u = 9 ∨ u = 2 then chaffAny s u m 0x202
  else s

/-- MEMORY_ECC_UNCORR. -/
def execMemoryEccUncorr (unit member : BitVec 8) (detail : BitVec 16) (s : State) : Out :=
  .next (if running s && sourcePresent s (srcKey unit.toNat member.toNat) then eccUncorrFx s unit.toNat member.toNat detail.toNat else s)

end Sys2Proof.Machine
end

