-- ==== Sys2Proof/Machine/Windows.lean ====
section
/-! DEFINITION. What a read of the register target port shows (R50 to R63): the fields whose value follows from the rest of the state,
the windows that a selector register moves, and whole words. -/

namespace Sys2Proof.Machine

/-- The value of fields that no register holds, by field. -/
abbrev Shown := List (Field × Nat)

/-! ### The common header (R56, R57) -/

/-- How many of a list's members pass a test. -/
def countOf {α : Type} (l : List α) (p : α → Bool) : Nat := (l.filter p).length

/-- ID (R57). -/
def idWord (s : State) (k : PageKind) (i : Nat) : Nat := s.part.idMinor % 256 + s.part.idMajor % 256 * 256 + i * 65536 + unitId k * 2 ^ 24

/-- The chaff sources of a part that have a page, a cell, an expander or a port (R355, R372). -/
def sourceCount (s : State) : Nat :=
  28 + countOf (List.range 8) (present s .spl) + countOf (List.range 4) (present s .emr) + countOf (List.range 16) (present s .srg) +
    countOf (List.range 32) (present s .spk) + countOf (List.range 4) (present s .clm) + countOf (List.range 16) (cellPresent s) +
    countOf (List.range 12) (expPresent s) + 1

/-- CAP.BITS of a unit (R110, R152, R187, R225, R227, R259, R300, R329, R352, R372, R402, R404, R429, R449, R451, R482, R518). -/
def capBits (s : State) (k : PageKind) (i : Nat) : Nat :=
  let p := s.part
  match k with
  | .sys => p.pick 0 1 2 + bit (decide (0 < p.arrays)) * 4 + bit p.hasLattice * 8 + bit (decide (0 < p.links)) * 16 + p.ports * 32
  | .ctl => 8
  | .tck => 8
  | .chf => sourceCount s + 49 * 2 ^ 16
  | .grn => 17 + 3200 * 32
  | .glm => 6 + 8
  | .tef => countOf (List.range 16) (cellPresent s) + (List.range 12).foldl (fun n e => n + bit (expPresent s e) * 2 ^ (5 + e)) 0 + 2 ^ 17
  | .kcc => bit p.isX + bit p.masked * 2 + 4 + 8 + p.pick 4 8 16 * 16 + p.pick 4096 8192 16384 * 512
  | .hld => p.bins + 2048 * 4096
  | .pmu => 16 + 32
  | .snt => 1
  | .spl => bit p.masked + bit (!p.masked) * 2 + 4 + 8 + 64 * 4096
  | .emr => 16 + 4 * 32 + 256 + bit p.hasLattice * 512 + 128 * 1024
  | .srg => bit p.hasLattice + 2 + 64 * 256
  | .spk => 16 + (if servesArray s i then 32 + i * 64 else 0)
  | .clm => 8 + 32 * 16 + 16 * 1024 + 64 * 65536
  | .rch => p.rings + 2 ^ 14 + 64 * 2 ^ 15
  | .sq | .cq | .rt | .pt | .gs | .pp => 0

/-- The spikelets of spike `i` that hold an entry or run an array (R152). -/
def spikeletBusy (s : State) (i n : Nat) : Bool :=
  (job? s (16 * i + n)).isSome || (n == 15 && servesArray s i && ((bank s (2 * i)).owner.isSome || (bank s (2 * i + 1)).owner.isSome))

/-- STAT.BUSY: work or a command is in progress (R57). -/
def unitBusy (s : State) (k : PageKind) (i : Nat) : Bool :=
  match k with
  | .ctl => flag s (pg pCTL) CTL.CMD_STAT.BUSY || !s.cp.task.rows.isEmpty
  | .tck => !s.plan.grants.isEmpty
  | .chf => !s.chaff.bus.isEmpty
  | .grn => flag s (pg pGRN) GRN.STAT.SCAN || !s.grn.queue.isEmpty || !s.grn.cur.isEmpty || s.grn.clearing != 0
  | .glm => flag s (pg pGLM) GLM.STAT.STARTUP || !s.glm.burns.isEmpty || s.glm.trans.isSome || s.glm.verify.isSome
  | .tef => flag s (pg pTEF) TEF.RAW_CTL.CAPTURE
  | .kcc => !(s.kcc.fills.isEmpty && s.kcc.lookups.isEmpty && s.kcc.writes.isEmpty && s.kcc.revokes.isEmpty)
  | .hld => decide (binsFree s < s.part.bins) || !s.susp.isEmpty
  | .pmu => flag s (pg pPMU) PMU.MEMTEST.GO || flag s (pg pPMU) PMU.CHAFF_INJ.GO || flag s (pg pPMU) PMU.PROBE_STAT.ARMED
  | .spl => !(lane s i).ctxs.isEmpty
  | .emr => emrCtxUsed s i != 0
  | .srg => bankState s (2 * i) != bkEMPTY || bankState s (2 * i + 1) != bkEMPTY
  | .spk => (List.range 16).any (spikeletBusy s i)
  | .clm => !((link s i).jobs.isEmpty && (link s i).runs.isEmpty)
  | .rch => !s.rch.dq.isEmpty || !s.rch.compls.isEmpty || (liveSqs s).any fun q => flag s (sqB q) SQ.STAT.SCAN_PENDING
  | .sys | .snt | .sq | .cq | .rt | .pt | .gs | .pp => false

/-! ### One kind of page at a time -/

/-- A sum of bits. -/
def bitsOf (n : Nat) (p : Nat → Bool) : Nat := (List.range n).foldl (fun v i => v + bit (p i) * 2 ^ i) 0

def shownSys (s : State) : Shown :=
  [(SYS.INSTANCES.LANES, countOf (List.range 8) (present s .spl)), (SYS.INSTANCES.GROUPS, countOf (List.range 4) (present s .emr)),
   (SYS.INSTANCES.ARRAYS, countOf (List.range 16) (present s .srg)), (SYS.INSTANCES.SPIKES, countOf (List.range 32) (present s .spk)),
   (SYS.INSTANCES.LINKS, countOf (List.range 4) (present s .clm)), (SYS.INSTANCES.CELLS, countOf (List.range 16) (cellPresent s)),
   (SYS.MC_IF.MIN, s.part.mcMin), (SYS.MC_IF.MAX, s.part.mcMax)]

/-- Seconds left to confirm a trial (R440). -/
def windowLeft (s : State) : Nat :=
  if flag s (pg pCTL) CTL.FW_STAT.READY && trialOpen s then min 60 (ceilDiv (60 * fcPerSecond s - cpRunFc s) (max 1 (fcPerSecond s))) else 0

def shownCtl (s : State) : Shown :=
  [(CTL.FW_STAT.WINDOW, windowLeft s), (CTL.NOTICE.REASON, s.cp.notices.head?.getD 0), (CTL.NOTICE.PENDING, s.cp.notices.length - 1)]

def shownTck (s : State) : Shown := [(TCK.COST_VAL.VALUE, s.plan.costs.getD (rd s (pg pTCK) TCK.COST_SEL.INDEX) 0)]

def shownChf (s : State) : Shown :=
  let kind := rd s (pg pCHF) CHF.RULE_SEL.KIND
  let r := ruleOf s kind
  let k := rd s (pg pCHF) CHF.SRC_SEL.SOURCE
  let x := srcOf s k
  [(CHF.STAT.ANY_FENCED, bit ((List.range 0x61).any fun p => pagePresent s p && ustate s p == 4)),
   (CHF.STAT.ANY_RETIRED, bit ((List.range 0x61).any fun p => pagePresent s p && ustate s p == 5)),
   (CHF.SUMMARY.UNITS, (List.range 0x61).foldl (fun n p =>
      match pageKind p with | some (u, i) => if i = 0 && unitUp s p then n + 2 ^ unitId u else n | none => n) 0),
   (CHF.RULE_VAL.N, r.n), (CHF.RULE_VAL.W, r.w), (CHF.RULE_VAL.ENTRY, r.entry), (CHF.RULE_VAL.CEIL, r.ceil),
   (CHF.SRC_STAT.CLASS, x.cls), (CHF.SRC_STAT.RELEASES, SMap.getD s.chaff.releases k 0), (CHF.SRC_STAT.CREDITS, x.credits),
   (CHF.SRC_STAT.HOLDING, bit x.hold.isSome), (CHF.SRC_STAT.MERGE_COUNT, x.merged), (CHF.SRC_MSGS.COUNT, x.msgs)]

/-- The log window of a port (R398). -/
def shownGrn (s : State) (port : Nat) : Shown :=
  let recs := (allRecs s).filter fun i => !i.bad
  let cur := if enabled s pGRN then cursorItem s port else none
  [(GRN.STAT.LOG_RO, bit (logRo s)), (GRN.LOG_STAT.UNFLUSHED, (unflushed s).length),
   (GRN.LOG_OLDEST.SEQ, (recs.head?.map LogItem.seq).getD 0), (GRN.LOG_NEWEST.SEQ, (recs.getLast?.map LogItem.seq).getD 0),
   (GRN.LOG_CUR.READY, bit cur.isSome), (GRN.LOG_CUR.END, bit cur.isNone), (GRN.LOG_CUR.BAD, bit (cur.any fun i => i.bad)),
   (GRN.LOG_CUR.STAGED, bit (cur.any fun i => i.staged))] ++
  (List.range 4).map fun k => (GRN.LOG_DATA.BYTES.at k, logData s port k)

def shownGlm (s : State) : Shown :=
  [(GLM.STAT.BURNING, bit !s.glm.burns.isEmpty), (GLM.STAT.TEST_PERMIT, bit (testPermit s)), (GLM.STAT.MEMTEST_PERMIT, bit (memPermit s)),
   (GLM.LC_STAT.STATE, lcState s), (GLM.LC_STAT.SEGMENTS, segments s), (GLM.LC_STAT.SEED_SLOT, seedSlot s), (GLM.DEVID.ID, deviceId s),
   (GLM.OTP_STAT.BURNING, bit (s.glm.burns.any fun b => b.use == .prog)), (GLM.ARB.VALUE, arbValue s),
   (GLM.KEY_LOAD.LOADED, bit s.kcc.devKey.isSome), (GLM.DBG_STAT.LEVEL, dbgLevel s), (GLM.DBG_STAT.VERIFYING, bit s.glm.verify.isSome)]

def shownTef (s : State) : Shown :=
  let fifo := (expRec s 11).fifo
  [(TEF.CELL_EN.MASK, bitsOf 16 (cellOn s)), (TEF.CELL_STAT.HEALTHY, bitsOf 16 fun c => cellOn s c && cellHealthy s c), (TEF.STAT.STARTUP, bit ((List.range 16).any fun c => cellOn s c && (cell s c).startup)), (TEF.POOL.HEALTHY, healthyCount s),
   (TEF.POOL.SEEDS_HELD, s.tef.seeds.length), (TEF.EXP_SUMMARY.SUPPLY, bitsOf 12 (expLive s)),
   (TEF.EXP_SUMMARY.STRETCHED, bitsOf 12 fun e => expState s e == 3), (TEF.SWP_STAT.AVAIL, fifo.length),
   (TEF.SWP_DATA.DATA, if fifo.length < 8 then 0 else leNat (fifo.take 8))] ++
  (List.range 12).map fun e => (TEF.EXP.STATE.at e, expState s e)

/-- The realm windows of the KCC page (R258, R259). -/
def shownKcc (s : State) : Shown :=
  let r := rd s (pg pKCC) KCC.REALM_SEL.REALM
  let keys := realmKeys s r
  let win := fun (f : Field) => (List.range 4).map fun n => (f.at n, rd s (rngB r) (f.at n))
  [(KCC.STAT.FILLS_BUSY, bit (decide (fillSlots s ≤ s.kcc.fills.length))), (KCC.STAT.HUSK_FULL, bit (decide (huskCap s ≤ s.kcc.husks.length))),
   (KCC.GEOM.SETS_LOG2, kccSetsLog s), (KCC.GEOM.WAYS_ON, kccWays s), (KCC.FILL_STAT.IN_FLIGHT, s.kcc.fills.length),
   (KCC.FILL_STAT.WAITING, countOf s.kcc.lookups fun l => l.wait == .fillSlot || l.wait == .way),
   (KCC.HUSK_STAT.USED, s.kcc.husks.length), (KCC.HUSK_STAT.CAPACITY, huskCap s), (KCC.REALM_KEYS.LOADED, bit keys.isSome),
   (KCC.REALM_KEYS.MODE, bit (keys.any fun k => k.stored)), (KCC.REALM_KEYS.COHERENT, bit (coherent s r)),
   (KCC.REALM_KEYS.HUSK_RECORDS, countOf s.kcc.husks fun h => h.2.realm == r),
   (KCC.LINES_VALID.COUNT, countOf s.kcc.lines fun l => match l.2.st with | .valid | .refused _ => true | _ => false),
   (KCC.LINES_PINNED.COUNT, countOf s.kcc.lines fun l => decide (0 < l.2.pins))] ++
  win KCC.RANGE_FIRST.FIRST ++ win KCC.RANGE_FIRST.EN ++ win KCC.RANGE_ATTR.KIND ++ win KCC.RANGE_ATTR.ALG ++ win KCC.RANGE_ATTR.SHARED ++
  win KCC.RANGE_ATTR.EXPORTABLE

/-- Chains that hold bins. -/
def binJobs (s : State) : Nat := countOf s.jobs fun p => decide (0 < p.2.bins)

def shownHld (s : State) : Shown :=
  [(HLD.STAT.BINS_EMPTY, bit (binsFree s == 0)), (HLD.STAT.SUSPEND_FULL, bit (decide (suspSlots ≤ s.susp.length))),
   (HLD.BIN_STAT.FREE, binsFree s), (HLD.BIN_STAT.JOBS, binJobs s), (HLD.SUSPEND_STAT.FREE, suspSlots - s.susp.length)]

def shownSnt (s : State) : Shown :=
  [(SNT.STAT.UNCALIBRATED, bit (rd s (pg pSNT) SNT.GAIN.GAIN == 90000 && rd s (pg pSNT) SNT.OFFSET.OFFSET == 0))]

def shownSpl (s : State) (i : Nat) : Shown :=
  let cs := (lane s i).ctxs
  [(SPL.CTX_STAT.USED, cs.length), (SPL.CTX_STAT.EXPRESS_USED, countOf cs fun c => c.express),
   (SPL.CTX_STAT.SUSPENDED, countOf s.susp fun c => c.lane == i)]

def shownEmr (s : State) (i : Nat) : Shown :=
  [(EMR.STAT.CTX_FULL, bit (emrFree s i false).isEmpty), (EMR.CTX_STAT.USED, emrCtxUsed s i),
   (EMR.CTX_STAT.EXPRESS_USED, countOf (emrEntries s i) fun e => e.1 == 0), (EMR.CTX_STAT.LATTICE_KECCAK, (latticeCores s.plan.running i).length)]

def shownSrg (s : State) (i : Nat) : Shown :=
  let st := fun (v : Nat) => bankState s (2 * i) == v || bankState s (2 * i + 1) == v
  [(SRG.STAT.RUNNING, bit (st bkRUNNING)), (SRG.STAT.RUN_BANK, bit (bankState s (2 * i + 1) == bkRUNNING)), (SRG.STAT.WIPING, bit (st bkWIPING))]

/-- What a spikelet's entry waits for (R152): 0 none, 1 bins, 2 gate, 3 planner, 4 key, 5 fragment read. -/
def spikeletWait (x : Job) (k : Nat) : Nat :=
  match x.phase, x.steps[k]? with
  | .bins, _ => 1
  | .keys, _ => 4
  | .run, some t =>
    if t.gate = .armed then 2 else if t.key = .waiting then 4 else if 0 < t.src.reads + t.src2.reads then 5
    else if t.st = .run ∧ t.asked.isSome then 3 else 0
  | _, _ => 0

/-- The step that a spikelet sequences: the lowest that has not ended. -/
def spikeletStep (x : Job) : Nat :=
  ((List.range x.steps.length).find? fun k => match x.steps[k]? with | some t => t.st != .ended | none => false).getD 0

/-- SPKL[n] of spike `i` (R152). -/
def shownSpikelet (s : State) (i n : Nat) : Shown :=
  let v : Nat × Nat × Nat × Nat := match job? s (16 * i + n) with
    | some x => let w := spikeletWait x (spikeletStep x); (if w = 0 then 1 else 2, spikeletStep x, w, x.sq)
    | none => (if spikeletBusy s i n then 3 else 0, 0, 0, 0)
  [(SPK.SPKL.STATE.at n, v.1), (SPK.SPKL.STEP.at n, v.2.1), (SPK.SPKL.WAIT.at n, v.2.2.1), (SPK.SPKL.SQ.at n, v.2.2.2)]

def shownSpk (s : State) (i : Nat) : Shown :=
  [(SPK.STAT.FREE, if !enabled s (pSPK i) then 0 else countOf (List.range 16) fun n => !spikeletBusy s i n && !(n == 15 && servesArray s i)),
   (SPK.ALLOC.BUSY, bitsOf 16 (spikeletBusy s i)), (SPK.ALLOC.EXPRESS_ONLY, 2 ^ rd s (pg (pSPK i)) SPK.CTL.EXPRESS_RSV - 1),
   (SPK.WINDOWS.IN_USE, countOf (List.range 16) fun n => (job? s (16 * i + n)).isSome)] ++
  (List.range 16).flatMap (shownSpikelet s i)

/-- The base of the selected forwarding entry and window of a link (R481). -/
def fwdBase (s : State) (l : Nat) : Nat := fwdB l (rd s (pg (pCLM l)) CLM.FWD_SEL.ENTRY) (rd s (pg (pCLM l)) CLM.FWD_SEL.WIN)

/-- The base of the selected forwarding entry, whose FWD_CFG does not depend on the window. -/
def fwdCfgBase (s : State) (l : Nat) : Nat := fwdB l (rd s (pg (pCLM l)) CLM.FWD_SEL.ENTRY) 0

def shownClm (s : State) (i : Nat) : Shown :=
  let c := (link s i).cred
  let w := fun (f : Field) => (f, rd s (fwdBase s i) f)
  let e := fun (f : Field) => (f, rd s (fwdCfgBase s i) f)
  [(CLM.CREDITS.VC0, c.getD 0 0), (CLM.CREDITS.VC1, c.getD 1 0), (CLM.CREDITS.VC2, c.getD 2 0), e CLM.FWD_CFG.SQ, e CLM.FWD_CFG.EN,
   w CLM.WIN_BASE_LO.BASE, w CLM.WIN_BASE_HI.BASE, w CLM.WIN_SIZE.LOG2, w CLM.WIN_SIZE.READ, w CLM.WIN_SIZE.WRITE]

def shownRch (s : State) : Shown :=
  let v := vec s (rd s (pg pRCH) RCH.VEC_SEL.VECTOR)
  [(RCH.SCAN_STAT.PENDING, countOf (liveSqs s) fun q => flag s (sqB q) SQ.STAT.SCAN_PENDING),
   (RCH.SCAN_STAT.EXPRESS_SQS, countOf (liveSqs s) fun q => flag s (sqB q) SQ.CFG.EXPRESS), (RCH.STASH_STAT.LINES, s.rch.stash.length),
   (RCH.VEC_ADDR_LO.ADDR, v.addr % 2 ^ 32 / 4), (RCH.VEC_ADDR_HI.ADDR, v.addr / 2 ^ 32), (RCH.VEC_DATA.DATA, v.data), (RCH.VEC_CTL.MASK, bit v.mask),
   (RCH.VEC_CTL.PENDING, bit v.pending), (RCH.VEC_CTL.INFLIGHT, bit v.inflight), (RCH.VEC_CTL.ERR, bit v.err)]

/-- Ports bound to a realm (R74). -/
def portsOf (s : State) (r : Nat) : Nat := countOf ((List.range 256).filter (portAccepted s)) fun p => portEn s p && portRealm s p == r

/-- The fields of a page or table entry that no register holds. PMU reads zero while it is not ENABLED, where R503 says so. -/
def shown (s : State) (port : Nat) (k : PageKind) (i : Nat) : Shown :=
  let hdr : Shown := [(HDR.ID.WORD, idWord s k i), (HDR.CAP.BITS, capBits s k i), (HDR.STAT.BUSY, bit (unitBusy s k i))]
  match k with
  | .sys => hdr ++ shownSys s
  | .ctl => hdr ++ shownCtl s
  | .tck => hdr ++ shownTck s
  | .chf => hdr ++ shownChf s
  | .grn => hdr ++ shownGrn s port
  | .glm => hdr ++ shownGlm s
  | .tef => hdr ++ shownTef s
  | .kcc => hdr ++ shownKcc s
  | .hld => hdr ++ shownHld s
  | .pmu => hdr
  | .snt => hdr ++ shownSnt s
  | .spl => hdr ++ shownSpl s i
  | .emr => hdr ++ shownEmr s i
  | .srg => hdr ++ shownSrg s i
  | .spk => hdr ++ shownSpk s i
  | .clm => hdr ++ shownClm s i
  | .rch => hdr ++ shownRch s
  | .sq => []
  | .gs => []
  | .cq => [(CQ.STAT.SQS, (sqsOfCq s i).length)]
  | .pt => [(PT.STAT.SQ_BOUND, (sqsOfPort s i).length), (PT.STAT.CQ_BOUND, (cqsOfPort s i).length)] ++ (if i = 0 then [(PT.CTL.EN, 1)] else [])
  | .rt => [(RT.STAT.SQ_COUNT, (sqsOfRealm s i).length), (RT.STAT.PORTS, portsOf s i), (RT.USE.BINS_USED, binsUsed s fun x => x.realm == i),
      (RT.USE.SUSPEND_USED, suspUsed s i)]
  | .pp => [(PP.ID.PORT, i), (PP.ID.REALM, portRealm s i), (PP.ID.EN, bit (portEn s i)), (PP.STAT.SQ_ENABLED, (sqsOfPort s i).length),
      (PP.STAT.SQ_HALTED, countOf (sqsOfPort s i) fun q => sqState s q == 2)]

/-! ### Words -/

/-- What a read shows of a field: zero for a write-only one (R55). -/
def fieldShown (s : State) (sh : Shown) (base : Nat) (g : Field) : Nat :=
  if g.ty = .wo then 0 else match sh.find? fun p => p.1 == g with
    | some p => p.2
    | none => rd s base g

/-- A 32-bit word put together from the fields that overlap it; what no field covers reads zero (R52). -/
def wordFrom (s : State) (sh : Shown) (base a : Nat) (fs : List Field) : Nat :=
  fs.foldl (fun n f => match f.hit base a with
    | some (g, wl, fl, w) => n + bitsAt (fieldShown s sh base g) fl w * 2 ^ wl
    | none => n) 0

/-- The fields of a first-error capture. -/
def fecFields : List Field :=
  [HDR.FEC_ADDR_LO.ADDR, HDR.FEC_ADDR_HI.ADDR, HDR.FEC_SRC.PORT, HDR.FEC_SRC.UNIT, HDR.FEC_SRC.ACCESS, HDR.FEC_SRC.VALID,
   HDR.FEC_TIME_LO.TICK, HDR.FEC_TIME_HI.TICK, HDR.FEC_MERGE.COUNT, HDR.FEC_MERGE.KINDS]

/-- Whether a PMU register belongs to the counters or the probe, which act only while PMU is ENABLED (R503). -/
def pmuGated (off : Nat) : Bool := decide ((0x40 ≤ off ∧ off < 0x88) ∨ 0x100 ≤ off)

/-- A word of RAW_DATA: the capture buffer's window in raw-sample mode, zero outside it (R347). -/
def rawData (s : State) (off : Nat) : Nat :=
  if flag s (pg pTEF) TEF.STAT.RAW then leNat (slice s.tef.capture (2048 * rd s (pg pTEF) TEF.RAW_WIN.WINDOW + off) 4) else 0

/-- A word of a unit page as `port` reads it. -/
def pageWord (s : State) (port p off : Nat) : Nat :=
  match pageKind p with
  | none => 0
  | some (k, i) =>
    if !pagePresent s p then 0
    else if k = .pmu && pmuGated off && ustate s pPMU != 2 then 0
    else if k = .tef ∧ 0x800 ≤ off then rawData s (off - 0x800)
    else if k = .chf ∧ 0x90 ≤ off ∧ off < 0x290 then wordFrom s [] (fecB ((off - 0x90) / 32)) (pg p + off) fecFields
    else wordFrom s (shown s port k i) (pg p) (pg p + off) (kindFields k)

/-- The word at an aperture offset as `port` reads it: absent pages and entries, doorbell pages and reserved ranges read zero. Through
the peek aperture, SWP_DATA reads zero (R66). -/
def wordAt (s : State) (port a : Nat) (peek : Bool) : Nat :=
  match placeOf a with
  | .page p off => if peek && p == pTEF && (off == 0x80 || off == 0x84) then 0 else pageWord s port p off
  | .entry k n off => if entryPresent s k n then wordFrom s (shown s port k n) (entryBase k n) (entryBase k n + off) (kindFields k) else 0
  | .bell _ _ | .peek _ | .hole => 0

end Sys2Proof.Machine
end

