-- ==== Sys2Proof/Machine/Bus.lean ====
section
/-! DEFINITION. Reads and writes of any aperture offset through the register target port (R33 to R36, R50 to R73): what a write to each
register does, and what a read does beside showing a value. -/

namespace Sys2Proof.Machine

/-! ### Writes to a unit page -/

/-- Whether a register is locked (R64). -/
def lockedReg (k : PageKind) (off : Nat) : Bool :=
  match k with
  | .chf => off == 0x78
  | .grn => off == 0x90
  | .glm => off == 0x48 || off == 0x58 || off == 0x64
  | .clm => off == 0x60
  | _ => false

/-- A RANGE register of the selected realm (R232, R259): written while that realm is ABSENT, and for a DERIVED realm 0 while no SQ of it is
enabled and the ranges stay in order. -/
def rangeFx (s : State) (src off v : Nat) : State :=
  let r := rd s (pg pKCC) KCC.REALM_SEL.REALM
  let t := storeWord s (rngB r) (rngB r + off) v true (src == 0)
    [KCC.RANGE_FIRST.FIRST, KCC.RANGE_FIRST.EN, KCC.RANGE_ATTR.KIND, KCC.RANGE_ATTR.ALG, KCC.RANGE_ATTR.SHARED, KCC.RANGE_ATTR.EXPORTABLE]
  if r = 0 then
    if realmStored s 0 || !(sqsOfRealm s 0).isEmpty then s
    else if rangesBad t 0 then writeIgnored s 8 0 src (pg pKCC + off) 0x0822
    else t
  else if rd s (rtB r) RT.STATE.STATE = 0 then t else s

/-- A KCC register; outside AQS-X no Seedbank is there to be given a size (R259). -/
def kccStore (s : State) (src off v : Nat) : State :=
  if 0xA0 ≤ off ∧ off < 0xC0 then rangeFx s src off v
  else if off = 0x50 && !s.part.isX then s
  else storePage s src pKCC off v

/-- A CHF register. -/
def chfStore (s : State) (src off v : Nat) : State :=
  if off = 0x68 then ruleValFx s src v
  else if off = 0x78 then releaseFx s v
  else if 0x90 ≤ off ∧ off < 0x290 then (if (off - 0x90) % 32 = 8 then fecSrcWrite s (fecB ((off - 0x90) / 32)) v else s)
  else storePage s src pCHF off v

/-- A GRN register. -/
def grnStore (s : State) (src off v : Nat) : State :=
  if off = 0x4C then wearFx s v
  else if off = 0x58 then logCfgFx s v
  else if off = 0x68 then logSeekFx s src v
  else if off = 0x90 then logClearFx s src v
  else if off = 0x94 then flushGoFx s v
  else storePage s src pGRN off v

/-- A GLM register. -/
def glmStore (s : State) (src off v : Nat) : State :=
  if off = 0x48 then lcReqFx s src v
  else if off = 0x58 then otpProgFx s src v
  else if off = 0x64 then arbReqFx s src v
  else if off = 0x68 then keyLoadReq s src v
  else if off = 0x80 then dbgCtlFx s src v
  else if 0x100 ≤ off ∧ off < 0x200 then tokenWrite s off v
  else storePage s src pGLM off v

/-- A TEF register. -/
def tefStore (s : State) (src off v : Nat) : State :=
  if off = 0x48 then cellClrFx s v
  else if off = 0x58 then reseedReqFx s v
  else if off = 0x90 then rawCtlFx s src v
  else storePage s src pTEF off v

/-- A CTL register: the watchdog is kicked on an internal path only (R449). -/
def ctlStore (s : State) (src off v : Nat) : State :=
  if off = 0x40 then cmdFx s src v
  else if off = 0x90 then confirmFx s src v
  else if off = 0xA4 then s
  else storePage s src pCTL off v

/-- A PMU register (R503): counters and probe only while PMU is ENABLED, the injectors only while they are permitted. -/
def pmuStore (s : State) (src off v : Nat) : State :=
  if off = 0x50 then probeCtlFx s src v
  else if off = 0x88 then poisonInjFx s src v
  else if off = 0x8C then chaffInjFx s src v
  else if off = 0x94 then memTestFx s src v
  else if (pmuGated off && ustate s pPMU != 2) || (off == 0x90 && !testPermit s) then pmuRefuse s src off 0x0A10
  else storePage s src pPMU off v

/-- An SPL register: STARVE_LIMIT stores 1 for 0 (R225). -/
def splStore (s : State) (src l off v : Nat) : State :=
  if off = 0x40 then
    let b := pg (pSPL l)
    wr (wr s b SPL.MASK_CFG.GRACE (bitsAt v 0 4)) b SPL.MASK_CFG.STARVE_LIMIT (max 1 (bitsAt v 8 8))
  else if off = 0x44 then checkCfgFx s l src v
  else storePage s src (pSPL l) off v

/-- A CLM register; a window changes only while its forwarding entry is off, and only to a size from 2^12 to 2^36 (R482). -/
def clmStore (s : State) (src l off v : Nat) : State :=
  if off = 0x60 then fenceFx s l v
  else if off = 0x64 then clmInjectFx s l src v
  else if off = 0x6C then fwdCfgFx s l src v
  else if off = 0x70 ∨ off = 0x74 ∨ off = 0x78 then
    if flag s (fwdCfgBase s l) CLM.FWD_CFG.EN || (off == 0x78 && !decide (12 ≤ v % 64 ∧ v % 64 ≤ 36)) then s
    else storeWord s (fwdBase s l) (fwdBase s l + off) v true true
      [CLM.WIN_BASE_LO.BASE, CLM.WIN_BASE_HI.BASE, CLM.WIN_SIZE.LOG2, CLM.WIN_SIZE.READ, CLM.WIN_SIZE.WRITE]
  else if 0x80 ≤ off ∧ off < 0xC0 then shrFx s l ((off - 0x80) / 4) v
  else storePage s src (pCLM l) off v

/-- A 32-bit write to a word of a present unit page, its unlock settled. -/
def pageFx (s : State) (src p off v : Nat) : State :=
  match pageKind p with
  | none => s
  | some (k, i) =>
    if off = 8 then ctlFx s src p v
    else if off = 0x14 then noteRise s (storePage s src p off v) p
    else if off = 0x18 then evtForceFx s src p v
    else if off = 0x28 then fecSrcWrite s (pg p) v
    else if off < 0x40 then storePage s src p off v
    else match k with
      | .chf => chfStore s src off v
      | .grn => grnStore s src off v
      | .glm => glmStore s src off v
      | .tef => tefStore s src off v
      | .kcc => kccStore s src off v
      | .ctl => ctlStore s src off v
      | .pmu => pmuStore s src off v
      | .snt => if off < 0x54 then sntCfgFx s off v else s
      | .spl => splStore s src i off v
      | .emr => if off = 0x48 then measSelFx s i v else storePage s src p off v
      | .clm => clmStore s src i off v
      | .rch => rchStore s src off v
      | .tck => if off = 0x44 then overrideFx s src v else storePage s src p off v
      | _ => storePage s src p off v

/-- A 32-bit write to a word of a unit page: UNLOCK arms, a locked register needs it, and any other write cancels it (R64). -/
def pageWord32 (s : State) (src p off v : Nat) : State :=
  onPage s p fun st =>
    if hasUnlock p && off == 0x40 then unlockWrite st p src v
    else if (match pageKind p with | some (k, _) => lockedReg k off | none => false) then lockedWrite st p off src fun u => pageFx u src p off v
    else pageFx (cancelUnlock st p src (pg p + off)) src p off v

/-! ### Writes to a table entry -/

/-- A 32-bit write to a word of a table entry. -/
def entryFx (s : State) (src : Nat) (k : PageKind) (n off v : Nat) : State :=
  match k with
  | .sq => sqStore s src n off v
  | .cq => cqStore s src n off v
  | .rt => rtStore s src n off v
  | .pt => if off = 0 then ptCtlFx s src n v else if off = 8 then ptMsiFx s n v else ptStore s src n off v
  | .gs => if off = 0xC then grantFx s n v src else if off < 8 then gsPostFx s false n v src else s
  | .pp => ppStore s src n off v
  | _ => s

/-- A 32-bit write to an aperture offset. -/
def word32 (s : State) (src a v : Nat) : State :=
  match placeOf a with
  | .page p off => pageWord32 s src p off v
  | .entry k n off => if entryPresent s k n then entryFx s src k n off v else s
  | .bell _ _ | .peek _ | .hole => s

/-- A write access of either size (R34, R51): a doorbell and a post are one write; otherwise each half writes its word. -/
def writeFx (s : State) (a : Acc) (v : Nat) : State :=
  match placeOf a.addr with
  | .bell p k => doorbellFx s p k
  | .entry .gs n 0 => if a.wide && entryPresent s .gs n then gsPostFx s true n v a.src else word32 s a.src a.addr v
  | _ =>
    let s1 := word32 s a.src a.addr (v % 2 ^ 32)
    if a.wide then word32 s1 a.src (a.addr + 4) (v / 2 ^ 32) else s1

/-! ### Reads -/

/-- What a read of a register does beside showing it (R55, R66): RC fields are cleared or reloaded, a notice is acknowledged, the FIFO is
popped, and the log cursor moves on. -/
def readFx (s : State) (src a : Nat) : State :=
  match placeOf a with
  | .page p off =>
    if p = pHLD ∧ off = 0x48 then wr s (pg pHLD) HLD.BIN_LOW.LOW (binsFree s)
    else if p = pHLD ∧ off = 0x4C then wr s (pg pHLD) HLD.SUSPEND_LOW.LOW (suspSlots - s.susp.length)
    else if p = pSNT ∧ off = 0x5C then wr s (pg pSNT) SNT.MIN.MV SNT.MIN.MV.rst
    else if p = pSNT ∧ off = 0x60 then wr s (pg pSNT) SNT.MAX.MV SNT.MAX.MV.rst
    else if p = pCTL ∧ off = 0xA8 then { s with cp := { s.cp with notices := s.cp.notices.drop 1 } }
    else if p = pTEF ∧ (off = 0x80 ∨ off = 0x84) then (swpRead s).1
    else if p = pGRN ∧ (off = 0x88 ∨ off = 0x8C) then advanceCursor s src
    else s
  | _ => s

/-- The effects of a read access: of each register read once, both halves of a 64-bit register being one. -/
def readsFx (s : State) (a : Acc) : State :=
  let s1 := readFx s a.src a.addr
  if a.wide && !(placeOf a.addr == .page pTEF 0x80 || placeOf a.addr == .page pGRN 0x88) then readFx s1 a.src (a.addr + 4) else s1

/-- The value of a read access (R33, R51). -/
def readValue (s : State) (port a : Nat) (wide peek : Bool) : Nat :=
  wordAt s port a peek + (if wide then wordAt s port (a + 4) peek * 2 ^ 32 else 0)

/-- A peek counts as a PMU event where the grant asks for it (R67, R507). -/
def countPeek (s : State) (b : Nat) : State :=
  match placeOf b with
  | .page p _ => if flag s (pg pGLM) GLM.DBG_STAT.COUNT_PEEK then pmu s 0x14 p 1 else s
  | _ => s

/-- Run a read access: not accepted in reset; in the reset drain only SYS.STAT can be read; refused without the right (R21, R35). -/
def tqRead (s : State) (a : Acc) : State :=
  match s.phase with
  | .cold | .warm => s
  | .drain | .restart =>
    if a.addr = 0xC && !a.wide && wordRight s a.src 0xC false then respond s a.id (wordAt s a.src 0xC false) 0 else respond s a.id 0 2
  | .run =>
    if !permitted s a false then deny s a false
    else match placeOf a.addr with
      | .peek b => respond (countPeek s b) a.id (readValue s 0 b a.wide true) 0
      | _ => respond (readsFx (countAccess s a) a) a.id (readValue s a.src a.addr a.wide false) 0

/-! ### The commands -/

/-- The word that TQ_ADDR names. -/
def wordOfs (a : BitVec 25) : Nat := a.toNat / 4 * 4

/-- REG_WRITE. -/
def execRegWrite (src id : BitVec 8) (wide : Bool) (addr : BitVec 25) (data : BitVec 64) (s : State) : Out :=
  let a : Acc := { src := src.toNat, id := id.toNat, wide, addr := wordOfs addr }
  .next (tqWrite s a fun st => writeFx st a (if wide then data.toNat else data.toNat % 2 ^ 32))

/-- RC_REGISTER_READ: a read of any offset. -/
def execRcRegisterRead (src id : BitVec 8) (wide : Bool) (addr : BitVec 25) (s : State) : Out :=
  .next (tqRead s { src := src.toNat, id := id.toNat, wide, addr := wordOfs addr })

/-- PEEK_READ (R66): a read of the mirror of an offset. -/
def execPeekRead (src id : BitVec 8) (wide : Bool) (addr : BitVec 25) (s : State) : Out :=
  .next (tqRead s { src := src.toNat, id := id.toNat, wide, addr := 0x400000 + wordOfs addr % 0x400000 })

/-- SWP_DATA_READ (R352). -/
def execSwpDataRead (src id : BitVec 8) (s : State) : Out :=
  .next (tqRead s { src := src.toNat, id := id.toNat, wide := true, addr := pg pTEF + 0x80 })

/-- NOTICE_READ (R449). -/
def execNoticeRead (src id : BitVec 8) (s : State) : Out :=
  .next (tqRead s { src := src.toNat, id := id.toNat, wide := false, addr := pg pCTL + 0xA8 })

/-- LOG_DATA_READ (R398): LOG_DATA[3]. -/
def execLogDataRead (src id : BitVec 8) (s : State) : Out :=
  .next (tqRead s { src := src.toNat, id := id.toNat, wide := true, addr := pg pGRN + 0x88 })

/-- UNLOCK (R64): a write at offset 0x040 of a page; on a page without the register, a write of what lies there. -/
def execUnlock (src id page : BitVec 8) (value : BitVec 32) (s : State) : Out :=
  .next (tqWrite s { src := src.toNat, id := id.toNat, wide := false, addr := pg page.toNat + 0x40 } fun st =>
    pageWord32 st src.toNat page.toNat 0x40 value.toNat)

end Sys2Proof.Machine
end

