-- ==== Sys2Proof/Machine/Dispatch.lean ====
section
/-! DEFINITION. The dispatch: one arm per command, in the table's order; each arm is one call of the command's meaning. -/

namespace Sys2Proof.Machine

/-- The effect of a command on everything but the queue. -/
def exec (i : Instr) (s : State) : Host.Outcome State Fault Refusal :=
  match i with
  | .porstNAssert => Sys2Proof.Machine.execPorstNAssert s
  | .porstNDeassert strap => Sys2Proof.Machine.execPorstNDeassert strap s
  | .srstNAssert => Sys2Proof.Machine.execSrstNAssert s
  | .rstDrainDone => Sys2Proof.Machine.execRstDrainDone s
  | .srstNDeassert => Sys2Proof.Machine.execSrstNDeassert s
  | .supplyLoss => Sys2Proof.Machine.execSupplyLoss s
  | .clkRatio edges => Sys2Proof.Machine.execClkRatio edges s
  | .readBeat port tag beat data err poison => Sys2Proof.Machine.execReadBeat port tag beat data err poison s
  | .writeResponse port tag err => Sys2Proof.Machine.execWriteResponse port tag err s
  | .creditReturn port req wd => Sys2Proof.Machine.execCreditReturn port req wd s
  | .fabricTimeout port isWrite tag => Sys2Proof.Machine.execFabricTimeout port isWrite tag s
  | .regWrite src id wide addr data => Sys2Proof.Machine.execRegWrite src id wide addr data s
  | .peekRead src id wide addr => Sys2Proof.Machine.execPeekRead src id wide addr s
  | .rcRegisterRead src id wide addr => Sys2Proof.Machine.execRcRegisterRead src id wide addr s
  | .swpDataRead src id => Sys2Proof.Machine.execSwpDataRead src id s
  | .noticeRead src id => Sys2Proof.Machine.execNoticeRead src id s
  | .logDataRead src id => Sys2Proof.Machine.execLogDataRead src id s
  | .doorbell src id wide page slot => Sys2Proof.Machine.execDoorbell src id wide page slot s
  | .stashCopy line data be port => Sys2Proof.Machine.execStashCopy line data be port s
  | .stashInval line => Sys2Proof.Machine.execStashInval line s
  | .sntSample code => Sys2Proof.Machine.execSntSample code s
  | .sntStale => Sys2Proof.Machine.execSntStale s
  | .pfFlushDone => Sys2Proof.Machine.execPfFlushDone s
  | .unitEnable src id page ctl => Sys2Proof.Machine.execUnitEnable src id page ctl s
  | .unitEnableDone page katFail => Sys2Proof.Machine.execUnitEnableDone page katFail s
  | .unitDisable src id page ctl => Sys2Proof.Machine.execUnitDisable src id page ctl s
  | .unitDisableDone page => Sys2Proof.Machine.execUnitDisableDone page s
  | .evtForce src id page bits => Sys2Proof.Machine.execEvtForce src id page bits s
  | .fecClear src id addr => Sys2Proof.Machine.execFecClear src id addr s
  | .unlock src id page value => Sys2Proof.Machine.execUnlock src id page value s
  | .unlockExpire page => Sys2Proof.Machine.execUnlockExpire page s
  | .ppDbMapWrite src id port slot value => Sys2Proof.Machine.execPpDbMapWrite src id port slot value s
  | .ptCtlWrite src id port value => Sys2Proof.Machine.execPtCtlWrite src id port value s
  | .ptMsiWrite src id port value => Sys2Proof.Machine.execPtMsiWrite src id port value s
  | .sqEnable src id sq ctl => Sys2Proof.Machine.execSqEnable src id sq ctl s
  | .sqDisable src id sq ctl => Sys2Proof.Machine.execSqDisable src id sq ctl s
  | .sqDrainDone sq => Sys2Proof.Machine.execSqDrainDone sq s
  | .sqResume src id sq ctl => Sys2Proof.Machine.execSqResume src id sq ctl s
  | .cqEnable src id cq ctl => Sys2Proof.Machine.execCqEnable src id cq ctl s
  | .cqDisable src id cq ctl => Sys2Proof.Machine.execCqDisable src id cq ctl s
  | .vecCtlWrite src id value => Sys2Proof.Machine.execVecCtlWrite src id value s
  | .stwSizeWrite src id n value => Sys2Proof.Machine.execStwSizeWrite src id n value s
  | .scanVisit => Sys2Proof.Machine.execScanVisit s
  | .entryDispatch => Sys2Proof.Machine.execEntryDispatch s
  | .binsReserved => Sys2Proof.Machine.execBinsReserved s
  | .kccFillDone fill => Sys2Proof.Machine.execKccFillDone fill s
  | .keyRefused n => Sys2Proof.Machine.execKeyRefused n s
  | .nop job step => Sys2Proof.Machine.execNop job step s
  | .gate job step => Sys2Proof.Machine.execGate job step s
  | .move job step => Sys2Proof.Machine.execMove job step s
  | .fill job step => Sys2Proof.Machine.execFill job step s
  | .compare job step => Sys2Proof.Machine.execCompare job step s
  | .ecb job step checks skipped => Sys2Proof.Machine.execEcb job step checks skipped s
  | .cbc job step checks skipped => Sys2Proof.Machine.execCbc job step checks skipped s
  | .ctr job step checks skipped => Sys2Proof.Machine.execCtr job step checks skipped s
  | .xts job step checks skipped => Sys2Proof.Machine.execXts job step checks skipped s
  | .gcm job step checks skipped => Sys2Proof.Machine.execGcm job step checks skipped s
  | .gmac job step checks skipped => Sys2Proof.Machine.execGmac job step checks skipped s
  | .ccm job step checks skipped => Sys2Proof.Machine.execCcm job step checks skipped s
  | .gcmSiv job step checks skipped => Sys2Proof.Machine.execGcmSiv job step checks skipped s
  | .cmac job step checks skipped => Sys2Proof.Machine.execCmac job step checks skipped s
  | .kw job step checks skipped => Sys2Proof.Machine.execKw job step checks skipped s
  | .kwp job step checks skipped => Sys2Proof.Machine.execKwp job step checks skipped s
  | .sha256 job step => Sys2Proof.Machine.execSha256 job step s
  | .sha224 job step => Sys2Proof.Machine.execSha224 job step s
  | .sha384 job step => Sys2Proof.Machine.execSha384 job step s
  | .sha512 job step => Sys2Proof.Machine.execSha512 job step s
  | .sha3x256 job step => Sys2Proof.Machine.execSha3x256 job step s
  | .sha3x384 job step => Sys2Proof.Machine.execSha3x384 job step s
  | .sha3x512 job step => Sys2Proof.Machine.execSha3x512 job step s
  | .shake128 job step => Sys2Proof.Machine.execShake128 job step s
  | .shake256 job step => Sys2Proof.Machine.execShake256 job step s
  | .hmacSha256 job step => Sys2Proof.Machine.execHmacSha256 job step s
  | .hmacSha384 job step => Sys2Proof.Machine.execHmacSha384 job step s
  | .hmacSha512 job step => Sys2Proof.Machine.execHmacSha512 job step s
  | .measureExtend job step => Sys2Proof.Machine.execMeasureExtend job step s
  | .srgMac job step => Sys2Proof.Machine.execSrgMac job step s
  | .modexp job step => Sys2Proof.Machine.execModexp job step s
  | .rsaCrt job step => Sys2Proof.Machine.execRsaCrt job step s
  | .ecdsaSign job step => Sys2Proof.Machine.execEcdsaSign job step s
  | .ecdsaVerify job step => Sys2Proof.Machine.execEcdsaVerify job step s
  | .ecdh job step => Sys2Proof.Machine.execEcdh job step s
  | .eddsaSign job step => Sys2Proof.Machine.execEddsaSign job step s
  | .eddsaVerify job step => Sys2Proof.Machine.execEddsaVerify job step s
  | .x25519 job step => Sys2Proof.Machine.execX25519 job step s
  | .mlkemEncaps job step => Sys2Proof.Machine.execMlkemEncaps job step s
  | .mlkemDecaps job step => Sys2Proof.Machine.execMlkemDecaps job step s
  | .mlkemKeygen job step => Sys2Proof.Machine.execMlkemKeygen job step s
  | .mldsaSign job step => Sys2Proof.Machine.execMldsaSign job step s
  | .mldsaVerify job step => Sys2Proof.Machine.execMldsaVerify job step s
  | .nttRaw job step => Sys2Proof.Machine.execNttRaw job step s
  | .rngGenerate job step => Sys2Proof.Machine.execRngGenerate job step s
  | .rngReseed job step => Sys2Proof.Machine.execRngReseed job step s
  | .keyDeriveInstall job step => Sys2Proof.Machine.execKeyDeriveInstall job step s
  | .keyUnwrapInstall job step => Sys2Proof.Machine.execKeyUnwrapInstall job step s
  | .keyWrapExport job step => Sys2Proof.Machine.execKeyWrapExport job step s
  | .keyRevoke job step => Sys2Proof.Machine.execKeyRevoke job step s
  | .hmacPrestate job step => Sys2Proof.Machine.execHmacPrestate job step s
  | .keyGenerateInstall job step => Sys2Proof.Machine.execKeyGenerateInstall job step s
  | .keyStatus job step => Sys2Proof.Machine.execKeyStatus job step s
  | .revokeCommit slot => Sys2Proof.Machine.execRevokeCommit slot s
  | .stepEnd job step => Sys2Proof.Machine.execStepEnd job step s
  | .completionWrite => Sys2Proof.Machine.execCompletionWrite s
  | .sqReturn sq => Sys2Proof.Machine.execSqReturn sq s
  | .heldRelease job step => Sys2Proof.Machine.execHeldRelease job step s
  | .inverseCheckDone job step mismatch => Sys2Proof.Machine.execInverseCheckDone job step mismatch s
  | .splInjectWrite src id lane value => Sys2Proof.Machine.execSplInjectWrite src id lane value s
  | .suspendMove job step lane => Sys2Proof.Machine.execSuspendMove job step lane s
  | .starveLimitExpire job step => Sys2Proof.Machine.execStarveLimitExpire job step s
  | .holdEccUncorr job step => Sys2Proof.Machine.execHoldEccUncorr job step s
  | .coreParityError group core => Sys2Proof.Machine.execCoreParityError group core s
  | .measBroken reg => Sys2Proof.Machine.execMeasBroken reg s
  | .measSelWrite src id group value => Sys2Proof.Machine.execMeasSelWrite src id group value s
  | .bankBind job step => Sys2Proof.Machine.execBankBind job step s
  | .bankLoaded array bank => Sys2Proof.Machine.execBankLoaded array bank s
  | .bankWipeDone array bank nonzero => Sys2Proof.Machine.execBankWipeDone array bank nonzero s
  | .bankEccError array bank => Sys2Proof.Machine.execBankEccError array bank s
  | .tickBoundary => Sys2Proof.Machine.execTickBoundary s
  | .planBuild s0 s1 s2 s3 s4 s5 s6 s7 => Sys2Proof.Machine.execPlanBuild s0 s1 s2 s3 s4 s5 s6 s7 s
  | .gateTimeout gate => Sys2Proof.Machine.execGateTimeout gate s
  | .overrideMwWrite src id value => Sys2Proof.Machine.execOverrideMwWrite src id value s
  | .profileSwitchApply => Sys2Proof.Machine.execProfileSwitchApply s
  | .gsPost src id wide gate value => Sys2Proof.Machine.execGsPost src id wide gate value s
  | .gsGrantWrite src id gate value => Sys2Proof.Machine.execGsGrantWrite src id gate value s
  | .healthWindowEnd cell samples => Sys2Proof.Machine.execHealthWindowEnd cell samples s
  | .seedFormed katFail => Sys2Proof.Machine.execSeedFormed katFail s
  | .reseedReqWrite src id value => Sys2Proof.Machine.execReseedReqWrite src id value s
  | .cellClrWrite src id value => Sys2Proof.Machine.execCellClrWrite src id value s
  | .rawEnter src id value => Sys2Proof.Machine.execRawEnter src id value s
  | .rawExit src id value => Sys2Proof.Machine.execRawExit src id value s
  | .capture src id value => Sys2Proof.Machine.execCapture src id value s
  | .captureDone data => Sys2Proof.Machine.execCaptureDone data s
  | .chaffClassify corrupt kind => Sys2Proof.Machine.execChaffClassify corrupt kind s
  | .zeroizeDone => Sys2Proof.Machine.execZeroizeDone s
  | .release src id value => Sys2Proof.Machine.execRelease src id value s
  | .ruleValWrite src id value => Sys2Proof.Machine.execRuleValWrite src id value s
  | .programAttemptDone bank verified => Sys2Proof.Machine.execProgramAttemptDone bank verified s
  | .logFlush => Sys2Proof.Machine.execLogFlush s
  | .flushAgeExpire => Sys2Proof.Machine.execFlushAgeExpire s
  | .flushDone => Sys2Proof.Machine.execFlushDone s
  | .flush src id value => Sys2Proof.Machine.execFlush src id value s
  | .clockCheckpoint => Sys2Proof.Machine.execClockCheckpoint s
  | .granaryScanDone => Sys2Proof.Machine.execGranaryScanDone s
  | .logSeek src id value => Sys2Proof.Machine.execLogSeek src id value s
  | .logClear src id value => Sys2Proof.Machine.execLogClear src id value s
  | .logClearDone => Sys2Proof.Machine.execLogClearDone s
  | .glumeStartupDone => Sys2Proof.Machine.execGlumeStartupDone s
  | .lcReq src id value => Sys2Proof.Machine.execLcReq src id value s
  | .lcTransitionDone => Sys2Proof.Machine.execLcTransitionDone s
  | .otpProg src id value => Sys2Proof.Machine.execOtpProg src id value s
  | .otpBurnDone ok => Sys2Proof.Machine.execOtpBurnDone ok s
  | .arbReq src id value => Sys2Proof.Machine.execArbReq src id value s
  | .keyLoad src id value => Sys2Proof.Machine.execKeyLoad src id value s
  | .challenge src id value => Sys2Proof.Machine.execChallenge src id value s
  | .submit src id value => Sys2Proof.Machine.execSubmit src id value s
  | .tokenVerifyDone => Sys2Proof.Machine.execTokenVerifyDone s
  | .endGrant src id value => Sys2Proof.Machine.execEndGrant src id value s
  | .grantExpire => Sys2Proof.Machine.execGrantExpire s
  | .halt src id value => Sys2Proof.Machine.execHalt src id value s
  | .bootRomStart => Sys2Proof.Machine.execBootRomStart s
  | .cpBaselineRow => Sys2Proof.Machine.execCpBaselineRow s
  | .baselineWaitTimeout => Sys2Proof.Machine.execBaselineWaitTimeout s
  | .fwInstall src id host => Sys2Proof.Machine.execFwInstall src id host s
  | .fwActivate src id => Sys2Proof.Machine.execFwActivate src id s
  | .fwStatus src id => Sys2Proof.Machine.execFwStatus src id s
  | .profileSwitch src id => Sys2Proof.Machine.execProfileSwitch src id s
  | .profileStore src id host => Sys2Proof.Machine.execProfileStore src id host s
  | .settingsWrite src id host => Sys2Proof.Machine.execSettingsWrite src id host s
  | .realmCreate src id => Sys2Proof.Machine.execRealmCreate src id s
  | .realmDestroy src id => Sys2Proof.Machine.execRealmDestroy src id s
  | .sealOperand src id host => Sys2Proof.Machine.execSealOperand src id host s
  | .logExport src id => Sys2Proof.Machine.execLogExport src id s
  | .fwConfirm src id value => Sys2Proof.Machine.execFwConfirm src id value s
  | .confirmWindowExpire => Sys2Proof.Machine.execConfirmWindowExpire s
  | .wdogExpire => Sys2Proof.Machine.execWdogExpire s
  | .flitReceive link flit => Sys2Proof.Machine.execFlitReceive link flit s
  | .replayTimeout link => Sys2Proof.Machine.execReplayTimeout link s
  | .train link flit => Sys2Proof.Machine.execTrain link flit s
  | .nak link seq => Sys2Proof.Machine.execNak link seq s
  | .credit link c0 c1 c2 => Sys2Proof.Machine.execCredit link c0 c1 c2 s
  | .idle link c0 c1 c2 => Sys2Proof.Machine.execIdle link c0 c1 c2 s
  | .linkPhyUp link => Sys2Proof.Machine.execLinkPhyUp link s
  | .linkPhyDown link => Sys2Proof.Machine.execLinkPhyDown link s
  | .hbSend link => Sys2Proof.Machine.execHbSend link s
  | .hbMiss link => Sys2Proof.Machine.execHbMiss link s
  | .lostRetrain link => Sys2Proof.Machine.execLostRetrain link s
  | .job link => Sys2Proof.Machine.execJob link s
  | .abort link => Sys2Proof.Machine.execAbort link s
  | .wread link => Sys2Proof.Machine.execWread link s
  | .wwrite link => Sys2Proof.Machine.execWwrite link s
  | .rdata link => Sys2Proof.Machine.execRdata link s
  | .wack link => Sys2Proof.Machine.execWack link s
  | .done link => Sys2Proof.Machine.execDone link s
  | .refused link => Sys2Proof.Machine.execRefused link s
  | .prepare link => Sys2Proof.Machine.execPrepare link s
  | .pack link => Sys2Proof.Machine.execPack link s
  | .commit link => Sys2Proof.Machine.execCommit link s
  | .cancel link => Sys2Proof.Machine.execCancel link s
  | .cack link => Sys2Proof.Machine.execCack link s
  | .revoke link => Sys2Proof.Machine.execRevoke link s
  | .rack link => Sys2Proof.Machine.execRack link s
  | .outcomeQ link => Sys2Proof.Machine.execOutcomeQ link s
  | .outcome link => Sys2Proof.Machine.execOutcome link s
  | .keyPull link => Sys2Proof.Machine.execKeyPull link s
  | .pullData link => Sys2Proof.Machine.execPullData link s
  | .hello link => Sys2Proof.Machine.execHello link s
  | .hb link => Sys2Proof.Machine.execHb link s
  | .realmSync link => Sys2Proof.Machine.execRealmSync link s
  | .mirror link => Sys2Proof.Machine.execMirror link s
  | .leave link => Sys2Proof.Machine.execLeave link s
  | .clmFenceWrite src id link value => Sys2Proof.Machine.execClmFenceWrite src id link value s
  | .yield src id link n value => Sys2Proof.Machine.execYield src id link n value s
  | .fwdCfgWrite src id link value => Sys2Proof.Machine.execFwdCfgWrite src id link value s
  | .clmInjectWrite src id link value => Sys2Proof.Machine.execClmInjectWrite src id link value s
  | .probeCtlWrite src id value => Sys2Proof.Machine.execProbeCtlWrite src id value s
  | .chaffInj src id value => Sys2Proof.Machine.execChaffInj src id value s
  | .poisonInjWrite src id value => Sys2Proof.Machine.execPoisonInjWrite src id value s
  | .memtest src id value => Sys2Proof.Machine.execMemtest src id value s
  | .memtestDone firstFail fails => Sys2Proof.Machine.execMemtestDone firstFail fails s
  | .opSecondsAdvance => Sys2Proof.Machine.execOpSecondsAdvance s
  | .wdogKick => Sys2Proof.Machine.execWdogKick s
  | .pmuCyclesWrap => Sys2Proof.Machine.execPmuCyclesWrap s
  | .eccCorrected unit member => Sys2Proof.Machine.execEccCorrected unit member s
  | .memoryEccUncorr unit member detail => Sys2Proof.Machine.execMemoryEccUncorr unit member detail s
  | .chfSelfCheck => Sys2Proof.Machine.execChfSelfCheck s
  | .booksImbalance unit member => Sys2Proof.Machine.execBooksImbalance unit member s

end Sys2Proof.Machine
end

