-- ==== Sys2Proof/Safety.lean ====
section
/-! DEFINITION. What counts as a safe run, the canonical form of the block's tables, and the words in which statements say what an
access may touch and what it leaves alone. -/

namespace Sys2Proof

/-- A step answers a next state. -/
def StepsTo (s t : Machine.State) : Prop := Machine.step s = .next t

/-- States reached from `s` by steps that all answer a next state. -/
inductive Reaches : Machine.State → Machine.State → Prop where
  | refl (s : Machine.State) : Reaches s s
  | tail {s t u : Machine.State} : Reaches s t → StepsTo t u → Reaches s u

/-- A state in which the next step does not stop. -/
def Safe (s : Machine.State) : Prop := ∃ t, StepsTo s t

namespace Machine

/-! ### Canonical tables -/

/-- The canonical form of the Granary's medium: rows strictly rising, and no row listed that reads as erased. -/
abbrev RowsOk (m : SMap Row) : Prop := SMap.Wf m ∧ ∀ p ∈ m, p.2 ≠ erasedRow

/-- The tables that hold the registers, the medium and the OTP words are in canonical form. -/
abbrev Canonical (s : State) : Prop := SMap.Wf s.regs ∧ RowsOk s.grn.rows ∧ SMap.Wf s.glm.otp

/-! ### Frames -/

/-- Registers whose keys do not satisfy `ks` are as before. -/
def KeepRegs (s t : State) (ks : Nat → Prop) : Prop := ∀ k, ¬ ks k → SMap.get? t.regs k = SMap.get? s.regs k

/-- The keys that PMU counting may touch (R506 to R508): the counters, OVF, PMU.EVT, and CHF.EVT through a rising SUMMARY bit (R372). -/
def countKeys : List Nat :=
  ((List.range 16).map fun n => fkey (pg pPMU) (PMU.CNT.COUNT.at n)) ++
    [fkey (pg pPMU) PMU.OVF.CNT, fkey (pg pPMU) HDR.EVT.BITS, fkey (pg pCHF) HDR.EVT.BITS]

/-- The keys that an accepted write to page `p` may touch beside what it writes: PMU counts, and an unlock of the page that it
cancels (R64). -/
def accessKeys (p : Nat) : List Nat :=
  countKeys ++ [fkey (pg p) HDR.UNLOCK.STATE, fkey (pg p) HDR.UNLOCK.EXPIRED]

/-- A 32-bit write by port `src` to offset `off` of page `p` is accepted, permitted, and reaches a present unit (R3, R33, R35). -/
abbrev CanWrite (s : State) (src p off : Nat) : Prop :=
  s.phase = .run ∧ permitted s { src, id := 0, wide := false, addr := pg p + off } true = true ∧ pagePresent s p = true

/-- The same for a word of a table entry. -/
abbrev CanWriteEntry (s : State) (src : Nat) (k : PageKind) (n off : Nat) : Prop :=
  s.phase = .run ∧ permitted s { src, id := 0, wide := false, addr := entryBase k n + off } true = true ∧ entryPresent s k n = true

/-- The response OK to a write with tag `id` (R33). -/
def okTo (id : BitVec 8) : TpResp := { id := id.toNat, data := 0, err := 0 }

/-- The key of a register field in the word at address `a`. -/
def InWord (a k : Nat) : Prop := k / 64 = a

/-- What happens to a message that a unit sends (R356): it goes on the bus against a credit; without one it is held, and a fault that
finds one held counts as merged with it. -/
def Tells (s t : State) (m : ChaffMsg) : Prop :=
  let k := srcKey m.unit m.member
  let r := srcOf s k
  (0 < r.credits → t.chaff.bus = s.chaff.bus ++ [m] ∧ srcOf t k = { r with credits := r.credits - 1 }) ∧
  (r.credits = 0 → t.chaff.bus = s.chaff.bus) ∧
  (r.credits = 0 → r.hold = none → srcOf t k = { r with hold := some m, merged := 0 }) ∧
  (r.credits = 0 → r.hold ≠ none → srcOf t k = { r with merged := min (r.merged + 1) 0xFFFF }) ∧
  ∀ j, j ≠ k → srcOf t j = srcOf s j

/-- A message of a fault outside the fabric and the register port, its DETAIL left open by the rules. -/
def faultMsg (unit member kind : Nat) : ChaffMsg := { unit, member, kind, access := 0, port := 0, addr := 0, detail := anyDetail kind }

/-- An access changed nothing beside registers, the collector, the response, and unlocks. -/
def AccessOnly (s t : State) : Prop := t = { s with regs := t.regs, chaff := t.chaff, tp := t.tp, unlocks := t.unlocks }

/-! ### The control processor -/

/-- A fabric request that serves `who` waits or is outstanding. -/
def Asks (t : State) (who : Who) : Prop :=
  (∃ r ∈ t.fab.reads, r.who = who) ∨ (∃ w ∈ t.fab.writes, w.who = who) ∨
    ∃ r ∈ t.fab.waiting, (match r with | .rd x => x.who | .wr x => x.who) = who

/-- The control processor has no task, no confirm and no page under way, and no life-cycle transition runs. -/
abbrev Quiet (s : State) : Prop :=
  s.cp.task = { rows := [], next := .none } ∧ SMap.get? s.cp.fails 0 = none ∧ s.cp.confirmDue = false ∧ s.cp.cycle = [] ∧ s.glm.trans = none

/-- The control processor serves commands and has nothing under way. -/
abbrev CpFree (s : State) : Prop :=
  cpServes s = true ∧ cpIdle s = true ∧ cpWrites s = false ∧ s.plan.swOrder = none ∧ SMap.Wf s.cp.fails ∧ SMap.get? s.cp.fails 0 = none ∧
  s.cp.confirmDue = false ∧ s.cp.cycle = []

/-- Port `src` gives command `code` to a control processor that is free, in a mode and a life-cycle state that allow every command. -/
abbrev CanCommand (s : State) (src : Nat) : Prop :=
  CanWrite s src pCTL 0x40 ∧ CpFree s ∧ flag s (pg pCTL) CTL.CMD_STAT.BUSY = false ∧ locked s = false ∧ lcState s ≠ 5 ∧
  flag s (pg pCTL) CTL.STAT.SERVICE = false ∧ flag s (pg pCTL) CTL.STAT.RECOVERY = false ∧ s.cp.host = none

/-- A command of code `code` was counted and has ended with a reason code. -/
def CmdEnded (s t : State) (code reason : Nat) : Prop :=
  let b := pg pCTL
  rd t b CTL.CMD_STAT.LAST_CODE = code ∧ flag t b CTL.CMD_STAT.BUSY = false ∧ rd t b CTL.RESULT.REASON = reason ∧
  bitAt (rd t b HDR.EVT.BITS) CTL.EVT.CMD_DONE = true ∧
  rd t b CTL.COMMANDS.COUNT = min (rd s b CTL.COMMANDS.COUNT + 1) (2 ^ CTL.COMMANDS.COUNT.w - 1)

/-- A command of code `code` was counted and goes on: its rows are being programmed, the first is on its way, and `next` follows them. -/
def CmdPrograms (s t : State) (code : Nat) (rows : List (Nat × Bytes)) (next : CpNext) : Prop :=
  let b := pg pCTL
  rd t b CTL.CMD_STAT.LAST_CODE = code ∧ flag t b CTL.CMD_STAT.BUSY = true ∧
  rd t b CTL.COMMANDS.COUNT = min (rd s b CTL.COMMANDS.COUNT + 1) (2 ^ CTL.COMMANDS.COUNT.w - 1) ∧
  t.cp.task = { rows := rows.tail, next } ∧ cpBusy t 0 = true

/-- A command of code `code` was counted and waits for the `n` bytes of host memory that it reads: each is asked for (R24). -/
def CmdReads (s t : State) (code n : Nat) : Prop :=
  let b := pg pCTL
  rd t b CTL.CMD_STAT.LAST_CODE = code ∧ flag t b CTL.CMD_STAT.BUSY = true ∧
  rd t b CTL.COMMANDS.COUNT = min (rd s b CTL.COMMANDS.COUNT + 1) (2 ^ CTL.COMMANDS.COUNT.w - 1) ∧ t.grn = s.grn ∧ t.kcc = s.kcc ∧
  ∀ i < n, ∃ off skip len, off ≤ i ∧ i < off + len ∧ Asks t (.cpRead (rd t b CTL.COMMANDS.COUNT) off skip len)

/-- The command `code`, given by port `src`, is under way on a free control processor; the last beat of the last host read that it waits for
arrives, and with it the command has read `bytes`. -/
abbrev LastHostBeat (s : State) (port : BitVec 4) (tag : BitVec 9) (beat : BitVec 6) (data : BitVec 512) (code src : Nat) (bytes : Bytes) : Prop :=
  s.phase = .run ∧ CpFree s ∧ flag s (pg pCTL) CTL.CMD_STAT.BUSY = true ∧ rd s (pg pCTL) CTL.CMD_STAT.LAST_CODE = code ∧
  rd s (pg pCTL) CTL.CMD_STAT.PORT = src ∧ locked s = false ∧ lcState s ≠ 5 ∧ flag s (pg pCTL) CTL.STAT.SERVICE = false ∧
  flag s (pg pCTL) CTL.STAT.RECOVERY = false ∧ rd s (pg pPMU) PMU.POISON_INJ.COUNT = 0 ∧
  ∃ r h off skip len, findRead s port.toNat tag.toNat = some r ∧ r.who = .cpRead h.cmd off skip len ∧ s.cp.host = some h ∧ h.left = 1 ∧
    h.bad = false ∧ beat.toNat < r.beats ∧ SMap.get? r.got beat.toNat = none ∧
    (let got := SMap.set r.got beat.toNat (beatBytes data)
     got.length = r.beats ∧ (∀ i < r.beats, SMap.getD got i [] ≠ []) ∧
     bytes = (SMap.set h.got off (slice ((List.range r.beats).flatMap fun i => SMap.getD got i []) skip len)).flatMap (·.2))

/-! ### Culm links -/

/-- The oldest message on link `l` of type `m`'s virtual channel is `g`, of that type, and the link carries it (R456, R461). -/
abbrev Arrived (s : State) (l m : Nat) (g : LinkMsg) : Prop :=
  linkRuns s l = true ∧ carries s l (msgVc m) = true ∧ frontMsg s l (msgVc m) = some g ∧ g.mtype = mcode m

/-- One message of type `m` has been given to link `l`: its flits wait or have been presented, beside those that did (R457, R459). -/
def Sent (s t : State) (l m : Nat) (msg : LinkMsg) : Prop :=
  ((link t l).replay.map (·.2) ++ (link t l).txq).Perm ((link s l).replay.map (·.2) ++ (link s l).txq ++
    LinkMsg.flits (msgVc m) { msg with mtype := mcode m, epoch := (link s l).epoch })

/-- A Seedbank write of `entry` for `use` is under way (R240). -/
def Writes (t : State) (use : SeedUse) (entry : Bytes) : Prop :=
  ∃ n, SMap.get? t.kcc.writes n = some { use, entry, answered := false, acks := 0 }

/-! ### Steps of a chain -/

/-- Step `k` on spikelet `j` can form its result now, from the input `inp`: it runs, it has its input, key, output range and work, its
parameters are good, TCK and the stores it uses run, and its entry goes on (R117, R120, R124, R160, R180, R185, R226). The ledger probe is on
another entry. -/
def CanForm (s : State) (j k op : Nat) (x : Job) (t : StepRun) (inp : Bytes) : Prop :=
  mayForm s x = true ∧ job? s j = some x ∧ step? s j k = some t ∧ x.phase = .run ∧ t.st = .run ∧ t.bad = none ∧ (x.desc k).op = op ∧
  lookPending s j x.eid k = false ∧ inputOf x k t = some (.ok inp) ∧
  (isArith op = true ∨ opParam op (x.param k) (x.desc k).verifyOnly (x.desc k).outC x.realm (some inp.length) = 0) ∧
  dstReady t = true ∧ keyReady s x k t = true ∧ unitReady s j k op x t = true ∧
  workDone s j x k t = true ∧ s.probeEid ≠ some x.eid

/-- No other chain and no other step of the chain on spikelet `j` differs. -/
def OtherSteps (s s' : State) (j k : Nat) : Prop :=
  (∀ i, i ≠ j → job? s' i = job? s i) ∧ ∀ i, i ≠ k → step? s' j i = step? s j i

/-- Step `k` on spikelet `j` has formed `out`, held until released or handed out, with `checks` sampled checks outstanding; it stands without
a failure but where its output fragments are too short for it (R114, R211). -/
def Formed (s s' : State) (j k : Nat) (x : Job) (t : StepRun) (out : Bytes) (held : Bool) (checks : Nat) : Prop :=
  (∃ u, step? s' j k = some u ∧ u.st = .formed ∧ u.out = out ∧ u.held = held ∧ u.checks = checks ∧
    (outToFrags (x.desc k).outC = false ∨ held = true ∨ out.length ≤ rangeCap t.dst → u.bad = none)) ∧
  OtherSteps s s' j k

/-- Step `k` on spikelet `j` has formed its failure `v`, and no output stands. -/
def FormedBad (s s' : State) (j k : Nat) (v : Verdict) : Prop :=
  (∃ u, step? s' j k = some u ∧ u.st = .formed ∧ u.bad = some v ∧ u.out = []) ∧ OtherSteps s s' j k

/-- A step that ran changed nothing beside registers, chains, the ports and links its writes leave on, and the stash lines they hit. -/
def StepOnly (s s' : State) : Prop :=
  s' = { s with regs := s'.regs, jobs := s'.jobs, fab := s'.fab, clm := s'.clm, rch := { s.rch with stash := s'.rch.stash } }

end Machine

end Sys2Proof
end

