-- ==== Sys2Proof/Certificates/Slice0/Obligations.lean ====
section
/-! DEFINITION. The statements about the model, for the provers. A statement that names a command says where it answers a next state,
what that state holds, and what it leaves alone; R<n> are the rules of spec/. -/

open Sys2Proof Sys2Proof.Machine

/-! ### The whole machine -/

/-- A step with a command at the front of the queue is that command's effect with the queue's rest. On an empty queue (the model's choice,
log entry 1) one fc passes, and nothing but time and the counts of clock cycles moves. -/
def Obligations.StepRunsFrontCommand : Prop :=
  (∀ (c : Instr) (cs : List Instr) (s : State), step { s with pending := c :: cs } = exec c { s with pending := cs }) ∧
  ∀ s : State, s.pending = [] →
    ∃ t, step s = .next t ∧ t.fcNow = s.fcNow + 1 ∧ t = { s with fcNow := s.fcNow + 1, regs := t.regs }

/-- No command touches the queue or the delivered part, and neither time nor the counter of free values goes back. -/
def Obligations.CommandsKeepQueueAndPart : Prop :=
  ∀ (c : Instr) (s t : State), exec c s = .next t →
    t.pending = s.pending ∧ t.part = s.part ∧ s.fcNow ≤ t.fcNow ∧ s.freeCtr ≤ t.freeCtr

/-- Only a fabric input that breaks its contract faults, a beat beyond its read or come twice (R28) and credits above 255 (R27), and only a
capture of a wrong length is refused; every other command answers a next state in every state. -/
def Obligations.OnlyBrokenInputsStop : Prop :=
  ∀ (c : Instr) (s : State),
    (∀ f, exec c s = .fault f →
      (f = .unknownBeat ∧ ∃ p g b d e x, c = .readBeat p g b d e x) ∨ (f = .creditOverflow ∧ ∃ p q w, c = .creditReturn p q w)) ∧
    ∀ r, exec c s = .refused r ↔ r = .illFormed ∧ ∃ d : List (BitVec 8), c = .captureDone d ∧ d.length ≠ 65536

/-- The tables of registers, of the medium's rows and of OTP words stay in canonical form, whatever the step. -/
def Obligations.StepsKeepCanonicalTables : Prop :=
  ∀ s t : State, Canonical s → step s = .next t → Canonical t

/-- The tables are canonical in reset. -/
def Obligations.ResetTablesCanonical : Prop := Canonical State.reset

/-- An OTP bit that is set stays set, whatever command runs: a burn only sets bits (R407), and every reset and a loss of supply
keep the OTP (R18). -/
def Obligations.OtpBitsNeverCleared : Prop :=
  ∀ (c : Instr) (s t : State), exec c s = .next t → ∀ w, otpWord s w &&& otpWord t w = otpWord s w

/-- The life-cycle state is read off the leading segments that count as set, 12 or more bits of 16, and LC_STAT.STATE shows it; entering
state k burns segment k - 1, and SCRAP segments 4 and 5, and when that burn ends the state is k (R409). The state never goes back,
whatever the step. -/
def Obligations.LifeCycleCountsAndNeverGoesBack : Prop :=
  let seg := fun (k : Nat) => if k = 5 then [(4, 0xFFFF), (5, 0xFFFF)] else [(k - 1, 0xFFFF)]
  (∀ (s : State) (c port : Nat), c ≤ 6 → (∀ i, i < c → 12 ≤ popCount 16 (otpWord s i)) → (c < 6 → popCount 16 (otpWord s c) < 12) →
    lcState s = [0, 1, 2, 3, 4, 5, 5].getD c 0 ∧ fieldShown s (shown s port .glm 0) (pg pGLM) GLM.LC_STAT.STATE = lcState s) ∧
  (∀ (src id : BitVec 8) (v : BitVec 32) (s : State), let k := v.toNat % 8
    CanWrite s src.toNat pGLM 0x48 → unlocked s pGLM src.toNat 0x48 = true → glumeUp s = true → s.glm.trans = none →
    flag s (pg pGLM) GLM.DBG_STAT.TOKEN = false → lcReason s k = 0 → k ∈ [1, 3, 5] →
    ∃ t, exec (.lcReq src id v) s = .next t ∧ t.glm.burns = s.glm.burns ++ [{ use := .segment, words := seg k }]) ∧
  (∀ (s : State) (k : Nat) (b : Burn) (bs : List Burn), s.phase = .run → s.glm.trans = some { target := k, result := none } →
    s.glm.burns = b :: bs → b.use = .data → k = 2 ∨ (k = 4 ∧ ∀ p ∈ b.words, p.1 ≠ 6) →
    ∃ t, exec (.otpBurnDone true) s = .next t ∧ t.glm.burns = bs ++ [{ use := .segment, words := seg k }]) ∧
  (∀ (s : State) (k : Nat) (bs : List Burn), s.phase = .run → s.glm.trans = some { target := k, result := none } →
    s.glm.burns = { use := .segment, words := seg k } :: bs → SMap.Wf s.glm.otp → 1 ≤ k → k ≤ 5 → lcState s = k - 1 →
    (∀ i, k ≤ i → i < 6 → popCount 16 (otpWord s i) < 12) →
    ∃ t, exec (.otpBurnDone true) s = .next t ∧ (∀ p ∈ seg k, otpWord t p.1 = 0xFFFF) ∧
      (∀ w, (∀ p ∈ seg k, p.1 ≠ w) → otpWord t w = otpWord s w) ∧ lcState t = k) ∧
  ∀ s t : State, step s = .next t → lcState s ≤ lcState t

/-! ### Resets and the clock ratio -/

/-- What a reset clears holds its reset content (R18).
What the reset pins do to the block's phase (R21), and what a cold start reads (R20, R43).
A supply-loss start clears the lock; a locked block that starts holds every page LOCKED (R365). -/
def Obligations.ResetsAndStarts : Prop :=
  (∀ s : State,
      let Cleared := fun (t : State) => t.fab.reads = [] ∧ t.fab.writes = [] ∧ t.fab.waiting = [] ∧ t.rch = freshRachis ∧ t.gates = [] ∧
        t.jobs = [] ∧ t.plan = freshPlanner ∧ t.lanes = [] ∧ t.susp = [] ∧ t.kcc = freshKcc ∧ t.banks = [] ∧ t.accs = [] ∧ t.tef.exps = [] ∧
        t.unlocks = [] ∧ t.clm = [] ∧ t.pending = s.pending
      let MeasKept := fun (t : State) => ∀ n, measReg t n = { measReg s n with lock := none }
      (s.phase ≠ .cold → ∃ t, exec .porstNAssert s = .next t ∧ t.phase = .cold ∧ Cleared t ∧ MeasKept t ∧
        (∀ f ∈ [CHF.LOCK_STAT.LOCKED, CHF.LOCK_STAT.SOURCE, CHF.LOCK_STAT.KIND], rd t (pg pCHF) f = rd s (pg pCHF) f) ∧
        rd t (pg pTCK) TCK.TICK_COUNT.COUNT = 0 ∧ (s.grn.cur = [] → t.grn.rows = s.grn.rows) ∧ (s.glm.burns = [] → t.glm.otp = s.glm.otp)) ∧
      (s.phase = .drain → s.fab.reads = [] → s.fab.writes = [] → ∃ t, exec .rstDrainDone s = .next t ∧ t.phase = .warm ∧ Cleared t ∧
        MeasKept t ∧ rd t (pg pSYS) SYS.STAT.RST_DRAIN = 0 ∧
        (∀ f ∈ [CHF.LOCK_STAT.LOCKED, CHF.LOCK_STAT.SOURCE, CHF.LOCK_STAT.KIND], rd t (pg pCHF) f = rd s (pg pCHF) f) ∧
        rd t (pg pTCK) TCK.TICK_COUNT.COUNT = rd s (pg pTCK) TCK.TICK_COUNT.COUNT ∧
        rd t (pg pSYS) SYS.PROFILE.ACTIVE = rd s (pg pSYS) SYS.PROFILE.ACTIVE ∧
        (s.grn.cur = [] → t.grn.rows = s.grn.rows) ∧ (s.glm.burns = [] → t.glm.otp = s.glm.otp)) ∧
      (∃ t, exec .supplyLoss s = .next t ∧ t.phase = .cold ∧ t.keeper = true ∧ Cleared t ∧ t.meas = [] ∧ t.grn.staged = [] ∧
        t.regs = baseRegs s.part ∧ (s.grn.cur = [] → t.grn.rows = s.grn.rows) ∧ (s.glm.burns = [] → t.glm.otp = s.glm.otp))) ∧
  (∀ s : State,
      (s.phase = .run → ∃ t, exec .srstNAssert s = .next t ∧ t.phase = .drain ∧ t.fab = { s.fab with waiting := [] } ∧
        rd t (pg pSYS) SYS.STAT.RST_DRAIN = 1 ∧ t = { s with phase := .drain, fab := t.fab, regs := t.regs } ∧
        KeepRegs s t (· = fkey (pg pSYS) SYS.STAT.RST_DRAIN)) ∧
      (s.phase = .warm → locked s = false → exec .srstNDeassert s = .next { s with phase := .run }) ∧
      (s.phase = .drain → exec .srstNDeassert s = .next { s with phase := .restart }) ∧
      ∀ strap : BitVec 2, s.phase = .cold → ∃ t, exec (.porstNDeassert strap) s = .next t ∧ t.phase = .run ∧ t.strap = strap.toNat ∧
        t.keeper = false ∧ t.started = true ∧
        rd t (pg pSYS) SYS.PROFILE.ACTIVE = strap.toNat ∧ rd t (pg pSYS) SYS.STAT.SUPPLY_LOSS = bit (s.keeper || !s.started) ∧
        ((s.keeper || !s.started) = true → locked t = false ∧ t.meas = []) ∧
        ((s.keeper || !s.started) = false → locked t = locked s ∧ t.meas = s.meas)) ∧
  (∀ (s : State) (p : Nat), s.phase = .warm → locked s = true → p < 0x61 → pagePresent s p = true →
      ∃ t, exec .srstNDeassert s = .next t ∧ t.phase = .run ∧ ustate t p = 6 ∧ locked t = true ∧
        t = { s with phase := .run, regs := t.regs })

/-! ### The fabric ports -/

/-- Credits that come back go to the beats that a presented write still owes and else to the port's counts; with nothing waiting on that
port nothing else changes, and more than 255 of either is a broken input (R27).
A read-data beat: while more beats are due, good data is kept for its read and nothing else changes; in a reset drain a beat only counts,
and the last one ends its read (R21); a beat of a tag in quarantine is discarded, and the last one frees the tag, and a beat with no read
is discarded (R30); a beat beyond the request or come twice is a broken input (R28).
A late response on a quarantined tag is discarded and frees the tag (R30); the response to an interrupt message clears INFLIGHT,
and one with MB_ERR sets ERR (R41, R110); in a reset drain a response ends its write (R21); one without its write is discarded (R30).
A transaction that passes the fabric timeout: during a reset drain it is given up, its tag in quarantine, and nothing else changes; for an
interrupt message in service, the tag is quarantined, ERR is set and a message goes to the collector (R21, R30, R41); a tag that is not
outstanding has no timeout. -/
def Obligations.FabricPortsAct : Prop :=
  (∀ (port : BitVec 4) (req wd : BitVec 2) (s : State), s.phase ≠ .cold → s.phase ≠ .warm →
      let q := credOf s.fab.reqCr port.toNat + req.toNat
      let w := credOf s.fab.wdCr port.toNat + wd.toNat
      let o := credOf s.fab.owed port.toNat
      (q ≤ 255 → w ≤ 255 → (∀ r ∈ s.fab.waiting, r.portOf ≠ port.toNat) →
        exec (.creditReturn port req wd) s =
          .next { s with fab := { s.fab with reqCr := SMap.set s.fab.reqCr port.toNat q, wdCr := SMap.set s.fab.wdCr port.toNat (w - o),
                                             owed := SMap.set s.fab.owed port.toNat (o - w) } }) ∧
      (q ≤ 255 → w ≤ 255 → ∃ t, exec (.creditReturn port req wd) s = .next t) ∧
      (255 < q ∨ 255 < w → exec (.creditReturn port req wd) s = .fault .creditOverflow)) ∧
  (∀ (port : BitVec 4) (tag : BitVec 9) (beat : BitVec 6) (data : BitVec 512) (err poison : Bool) (s : State),
      s.phase ≠ .cold → s.phase ≠ .warm →
      (∀ t, findRead s port.toNat tag.toNat = some t → beat.toNat < t.beats → SMap.get? t.got beat.toNat = none →
        ((∃ u, exec (.readBeat port tag beat data err poison) s = .next u) ∧
        (s.phase = .run → err = false → poison = false → rd s (pg pPMU) PMU.POISON_INJ.COUNT = 0 →
          (∀ q a b v, t.who ≠ .sqLines q a b v) → (SMap.set t.got beat.toNat (beatBytes data)).length < t.beats →
          exec (.readBeat port tag beat data err poison) s = .next (putRead s { t with got := SMap.set t.got beat.toNat (beatBytes data) })) ∧
        (s.phase = .drain ∨ s.phase = .restart → exec (.readBeat port tag beat data err poison) s =
          .next (if (SMap.set t.got beat.toNat []).length < t.beats then putRead s { t with got := SMap.set t.got beat.toNat [] }
            else dropRead s t)))) ∧
      (∀ q, findRead s port.toNat tag.toNat = none → findQuar s port.toNat false tag.toNat = some q → s.fab.waiting = [] →
        (q.left ≤ 1 → exec (.readBeat port tag beat data err poison) s =
          .next { s with fab := { s.fab with quar := s.fab.quar.filter fun r => r != q } }) ∧
        (1 < q.left → exec (.readBeat port tag beat data err poison) s =
          .next { s with fab := { s.fab with quar := s.fab.quar.map fun r => if r == q then { q with left := q.left - 1 } else r } })) ∧
      (findRead s port.toNat tag.toNat = none → findQuar s port.toNat false tag.toNat = none →
        exec (.readBeat port tag beat data err poison) s = .next s) ∧
      ∀ t, findRead s port.toNat tag.toNat = some t → t.beats ≤ beat.toNat ∨ (SMap.get? t.got beat.toNat).isSome = true →
        exec (.readBeat port tag beat data err poison) s = .fault .unknownBeat) ∧
  (∀ (port : BitVec 4) (tag : BitVec 8) (err : Bool) (s : State), s.phase = .run → s.fab.waiting = [] →
      (∀ q, findWrite s port.toNat tag.toNat = none → findQuar s port.toNat true tag.toNat = some q → q.left ≤ 1 →
        exec (.writeResponse port tag err) s = .next { s with fab := { s.fab with quar := s.fab.quar.filter fun r => r != q } }) ∧
      (∀ w v, findWrite s port.toNat tag.toNat = some w → w.who = .msi v → (vec s v).pending = false →
        ∃ t, exec (.writeResponse port tag err) s = .next t ∧ (vec t v).inflight = false ∧ (vec t v).err = ((vec s v).err || err) ∧
          (∀ u, u ≠ v → vec t u = vec s u) ∧ t.fab = (dropWrite s w).fab ∧ t.jobs = s.jobs ∧
          t = { s with fab := t.fab, rch := t.rch, regs := t.regs, chaff := t.chaff } ∧ (err = false → t.regs = s.regs)) ∧
      (findWrite s port.toNat tag.toNat = none → findQuar s port.toNat true tag.toNat = none →
        exec (.writeResponse port tag err) s = .next s)) ∧
  (∀ (port : BitVec 4) (tag : BitVec 8) (err : Bool) (s : State) (w : WrTxn), s.phase = .drain ∨ s.phase = .restart →
      findWrite s port.toNat tag.toNat = some w → exec (.writeResponse port tag err) s = .next (dropWrite s w)) ∧
  (∀ (port : BitVec 4) (isWrite : Bool) (tag : BitVec 9) (s : State),
      (s.phase = .drain ∨ s.phase = .restart → isWrite = false → ∀ r, findRead s port.toNat tag.toNat = some r →
        exec (.fabricTimeout port isWrite tag) s = .next (quarantine (dropRead s r) r.port false r.tag (r.beats - r.got.length))) ∧
      (s.phase = .drain ∨ s.phase = .restart → isWrite = true → ∀ w, findWrite s port.toNat tag.toNat = some w →
        exec (.fabricTimeout port isWrite tag) s = .next (quarantine (dropWrite s w) w.port true w.tag 1)) ∧
      ((if isWrite then (findWrite s port.toNat tag.toNat).isNone else (findRead s port.toNat tag.toNat).isNone) = true →
        exec (.fabricTimeout port isWrite tag) s = .next s) ∧
      (s.phase = .run → isWrite = true → s.fab.waiting = [] → ∀ w v, findWrite s port.toNat tag.toNat = some w → w.who = .msi v →
        (vec s v).pending = false →
        ∃ t, exec (.fabricTimeout port isWrite tag) s = .next t ∧ (vec t v).inflight = false ∧ (vec t v).err = true ∧
          t.fab = { s.fab with writes := (dropWrite s w).fab.writes,
                               quar := s.fab.quar ++ [{ port := w.port, isWrite := true, tag := w.tag, left := 1 }] } ∧
          t.chaff = (fabChaff s 0x104 5 w.port w.mqPort w.addr).chaff ∧ t.jobs = s.jobs))

/-! ### Reads of the register target port -/

/-- An access without the right, read or write, is answered DENIED with data zero; from a port that the configuration does not have it
changes nothing but the response and the collector (R9, R35).
During a reset drain a read answers zero with NOT_READY, except SYS.STAT (R21). -/
def Obligations.DeniedAndDrainedAccesses : Prop :=
  (∀ (src id : BitVec 8) (wide : Bool) (addr : BitVec 25) (data : BitVec 64) (s : State), s.phase = .run →
      (permitted s { src := src.toNat, id := id.toNat, wide, addr := wordOfs addr } false = false →
        ∃ t, exec (.rcRegisterRead src id wide addr) s = .next t ∧ t.tp = { id := id.toNat, data := 0, err := 1 } ∧
          (portAccepted s src.toNat = false → t = { s with tp := t.tp, chaff := t.chaff })) ∧
      (permitted s { src := src.toNat, id := id.toNat, wide, addr := wordOfs addr } true = false →
        ∃ t, exec (.regWrite src id wide addr data) s = .next t ∧ t.tp = { id := id.toNat, data := 0, err := 1 } ∧
          (portAccepted s src.toNat = false → t = { s with tp := t.tp, chaff := t.chaff }))) ∧
  (∀ (src id : BitVec 8) (wide : Bool) (addr : BitVec 25) (s : State), s.phase = .drain ∨ s.phase = .restart →
      (wordOfs addr ≠ 0xC → exec (.rcRegisterRead src id wide addr) s = .next { s with tp := { id := id.toNat, data := 0, err := 2 } }) ∧
      (wordOfs addr = 0xC → wide = false → portAccepted s src.toNat = true → src ≠ 255 → src = 0 →
        exec (.rcRegisterRead src id wide addr) s =
          .next { s with tp := { id := id.toNat, data := BitVec.ofNat 64 (wordAt s src.toNat 0xC false), err := 0 } }))

/-- A permitted write of a header register by REG_WRITE: EVT_MASK takes the word, and each 1 written to EVT clears its bit (R55, R57); the
registers of no other word change but for PMU counts, CHF.EVT and a cancelled unlock. -/
def Obligations.HeaderWritesTakeEffect : Prop :=
  ∀ (src id : BitVec 8) (p : Nat) (data : BitVec 64) (s : State), p < 0x61 →
    (CanWrite s src.toNat p 0x14 →
      ∃ t, exec (.regWrite src id false (BitVec.ofNat 25 (pg p + 0x14)) data) s = .next t ∧ t.tp = okTo id ∧ AccessOnly s t ∧
        rd t (pg p) HDR.EVT_MASK.MASK = data.toNat % 2 ^ 32 ∧
        KeepRegs s t fun k => k ∈ accessKeys p ∨ k = fkey (pg p) HDR.EVT_MASK.MASK) ∧
    (CanWrite s src.toNat p 0x10 → (p = pCHF ∨ p = pPMU → enabled s pPMU = false) →
      ∃ t, exec (.regWrite src id false (BitVec.ofNat 25 (pg p + 0x10)) data) s = .next t ∧ t.tp = okTo id ∧ AccessOnly s t ∧
        (rd s (pg p) HDR.EVT.BITS < 2 ^ 32 →
          rd t (pg p) HDR.EVT.BITS = rd s (pg p) HDR.EVT.BITS - (rd s (pg p) HDR.EVT.BITS &&& data.toNat % 2 ^ 32)) ∧
        KeepRegs s t fun k => k ∈ accessKeys p ∨ k = fkey (pg p) HDR.EVT.BITS)

/-- A permitted read answers what its word shows at that moment. Registers that a read takes something from: HLD.BIN_LOW and SUSPEND_LOW
reload with what is free now, SNT.MIN and MAX with their reset values (R55, R227); a notice of the firmware is acknowledged (R449); the SWP
FIFO gives up eight bytes, or zero and a count where it has fewer (R352); and the reading port's log cursor goes to the next record
(R398). A permitted peek shows a word of the mirror and takes nothing (R66). -/
def Obligations.ReadsShowReloadAndConsume : Prop :=
  ∀ (src id : BitVec 8) (s : State), s.phase = .run →
    let may := fun (wide : Bool) (a : Nat) => permitted s { src := src.toNat, id := id.toNat, wide, addr := a } false = true
    let Answers := fun (t : State) (n : Nat) => t.tp = { id := id.toNat, data := BitVec.ofNat 64 n, err := 0 }
    (∀ (wide : Bool) (addr : BitVec 25), addr.toNat < 0x400000 → may wide (wordOfs addr) →
      ∃ t, exec (.rcRegisterRead src id wide addr) s = .next t ∧ Answers t (readValue s src.toNat (wordOfs addr) wide false) ∧
        t.jobs = s.jobs ∧ t.rch = s.rch ∧ t.kcc = s.kcc ∧ t.fab = s.fab) ∧
    (∀ p off f n, (p, off, f, n) ∈ [(pHLD, 0x48, HLD.BIN_LOW.LOW, binsFree s), (pHLD, 0x4C, HLD.SUSPEND_LOW.LOW, suspSlots - s.susp.length),
        (pSNT, 0x5C, SNT.MIN.MV, SNT.MIN.MV.rst), (pSNT, 0x60, SNT.MAX.MV, SNT.MAX.MV.rst)] → may false (pg p + off) →
      ∃ t, exec (.rcRegisterRead src id false (BitVec.ofNat 25 (pg p + off))) s = .next t ∧ Answers t (readValue s src.toNat (pg p + off) false false) ∧
        rd t (pg p) f = n % 2 ^ f.w ∧ t = { s with tp := t.tp, regs := t.regs } ∧ KeepRegs s t fun k => k ∈ countKeys ∨ k = fkey (pg p) f) ∧
    (∀ (wide : Bool) (addr : BitVec 25), let a := wordOfs addr % 0x400000
      may wide (0x400000 + a) → ∃ t, exec (.peekRead src id wide addr) s = .next t ∧ Answers t (readValue s 0 a wide true) ∧
        t = { s with tp := t.tp, regs := t.regs } ∧ KeepRegs s t (· ∈ countKeys) ∧
        (flag s (pg pGLM) GLM.DBG_STAT.COUNT_PEEK = false → t.regs = s.regs)) ∧
    (may false (pg pCTL + 0xA8) →
      ∃ t, exec (.noticeRead src id) s = .next t ∧ Answers t (readValue s src.toNat (pg pCTL + 0xA8) false false) ∧
        t.tp.data.toNat % 65536 = s.cp.notices.head?.getD 0 % 65536 ∧ t.cp = { s.cp with notices := s.cp.notices.drop 1 } ∧
        t = { s with tp := t.tp, cp := t.cp, regs := t.regs } ∧ KeepRegs s t (· ∈ countKeys)) ∧
    (may true (pg pTEF + 0x80) → let held := (expRec s 11).fifo
      ∃ t, exec (.swpDataRead src id) s = .next t ∧ Answers t (if held.length < 8 then 0 else leNat (held.take 8)) ∧
        (held.length < 8 → rd t (pg pTEF) TEF.SWP_UNDERRUN.COUNT = min (rd s (pg pTEF) TEF.SWP_UNDERRUN.COUNT + 1) (2 ^ 32 - 1) ∧
          bitAt (rd t (pg pTEF) HDR.EVT.BITS) TEF.EVT.SWP_UNDERRUN = true ∧ t = { s with tp := t.tp, regs := t.regs }) ∧
        (8 ≤ held.length → (∃ more, (expRec t 11).fifo = held.drop 8 ++ more) ∧ ∀ e, e ≠ 11 → expRec t e = expRec s e)) ∧
    (may true (pg pGRN + 0x88) →
      ∃ t, exec (.logDataRead src id) s = .next t ∧ Answers t (readValue s src.toNat (pg pGRN + 0x88) true false) ∧
        t.grn = { s.grn with cursors := t.grn.cursors } ∧ (∀ q, q ≠ src.toNat → SMap.get? t.grn.cursors q = SMap.get? s.grn.cursors q) ∧
        (enabled s pGRN = true → cursorItem s src.toNat ≠ none → SMap.get? t.grn.cursors src.toNat = some (match nextItem s src.toNat with
          | some i => { key := i.key, seq := i.seq } | none => { key := 2 ^ 40, seq := 0 })) ∧
        (enabled s pGRN = false ∨ cursorItem s src.toNat = none → t.grn = s.grn) ∧
        t = { s with tp := t.tp, grn := t.grn, regs := t.regs, chaff := t.chaff })

/-! ### Units as a whole -/

/-- A permitted write of CTL with EN = 1 starts the check of a DISABLED unit; GLM and CTL, and a unit in another state, keep theirs. The
registers of no other word change but STAT.STATE, PMU counts, CHF.EVT and a cancelled unlock (R57, R59).
The check of an enable ends: DISABLED with CHK.REASON and EVT bit 0 where it fails (before Glume is ENABLED no unit passes it, nor
one whose CHF is not ENABLED), and ENABLED where it passes; the cores that gave a wrong answer are out of an Emmer group (R60, R296, R408). -/
def Obligations.EnablesAreChecked : Prop :=
  (∀ (src id page : BitVec 8) (ctl : BitVec 32) (s : State), let p := page.toNat
      CanWrite s src.toNat p 8 →
      ∃ t, exec (.unitEnable src id page ctl) s = .next t ∧ t.tp = okTo id ∧ AccessOnly s t ∧
        (p ≠ pGLM → p ≠ pCTL → ustate s p = 0 → ustate t p = 1 ∧ rd t (pg p) HDR.CTL.EN = 1) ∧
        (p = pGLM ∨ p = pCTL ∨ ustate s p ≠ 0 → ustate t p = ustate s p) ∧
        KeepRegs s t fun k => k ∈ accessKeys p ∨ InWord (pg p + 8) k ∨ k = fkey (pg p) HDR.STAT.STATE) ∧
  (∀ (page : BitVec 8) (kat : BitVec 32) (s : State), let p := page.toNat
      s.phase = .run → ustate s p = 1 → s.cp.cycle = [] → s.chaff.retiring = [] → ∀ k i, pageKind p = some (k, i) → present s k i = true →
      (let e := enableReason s p kat.toNat
       e ≠ 0 → e < 2 ^ 16 → e ≠ 0x1110 → ∃ t, exec (.unitEnableDone page kat) s = .next t ∧ ustate t p = 0 ∧ rd t (pg p) HDR.CTL.EN = 0 ∧
         rd t (pg p) HDR.CHK.REASON = e ∧ bitAt (rd t (pg p) HDR.EVT.BITS) 0 = true ∧ t = { s with regs := t.regs } ∧
         KeepRegs s t (· ∈ [fkey (pg p) HDR.CHK.REASON, fkey (pg p) HDR.CTL.EN, fkey (pg p) HDR.STAT.STATE, fkey (pg p) HDR.EVT.BITS,
           fkey (pg pCHF) HDR.EVT.BITS])) ∧
      (ustate s pGLM ≠ 2 → enableReason s p kat.toNat = 256 * unitId k + 2) ∧
      (ustate s pGLM = 2 → lcState s < 4 → k ∈ [.rch, .snt, .grn, .hld, .pmu, .tef, .tck, .emr, .spk] → ustate s pCHF ≠ 2 →
        enableReason s p kat.toNat = 256 * unitId k + 4) ∧
      (enableReason s p kat.toNat = 0x1110 → k = .emr → ∃ t, exec (.unitEnableDone page kat) s = .next t ∧ ustate t p = 0 ∧
        rd t (pg p) HDR.CHK.REASON = 0x1110 ∧ bitAt (rd t (pg p) HDR.EVT.BITS) 0 = true ∧ rd t (pg p) EMR.CORE_OFF.SHA2 = kat.toNat % 2 ^ 16 ∧
        t = { s with regs := t.regs, chaff := t.chaff }) ∧
      (enableReason s p kat.toNat = 0 → flag s (pg p) HDR.CTL.EN = true → s.jobs = [] ∧ s.kcc.lookups = [] ∨ k ∉ [.kcc, .clm] →
        ∃ t, exec (.unitEnableDone page kat) s = .next t ∧ ustate t p = 2 ∧ rd t (pg p) HDR.CHK.REASON = 0 ∧
          (k ∉ [.emr, .spl, .tef, .kcc, .clm] → t = { s with regs := t.regs, snt := t.snt }) ∧
          (k ∈ [.sys, .chf, .grn, .hld, .srg, .spk, .pmu, .rch] →
            t.snt = s.snt ∧ KeepRegs s t (· ∈ [fkey (pg p) HDR.CHK.REASON, fkey (pg p) HDR.STAT.STATE])) ∧
          (k = .emr → rd t (pg p) EMR.CORE_OFF.SHA2 = kat.toNat % 2 ^ 16 ∧ rd t (pg p) EMR.CORE_OFF.KECCAK = kat.toNat / 2 ^ 16 % 16 ∧
            rd t (pg p) EMR.STAT.CORES_SHORT = bit (kat.toNat % 2 ^ 20 != 0) ∧ t = { s with regs := t.regs, chaff := t.chaff }) ∧
          (k = .spl → t = { s with regs := t.regs, lanes := t.lanes }) ∧ (k = .tef → t = { s with regs := t.regs, tef := t.tef })))

/-- A permitted write of CTL with EN = 0: a unit in its check keeps checking and will end DISABLED, an ENABLED one goes to DISABLING, the
chains on a spike that stops and those that use the holding store are to be aborted, and CHF stays ENABLED while a page other than SYS, CTL
and GLM is not DISABLED (R59, R62, R226, R354).
A DISABLING unit becomes DISABLED once it is empty, RETIRED where that is why it was stopped, and otherwise waits (R62, R363). -/
def Obligations.DisablesWaitForEmpty : Prop :=
  (∀ (src id page : BitVec 8) (ctl : BitVec 32) (s : State), let p := page.toNat
      CanWrite s src.toNat p 8 → p ≠ pGLM → p ≠ pCTL →
      (ustate s p ≠ 2 → ∃ t, exec (.unitDisable src id page ctl) s = .next t ∧ t.tp = okTo id ∧ AccessOnly s t ∧ ustate t p = ustate s p ∧
        (ustate s p = 1 → rd t (pg p) HDR.CTL.EN = 0) ∧ KeepRegs s t fun k => k ∈ accessKeys p ∨ InWord (pg p + 8) k) ∧
      (ustate s p = 2 → p = pCHF → (∃ q, q < 0x61 ∧ pagePresent s q = true ∧ q ∉ [pCHF, pSYS, pCTL, pGLM] ∧ ustate s q ≠ 0) →
        ∃ t, exec (.unitDisable src id page ctl) s = .next t ∧ AccessOnly s t ∧ ustate t p = 2 ∧ rd t (pg p) HDR.CHK.REASON = 0x0410) ∧
      (ustate s p = 2 → (p = pCHF → ∀ q, q < 0x61 → pagePresent s q = true → q ∉ [pCHF, pSYS, pCTL, pGLM] → ustate s q = 0) →
        ∀ k i, pageKind p = some (k, i) →
        ∃ t, exec (.unitDisable src id page ctl) s = .next t ∧ t.tp = okTo id ∧ ustate t p = 3 ∧ rd t (pg p) HDR.CTL.EN = 0 ∧
          (k = .tck → t.plan.grants = [] ∧ t.plan.booked = false) ∧
          (k = .spk ∨ k = .hld → ∀ j x, job? s j = some x → (if k = .spk then decide (j / 16 = i) else usesHold s j x) = true →
            ∃ y, job? t j = some y ∧ y.aborting = true) ∧
          (k ∈ [.sys, .snt, .grn] → AccessOnly s t ∧
            KeepRegs s t fun k => k ∈ accessKeys p ∨ InWord (pg p + 8) k ∨ k = fkey (pg p) HDR.STAT.STATE))) ∧
  (∀ (page : BitVec 8) (s : State), let p := page.toNat
      s.phase = .run → ustate s p = 3 → s.cp.cycle = [] → ∀ k i, pageKind p = some (k, i) → present s k i = true → (k = .kcc → s.kcc.lines = []) →
      (unitEmpty s k i = true → ∃ t, exec (.unitDisableDone page) s = .next t ∧
        ustate t p = (if p ∈ s.chaff.retiring then 5 else 0) ∧ p ∉ t.chaff.retiring ∧ (∀ q, q ≠ p → (q ∈ t.chaff.retiring ↔ q ∈ s.chaff.retiring)) ∧
        t = { s with regs := t.regs, chaff := t.chaff } ∧ KeepRegs s t (· = fkey (pg p) HDR.STAT.STATE)) ∧
      (unitEmpty s k i = false → exec (.unitDisableDone page) s = .next s) ∧
      (k = .spk → ((∃ j x, (j, x) ∈ s.jobs ∧ j / 16 = i) ↔ unitEmpty s k i = false)))

/-- EVT_FORCE sets the events named, of those the unit has, where tests are permitted, and is ignored with a NOTICE otherwise;
FEC_CLEAR clears a first-error capture whole (R57).
The first write arms an unlock with its target for 64 fc, a wrong value counts in EXPIRED, and an unlock that has stood for its time
lapses with a NOTICE (R64). -/
def Obligations.EventsCapturesUnlocks : Prop :=
  ((∀ (src id page : BitVec 8) (bits : BitVec 32) (s : State), let p := page.toNat
      CanWrite s src.toNat p 0x18 → ∀ k i, pageKind p = some (k, i) →
      (testPermit s = true → ∃ t, exec (.evtForce src id page bits) s = .next t ∧ t.tp = okTo id ∧ AccessOnly s t ∧
        KeepRegs s t (fun q => q ∈ accessKeys p ∨ q = fkey (pg p) HDR.EVT.BITS) ∧
        (p ≠ pCHF → (p = pPMU → enabled s pPMU = false) → rd s (pg p) HDR.EVT.BITS < 2 ^ 32 →
          rd t (pg p) HDR.EVT.BITS = rd s (pg p) HDR.EVT.BITS ||| (bits.toNat &&& evtBits k))) ∧
      (testPermit s = false → ∃ t, exec (.evtForce src id page bits) s = .next t ∧ t.tp = okTo id ∧ AccessOnly s t ∧
        KeepRegs s t (· ∈ accessKeys p) ∧ (SMap.get? s.unlocks p = none → Tells s t
          { unit := unitId k, member := i, kind := 0x003, access := 2, port := src.toNat, addr := pg p + 0x18, detail := anyDetail 0x003 }))) ∧
    ∀ (src id : BitVec 8) (addr : BitVec 25) (s : State) (p off b : Nat), placeOf addr.toNat = .page p off → fecAt addr.toNat = some b →
      CanWrite s src.toNat p off →
      let cleared := [HDR.FEC_ADDR_LO.ADDR, HDR.FEC_ADDR_HI.ADDR, HDR.FEC_SRC.PORT, HDR.FEC_SRC.UNIT, HDR.FEC_SRC.ACCESS, HDR.FEC_SRC.VALID,
        HDR.FEC_TIME_LO.TICK, HDR.FEC_TIME_HI.TICK, HDR.FEC_MERGE.COUNT, HDR.FEC_MERGE.KINDS]
      ∃ t, exec (.fecClear src id addr) s = .next t ∧ t.tp = okTo id ∧ AccessOnly s t ∧ (∀ f ∈ cleared, rd t b f = 0) ∧
        KeepRegs s t fun k => k ∈ accessKeys p ∨ k ∈ cleared.map (fkey b)) ∧
  ((∀ (src id page : BitVec 8) (v : BitVec 32) (s : State), let p := page.toNat
      CanWrite s src.toNat p 0x40 → hasUnlock p = true →
      (v.toNat / 65536 = 0xA5C3 → ∃ t, exec (.unlock src id page v) s = .next t ∧ t.tp = okTo id ∧
        SMap.get? t.unlocks p = some (src.toNat, s.fcNow) ∧ rd t (pg p) HDR.UNLOCK.STATE = 1 ∧ rd t (pg p) HDR.UNLOCK.TARGET = v.toNat % 4096 ∧
        (∀ q, q ≠ p → SMap.get? t.unlocks q = SMap.get? s.unlocks q) ∧ AccessOnly s t ∧
        KeepRegs s t fun k => k ∈ accessKeys p ∨ k = fkey (pg p) HDR.UNLOCK.TARGET) ∧
      (v.toNat / 65536 ≠ 0xA5C3 → SMap.get? s.unlocks p = none → ∃ t, exec (.unlock src id page v) s = .next t ∧ t.tp = okTo id ∧
        t.unlocks = s.unlocks ∧
        rd t (pg p) HDR.UNLOCK.EXPIRED = min (rd s (pg p) HDR.UNLOCK.EXPIRED + 1) (2 ^ HDR.UNLOCK.EXPIRED.w - 1) ∧
        t = { s with regs := t.regs, tp := t.tp } ∧ KeepRegs s t (· ∈ accessKeys p))) ∧
    ∀ (page : BitVec 8) (s : State), let p := page.toNat
      s.phase = .run → SMap.get? s.unlocks p ≠ none →
      ∃ t, exec (.unlockExpire page) s = .next t ∧ t.unlocks = SMap.erase s.unlocks p ∧ rd t (pg p) HDR.UNLOCK.STATE = 0 ∧
        rd t (pg p) HDR.UNLOCK.EXPIRED = min (rd s (pg p) HDR.UNLOCK.EXPIRED + 1) (2 ^ HDR.UNLOCK.EXPIRED.w - 1) ∧
        Tells s t (faultMsg (pageUnit p).1 (pageUnit p).2 0x002) ∧
        t = { s with unlocks := t.unlocks, regs := t.regs, chaff := t.chaff } ∧
        KeepRegs s t (· ∈ [fkey (pg p) HDR.UNLOCK.STATE, fkey (pg p) HDR.UNLOCK.EXPIRED]))

/-! ### The chaff collector and provoked faults -/

/-- Faults that the block finds in itself place a message of their kind and change nothing but the collector (R184, R356, R361).
Errors of the block's memories: a corrected one of the holding store, an Emmer group or a Sorghum array counts, sets ECC_CORR and,
but for Sorghum, is told; an uncorrectable one of the realm key store, the holding store or CTL is told and changes nothing else; in an
Emmer context store it is counted too, and one in no live context ends no step (R214, R297, R361). -/
def Obligations.FaultsAreTold : Prop :=
  (∀ s : State, s.phase = .run →
      (∀ edges : BitVec 8, edges ≠ 2 → ∃ t, exec (.clkRatio edges) s = .next t ∧ Tells s t (faultMsg 1 0 0x501) ∧ t = { s with chaff := t.chaff }) ∧
      (∃ t, exec .chfSelfCheck s = .next t ∧ Tells s t (faultMsg 4 0 0xC03) ∧ t = { s with chaff := t.chaff }) ∧
      (∀ u m : BitVec 8, u.toNat ∈ [3, 4, 8, 9, 0x13, 0x14, 0x15, 0x16] →
        ∃ t, exec (.booksImbalance u m) s = .next t ∧ Tells s t (faultMsg u.toNat m.toNat 0x307) ∧ t = { s with chaff := t.chaff })) ∧
  (∀ (u m : BitVec 8) (s : State), s.phase = .run → sourcePresent s (srcKey u.toNat m.toNat) = true →
      (∀ p c b, (u.toNat, p, c, b) ∈ [(9, pHLD, HLD.ECC_CORR.COUNT, HLD.EVT.ECC_CORR), (0x11, pEMR m.toNat, EMR.ECC_CORR.COUNT, EMR.EVT.ECC_CORR),
          (0x12, pSRG m.toNat, SRG.ECC_CORR.COUNT, SRG.EVT.ECC_CORR)] → (u.toNat = 9 → m = 0) →
        ∃ t, exec (.eccCorrected u m) s = .next t ∧ rd t (pg p) c = min (rd s (pg p) c + 1) (2 ^ c.w - 1) ∧
          bitAt (rd t (pg p) HDR.EVT.BITS) b = true ∧ (u.toNat ≠ 0x12 → Tells s t (faultMsg u.toNat m.toNat 0x201)) ∧
          t = { s with regs := t.regs, chaff := t.chaff } ∧
          KeepRegs s t (· ∈ [fkey (pg p) c, fkey (pg p) HDR.EVT.BITS, fkey (pg pCHF) HDR.EVT.BITS])) ∧
      (∀ d : BitVec 16, u.toNat ∈ [2, 9] ∨ (u = 8 ∧ 0x8000 ≤ d.toNat) → m = 0 →
        ∃ t, exec (.memoryEccUncorr u m d) s = .next t ∧ Tells s t (faultMsg u.toNat 0 (if u = 8 then 0x205 else 0x202)) ∧
          t = { s with chaff := t.chaff }) ∧
      (∀ d : BitVec 16, u = 0x11 → s.jobs = [] →
        ∃ t, exec (.memoryEccUncorr u m d) s = .next t ∧ Tells s t { faultMsg 0x11 m.toNat 0x202 with detail := 0x1115 } ∧
          rd t (pg (pEMR m.toNat)) EMR.ECC_UNCORR.COUNT = min (rd s (pg (pEMR m.toNat)) EMR.ECC_UNCORR.COUNT + 1) (2 ^ EMR.ECC_UNCORR.COUNT.w - 1) ∧
          bitAt (rd t (pg (pEMR m.toNat)) HDR.EVT.BITS) EMR.EVT.ECC_UNCORR = true ∧ t = { s with regs := t.regs, chaff := t.chaff }))

/-- CHAFF_CLASSIFY takes the next message off the bus: its source's class becomes the entry class of its kind or stays, or rises by one
when a counted kind reaches N events in W ticks; a message that raises nothing is counted and its credit comes back (R357, R359).
A message that is FATAL locks the block: LOCK_STAT names its source and kind, every present page reads LOCKED; and when the zeroize
sequencer ends, keys, mask seeds, contexts and suspended steps are gone (R361, R365). -/
def Obligations.MessagesClassifyAndLock : Prop :=
  (∀ (kind : BitVec 12) (s : State) (m : ChaffMsg) (u : Bool), s.phase = .run → nextMsg s = some (m, u) →
      let k := ruleOf s m.kindOf
      let before := (srcOf s m.src).cls
      let cls := (classify s m).cls
      (k.n = 0 ∨ k.ceil ≤ max before k.entry → cls = max before k.entry) ∧
      (k.n ≠ 0 → max before k.entry < k.ceil → SMap.get? (srcOf s m.src).wins m.kindOf = none → k.n ≤ m.events → cls = max before k.entry + 1) ∧
      (k.n ≠ 0 → max before k.entry < k.ceil → SMap.get? (srcOf s m.src).wins m.kindOf = none → m.events < k.n → cls = max before k.entry) ∧
      (cls = before → m.access = 0 → m.kind ≠ 0xC02 → (srcOf s m.src).hold = none → flag s (pg pPMU) PMU.CHAFF_INJ.GO = false → enabled s pPMU = false →
        ∃ t, exec (.chaffClassify false kind) s = .next t ∧ t.chaff.bus = s.chaff.bus.erase m ∧ (srcOf t m.src).cls = before ∧
          (srcOf t m.src).credits = min 4 ((srcOf s m.src).credits + 1) ∧ (srcOf t m.src).msgs = min ((srcOf s m.src).msgs + 1) 0xFFFFFFFF ∧
          (∀ j, j ≠ m.src → srcOf t j = srcOf s j) ∧
          rd t (pg pCHF) CHF.MESSAGES.COUNT = min (rd s (pg pCHF) CHF.MESSAGES.COUNT + 1) (2 ^ CHF.MESSAGES.COUNT.w - 1) ∧
          rd t (pg pCHF) CHF.RAISES.COUNT = rd s (pg pCHF) CHF.RAISES.COUNT ∧ t.jobs = s.jobs ∧ t.rch = s.rch)) ∧
  (∀ s : State, s.phase = .run →
      (∀ (kind : BitVec 12) (m : ChaffMsg) (u : Bool), nextMsg s = some (m, u) → locked s = false → m.kind ∈ [0x205, 0x901, 0xC03] →
        (srcOf s m.src).cls < 3 → m.src < 2 ^ 16 →
        ∃ t, exec (.chaffClassify false kind) s = .next t ∧ locked t = true ∧ rd t (pg pCHF) CHF.LOCK_STAT.SOURCE = m.src ∧
          rd t (pg pCHF) CHF.LOCK_STAT.KIND = m.kind ∧ ∀ p, p < 0x61 → pagePresent t p = true → ustate t p = 6) ∧
      (locked s = true → ∃ t, exec .zeroizeDone s = .next t ∧ locked t = true ∧ t.kcc.lines = [] ∧ t.kcc.fills = [] ∧ t.kcc.devKey = none ∧
        t.susp = [] ∧ t.tef.capture = [] ∧ (∀ l x, (l, x) ∈ t.lanes → x.ctxs = [] ∧ x.seed = [] ∧ x.next = none) ∧ t.rch = s.rch ∧ t.jobs = s.jobs))

/-- RELEASE under its unlock: an accepted one takes the source from SEVERE to DEGRADED and its unit from FENCED to DISABLED; a refused
one leaves both and says why in CHK.REASON with a NOTICE (R368).
RULE_VAL makes a counted kind's rule stricter and refuses to loosen it (0x0415), from port 0 with CHF DISABLED (R360, R372). -/
def Obligations.ReleasesAndRules : Prop :=
  (∀ (src id : BitVec 8) (v : BitVec 32) (s : State), let k := v.toNat % 65536
      CanWrite s src.toNat pCHF 0x78 → unlocked s pCHF src.toNat 0x78 = true → locked s = false →
      (releaseReason s k = 0 → ∀ p, unitPage (k / 256) (k % 256) = some p →
        ∃ t, exec (.release src id v) s = .next t ∧ t.tp = okTo id ∧ (srcOf t k).cls = 1 ∧ (srcOf t k).wins = [] ∧ ustate t p = 0 ∧
          rd t (pg pCHF) HDR.CHK.REASON = 0 ∧ bitAt (rd t (pg pCHF) HDR.EVT.BITS) CHF.EVT.RELEASE_DONE = true ∧
          SMap.getD t.chaff.releases k 0 = SMap.getD s.chaff.releases k 0 + 1 ∧ (∀ j, j ≠ k → srcOf t j = srcOf s j) ∧ AccessOnly s t ∧
          KeepRegs s t fun q => q ∈ accessKeys pCHF ∨ q = fkey (pg pCHF) HDR.CHK.REASON ∨ q = fkey (pg p) HDR.STAT.STATE) ∧
      (releaseReason s k ≠ 0 → ∃ t, exec (.release src id v) s = .next t ∧ t.tp = okTo id ∧ (srcOf t k).cls = (srcOf s k).cls ∧
        rd t (pg pCHF) HDR.CHK.REASON = releaseReason s k ∧ Tells s t { faultMsg 4 0 0x005 with detail := releaseReason s k } ∧ AccessOnly s t ∧
        KeepRegs s t fun q => q ∈ accessKeys pCHF ∨ q = fkey (pg pCHF) HDR.CHK.REASON) ∧
      ((srcOf s k).cls ≠ 2 → releaseReason s k ≠ 0) ∧ (2 ≤ SMap.getD s.chaff.releases k 0 → releaseReason s k ≠ 0) ∧
      (k / 256 ∈ [1, 4, 6] → releaseReason s k = 0x0412)) ∧
  (∀ (id : BitVec 8) (v : BitVec 32) (s : State), CanWrite s 0 pCHF 0x68 →
      let kind := rd s (pg pCHF) CHF.RULE_SEL.KIND
      let r := ruleDef kind
      let n := v.toNat % 256
      let w := v.toNat / 256 % 2 ^ 20
      (ustate s pCHF = 0 → r.n ≠ 0 → 1 ≤ n → n ≤ r.n → r.w ≤ w → ∃ t, exec (.ruleValWrite 0 id v) s = .next t ∧ t.tp = okTo id ∧
        (ruleOf t kind).n = n ∧ (ruleOf t kind).w = w ∧ (∀ j, j ≠ kind → ruleOf t j = ruleOf s j) ∧ AccessOnly s t ∧
        KeepRegs s t (· ∈ accessKeys pCHF)) ∧
      (ustate s pCHF = 0 → r.n ≠ 0 → n = 0 ∨ r.n < n ∨ w < r.w → ∃ t, exec (.ruleValWrite 0 id v) s = .next t ∧ t.tp = okTo id ∧
        (∀ j, ruleOf t j = ruleOf s j) ∧ rd t (pg pCHF) HDR.CHK.REASON = 0x0415 ∧ AccessOnly s t) ∧
      (ustate s pCHF ≠ 0 → ∃ t, exec (.ruleValWrite 0 id v) s = .next t ∧ (∀ j, ruleOf t j = ruleOf s j) ∧ AccessOnly s t ∧
        KeepRegs s t (· ∈ accessKeys pCHF)))

/-- The registers of test access while they are permitted: the probe arms and its stamps read 0xFFFF_FFFF again, a chaff injection goes out
as the source's own message, poison is set up, and a memory test starts; and each is refused without its permission (R503 to R515).
A memory test ends with its result, the count of failing words and the first of them, and MEMTEST_DONE; a wrap passes the fc until
CYCLES, or the first counter that counts kclk cycles, passes 2^48 − 1 (R506, R508, R515). -/
def Obligations.TestAccessActsAndEnds : Prop :=
  (∀ (src id : BitVec 8) (v : BitVec 32) (s : State), let b := pg pPMU
      SMap.get? s.unlocks pPMU = none →
      (CanWrite s src.toNat pPMU 0x50 → ustate s pPMU = 2 → bitAt v.toNat 31 = true → ∃ t, exec (.probeCtlWrite src id v) s = .next t ∧
        t.tp = okTo id ∧ rd t b PMU.PROBE_CTL.SQ = v.toNat % 2 ^ 13 ∧ rd t b PMU.PROBE_STAT.ARMED = 1 ∧ rd t b PMU.PROBE_STAT.DONE = 0 ∧
        t.probeEid = none ∧ (∀ n < 8, rd t b (PMU.PROBE_STAMP.KC.at n) = 0xFFFFFFFF) ∧ t = { s with regs := t.regs, tp := t.tp, probeEid := none }) ∧
      (CanWrite s src.toNat pPMU 0x8C → injReason s v.toNat = 0 → bitAt v.toNat 31 = true →
        let k := v.toNat % 65536
        ∃ t, exec (.chaffInj src id v) s = .next t ∧ t.tp = okTo id ∧ t = { s with regs := t.regs, chaff := t.chaff, tp := t.tp } ∧
          (0 < (srcOf s k).credits → Tells s t { faultMsg (k / 256) (k % 256) (v.toNat / 65536 % 4096) with detail := rd s b PMU.CHAFF_INJ_DETAIL.DETAIL } ∧
            flag t b PMU.CHAFF_INJ.GO = false) ∧
          ((srcOf s k).credits = 0 → t.chaff = s.chaff ∧ flag t b PMU.CHAFF_INJ.GO = true)) ∧
      (CanWrite s src.toNat pPMU 0x8C → testPermit s = false → ∃ t, exec (.chaffInj src id v) s = .next t ∧ rd t b HDR.CHK.REASON = 0x0A10 ∧
        flag t b PMU.CHAFF_INJ.GO = flag s b PMU.CHAFF_INJ.GO ∧ AccessOnly s t) ∧
      (CanWrite s src.toNat pPMU 0x88 → testPermit s = true → ∃ t, exec (.poisonInjWrite src id v) s = .next t ∧ t.tp = okTo id ∧
        rd t b PMU.POISON_INJ.PORT = v.toNat % 16 ∧ rd t b PMU.POISON_INJ.KIND = v.toNat / 16 % 2 ∧ rd t b PMU.POISON_INJ.COUNT = v.toNat / 256 % 256 ∧
        AccessOnly s t ∧ KeepRegs s t fun k => k ∈ accessKeys pPMU ∨ InWord (b + 0x88) k) ∧
      (CanWrite s src.toNat pPMU 0x94 → memPermit s = true → flag s b PMU.MEMTEST.GO = false → bitAt v.toNat 16 = true →
        memTestable s (v.toNat % 16) (v.toNat / 16 % 64) = true → ∃ t, exec (.memtest src id v) s = .next t ∧ t.tp = okTo id ∧
        flag t b PMU.MEMTEST.GO = true ∧ rd t b PMU.MEMTEST.TARGET = v.toNat % 16 ∧ rd t b PMU.MEMTEST.UNIT = v.toNat / 16 % 64 ∧
        rd t b PMU.MEMTEST_STAT.RESULT = 0 ∧ AccessOnly s t)) ∧
  ((∀ (first fails : BitVec 32) (s : State), let b := pg pPMU
      s.phase = .run → flag s b PMU.MEMTEST.GO = true →
      ∃ t, exec (.memtestDone first fails) s = .next t ∧ flag t b PMU.MEMTEST.GO = false ∧
        rd t b PMU.MEMTEST_STAT.RESULT = (if fails = 0 then 1 else 2) ∧ rd t b PMU.MEMTEST_STAT.FAILS = min fails.toNat 0xFFFF ∧
        rd t b PMU.MEMTEST_ADDR.OFFSET = (if fails = 0 then 0 else first.toNat) % 2 ^ PMU.MEMTEST_ADDR.OFFSET.w ∧
        bitAt (rd t b HDR.EVT.BITS) PMU.EVT.MEMTEST_DONE = true ∧ (rd s b PMU.MEMTEST.TARGET ∉ [3, 6, 9] → t = { s with regs := t.regs }) ∧
        (rd s b PMU.MEMTEST.TARGET = 3 → t.rch.stash = []) ∧ (rd s b PMU.MEMTEST.TARGET = 9 → t.tef.capture = []) ∧ t.jobs = s.jobs ∧ t.kcc = s.kcc) ∧
    ∀ s : State, s.phase = .run → enabled s pPMU = true →
      (∃ t, exec .pmuCyclesWrap s = .next t ∧ t.fcNow = s.fcNow + wrapFc s ∧ t = { s with fcNow := t.fcNow, regs := t.regs }) ∧
      ((∀ n < 16, flag s (pg pPMU) (PMU.CNT_CFG.EN.at n) = true → rd s (pg pPMU) (PMU.CNT_CFG.EVENT.at n) ≠ 1) →
        rd s (pg pPMU) PMU.CYCLES.COUNT < 2 ^ 48 → 2 ^ 48 ≤ rd s (pg pPMU) PMU.CYCLES.COUNT + 2 * wrapFc s ∧
          rd s (pg pPMU) PMU.CYCLES.COUNT + 2 * wrapFc s < 2 ^ 48 + 2))

/-! ### The Rachis: rings, doorbells, vectors and stash windows -/

/-- A submission ring that passes its checks becomes ACTIVE at its start index, BATCH_MAX 0 standing for 64; one that fails keeps EN = 0
and says why; a STOPPED_ERROR ring resumes at RESUME_INDEX where its CQ is ACTIVE and the index is free (R101, R103, R107).
SQ_CTL.EN = 0 drains an ACTIVE or STOPPED_ERROR ring: it is DRAINING, none of its entries waits for a spike, and with nothing taken
nothing else moves; a drained ring becomes DISABLED, and a DISABLING Rachis follows its last one (R101, R104, R109). -/
def Obligations.RingsStartAndDrain : Prop :=
  (∀ (src id : BitVec 8) (sq : BitVec 13) (ctl : BitVec 32) (s : State), let q := sq.toNat; let b := sqB sq.toNat
      CanWriteEntry s src.toNat .sq q 0xC →
      (sqState s q = 0 → sqChecks s q = 0 → ∃ t, exec (.sqEnable src id sq ctl) s = .next t ∧ t.tp = okTo id ∧ sqState t q = 1 ∧
        rd t b SQ.CTL.EN = 1 ∧ rd t b SQ.STAT.CURSOR = rd s b SQ.START.INDEX % 2 ^ 16 ∧ rd t b SQ.POS.OLDEST = rd s b SQ.START.INDEX % 2 ^ 16 ∧
        rd t b SQ.INFLIGHT.ENTRIES = 0 ∧ rd t b SQ.CHK.REASON = 0 ∧ sqx t q = freshSq ∧
        rd t b SQ.CTL.BATCH_MAX = (if ctl.toNat / 65536 = 0 then 64 else ctl.toNat / 65536) ∧ (∀ r, r ≠ q → sqx t r = sqx s r) ∧
        t = { s with regs := t.regs, rch := { s.rch with sqs := t.rch.sqs }, tp := t.tp } ∧
        KeepRegs s t fun k => b ≤ k / 64 ∧ k / 64 < b + 64) ∧
      (sqState s q = 0 → sqChecks s q ≠ 0 → ∃ t, exec (.sqEnable src id sq ctl) s = .next t ∧ t.tp = okTo id ∧ sqState t q = 0 ∧
        rd t b SQ.CTL.EN = 0 ∧ rd t b SQ.CHK.REASON = sqChecks s q ∧ bitAt (rd t (pg pRCH) HDR.EVT.BITS) RCH.EVT.RING_CHK = true ∧
        t = { s with regs := t.regs, tp := t.tp }) ∧
      (enabled s pRCH = false → sqChecks s q = 0x1504) ∧
      (enabled s pRCH = true → sqDepth s q ≤ rd s b SQ.START.INDEX → sqChecks s q = 0x1505) ∧
      (sqState s q = 2 → cqState s (sqCq s q) ≠ 1 → ∃ t, exec (.sqResume src id sq ctl) s = .next t ∧ sqState t q = 2 ∧
        rd t b SQ.CHK.REASON = 0x1513 ∧ t = { s with regs := t.regs, tp := t.tp }) ∧
      (let d := sqDepth s q
       let i := rd s b SQ.START.RESUME_INDEX
       let start := if (sqx s q).haltDone then (rd s b SQ.ERR.INDEX + 1) % d else rd s b SQ.STAT.CURSOR
       let skip := (i + d - start) % d
       let room := (rd s b SQ.POS.OLDEST + d - start) % d
       sqState s q = 2 → cqState s (sqCq s q) = 1 → (∀ e ∈ (sqx s q).ents, e.st ≠ .stuck ∧ e.st ≠ .gift) →
         (i < d → i < 2 ^ 16 → (sqx s q).ents = [] ∨ skip < room → ∃ t, exec (.sqResume src id sq ctl) s = .next t ∧ t.tp = okTo id ∧
           sqState t q = 1 ∧ rd t b SQ.STAT.CURSOR = i ∧ rd t b SQ.CHK.REASON = 0 ∧ rd t b SQ.ERR.DETAIL = 0 ∧ (sqx t q).dbInHalt = false ∧
           t.jobs = s.jobs ∧ t.rch.dq = s.rch.dq ∧ t.rch.compls = s.rch.compls) ∧
         (d ≤ i ∨ ((sqx s q).ents ≠ [] ∧ room ≤ skip) → ∃ t, exec (.sqResume src id sq ctl) s = .next t ∧ sqState t q = 2 ∧
           rd t b SQ.CHK.REASON = 0x151A ∧ rd t b SQ.STAT.CURSOR = rd s b SQ.STAT.CURSOR))) ∧
  ((∀ (src id : BitVec 8) (sq : BitVec 13) (ctl : BitVec 32) (s : State), let q := sq.toNat; let b := sqB sq.toNat
      CanWriteEntry s src.toNat .sq q 0xC →
      (sqState s q = 1 ∨ sqState s q = 2 → ∃ t, exec (.sqDisable src id sq ctl) s = .next t ∧ t.tp = okTo id ∧ sqState t q = 3 ∧
        rd t b SQ.CTL.EN = 0 ∧ (∀ d ∈ t.rch.dq, d.sq = q → d.peer.isSome = true) ∧
        ((sqx s q).ents = [] → (sqx s q).batches = [] → s.rch.dq = [] → s.jobs = [] → s.clm = [] →
          (sqx t q).park = none ∧ rd t b SQ.STAT.SCAN_PENDING = 0 ∧ t.rch.compls = s.rch.compls ∧
          t = { s with regs := t.regs, rch := { s.rch with sqs := t.rch.sqs }, tp := t.tp } ∧
          KeepRegs s t fun k => b ≤ k / 64 ∧ k / 64 < b + 64)) ∧
      (sqState s q = 0 ∨ sqState s q = 3 → ∃ t, exec (.sqDisable src id sq ctl) s = .next t ∧ t.tp = okTo id ∧ sqState t q = sqState s q ∧
        t = { s with regs := t.regs, tp := t.tp } ∧ KeepRegs s t (· = fkey b SQ.CTL.BATCH_MAX))) ∧
    ∀ (sq : BitVec 13) (s : State), let q := sq.toNat
      s.phase = .run →
      (sqDrained s q = true → ∃ t, exec (.sqDrainDone sq) s = .next t ∧ sqState t q = 0 ∧ t = { s with regs := t.regs } ∧
        (ustate s pRCH = 3 → (∀ r ∈ liveSqs s, r = q) → ustate t pRCH = 0) ∧
        KeepRegs s t fun k => k = fkey (sqB q) SQ.STAT.STATE ∨ k = fkey (pg pRCH) HDR.STAT.STATE) ∧
      (sqState s q ≠ 3 ∨ rd s (sqB q) SQ.INFLIGHT.ENTRIES ≠ 0 ∨ (sqx s q).ents ≠ [] ∨ (∃ c ∈ s.rch.compls, c.sq = q) →
        exec (.sqDrainDone sq) s = .next s))

/-- A completion ring that passes its checks becomes ACTIVE with its tail at 0; it is disabled only while no submission ring uses it, and
else stays with CHK 0x1519 (R105, R108).
A doorbell on a valid slot wakes an ACTIVE ring, is noted for a ring stopped by an error, sets RCH.EVT.DB_IDLE for one that is not to be
scanned, and is told where the ring is of another port; on a slot that is not valid, or of a port that is off, it counts as dropped. The
map takes an entry or refuses it with a NOTICE; the port's control changes EN and REALM for port 0 within its limits and CLASS_MIN always
(the model's choice where an EN = 0 is ignored, log entry 62), another port's change of EN or REALM is told; and its vector range takes
what is in range (R70 to R73, R82). -/
def Obligations.CompletionRingsAndDoorbells : Prop :=
  (∀ (src id : BitVec 8) (cq : BitVec 13) (ctl : BitVec 32) (s : State), let c := cq.toNat; let b := cqB cq.toNat
      CanWriteEntry s src.toNat .cq c 0xC →
      (cqState s c = 0 → cqChecks s c = 0 → ∃ t, exec (.cqEnable src id cq ctl) s = .next t ∧ t.tp = okTo id ∧ cqState t c = 1 ∧
        rd t b CQ.CTL.EN = 1 ∧ rd t b CQ.STAT.TAIL = 0 ∧ rd t b CQ.SEQ.CHK = 0 ∧ t.rch.cqsOn = c :: s.rch.cqsOn ∧
        t = { s with regs := t.regs, rch := { s.rch with cqsOn := t.rch.cqsOn }, tp := t.tp } ∧
        KeepRegs s t (· ∈ [fkey b CQ.CTL.EN, fkey b CQ.STAT.STATE, fkey b CQ.STAT.TAIL, fkey b CQ.SEQ.CHK])) ∧
      (cqState s c = 0 → cqChecks s c ≠ 0 → ∃ t, exec (.cqEnable src id cq ctl) s = .next t ∧ cqState t c = 0 ∧ rd t b CQ.CTL.EN = 0 ∧
        rd t b CQ.SEQ.CHK = cqChecks s c ∧ bitAt (rd t (pg pRCH) HDR.EVT.BITS) RCH.EVT.RING_CHK = true ∧ t = { s with regs := t.regs, tp := t.tp }) ∧
      (enabled s pRCH = true → rd s b CQ.CFG.LOG2_DEPTH < 6 ∨ 16 < rd s b CQ.CFG.LOG2_DEPTH → cqChecks s c = 0x1505) ∧
      (cqState s c ≠ 0 → sqsOfCq s c = [] → ∃ t, exec (.cqDisable src id cq ctl) s = .next t ∧ t.tp = okTo id ∧ cqState t c = 0 ∧
        rd t b CQ.CTL.EN = 0 ∧ c ∉ t.rch.cqsOn ∧ (∀ d, d ≠ c → (d ∈ t.rch.cqsOn ↔ d ∈ s.rch.cqsOn)) ∧
        t = { s with regs := t.regs, rch := { s.rch with cqsOn := t.rch.cqsOn }, tp := t.tp } ∧
        KeepRegs s t (· ∈ [fkey b CQ.CTL.EN, fkey b CQ.STAT.STATE, fkey b CQ.SEQ.CHK])) ∧
      (cqState s c ≠ 0 → sqsOfCq s c ≠ [] → ∃ t, exec (.cqDisable src id cq ctl) s = .next t ∧ cqState t c = cqState s c ∧
        rd t b CQ.SEQ.CHK = 0x1519 ∧ t = { s with regs := t.regs, tp := t.tp } ∧ KeepRegs s t (· = fkey b CQ.SEQ.CHK))) ∧
  ((∀ (src id : BitVec 8) (wide : Bool) (slot : BitVec 9) (s : State), let p := src.toNat; let k := slot.toNat
      let q := rd s (ppB p) (PP.DB_MAP.SQ.at k)
      s.phase = .run → portAccepted s p = true → p ≠ 254 → p ≠ 255 →
      (flag s (ppB p) (PP.DB_MAP.VALID.at k) = true → portEn s p = true → sqPort s q = p →
        (takesBells s = true → sqState s q = 1 ∨ sqState s q = 2 → ∃ t, exec (.doorbell src id wide src slot) s = .next t ∧ t.tp = okTo id ∧
          rd t (sqB q) SQ.STAT.SCAN_PENDING = 1 ∧ rd t (sqB q) SQ.DOORBELLS.COUNT = min (rd s (sqB q) SQ.DOORBELLS.COUNT + 1) (2 ^ 64 - 1) ∧
          rd t (ppB p) PP.DB_ACCEPTED.COUNT = min (rd s (ppB p) PP.DB_ACCEPTED.COUNT + 1) (2 ^ 64 - 1) ∧
          (sqState s q = 1 → t.rch = s.rch) ∧ (sqState s q = 2 → sqx t q = { sqx s q with dbInHalt := true } ∧ ∀ r, r ≠ q → sqx t r = sqx s r) ∧
          t = { s with regs := t.regs, rch := { s.rch with sqs := t.rch.sqs }, probeFc := t.probeFc, probeEid := t.probeEid, tp := t.tp }) ∧
        (takesBells s = false ∨ sqState s q = 0 ∨ sqState s q = 3 → ∃ t, exec (.doorbell src id wide src slot) s = .next t ∧ t.tp = okTo id ∧
          rd t (sqB q) SQ.STAT.SCAN_PENDING = rd s (sqB q) SQ.STAT.SCAN_PENDING ∧
          bitAt (rd t (pg pRCH) HDR.EVT.BITS) RCH.EVT.DB_IDLE = true ∧ t = { s with regs := t.regs, tp := t.tp })) ∧
      (flag s (ppB p) (PP.DB_MAP.VALID.at k) = true → portEn s p = true → sqPort s q ≠ p →
        ∃ t, exec (.doorbell src id wide src slot) s = .next t ∧ t.tp = okTo id ∧ t = { s with regs := t.regs, chaff := t.chaff, tp := t.tp } ∧
          Tells s t { unit := 0x15, member := 0, kind := 0x601, access := 3, port := p, addr := 0x300000 + p * 4096 + k * 8, detail := 0x1510 }) ∧
      (flag s (ppB p) (PP.DB_MAP.VALID.at k) = false ∨ portEn s p = false → ∃ t, exec (.doorbell src id wide src slot) s = .next t ∧ t.tp = okTo id ∧
        rd t (ppB p) PP.DB_DROPPED.COUNT = min (rd s (ppB p) PP.DB_DROPPED.COUNT + 1) (2 ^ 32 - 1) ∧ rd t (ppB p) PP.EVT.DB_DROP = 1 ∧
        (∀ q, rd t (sqB q) SQ.STAT.SCAN_PENDING = rd s (sqB q) SQ.STAT.SCAN_PENDING) ∧ t.jobs = s.jobs)) ∧
    ∀ (src id port : BitVec 8) (slot : BitVec 9) (v : BitVec 32) (s : State), let p := port.toNat; let k := slot.toNat
      (CanWriteEntry s src.toNat .pp p (0x800 + 4 * k) →
        let q := v.toNat % 8192
        let old := rd s (ppB p) (PP.DB_MAP.SQ.at k)
        let on := bitAt v.toNat 31
        let busy := flag s (ppB p) (PP.DB_MAP.VALID.at k) = true ∧ (q ≠ old ∨ on = false) ∧ sqState s old ≠ 0
        let wrong := on = true ∧ (sqPort s q ≠ p ∨ s.part.rings ≤ q)
        (¬busy → ¬wrong → ∃ t, exec (.ppDbMapWrite src id port slot v) s = .next t ∧ t.tp = okTo id ∧ rd t (ppB p) (PP.DB_MAP.SQ.at k) = q ∧
          rd t (ppB p) (PP.DB_MAP.VALID.at k) = bit on ∧ t = { s with regs := t.regs, tp := t.tp } ∧
          KeepRegs s t fun q => InWord (ppB p + 0x800 + 4 * k) q) ∧
        (busy ∨ wrong → ∃ t, exec (.ppDbMapWrite src id port slot v) s = .next t ∧ t = { s with tp := okTo id, chaff := t.chaff } ∧
          Tells s t { unit := 0x15, member := 0, kind := 0x003, access := 2, port := src.toNat, addr := ppB p + 0x800 + 4 * k, detail := 0x1510 })) ∧
      (CanWriteEntry s src.toNat .pt p 0 →
        let en := flag s (ptB p) PT.CTL.EN
        let on := bitAt v.toNat 0
        let had := rd s (ptB p) PT.CTL.REALM
        let r := if en then had else v.toNat / 65536 % 1024
        (p = 0 → exec (.ptCtlWrite src id port v) s = .next { s with tp := okTo id }) ∧
        (p ≠ 0 → ∃ t, exec (.ptCtlWrite src id port v) s = .next t ∧ t.tp = okTo id ∧ rd t (ptB p) PT.CTL.CLASS_MIN = v.toNat / 16 % 4 ∧
          (src = 0 → rd t (ptB p) PT.CTL.REALM = r ∧
            flag t (ptB p) PT.CTL.EN = (if on then en || realmActive s r else en && !(sqsOfPort s p).isEmpty) ∧
            (on = true → en = false → realmActive s r = false → Tells s t { faultMsg 0x15 0 0x005 with detail := 0x1512 })) ∧
          (src ≠ 0 → rd t (ptB p) PT.CTL.REALM = had ∧ flag t (ptB p) PT.CTL.EN = en ∧ (on ≠ en ∨ v.toNat / 65536 % 1024 ≠ had →
            Tells s t { unit := 2, member := 0, kind := 0x004, access := 2, port := src.toNat, addr := ptB p, detail := anyDetail 0x004 })) ∧
          t = { s with regs := t.regs, chaff := t.chaff, tp := t.tp } ∧ KeepRegs s t (InWord (ptB p)))) ∧
      (CanWriteEntry s src.toNat .pt p 8 → p ≠ 0 →
        (v.toNat % 1024 + v.toNat / 65536 % 2048 ≤ 1024 → ∃ t, exec (.ptMsiWrite src id port v) s = .next t ∧ t.tp = okTo id ∧
          rd t (ptB p) PT.MSI.VEC_BASE = v.toNat % 1024 ∧ rd t (ptB p) PT.MSI.VEC_COUNT = v.toNat / 65536 % 2048 ∧
          rd t (ptB p) PT.MSI.MGMT_VEC_EN = v.toNat / 2 ^ 31 ∧ t = { s with regs := t.regs, tp := t.tp } ∧ KeepRegs s t (InWord (ptB p + 8))) ∧
        (1024 < v.toNat % 1024 + v.toNat / 65536 % 2048 → exec (.ptMsiWrite src id port v) s = .next { s with tp := okTo id })))

/-- VEC_CTL masks the vector named and clears its error on a 1; unmasking a pending vector that is not in flight sends it (R41). STW_SIZE
takes a size from 2^16 to 2^36 for a window that is off, and changes EN only where no live ring lies in the window and, to enable it, its
base is aligned; what is refused is told. That a refused change of EN still stores the size is the model's choice (R38, R110, log entry 15).
The stash channel: a full line of a ring of the naming port is kept in place of the oldest line where the buffer is full, a line already
there is changed where it stands, a partial line that is not there, a line of no live ring, and one of another port, which goes from the
buffer, count as dropped, and an invalidation drops its line; with STASH_EN clear nothing changes (R40, R84, R110). -/
def Obligations.VectorsWindowsAndStash : Prop :=
  (∀ (src id : BitVec 8) (n : BitVec 4) (v : BitVec 32) (s : State),
      (let k := rd s (pg pRCH) RCH.VEC_SEL.VECTOR
       let x := vec s k
       CanWrite s src.toNat pRCH 0x90 →
         (x.pending = false ∨ bitAt v.toNat 0 = true ∨ x.inflight = true → ∃ t, exec (.vecCtlWrite src id v) s = .next t ∧ t.tp = okTo id ∧
           vec t k = { x with mask := bitAt v.toNat 0, err := x.err && !bitAt v.toNat 3 } ∧ (∀ j, j ≠ k → vec t j = vec s j) ∧
           t = { s with regs := t.regs, rch := { s.rch with vecs := t.rch.vecs }, chaff := t.chaff, tp := t.tp, unlocks := t.unlocks }) ∧
         (x.pending = true → bitAt v.toNat 0 = false → x.inflight = false → ∃ t, exec (.vecCtlWrite src id v) s = .next t ∧ t.tp = okTo id ∧
           vec t k = { x with mask := false, err := x.err && !bitAt v.toNat 3, inflight := true, pending := false } ∧
           (∀ j, j ≠ k → vec t j = vec s j) ∧ Asks t (.msi k) ∧ t.jobs = s.jobs)) ∧
      (let b := pg pRCH
       let w := n.toNat
       let k := v.toNat % 64
       let en := bitAt v.toNat 31
       let cur := flag s b (RCH.STW_SIZE.EN.at w)
       let size := if cur then rd s b (RCH.STW_SIZE.LOG2_SIZE.at w) else k
       let why := if en ≠ cur ∧ sqInside s (stwBase s w) size = true then 0x1519
         else if en = true ∧ cur = false ∧ stwBase s w % 2 ^ k ≠ 0 then 0x1506 else 0
       let told := fun (t : State) (e : Nat) => SMap.get? s.unlocks pRCH = none →
         Tells s t { unit := 0x15, member := 0, kind := 0x003, access := 2, port := src.toNat, addr := b + 0x108 + 16 * w, detail := e }
       CanWrite s src.toNat pRCH (0x108 + 16 * w) →
         (k < 16 ∨ 36 < k → ∃ t, exec (.stwSizeWrite src id n v) s = .next t ∧ t.tp = okTo id ∧ told t 0x1505 ∧ AccessOnly s t ∧
           KeepRegs s t (· ∈ accessKeys pRCH)) ∧
         (16 ≤ k → k ≤ 36 → ∃ t, exec (.stwSizeWrite src id n v) s = .next t ∧ t.tp = okTo id ∧ rd t b (RCH.STW_SIZE.LOG2_SIZE.at w) = size ∧
           (why = 0 → flag t b (RCH.STW_SIZE.EN.at w) = en) ∧ (why ≠ 0 → flag t b (RCH.STW_SIZE.EN.at w) = cur ∧ told t why) ∧ AccessOnly s t ∧
           KeepRegs s t fun q => q ∈ accessKeys pRCH ∨ InWord (b + 0x108 + 16 * w) q))) ∧
  (∀ (line : BitVec 42) (data : BitVec 512) (be : BitVec 64) (port : BitVec 8) (s : State), let a := line.toNat * 64
      let new : StashLine := { addr := a, data := beatBytes data }
      let stashOnly := fun (t : State) => t = { s with rch := { s.rch with stash := t.rch.stash } }
      let dropped := fun (t : State) =>
        rd t (pg pRCH) RCH.STASH_DROPPED.COUNT = min (rd s (pg pRCH) RCH.STASH_DROPPED.COUNT + 1) (2 ^ RCH.STASH_DROPPED.COUNT.w - 1) ∧
        t = { s with regs := t.regs, rch := { s.rch with stash := t.rch.stash } } ∧ KeepRegs s t (· = fkey (pg pRCH) RCH.STASH_DROPPED.COUNT)
      s.phase = .run →
      (stashOn s = false → exec (.stashCopy line data be port) s = .next s ∧ exec (.stashInval line) s = .next s) ∧
      (stashOn s = true → ∃ t, exec (.stashInval line) s = .next t ∧ stashLine t a = none ∧ (∀ c, c ≠ a → stashLine t c = stashLine s c) ∧ stashOnly t) ∧
      (stashOn s = true → sqOfLine s a = none → ∃ t, exec (.stashCopy line data be port) s = .next t ∧ dropped t ∧ t.rch = s.rch) ∧
      ∀ q, stashOn s = true → sqOfLine s a = some q →
        (sqPort s q = port.toNat → be = -1 → stashLine s a = none →
          (s.rch.stash.length < s.part.stashLines → ∃ t, exec (.stashCopy line data be port) s = .next t ∧ t.rch.stash = s.rch.stash ++ [new] ∧ stashOnly t) ∧
          (s.part.stashLines ≤ s.rch.stash.length → ∃ t, exec (.stashCopy line data be port) s = .next t ∧
            t.rch.stash = s.rch.stash.drop 1 ++ [new] ∧ stashOnly t)) ∧
        (sqPort s q = port.toNat → be ≠ -1 → stashLine s a = none → ∃ t, exec (.stashCopy line data be port) s = .next t ∧ dropped t ∧ t.rch = s.rch) ∧
        (sqPort s q = port.toNat → ∀ old, stashLine s a = some old → ∃ t, exec (.stashCopy line data be port) s = .next t ∧
          stashLine t a = some (mergeBe be.toNat old (beatBytes data)) ∧ (be = -1 → stashLine t a = some (beatBytes data)) ∧
          (∀ c, c ≠ a → stashLine t c = stashLine s c) ∧ t.rch.stash.map (·.addr) = s.rch.stash.map (·.addr) ∧ stashOnly t) ∧
        (sqPort s q ≠ port.toNat → ∃ t, exec (.stashCopy line data be port) s = .next t ∧ dropped t ∧ stashLine t a = none ∧
          ∀ c, c ≠ a → stashLine t c = stashLine s c))

/-- A visit of an ACTIVE ring with room: a header that the block does not own ends it; a malformed one halts the ring with its detail, 1, 2
and 7 by the header alone and 3 to 6 once all its lines are at hand; a link entry goes to index 0; a good entry outside a batch goes to the
dispatch queue; and a line not at hand parks the ring on reads. A visit that begins clears SCAN_PENDING, one that goes on leaves it (R83,
R85, R86, R102, R112). -/
def Obligations.VisitsReadTheRing : Prop :=
  ∀ (s : State) (q r : Nat), let b := sqB q; let cur := rd s (sqB q) SQ.STAT.CURSOR; let depth := sqDepth s q
    let bell := if (sqx s q).park.isSome then rd s b SQ.STAT.SCAN_PENDING else 0
    s.phase = .run → scanning s = true → grantSlot s = some (q, r) → sqState s q = 1 → (sqx s q).span < depth →
    (getUnit s q cur = none → ∃ t, exec .scanVisit s = .next t ∧ (sqx t q).park.isSome = true ∧ rd t b SQ.STAT.SCAN_PENDING = bell ∧
      sqState t q = 1 ∧ rd t b SQ.STAT.CURSOR = cur ∧ t.rch.dq = s.rch.dq) ∧
    ∀ h, getUnit s q cur = some h → let h0 := leNat (slice h 0 8); let h1 := leNat (slice h 8 8); let units := bitsAt h0 1 4 + 1
      let fits := bitAt h0 0 = true ∧ cur + units ≤ depth ∧ units ≤ depth - (sqx s q).span
      let steps := bitsAt h0 8 4
      let atHand := ∀ i < units, (getUnit s q (cur + i)).isSome = true
      let clean := h0 &&& 0xFFFE00E0 = 0 ∧ h1 &&& 0xFC00F80000800000 = 0
      let room := 64 * units
      let need := 16 * (1 + steps + bitsAt h1 37 6) + bitsAt h1 48 10
      (bitAt h0 0 = false → ∃ t, exec .scanVisit s = .next t ∧ (sqx t q).park = none ∧ rd t b SQ.STAT.SCAN_PENDING = bell ∧
        rd t b SQ.STAT.CURSOR = cur ∧ sqState t q = 1 ∧ t.rch.dq = s.rch.dq ∧ t.jobs = s.jobs ∧ t.fab = s.fab) ∧
      (∀ d, (bitAt h0 0 = true ∧ depth < cur + units ∧ d = 1) ∨ (bitAt h0 0 = true ∧ cur + units ≤ depth ∧ depth - (sqx s q).span < units ∧ d = 7) ∨
          (fits ∧ steps = 0 ∧ cur + units ≠ depth ∧ d = 2) ∨ (fits ∧ steps ≠ 0 ∧ atHand ∧ ((¬clean ∧ d = 3) ∨ (clean ∧ 62 < bitsAt h1 37 6 ∧ d = 6) ∨
            (clean ∧ bitsAt h1 37 6 ≤ 62 ∧ 960 < bitsAt h1 48 10 ∧ d = 5) ∨
            (clean ∧ bitsAt h1 37 6 ≤ 62 ∧ bitsAt h1 48 10 ≤ 960 ∧ room < need ∧ d = 4))) →
        ∃ t, exec .scanVisit s = .next t ∧ sqState t q = 2 ∧ rd t b SQ.ERR.DETAIL = d ∧ rd t b SQ.ERR.INDEX = cur % 2 ^ 16 ∧
          bitAt (rd t (pg pRCH) HDR.EVT.BITS) RCH.EVT.RING_HALT = true) ∧
      (fits → steps = 0 → cur + units = depth → ∃ t, exec .scanVisit s = .next t ∧ rd t b SQ.STAT.CURSOR = 0 ∧ rd t b SQ.STAT.SCAN_PENDING = 1 ∧
        (sqx t q).span = (sqx s q).span + units ∧ t.rch.dq = s.rch.dq ∧ t.jobs = s.jobs ∧ t.fab = s.fab) ∧
      (fits → steps ≠ 0 → ¬atHand → ∃ t, exec .scanVisit s = .next t ∧ (sqx t q).park.isSome = true ∧ rd t b SQ.STAT.SCAN_PENDING = bell ∧
        rd t b SQ.STAT.CURSOR = cur ∧ sqState t q = 1 ∧ t.rch.dq = s.rch.dq ∧ t.jobs = s.jobs) ∧
      (fits → steps ≠ 0 → atHand → clean → bitsAt h1 37 6 ≤ 62 → bitsAt h1 48 10 ≤ 960 → need ≤ room →
        bitsAt h0 14 3 = 0 → (sqx s q).batches = [] → locked s = false →
        (if sqPort s q = 0 then 0 else rd s (ptB (sqPort s q)) PT.CTL.CLASS_MIN) ≤ bitsAt h0 12 2 →
        (bitsAt h0 12 2 = 0 → flag s b SQ.CFG.EXPRESS = true) →
        ∃ t, exec .scanVisit s = .next t ∧ rd t b SQ.STAT.CURSOR = (cur + units) % depth % 2 ^ 16 ∧ rd t b SQ.STAT.SCAN_PENDING = 1 ∧
          (sqx t q).span = (sqx s q).span + units ∧ t.jobs = s.jobs ∧ t.rch.dq = s.rch.dq ++
            [{ sq := q, eid := s.rch.nextEid, index := cur, units, bytes := (List.range units).flatMap fun i => (getUnit s q (cur + i)).getD [],
               cls := bitsAt h0 12 2, peer := none, stay := false }])

/-- The completion that is due goes out, and with it those of its CQ that are due and whose entries share a line with it: they take CQ
entries at the tail with the next sequence numbers, and their writes are asked for; on a FAULTED CQ it counts as discarded and its
spikelets are free. The answered entries at the head of a ring that follow one another in a 4 KiB page are given back with one
ownership-clearing write, and an unanswered head with none (R23, R90, R96, R105). -/
def Obligations.CompletionsAndReturnsGoOut : Prop :=
  (∀ (s : State) (c : Compl), let b := cqB c.cq
    let cs := complRun (rd s b CQ.STAT.TAIL) (c :: (dueCompls s).filter fun d => d.cq == c.cq && d.cid != c.cid)
    let n := cs.foldl (fun m d => m + cqEntries d.result.length) 0
    s.phase = .run → dueCompl s = some c →
    (cqState s c.cq = 1 → cqDepth s c.cq ≤ 2 ^ 16 → ∃ t, exec .completionWrite s = .next t ∧
      rd t b CQ.STAT.TAIL = (rd s b CQ.STAT.TAIL + n) % cqDepth s c.cq ∧ rd t b CQ.SEQ.NEXT = (rd s b CQ.SEQ.NEXT + n) % 2 ^ 16 ∧
      rd t b CQ.WRITTEN.COUNT = min (rd s b CQ.WRITTEN.COUNT + n) (2 ^ 48 - 1) ∧ t.jobs = s.jobs ∧ t.rch.sqs = s.rch.sqs ∧
      (∀ d ∈ s.rch.compls, (∀ e ∈ cs, e.cid ≠ d.cid) → d ∈ t.rch.compls) ∧
      ∀ e ∈ cs, (∀ d ∈ t.rch.compls, d.cid = e.cid → d.posted = true) ∧ ∃ l, e.cid ∈ l ∧ Asks t (.cqe l)) ∧
    (cqState s c.cq ≠ 1 → ∃ t, exec .completionWrite s = .next t ∧
      rd t b CQ.WRITTEN.DISCARDED = min (rd s b CQ.WRITTEN.DISCARDED + cqEntries c.result.length) (2 ^ 16 - 1) ∧
      (∀ d ∈ t.rch.compls, d.cid ≠ c.cid) ∧ (∀ d ∈ s.rch.compls, d.cid ≠ c.cid → d ∈ t.rch.compls) ∧ rd t b CQ.STAT.TAIL = rd s b CQ.STAT.TAIL ∧
      (SMap.Wf s.jobs → ∀ j ∈ c.jobs, job? t j = none) ∧ (∀ j, j ∉ c.jobs → job? t j = job? s j) ∧ t.fab = s.fab)) ∧
  ∀ (sq : BitVec 13) (s : State) (e : RingEnt) (es : List RingEnt), let q := sq.toNat
    let run := (dueRun (e.index / 64) none (e :: es)).map (·.eid)
    s.phase = .run → (sqx s q).ents = e :: es →
    (e.st = .answered ∨ e.st = .retry → ∃ t, exec (.sqReturn sq) s = .next t ∧ e.eid ∈ run ∧ Asks t (.ret q run) ∧
      (∀ f ∈ (sqx t q).ents, f.eid ∈ run → f.st = .returning 0 ∨ f.st = .returning 1) ∧ (sqx t q).ents.map (·.eid) = (sqx s q).ents.map (·.eid) ∧
      (sqx t q).span = (sqx s q).span ∧ t.jobs = s.jobs ∧ t.rch.dq = s.rch.dq ∧ t.rch.compls = s.rch.compls) ∧
    (e.st ≠ .answered → e.st ≠ .retry → exec (.sqReturn sq) s = .next s)

/-! ### Operations of a chain -/

/-- NOP forms no bytes, MOVE forms its input, FILL its pattern repeated for LENGTH bytes, and COMPARE succeeds with its result pair on equal
sources and fails with COMPARE_FAIL otherwise; other steps and chains stand as they were (R131, R132). -/
def Obligations.DataMovementForms : Prop :=
  ∀ (job : BitVec 9) (step : BitVec 3) (s : State) (x : Job) (t : StepRun) (inp : Bytes), let j := job.toNat; let k := step.toNat
    (CanForm s j k 0x00 x t inp → ∃ u, exec (.nop job step) s = .next u ∧ Formed s u j k x t [] false t.checks ∧ StepOnly s u) ∧
    (CanForm s j k 0x61 x t inp → ∃ u, exec (.move job step) s = .next u ∧ Formed s u j k x t inp false t.checks ∧ StepOnly s u) ∧
    (CanForm s j k 0x62 x t inp → 8 ≤ (x.param k).length → ∃ u out, exec (.fill job step) s = .next u ∧ Formed s u j k x t out false t.checks ∧ StepOnly s u ∧
      out.length = pfield (x.param k) 8 4 ∧ ∀ i, i < pfield (x.param k) 8 4 → out[i]? = (slice (x.param k) 0 8)[i % 8]?) ∧
    (CanForm s j k 0x63 x t inp → ∀ b, input2Of x k t = some (.ok b) →
      (inp = b → ∃ u, exec (.compare job step) s = .next u ∧ Formed s u j k x t pairMatch false t.checks ∧ StepOnly s u) ∧
      (inp ≠ b → ∃ u v, exec (.compare job step) s = .next u ∧ FormedBad s u j k v ∧ v.status = 3 ∧ StepOnly s u)) ∧
    (CanForm s j k 0x54 x t inp → ∃ u, exec (.hmacPrestate job step) s = .next u ∧ Formed s u j k x t [] false t.checks ∧ StepOnly s u)

/-- An AES step forms what its mode makes of the key delivered to it, counts its blocks that were not yet counted by pipeline, and is held
where the text must be proven before it is released; a text that fails its proof forms no output and counts as withheld (R134, R198 to R212,
R225). -/
def Obligations.AesStepsForm : Prop :=
  ∀ op mk, (op, mk) ∈ [(0x10, Instr.ecb), (0x11, Instr.cbc), (0x12, Instr.ctr), (0x13, Instr.xts), (0x14, Instr.gcm), (0x15, Instr.gmac),
      (0x16, Instr.ccm), (0x17, Instr.gcmSiv), (0x18, Instr.cmac), (0x19, Instr.kw), (0x1A, Instr.kwp)] →
  ∀ (job : BitVec 9) (step : BitVec 3) (checks skipped : BitVec 16) (s : State) (x : Job) (t : StepRun) (inp : Bytes) (c : KeyCtx),
    let j := job.toNat
    let k := step.toNat
    CanForm s j k op x t inp → t.key = .ready c →
    let a := aesBlk (x.param k)
    let vo := (x.desc k).verifyOnly
    let r := aesStep op a vo c.key t.out inp
    let n := (aesBlocks op a (keyLen t) inp.length).1 + (aesBlocks op a (keyLen t) inp.length).2
    let hold := holdsInput op a && !vo
    ∀ l, t.place = some l → l < 8 →
      let b := pg (pSPL l)
      let now := pipeBlocks op (x.param k) n
      let old := pipeBlocks op (x.param k) t.counted
      let due := t.checks + exactSamples s l x.cls (n - t.counted)
      ∃ u, exec (mk job step checks skipped) s = .next u ∧ StepOnly s u ∧
        rd u b SPL.BLOCKS_ENC.COUNT = min (rd s b SPL.BLOCKS_ENC.COUNT + (now.1 - old.1)) (2 ^ SPL.BLOCKS_ENC.COUNT.w - 1) ∧
        rd u b SPL.BLOCKS_DEC.COUNT = min (rd s b SPL.BLOCKS_DEC.COUNT + (now.2 - old.2)) (2 ^ SPL.BLOCKS_DEC.COUNT.w - 1) ∧
        (r.v.status = 0 → Formed s u j k x t r.out hold (due - (if flag s b SPL.STAT.UNPROTECTED then min skipped.toNat due else 0) +
            (sampled s l x checks.toNat skipped.toNat n).1) ∧
          (hold = true → u.fab = s.fab ∧ u.clm = s.clm)) ∧
        (r.v.status ≠ 0 → FormedBad s u j k r.v ∧ (hold = true → rd u (pg pHLD) HLD.WITHHELD.BYTES =
          min (rd s (pg pHLD) HLD.WITHHELD.BYTES + aesOutLen op a vo inp.length) (2 ^ HLD.WITHHELD.BYTES.w - 1)))

/-- A CTR step adds the keystream of its counter blocks to the text: the first is the IV, each next adds 1 modulo 2^128, big-endian; a last
partial block uses leading bytes; DECRYPT has no effect (R199). -/
def Obligations.CounterModeAddsKeystream : Prop :=
  ∀ (a : AesBlk) (vo : Bool) (key iv0 inp : Bytes), key.length ∈ [16, 24, 32] →
    let iv := if a.ivGen then iv0 else if a.ivInInput then inp.take 16 else a.iv.take 16
    let text := if a.ivInInput then inp.drop 16 else inp
    iv.length = 16 → text ≠ [] →
    (∃ c, aesStep 0x12 a vo key iv0 inp = okRes ((if a.ivGen then iv0 else []) ++ c) ∧ c.length = text.length ∧
      ∀ i, i < text.length →
        c.getD i 0 = text.getD i 0 ^^^ (aesEnc key (natBe 16 ((beNat iv + i / 16) % 2 ^ 128))).getD (i % 16) 0) ∧
    aesStep 0x12 { a with flags := a.flags ^^^ 1 } vo key iv0 inp = aesStep 0x12 a vo key iv0 inp

/-- What CTR turns out it turns back, and what GCM seals under a key, a nonce and additional data, it opens to the same text
(R199, R204): the two directions of a mode agree. -/
def Obligations.SealedTextOpensAgain : Prop :=
  (∀ (key iv m : Bytes), key.length ∈ [16, 24, 32] → iv.length = 16 →
    let ctr := fun (b : Bytes) => ctrXor (roundKeys key) inc128 iv (chunks 16 b)
    ctr (ctr m) = m) ∧
  ∀ (key iv aad m : Bytes) (n : Nat), key.length ∈ [16, 24, 32] → n ≤ 16 →
    let c := gcmSeal key iv aad m n
    c.length = m.length + n ∧ gcmOpen key iv aad (c.take m.length) (c.drop m.length) = some m

/-- A digest step forms the digest or HMAC of its message, or compares it, and counts its group's blocks; a comparison that fails counts
too (R137, R283, R287, R300).
MEASURE_EXTEND replaces a measurement register by SHA-512 of its content and the input, counts it and gives its lock up; without the lock it
waits; a broken register is left and the step fails; MEAS_SEL shows the register named, or zeros for a broken one; a register that breaks
is told with a message of its kind (R289 to R293). -/
def Obligations.DigestsAndMeasurements : Prop :=
  (∀ op mk, (op, mk) ∈ [(0x20, Instr.sha256), (0x21, Instr.sha224), (0x22, Instr.sha384), (0x23, Instr.sha512), (0x24, Instr.sha3x256),
        (0x25, Instr.sha3x384), (0x26, Instr.sha3x512), (0x27, Instr.shake128), (0x28, Instr.shake256), (0x29, Instr.hmacSha256),
        (0x2A, Instr.hmacSha384), (0x2B, Instr.hmacSha512)] →
    ∀ (job : BitVec 9) (step : BitVec 3) (s : State) (x : Job) (t : StepRun) (inp : Bytes) (g : Nat), let j := job.toNat; let k := step.toNat
      CanForm s j k op x t inp → t.place = some g → g < 4 →
      let p := x.param k
      let n := digestOutLen op p
      let inInput := bitAt (pfield p 4 1) 1
      let m := if inInput then inp.take (inp.length - n) else inp
      let d := if 0x29 ≤ op then (hmacFrom (op - 0x29 + 8) (match t.key with | .ready c => c.pre | _ => []) m).take n else digestOf op m n
      let want := if inInput then inp.drop (inp.length - n) else slice p 16 n
      let c := if isKeccak op then EMR.PERMS.COUNT else if sha256Like op then EMR.BLOCKS_SHA256.COUNT else EMR.BLOCKS_SHA512.COUNT
      let Counts := fun (u : State) => rd u (pg (pEMR g)) c =
        min (rd s (pg (pEMR g)) c + (digestBlocks op (if inInput then inp.length - n else inp.length) n - t.counted)) (2 ^ c.w - 1)
      (bitAt (pfield p 4 1) 0 = false → ∃ u, exec (mk job step) s = .next u ∧ Formed s u j k x t d false t.checks ∧ StepOnly s u ∧ Counts u) ∧
      (bitAt (pfield p 4 1) 0 = true → d = want → ∃ u, exec (mk job step) s = .next u ∧ Formed s u j k x t pairMatch false t.checks ∧
        StepOnly s u ∧ Counts u) ∧
      (bitAt (pfield p 4 1) 0 = true → d ≠ want → ∃ u v, exec (mk job step) s = .next u ∧ FormedBad s u j k v ∧
        v.status = (if 0x29 ≤ op then 2 else 3) ∧ StepOnly s u ∧ Counts u ∧
        rd u (pg (pEMR g)) EMR.VERIFY_FAILS.COUNT = min (rd s (pg (pEMR g)) EMR.VERIFY_FAILS.COUNT + 1) (2 ^ EMR.VERIFY_FAILS.COUNT.w - 1))) ∧
  ((∀ (job : BitVec 9) (step : BitVec 3) (s : State) (x : Job) (t : StepRun) (inp : Bytes) (g : Nat), let j := job.toNat; let k := step.toNat
      let n := pfield (x.param k) 0 1
      let m := measReg s n
      CanForm s j k 0x2F x t inp → t.place = some g → g < 4 →
      (m.broken = false → lockHolder s n = some (j, k) → ∃ u, exec (.measureExtend job step) s = .next u ∧
        Formed s u j k x t (sha512 (m.data ++ inp)) false t.checks ∧
        measReg u n = { data := sha512 (m.data ++ inp), count := min (m.count + 1) 0xFFFFFFFF, broken := false, lock := none } ∧
        (∀ i, i ≠ n → measReg u i = measReg s i) ∧ StepOnly s { u with meas := s.meas }) ∧
      (m.broken = false → lockHolder s n ≠ some (j, k) → exec (.measureExtend job step) s = .next s) ∧
      (m.broken = true → ∃ u v, exec (.measureExtend job step) s = .next u ∧ FormedBad s u j k v ∧ v.status = 0x28 ∧ v.detail = 0x11 ∧
        u.meas = s.meas)) ∧
    (∀ (src id : BitVec 8) (group : BitVec 2) (v : BitVec 32) (s : State), let p := pEMR group.toNat; let b := pg (pEMR group.toNat)
      let m := measReg s (v.toNat % 64)
      CanWrite s src.toNat p 0x48 → ∃ u, exec (.measSelWrite src id group v) s = .next u ∧ u.tp = okTo id ∧ u.meas = s.meas ∧
        rd u b EMR.MEAS_SEL.REG = v.toNat % 64 ∧ rd u b EMR.MEAS_SEL.BROKEN = bit m.broken ∧ rd u b EMR.MEAS_COUNT.COUNT = (if m.broken then 0 else m.count) % 2 ^ 32 ∧
        (∀ i, i < 16 → rd u b (EMR.MEAS_DATA.BYTES.at i) = leNat (slice (if m.broken then zeros 64 else m.data) (4 * i) 4) % 2 ^ 32) ∧ AccessOnly s u) ∧
    ∀ (reg : BitVec 6) (s : State) (g : Nat), s.phase = .run → ((List.range 4).find? fun i => present s .emr i) = some g →
      ∃ u, exec (.measBroken reg) s = .next u ∧
      measReg u reg.toNat = { measReg s reg.toNat with broken := true } ∧ (∀ i, i ≠ reg.toNat → measReg u i = measReg s i) ∧
      bitAt (rd u (pg (pEMR g)) HDR.EVT.BITS) EMR.EVT.MEAS_BROKEN = true ∧ Tells s u { faultMsg 0x11 g 0x204 with detail := 0x1113 } ∧
      u = { s with meas := u.meas, regs := u.regs, chaff := u.chaff })

/-- An arithmetic step forms what its operation makes of the operands in its bank, counts its sclk cycles that were not yet counted and
unloads its bank; an ML-KEM key that is to be sealed leaves its public part in the clear (R252, R302, R313). EXPRESS entries that wait are
admitted after it where there are any (R166).
A parity error takes its core out of service and ends the step that ran on such a core, which leaves its context place, or none (R297). -/
def Obligations.ArithmeticFormsOrParity : Prop :=
  (∀ op mk, (op, mk) ∈ [(0x30, Instr.srgMac), (0x31, Instr.modexp), (0x32, Instr.rsaCrt), (0x33, Instr.ecdsaSign), (0x34, Instr.ecdsaVerify),
        (0x35, Instr.ecdh), (0x36, Instr.eddsaSign), (0x37, Instr.eddsaVerify), (0x38, Instr.x25519), (0x39, Instr.mlkemEncaps),
        (0x3A, Instr.mlkemDecaps), (0x3B, Instr.mlkemKeygen), (0x3C, Instr.mldsaSign), (0x3D, Instr.mldsaVerify), (0x3E, Instr.nttRaw)] →
    ∀ (job : BitVec 9) (step : BitVec 3) (s : State) (x : Job) (t : StepRun) (inp : Bytes) (n : Nat), let j := job.toNat; let k := step.toNat
      CanForm s j k op x t inp → t.place = some n → n < 32 →
      let a := arBlk (x.param k)
      let r := arithRes op a inp (bank s n).priv (bank s n).rnd
      let c := if isLattice op then SRG.SCLK_LATTICE.COUNT else SRG.SCLK_FULL.COUNT
      ∃ u, exec (mk job step) s = .next (admitNew u) ∧ ((∀ p ∈ s.jobs, p.2.cls ≠ 0) → exec (mk job step) s = .next u) ∧
        bankState u n = bkUNLOADING ∧ (∀ i, i / 2 ≠ n / 2 → i < 32 → bankState u i = bankState s i) ∧
        rd u (bankPg n) c = min (rd s (bankPg n) c + (srgNeed op a inp (bank s n).priv (bank s n).rnd - t.counted)) (2 ^ c.w - 1) ∧
        StepOnly s { u with chaff := s.chaff, freeCtr := s.freeCtr, banks := s.banks, accs := s.accs } ∧
        (r.v.status ≠ 0 → FormedBad s u j k r.v) ∧
        (r.v.status = 0 → op ≠ 0x3B ∨ bitAt a.flags 1 = false → Formed s u j k x t r.out false t.checks) ∧
        (r.v.status = 0 → op = 0x3B → bitAt a.flags 1 = true → ∀ rk, realmKeys s x.realm = some rk →
          let ek := (latticeSizes a.set).1
          Formed s u j k x t (r.out.take ek ++ sealOperand rk.wk x.realm 0x3A 0 ((bank s n).rnd.drop 64) (r.out.drop ek)) false t.checks)) ∧
  (∀ (group : BitVec 2) (core : BitVec 5) (s : State), let g := group.toNat; let b := pg (pEMR group.toNat)
      s.phase = .run → present s .emr g = true → core.toNat < 20 →
      ∃ u, exec (.coreParityError group core) s = .next u ∧
        (core.toNat < 16 → bitAt (rd u b EMR.CORE_OFF.SHA2) core.toNat = true) ∧
        (16 ≤ core.toNat → bitAt (rd u b EMR.CORE_OFF.KECCAK) (core.toNat - 16) = true) ∧ rd u b EMR.STAT.CORES_SHORT = 1 ∧
        rd u b EMR.PARITY_ERRS.COUNT = min (rd s b EMR.PARITY_ERRS.COUNT + 1) (2 ^ EMR.PARITY_ERRS.COUNT.w - 1) ∧
        Tells s u { faultMsg 0x11 g 0x303 with detail := 0x1111 } ∧ u = { s with regs := u.regs, chaff := u.chaff, jobs := u.jobs } ∧
        (∀ j k, stepOnGroup s g (decide (16 ≤ core.toNat)) = some (j, k) → ∀ t, step? s j k = some t → t.bad = none → t.st ≠ .ended →
          ∃ w, step? u j k = some w ∧ w.bad = some { status := 0x28, detail := 0x11, loc := 0 } ∧
            (isArith (bitsAt t.d0 0 8) = false → w.place = none ∧ w.ectx = none)) ∧
        (stepOnGroup s g (decide (16 ≤ core.toNat)) = none → u.jobs = s.jobs))

/-- RNG steps end RNG_UNAVAILABLE while Teff is not ENABLED. A generate without reseed draws its bytes from expander 11 with its input as
additional input, and ends RNG_UNAVAILABLE where that expander is not live; a generate with reseed and a reseed wait for their seed, or end
RNG_UNAVAILABLE where the pool is low, and then the generate draws and the reseed forms nothing (R141, R342, R352). -/
def Obligations.RandomStepsForm : Prop :=
  ∀ (job : BitVec 9) (step : BitVec 3) (s : State) (x : Job) (t : StepRun) (inp : Bytes), let j := job.toNat; let k := step.toNat
    let reseed := bitAt (pfield (x.param k) 4 1) 0
    let out := fun (u : State) => ∃ v, FormedBad s u j k v ∧ v.status = 0x38 ∧ v.detail = 11 ∧ StepOnly s u
    (∀ op mk, (op, mk) ∈ [(0x40, Instr.rngGenerate), (0x41, Instr.rngReseed)] → CanForm s j k op x t inp →
      (enabled s pTEF = false → ∃ u, exec (mk job step) s = .next u ∧ out u) ∧
      (enabled s pTEF = true → op = 0x41 ∨ reseed = true →
        (t.tok = none → flag s (pg pTEF) TEF.STAT.POOL_LOW = false → ∃ u, exec (mk job step) s = .next u ∧
          step? u j k = some { t with tok := some 1 } ∧ OtherSteps s u j k ∧ StepOnly s u) ∧
        (t.tok = none → flag s (pg pTEF) TEF.STAT.POOL_LOW = true → ∃ u, exec (mk job step) s = .next u ∧ out u) ∧
        (t.tok = some 1 → exec (mk job step) s = .next s))) ∧
    (CanForm s j k 0x40 x t inp → enabled s pTEF = true → reseed = false ∨ t.tok = some 2 →
      (expLive s 11 = false → ∃ u, exec (.rngGenerate job step) s = .next u ∧ out u) ∧
      (expLive s 11 = true →
        let e := expRec s 11
        let d := drbgGenerate { k := e.key, v := e.v } (if reseed then [] else inp) (pfield (x.param k) 0 4)
        ∃ u, exec (.rngGenerate job step) s = .next u ∧ Formed s u j k x t d.2 false t.checks ∧ (expRec u 11).key = d.1.k ∧ (expRec u 11).v = d.1.v ∧
          (∀ i, i ≠ 11 → expRec u i = expRec s i))) ∧
    (CanForm s j k 0x41 x t inp → enabled s pTEF = true → t.tok = some 2 →
      ∃ u, exec (.rngReseed job step) s = .next u ∧ Formed s u j k x t [] false t.checks ∧ StepOnly s u)

/-! ### Dispatch, and the ends of steps -/

/-- An entry leaves the dispatch queue for its spikelet: its steps run at once, or its chain waits for holding bins and BIN_WAIT says so,
until its bins are reserved; none leaves while Tick is off (R122, R148, R180).
A formed step that is neither held nor under check ends: the last of its chain forms the entry's completion, OK with its result or with the
first failure, its step and detail, or ENGINE_FAULT where a verifying step did not form its result pair, which is told; and the spikelet
is kept until that is answered. A held or checked one waits (R95, R127, R211, R286). What a command of these lets EXPRESS entries do is
their admission after it (R166). -/
def Obligations.ChainsRunAndEnd : Prop :=
  (∀ s : State, s.phase = .run →
      (nextForward s = none → enabled s pTCK = false → ustate s pTCK ≠ 4 → exec .entryDispatch s = .next s) ∧
      (∀ d j, nextForward s = none → enabled s pTCK = true ∨ ustate s pTCK = 4 → nextEntry s (mayForward s) = some (d, j) → d.peer = none →
        let x := jobOf { s with rch := { s.rch with stamp := s.rch.stamp + 1 } } d
        validate s (j / 16) x.port x.realm x.units x.bytes = none → (∀ k, k < x.steps.length → keyedOp (x.desc k).op (realmStored s x.realm) = false) →
        (∀ k, lookPending s j d.eid k = false) →
        (chainBins x.bytes = 0 → ∃ t y, exec .entryDispatch s = .next (admitNew t) ∧ job? t j = some y ∧ y.eid = d.eid ∧ y.bytes = d.bytes ∧
          y.realm = x.realm ∧ y.phase = .run ∧ y.bins = 0 ∧ (∀ e ∈ t.rch.dq, e.eid ≠ d.eid) ∧ (∀ e ∈ s.rch.dq, e.eid ≠ d.eid → e ∈ t.rch.dq)) ∧
        (chainBins x.bytes ≠ 0 → enabled s pHLD = false ∨ binsFree s < chainBins x.bytes → ∃ t, exec .entryDispatch s = .next (admitNew t) ∧
          job? t j = some x ∧ x.phase = .bins ∧ (∀ i, i ≠ j → job? t i = job? s i) ∧ (∀ e ∈ t.rch.dq, e.eid ≠ d.eid) ∧
          bitAt (rd t (pg pHLD) HDR.EVT.BITS) HLD.EVT.BIN_WAIT = true)) ∧
      (nextForward s = none → nextEntry s (mayForward s) = none → exec .entryDispatch s = .next s) ∧
      (∀ j x, nextBins s = some j → job? s j = some x →
        (∀ k, k < x.steps.length → lookPending s j x.eid k = true → ∃ t, exec .binsReserved s = .next (admitNew t) ∧
          job? t j = some { x with bins := chainBins x.bytes, phase := .keys } ∧ (∀ i, i ≠ j → job? t i = job? s i) ∧ t = { s with regs := t.regs, jobs := t.jobs }) ∧
        ((∀ k, lookPending s j x.eid k = false ∧ lateLookup x.bytes k = false) → (∀ u ∈ x.steps, u.bad = none) →
          ∃ t y, exec .binsReserved s = .next (admitNew t) ∧ job? t j = some y ∧ y.phase = .run ∧ y.eid = x.eid ∧ y.bytes = x.bytes ∧
            y.bins ≤ chainBins x.bytes ∧ (∀ i, i ≠ j → job? t i = job? s i))) ∧
      (nextBins s = none → exec .binsReserved s = .next s)) ∧
  (∀ (job : BitVec 9) (step : BitVec 3) (s : State) (x : Job) (t : StepRun), let j := job.toNat; let k := step.toNat
      s.phase = .run → job? s j = some x → step? s j k = some t → x.phase = .run →
      (t.st ≠ .formed ∨ t.held = true ∨ t.checks ≠ 0 → exec (.stepEnd job step) s = .next (admitNew s)) ∧
      (t.st = .formed → t.held = false → t.checks = 0 → x.peer = none → x.cid = none → (sqx s x.sq).batches = [] → armedGate s j = none →
        (∀ w ∈ x.steps, (∀ c, w.key ≠ .ready c) ∧ w.outLeft = 0) →
        let inl := (x.desc k).outC = outINLINE
        let sound := ∀ i w, givesPair x i = true → step? s j i = some w → w.bad = none → w.out = pairMatch
        (t.bad = none → enabled s pTCK = true → (∀ i w, i ≠ k → step? s j i = some w → w.st = .ended) → (inl → resultBad t.out.length x.units = 0) →
          ∃ u y, exec (.stepEnd job step) s = .next (admitNew u) ∧ job? u j = some y ∧ y.phase = .fin ∧ y.bins = 0 ∧
            (∃ c, u.rch.compls = s.rch.compls ++ [c] ∧ c.sq = x.sq ∧ c.covers = [x.eid] ∧ c.index = x.index ∧ c.tag = entTag x.bytes ∧ c.jobs = [j] ∧
              y.cid = some c.cid ∧
              (sound → y.bad = none ∧ c.status = 0 ∧ c.detail = 0 ∧ u.chaff = s.chaff ∧ (inl → entInlineOut x.bytes = true → c.result = t.out)) ∧
              (¬sound → y.bad.isSome = true ∧ c.status = 0x28 ∧ c.detail = 0x11 ∧ ∃ g, Tells s u { faultMsg 0x11 g 0x302 with detail := 0x1112 })) ∧
            (∀ i, i ≠ j → job? u i = job? s i) ∧ u.fab = s.fab) ∧
        (t.bad = none → enabled s pTCK = true → inl → resultBad t.out.length x.units ≠ 0 → firstBad x = none →
          ∃ u y, exec (.stepEnd job step) s = .next (admitNew u) ∧ job? u j = some y ∧ y.phase = .fin ∧
            y.bad = some ({ status := 0x12, detail := resultBad t.out.length x.units, loc := 0 }, k) ∧ (∀ i, i ≠ j → job? u i = job? s i) ∧ u.fab = s.fab) ∧
        (t.bad = none → enabled s pTCK = false → exec (.stepEnd job step) s = .next (admitNew s)) ∧
        (∀ v i, firstBad x = some (v, i) → t.bad ≠ none → v.status ≠ 0 →
          ∃ u y, exec (.stepEnd job step) s = .next (admitNew u) ∧ job? u j = some y ∧ y.phase = .fin ∧ y.bins = 0 ∧ y.bad = some (v, i) ∧
            (∃ c, u.rch.compls = s.rch.compls ++ [c] ∧ c.sq = x.sq ∧ c.covers = [x.eid] ∧ c.status = v.status ∧ c.detail = v.detail ∧ c.step = i ∧
              c.result = locBytes v.loc ∧ c.jobs = [j]) ∧ (∀ i, i ≠ j → job? u i = job? s i) ∧ u.fab = s.fab)))

/-- Held text goes out once no check is outstanding, or is withheld when its step has failed; a sampled check that ends well counts down,
and a mismatch ends the step ENGINE_FAULT and is told; injected failures are armed where tests are permitted (R211 to R217). -/
def Obligations.HeldTextAndChecks : Prop :=
  (∀ (job : BitVec 9) (step : BitVec 3) (s : State) (x : Job) (t : StepRun), let j := job.toNat; let k := step.toNat
    s.phase = .run → job? s j = some x → step? s j k = some t →
    (t.held = true → t.st = .formed → t.bad = none → t.checks = 0 → ∃ u w, exec (.heldRelease job step) s = .next u ∧ step? u j k = some w ∧
      w.held = false ∧ w.out = t.out ∧ OtherSteps s u j k ∧ StepOnly s u ∧
      rd u (pg pHLD) HLD.RELEASED.BYTES = min (rd s (pg pHLD) HLD.RELEASED.BYTES + t.out.length) (2 ^ HLD.RELEASED.BYTES.w - 1)) ∧
    (t.held = true → t.st = .formed → t.bad ≠ none → ∃ u, exec (.heldRelease job step) s = .next u ∧
      step? u j k = some { t with held := false, out := [] } ∧ OtherSteps s u j k ∧ u = { s with regs := u.regs, jobs := u.jobs } ∧
      rd u (pg pHLD) HLD.WITHHELD.BYTES = min (rd s (pg pHLD) HLD.WITHHELD.BYTES + t.out.length) (2 ^ HLD.WITHHELD.BYTES.w - 1)) ∧
    (t.held = true → t.bad = none → t.checks ≠ 0 → exec (.heldRelease job step) s = .next s) ∧
    (∀ l, t.place = some l → l < 8 → t.checks ≠ 0 → isAes (x.desc k).op = true → let b := pg (pSPL l)
      (lane s l).injEnc = false → (lane s l).injDec = false →
      (∃ u, exec (.inverseCheckDone job step false) s = .next u ∧ step? u j k = some { t with checks := t.checks - 1 } ∧ OtherSteps s u j k ∧
        rd u b SPL.CHECKED.COUNT = min (rd s b SPL.CHECKED.COUNT + 1) (2 ^ SPL.CHECKED.COUNT.w - 1) ∧ u.chaff = s.chaff) ∧
      (t.bad = none → t.st ≠ .ended → ∃ u w, exec (.inverseCheckDone job step true) s = .next u ∧ step? u j k = some w ∧
        w.bad = some { status := 0x28, detail := 0x10, loc := 0 } ∧ w.checks = t.checks - 1 ∧ OtherSteps s u j k ∧
        rd u b SPL.CHECK_FAILS.COUNT = min (rd s b SPL.CHECK_FAILS.COUNT + 1) (2 ^ SPL.CHECK_FAILS.COUNT.w - 1) ∧
        bitAt (rd u b HDR.EVT.BITS) SPL.EVT.CHECK_FAIL = true ∧
        Tells s u { faultMsg 0x10 l 0x301 with detail := 0x1013 + bit (decPipe s x k).2 * 65536 }))) ∧
  ∀ (src id : BitVec 8) (lane' : BitVec 3) (v : BitVec 32) (s : State), let l := lane'.toNat; let b := pg (pSPL lane'.toNat)
    CanWrite s src.toNat (pSPL l) 0x44 →
    (bitAt v.toNat 8 = true → testPermit s = true → ∃ u, exec (.splInjectWrite src id lane' v) s = .next u ∧ u.tp = okTo id ∧
      (lane u l).injEnc = true ∧ (lane u l).injDec = ((lane s l).injDec || bitAt v.toNat 9) ∧ (∀ i, i ≠ l → lane u i = lane s i) ∧
      rd u b SPL.CHECK_CFG.RATE_LOG2 = (if v.toNat % 16 = 0 ∨ (4 ≤ v.toNat % 16 ∧ v.toNat % 16 ≤ 12) then v.toNat % 16 else rd s b SPL.CHECK_CFG.RATE_LOG2)) ∧
    (bitAt v.toNat 8 = true ∨ bitAt v.toNat 9 = true → testPermit s = false → ∃ u, exec (.splInjectWrite src id lane' v) s = .next u ∧
      u.tp = okTo id ∧ AccessOnly s u ∧ KeepRegs s u (· ∈ accessKeys (pSPL l)))

/-- A context leaves a DISABLING lane for the suspend store, its message's state with it, or its step ends ABORTED when the store is full; it
comes back to a live lane with a free place, or in place of one that may be evicted, and waits otherwise; a step that has waited its limit for
a live lane ends RNG_UNAVAILABLE; an error in held data is counted and told and ends its owner (R193, R194, R214, R219). -/
def Obligations.ContextsMoveAndErrOut : Prop :=
  ∀ (job : BitVec 9) (step : BitVec 3) (s : State) (t : StepRun), let j := job.toNat; let k := step.toNat
    s.phase = .run → step? s j k = some t →
    (∀ lane' : BitVec 3, let l := lane'.toNat; let b := pg (pSPL lane'.toNat)
      (holdsCtx s l j k = true → ustate s (pSPL l) = 3 → suspFree s (jobRealm s j) = true → ∃ u, exec (.suspendMove job step lane') s = .next u ∧
        (∃ c, c ∈ u.susp ∧ c.job = j ∧ c.step = k ∧ c.msg = msgState s j k) ∧ holdsCtx u l j k = false ∧ u.susp.length = s.susp.length + 1 ∧
        (∀ w, step? u j k = some w → w.out = t.out ∧ w.st = t.st ∧ w.bad = t.bad) ∧ (stepRuns s j k = false → u.jobs = s.jobs ∧ u.plan = s.plan) ∧
        rd u b SPL.SUSPENDS.COUNT = min (rd s b SPL.SUSPENDS.COUNT + 1) (2 ^ SPL.SUSPENDS.COUNT.w - 1) ∧
        u = { s with regs := u.regs, lanes := u.lanes, susp := u.susp, jobs := u.jobs, plan := u.plan }) ∧
      (holdsCtx s l j k = true → ustate s (pSPL l) = 3 → suspFree s (jobRealm s j) = false → t.bad = none → t.st ≠ .ended →
        ∃ u w, exec (.suspendMove job step lane') s = .next u ∧ holdsCtx u l j k = false ∧ step? u j k = some w ∧
          w.bad = some { status := 0x18, detail := 0, loc := 0 } ∧ u.susp = s.susp ∧ bitAt (rd u (pg pHLD) HDR.EVT.BITS) HLD.EVT.SUSPEND_WAIT = true) ∧
      (holdsCtx s l j k = true → ustate s (pSPL l) ≠ 3 → exec (.suspendMove job step lane') s = .next s) ∧
      (holdsCtx s l j k = false → isSuspended s j k = true → laneLive s l = true → stepRuns s j k = true →
        (freeSlots s l (jobCls s j == 0) ≠ [] →
          ∃ u, exec (.suspendMove job step lane') s = .next u ∧ step? u j k = some { t with place := some l } ∧ isSuspended u j k = false ∧
            holdsCtx u l j k = true ∧ rd u b SPL.RESUMES.COUNT = min (rd s b SPL.RESUMES.COUNT + 1) (2 ^ SPL.RESUMES.COUNT.w - 1)) ∧
        (∀ c, freeSlots s l (jobCls s j == 0) = [] → evictCtx s s.plan.running l (jobCls s j) = some c →
          ∃ u, exec (.suspendMove job step lane') s = .next u ∧ isSuspended u j k = false ∧ holdsCtx u l j k = true ∧
            isSuspended u c.job c.step = true ∧ holdsCtx u l c.job c.step = false) ∧
        (freeSlots s l (jobCls s j == 0) = [] → evictCtx s s.plan.running l (jobCls s j) = none →
          ∃ u, exec (.suspendMove job step lane') s = .next u ∧ u = { s with regs := u.regs }))) ∧
    (let l := starvedLane s j k
     wantsLane s j k = true → liveLanes s = [] → rd s (pg (pSPL l)) SPL.MASK_CFG.STARVE_LIMIT ≤ t.starve →
      ∃ u w, exec (.starveLimitExpire job step) s = .next u ∧ step? u j k = some w ∧
        w.bad = some { status := 0x38, detail := l, loc := 0 } ∧ OtherSteps s u j k ∧ u = { s with jobs := u.jobs }) ∧
    (wantsLane s j k = true → liveLanes s ≠ [] → exec (.starveLimitExpire job step) s = .next s) ∧
    ∀ x, job? s j = some x → t.st ≠ .ended →
      let owns := isSuspended s j k || t.held || (t.st == .run && holdsBins x.bytes k)
      let Counted := fun (u : State) =>
        rd u (pg pHLD) HLD.ECC_UNCORR.COUNT = min (rd s (pg pHLD) HLD.ECC_UNCORR.COUNT + 1) (2 ^ HLD.ECC_UNCORR.COUNT.w - 1) ∧
        bitAt (rd u (pg pHLD) HDR.EVT.BITS) HLD.EVT.ECC_UNCORR = true ∧ Tells s u (faultMsg 9 0 0x202)
      (owns = true → ∃ u, exec (.holdEccUncorr job step) s = .next u ∧ Counted u ∧ isSuspended u j k = false ∧ OtherSteps s u j k ∧
        (t.bad = none → ∃ w, step? u j k = some w ∧ w.st = .formed ∧ w.bad = some { status := 0x28, detail := 9, loc := 0 })) ∧
      (owns = false → s.fab.waiting = [] → ∃ u, exec (.holdEccUncorr job step) s = .next u ∧ Counted u ∧ u = { s with regs := u.regs, chaff := u.chaff })

/-! ### Gates -/

/-- A GATE step arms a FREE gate of its realm with its token and time limit and sends its notify word where it has one; on a POSTED gate with
its token it is released at once; it is refused on a gate that is not its realm's or that another step has armed, waits while armed, and
hands on its bytes once released; an armed gate whose time has run out ends its step and is FREE again with a dead token (R144 to R147).
A 64-bit post to a FREE gate waits in it, one to an OFF or POSTED gate, with a dead token, or with another token than an ARMED gate's counts
as ignored, one that matches an ARMED gate frees it and releases its step, and a refusal by its sender ends the step; a 32-bit post is
ignored with a NOTICE. A grant takes a gate that is neither POSTED nor ARMED between OFF and FREE (R144 to R147). What a release lets
EXPRESS entries do is their admission after the command (R166), which does nothing where there are none. -/
def Obligations.GatesAndPosts : Prop :=
  (∀ w : State, (∀ p ∈ w.jobs, p.2.cls ≠ 0) → admitNew w = w) ∧
  ((∀ (job : BitVec 9) (step : BitVec 3) (s : State) (x : Job) (t : StepRun), let j := job.toNat; let k := step.toNat
      let g := entGate x.bytes
      let b := gateBlk (x.param k)
      let Ends := fun (u : State) => exec (.gate job step) s = .next (admitNew u)
      mayForm s x = true → job? s j = some x → step? s j k = some t → x.phase = .run → t.st = .run → t.bad = none → (x.desc k).op = 0x60 →
      (t.gate = .none → gateRefused s g x.realm = true → ∃ u w, Ends u ∧ step? u j k = some w ∧
        w.bad = some { status := 0x12, detail := 0x17, loc := 0 } ∧ OtherSteps s u j k ∧ u = { s with jobs := u.jobs }) ∧
      (t.gate = .none → gateRefused s g x.realm = false →
        gateState s g = gFREE ∨ (gateState s g = gPOSTED ∧ ∀ p, (gatex s g).post = some p → p.token ≠ b.token) →
        ∃ u, Ends u ∧ gateState u g = gARMED ∧ rd u (gsB g) GS.STAT.TOKEN = b.token % 2 ^ 16 ∧ (gatex u g).armed = some (j, k) ∧
          (gatex u g).ticksLeft = b.timeout ∧ step? u j k = some { t with gate := .armed } ∧ OtherSteps s u j k ∧
          (∀ h, h ≠ g → gatex u h = gatex s h) ∧ (b.notify ≠ 0 → Asks u (.notify j x.eid k)) ∧
          (b.notify = 0 → gateState s g = gFREE → u = { s with regs := u.regs, gates := u.gates, jobs := u.jobs } ∧
            KeepRegs s u (· ∈ [fkey (gsB g) GS.STAT.STATE, fkey (gsB g) GS.STAT.TOKEN]))) ∧
      (∀ p, t.gate = .none → gateRefused s g x.realm = false → gateState s g = gPOSTED → (gatex s g).post = some p → p.token = b.token →
        ∃ u w, Ends u ∧ gateState u g = gFREE ∧ (gatex u g).post = none ∧ step? u j k = some w ∧ w.gate = .released p ∧ OtherSteps s u j k) ∧
      (t.gate = .none → gateRefused s g x.realm = false → gateState s g = gARMED → ∃ u w, Ends u ∧
        step? u j k = some w ∧ w.bad = some { status := 0x12, detail := 0x18, loc := 0 } ∧ OtherSteps s u j k) ∧
      (t.gate = .armed → Ends s) ∧
      (∀ p out, t.gate = .released p → gateOut x k t p = some (.ok out) → dstReady t = true → enabled s (pSPK (j / 16)) = true →
        workDone s j x k t = true → ∃ u, Ends u ∧ Formed s u j k x t out false t.checks ∧ StepOnly s u)) ∧
    ∀ (gate : BitVec 12) (s : State) (j k : Nat), let g := gate.toNat
      s.phase = .run → (gatex s g).armed = some (j, k) →
      (gateState s g = gARMED → (gatex s g).ticksLeft = 0 → ∃ u, exec (.gateTimeout gate) s = .next u ∧ gateState u g = gFREE ∧
        (gatex u g).armed = none ∧ (gatex u g).dead = some (rd s (gsB g) GS.STAT.TOKEN) ∧ OtherSteps s u j k ∧
        (∀ t, step? s j k = some t → t.bad = none → t.st ≠ .ended → ∃ w, step? u j k = some w ∧ w.bad = some { status := 0x30, detail := 1, loc := 0 })) ∧
      (gateState s g ≠ gARMED ∨ (gatex s g).ticksLeft ≠ 0 → exec (.gateTimeout gate) s = .next s)) ∧
  ((∀ (src id : BitVec 8) (gate : BitVec 12) (v : BitVec 64) (s : State), let g := gate.toNat
      let p : Post := { token := v.toNat % 65536, result := v.toNat / 65536 % 4, len := v.toNat / 2 ^ 32 }
      (s.phase = .run → permitted s { src := src.toNat, id := 0, wide := true, addr := gsB g } true = true →
        let Ends := fun (u : State) => exec (.gsPost src id true gate v) s = .next { admitNew u with tp := okTo id }
        let note : ChaffMsg := { unit := 0x13, member := 0, kind := 0x003, access := 2, port := src.toNat, addr := gsB g, detail := anyDetail 0x003 }
        (gateState s g = gFREE → (gatex s g).dead ≠ some p.token → ∃ u, Ends u ∧
          gateState u g = gPOSTED ∧ (gatex u g).post = some p ∧ rd u (gsB g) GS.STAT.TOKEN = p.token ∧ (∀ h, h ≠ g → gatex u h = gatex s h) ∧
          u = { s with regs := u.regs, gates := u.gates } ∧
          KeepRegs s u (· ∈ [fkey (gsB g) GS.STAT.STATE, fkey (gsB g) GS.STAT.TOKEN])) ∧
        (gateState s g = gPOSTED ∨ (gateState s g = gFREE ∧ (gatex s g).dead = some p.token) → ∃ u, Ends u ∧
          gateState u g = gateState s g ∧ gatex u g = gatex s g ∧ rd u (gsB g) GS.STAT.IGNORED = min (rd s (gsB g) GS.STAT.IGNORED + 1) 255 ∧
          u = { s with regs := u.regs }) ∧
        (gateState s g = gOFF ∨ (gateState s g = gARMED ∧ p.token ≠ rd s (gsB g) GS.STAT.TOKEN) → ∃ u, Ends u ∧
          gateState u g = gateState s g ∧ gatex u g = gatex s g ∧ rd u (gsB g) GS.STAT.IGNORED = min (rd s (gsB g) GS.STAT.IGNORED + 1) 255 ∧
          Tells s u note ∧ u = { s with regs := u.regs, chaff := u.chaff }) ∧
        (∀ j k t x, gateState s g = gARMED → p.token = rd s (gsB g) GS.STAT.TOKEN → (gatex s g).armed = some (j, k) → job? s j = some x →
          step? s j k = some t → t.bad = none → t.st ≠ .ended → ∃ u w, Ends u ∧ gateState u g = gFREE ∧
            (gatex u g).armed = none ∧ step? u j k = some w ∧ w.gate = .released p ∧ OtherSteps s u j k ∧
            (2 ≤ p.result → w.bad = some { status := 0x30, detail := 2, loc := 0 }) ∧
            (p.result = 0 → w.bad = if (gateBlk (x.param k)).bufLen < p.len then some { status := 0x30, detail := 3, loc := 0 } else none))) ∧
      (CanWriteEntry s src.toNat .gs g 0 → ∃ u, exec (.gsPost src id false gate v) s = .next { admitNew u with tp := okTo id } ∧
        Tells s u { unit := 0x13, member := 0, kind := 0x003, access := 2, port := src.toNat, addr := gsB g, detail := anyDetail 0x003 } ∧
        u = { s with chaff := u.chaff })) ∧
    ∀ (src id : BitVec 8) (gate : BitVec 12) (v : BitVec 32) (s : State), let g := gate.toNat
      CanWriteEntry s src.toNat .gs g 0xC →
      (gateState s g = gOFF ∨ gateState s g = gFREE → ∃ u, exec (.gsGrantWrite src id gate v) s = .next u ∧ u.tp = okTo id ∧
        rd u (gsB g) GS.GRANT.PORT = v.toNat % 256 ∧ rd u (gsB g) GS.GRANT.REALM = v.toNat / 256 % 1024 ∧
        rd u (gsB g) GS.GRANT.EN = v.toNat / 2 ^ 31 ∧ rd u (gsB g) GS.STAT.IGNORED = 0 ∧ gateState u g = (if bitAt v.toNat 31 then gFREE else gOFF) ∧
        u = { s with regs := u.regs, tp := u.tp } ∧ KeepRegs s u fun q => InWord (gsB g + 8) q ∨ InWord (gsB g + 0xC) q) ∧
      (gateState s g = gPOSTED ∨ gateState s g = gARMED → ∃ u, exec (.gsGrantWrite src id gate v) s = .next u ∧ u.tp = okTo id ∧
        Tells s u { unit := 0x13, member := 0, kind := 0x003, access := 2, port := src.toNat, addr := gsB g + 0xC, detail := 0x1312 } ∧
        u = { s with chaff := u.chaff, tp := u.tp }))

/-! ### Sorghum banks -/

/-- A waiting operation takes the bank its array has for it and LOADS, with the randomness it draws, after a wipe where the bank last served
another realm; it ends RNG_UNAVAILABLE where it draws and expander 10 is not live, waits while no bank is free, and ends UNSUPPORTED where no
array can serve it. A wiped bank with no operation is EMPTY, a word that did not read zero is told, and one with an operation LOADS; an ECC
error counts, is told, ends the operation and wipes its bank. A loaded bank holds its operands and is PAUSED; a private operand of a wrong
length ends the step PARAM 0x10, and a sealed one that does not open ends it KEY_REFUSED 0x081F (R252, R253, R306 to R310, R314, R325). -/
def Obligations.BanksBindWipeAndFail : Prop :=
  (∀ (job : BitVec 9) (step : BitVec 3) (s : State) (x : Job) (t : StepRun), let j := job.toNat; let k := step.toNat
    s.phase = .run → job? s j = some x → step? s j k = some t → x.phase = .run → t.st = .run → t.bad = none → t.place = none →
    isArith (x.desc k).op = true → lookPending s j x.eid k = false → aheadBinds s j k x.cls (t.asked.getD 0) = false →
    (∀ n, bankFor s (x.desc k).op x.realm (x.cls == 0) = some n → n < 32 → x.realm < 1024 → let d := arithDraw (x.desc k).op (arBlk (x.param k))
      (bankState s n = bkIDLE → bankRealm s n ≠ x.realm → ∃ u, exec (.bankBind job step) s = .next u ∧ bankState u n = bkWIPING ∧
        bankRealm u n = x.realm ∧ (bank u n).owner = some (j, x.eid, k) ∧ step? u j k = some { t with place := some n } ∧ OtherSteps s u j k) ∧
      (bankState s n ≠ bkIDLE ∨ bankRealm s n = x.realm → d = 0 ∨ expLive s 10 = true →
        ∃ u w, exec (.bankBind job step) s = .next u ∧ bankState u n = bkLOADING ∧ bankRealm u n = x.realm ∧ (bank u n).owner = some (j, x.eid, k) ∧
          (bank u n).rnd.length = d ∧ step? u j k = some w ∧ w.place = some n ∧ w.st = .run) ∧
      (bankState s n ≠ bkIDLE ∨ bankRealm s n = x.realm → d ≠ 0 → expLive s 10 = false →
        ∃ u w, exec (.bankBind job step) s = .next u ∧ bankState u n = bkWIPING ∧ (bank u n).owner = none ∧ step? u j k = some w ∧
          w.place = none ∧ w.bad = some { status := 0x38, detail := 10, loc := 0 } ∧ OtherSteps s u j k)) ∧
    (bankFor s (x.desc k).op x.realm (x.cls == 0) = none → ∀ a as, usableArrays s (x.desc k).op = a :: as →
      (t.tok = none → ∃ u, exec (.bankBind job step) s = .next u ∧ step? u j k = some { t with tok := some 1 } ∧ OtherSteps s u j k ∧
        bitAt (rd u (pg (pSRG a)) HDR.EVT.BITS) SRG.EVT.BANK_WAIT = true ∧ u = { s with regs := u.regs, jobs := u.jobs }) ∧
      (t.tok ≠ none → exec (.bankBind job step) s = .next s)) ∧
    (bankFor s (x.desc k).op x.realm (x.cls == 0) = none → usableArrays s (x.desc k).op = [] → ∃ u w, exec (.bankBind job step) s = .next u ∧
      step? u j k = some w ∧ w.bad = some { status := 0x11, detail := 0x12, loc := 0 } ∧ OtherSteps s u j k ∧ u = { s with jobs := u.jobs })) ∧
  ∀ (array : BitVec 4) (bank' : BitVec 1) (s : State), let n := 2 * array.toNat + bank'.toNat
    s.phase = .run →
    (∀ z : Bool, bankState s n = bkWIPING →
      ((bank s n).owner = none → ∃ u, exec (.bankWipeDone array bank' z) s = .next u ∧ bankState u n = bkEMPTY ∧ bankRealm u n = 0 ∧
        bank u n = freshBank ∧ rd u (bankPg n) SRG.WIPES.COUNT = min (rd s (bankPg n) SRG.WIPES.COUNT + 1) (2 ^ SRG.WIPES.COUNT.w - 1) ∧
        (z = false → u.chaff = s.chaff) ∧ (z = true → Tells s u { faultMsg 0x12 array.toNat 0x306 with detail := 0x1215 }) ∧
        u = { s with regs := u.regs, banks := u.banks, chaff := u.chaff }) ∧
      (∀ j x k, (bank s n).owner = some (j, x.eid, k) → job? s j = some x → x.phase = .run → enabled s (pSRG array.toNat) = true →
        stepRuns s j k = true → arithDraw (x.desc k).op (arBlk (x.param k)) = 0 → x.realm < 1024 →
        ∃ u, exec (.bankWipeDone array bank' z) s = .next u ∧ bankState u n = bkLOADING ∧ bankRealm u n = x.realm ∧
          (bank u n).owner = some (j, x.eid, k))) ∧
    (bankState s n ≠ bkWIPING → ∀ z, exec (.bankWipeDone array bank' z) s = .next s) ∧
    (present s .srg array.toNat = true → ∃ u, exec (.bankEccError array bank') s = .next u ∧
      rd u (bankPg n) SRG.ECC_UNCORR.COUNT = min (rd s (bankPg n) SRG.ECC_UNCORR.COUNT + 1) (2 ^ SRG.ECC_UNCORR.COUNT.w - 1) ∧
      Tells s u { faultMsg 0x12 array.toNat 0x203 with detail := 0x1214 } ∧ (bankState s n ≠ bkEMPTY → bankState u n = bkWIPING) ∧
      (∀ j eid k x t, (bank s n).owner = some (j, eid, k) → job? s j = some x → x.eid = eid → step? s j k = some t → t.bad = none → t.st ≠ .ended →
        ∃ w, step? u j k = some w ∧ w.bad = some { status := 0x28, detail := 0x12, loc := 0 } ∧ w.place = none)) ∧
    (∀ j eid k x t, bankState s n = bkLOADING → (bank s n).owner = some (j, eid, k) → job? s j = some x → x.eid = eid → step? s j k = some t →
      t.st = .run → t.bad = none → srcDone t.src2 = true → ∀ inp, inputOf x k t = some (.ok inp) →
      opParam (x.desc k).op (x.param k) (x.desc k).verifyOnly (x.desc k).outC x.realm (some inp.length) = 0 →
      let a := arBlk (x.param k)
      let b := srcBytes t.src2
      let ready := fun (priv : Bytes) => ∃ u w, exec (.bankLoaded array bank') s = .next (admitNew u) ∧ bankState u n = bkPAUSED ∧
        (bank u n).data = inp ∧ (bank u n).priv = priv ∧ step? u j k = some w ∧ w.bad = none ∧ w.place = t.place ∧
        rd u (bankPg n) SRG.LOADED_BYTES.COUNT = min (rd s (bankPg n) SRG.LOADED_BYTES.COUNT + (inp.length + priv.length)) (2 ^ SRG.LOADED_BYTES.COUNT.w - 1)
      (privLen (x.desc k).op a = none → ready []) ∧
      ∀ want, privLen (x.desc k).op a = some want →
        (bitAt a.flags 0 = false → b.length = want → ready b) ∧
        (bitAt a.flags 0 = false → b.length ≠ want → ∃ u w, exec (.bankLoaded array bank') s = .next (admitNew u) ∧ bankState u n = bkWIPING ∧
          step? u j k = some w ∧ w.bad = some { status := 0x12, detail := 0x10, loc := 0 }) ∧
        (bitAt a.flags 0 = true → enabled s pKCC = true → fillLanes s ≠ [] → ∀ rk, realmKeys s x.realm = some rk →
          (∀ m, openOperand rk.wk x.realm (x.desc k).op a.bits want b = some m → ready m) ∧
          (openOperand rk.wk x.realm (x.desc k).op a.bits want b = none → ∃ u, exec (.bankLoaded array bank') s = .next (admitNew u) ∧
            bankState u n = bkWIPING ∧ u.kcc.refusals = s.kcc.refusals ++
              [{ job := j, eid, step := k, realm := x.realm, reason := 0x081F }])))

/-! ### Keys -/

/-- KEY_STATUS forms its record from the line delivered; an export of a line that is not EXPORTABLE is refused and forms nothing, and one
that is forms the wrapped entry; in a DERIVED realm a derive forms nothing and leaves the slot's context loaded (R251, R255). -/
def Obligations.KeyReadsForm : Prop :=
  ∀ (job : BitVec 9) (step : BitVec 3) (s : State) (x : Job) (t : StepRun) (inp : Bytes), let j := job.toNat; let k := step.toNat
    (CanForm s j k 0x50 x t inp → realmStored s x.realm = false → ∃ u, exec (.keyDeriveInstall job step) s = .next u ∧
      Formed s u j k x t [] false t.checks ∧ StepOnly s u) ∧
    (∀ c i l, t.key = .ready c → pinnedLine s c x.realm = some (i, l) →
      (CanForm s j k 0x56 x t inp → ∃ u out, exec (.keyStatus job step) s = .next u ∧ Formed s u j k x t out false t.checks ∧ StepOnly s u ∧
        out.length = 16 ∧ (l.gen < 2 ^ 32 → leNat (slice out 0 4) = l.gen) ∧ (l.kind < 256 → leNat (slice out 4 1) = l.kind) ∧
        (l.limit ≠ 0 → l.limit < 2 ^ 48 → leNat (slice out 8 6) = l.limit - l.count) ∧ (l.limit = 0 → leNat (slice out 8 6) = 2 ^ 48 - 1)) ∧
      (CanForm s j k 0x52 x t inp → ∀ rk, realmKeys s x.realm = some rk →
        (bitAt l.flags 1 = false → s.kcc.lookups = [] → ∃ u, exec (.keyWrapExport job step) s = .next u ∧ u.fab = s.fab ∧
          step? u j k = some { t with key := .waiting } ∧ OtherSteps s u j k ∧ u.kcc.refusals = s.kcc.refusals ++
            [{ job := j, eid := x.eid, step := k, realm := x.realm, reason := 0x0819 }]) ∧
        (bitAt l.flags 1 = true → kccExp s = none → ∃ u v, exec (.keyWrapExport job step) s = .next u ∧ FormedBad s u j k v ∧ v.status = 0x38) ∧
        (bitAt l.flags 1 = true → ∀ rnd, (kccDraw s 8).2 = some rnd → ∃ u, exec (.keyWrapExport job step) s = .next u ∧
          Formed s u j k x t ((lineEntry s rk l l.count).wrap rk.wk rnd) false t.checks ∧ u.kcc = s.kcc)))

/-- Installs and revokes of a slot that may not be changed are refused and say why; an accepted install writes its wrapped entry to the
Seedbank and waits for the answer, and an accepted revoke stops the slot's line and waits for its husk record (R242, R251, R255). -/
def Obligations.KeyChangesStartOrAreRefused : Prop :=
  ∀ (job : BitVec 9) (step : BitVec 3) (s : State) (x : Job) (t : StepRun) (inp : Bytes), let j := job.toNat; let k := step.toNat
    let slot := stepSlot s x k
    t.tok = none → enabled s pKCC = true →
    (∀ op mk, (op, mk) ∈ [(0x50, Instr.keyDeriveInstall), (0x51, Instr.keyUnwrapInstall), (0x55, Instr.keyGenerateInstall), (0x53, Instr.keyRevoke)] →
      CanForm s j k op x t inp → (op = 0x50 → realmStored s x.realm = true) → slotReason s x k ≠ 0 →
      ∃ u, exec (mk job step) s = .next u ∧ step? u j k = some { t with key := .waiting } ∧ OtherSteps s u j k ∧ u.kcc.lines = s.kcc.lines ∧
        u.kcc.refusals = s.kcc.refusals ++ [{ job := j, eid := x.eid, step := k, realm := x.realm, reason := slotReason s x k }] ∧
        u = { s with jobs := u.jobs, kcc := u.kcc }) ∧
    (∀ op mk, (op, mk) ∈ [(0x50, Instr.keyDeriveInstall), (0x51, Instr.keyUnwrapInstall), (0x55, Instr.keyGenerateInstall)] →
      CanForm s j k op x t inp → (op = 0x50 → realmStored s x.realm = true) → slotReason s x k = 0 → fillLanes s ≠ [] →
      ∀ en, installEntry s x k inp (zeros (kindLen (keyBlk (x.param k)).kind)) = .ok en → slotBusy s x.realm slot = false →
      (bitAt en.flags 0 = true → coherent s x.realm = true ∧ (en.limit = 0 ∨ peerSet s x.realm = [])) →
      ∀ key s1 s2 nonce mat e rk, takeWay s x.realm slot = some (key, s1) → installDraw s1 x k = (s2, some (nonce, mat)) →
      realmKeys s x.realm = some rk → installEntry s2 x k inp mat = .ok e →
      ∃ u n w, exec (mk job step) s = .next u ∧ SMap.get? u.kcc.writes n = some w ∧ w.entry = e.wrap rk.wk nonce ∧
        (∃ l, w.use = .install j k key l ∧ l.slot = slot ∧ l.realm = x.realm) ∧ step? u j k = some { t with tok := some (n + 10) } ∧
        OtherSteps s u j k) ∧
    (CanForm s j k 0x53 x t inp → slotReason s x k = 0 → (slotShared s x.realm slot = true → coherent s x.realm = true) →
      slotBusy s x.realm slot = false → huskFull s x.realm slot = false → cpRuns s = false → ∃ u, exec (.keyRevoke job step) s = .next u ∧
        step? u j k = some { t with tok := some 3 } ∧ OtherSteps s u j k ∧
        u.kcc.revokes = s.kcc.revokes ++ [{ job := j, step := k, realm := x.realm, slot, husk := revokedHusk s x.realm slot, asked := false, recorded := false, acks := [] }] ∧
        (∀ key l, findLine s x.realm slot = some (key, l) → lineAt u key = some { l with st := .revoking }) ∧
        u = { s with jobs := u.jobs, kcc := u.kcc })

/-- With its husk copies programmed a revoke commits: the husk record stands and the slot's lines are gone; a fill that succeeds makes its
line VALID and frees its place; a refusal is told, counted, and ends its step KEY_REFUSED (R236, R240, R242, R255). -/
def Obligations.RevokesFillsAndRefusalsEnd : Prop :=
  (∀ (slot : BitVec 23) (s : State) (v : Revoking), let n := slot.toNat
    s.phase = .run → enabled s pKCC = true → (s.kcc.revokes.find? fun r => r.slot == n) = some v → v.asked = true →
    (cpBusy s (n + 1) = true → exec (.revokeCommit slot) s = .next s) ∧
    (cpBusy s (n + 1) = false → cpRuns s = true → SMap.get? s.cp.fails (n + 1) ≠ none → ∃ u, exec (.revokeCommit slot) s = .next u ∧
      u.kcc.husks = s.kcc.husks ∧ u.kcc.lines = s.kcc.lines ∧ { v with asked := false } ∈ u.kcc.revokes ∧ u = { s with kcc := u.kcc }) ∧
    (cpBusy s (n + 1) = false → cpRuns s = true → SMap.get? s.cp.fails (n + 1) = none → v.recorded = false →
      slotShared s v.realm n = false ∨ peerSet s v.realm = [] → s.jobs = [] → s.kcc.lookups = [] → ∃ u, exec (.revokeCommit slot) s = .next u ∧
        SMap.get? u.kcc.husks (huskKey v.husk.realm n) = some v.husk ∧ findLine u v.realm n = none ∧
        (∀ r ∈ u.kcc.revokes, r.slot = n → r.realm ≠ v.realm) ∧
        (∀ i, i ≠ huskKey v.husk.realm n → SMap.get? u.kcc.husks i = SMap.get? s.kcc.husks i))) ∧
  (∀ (fill : BitVec 4) (s : State) (f : Fill) (l : Line) (e : Entry), let n := fill.toNat
    s.phase = .run → enabled s pKCC = true → SMap.Wf s.kcc.fills → SMap.get? s.kcc.fills n = some f → lineAt s f.line = some l → enLanes s ≠ [] →
    fillLanes s ≠ [] → f.bad = false → (f.derived = false → f.entry ≠ none) → fillResult s f l = .ok e → s.jobs = [] → s.kcc.lookups = [] → e.limit = 0 →
    ∃ u w, exec (.kccFillDone fill) s = .next u ∧ SMap.get? u.kcc.fills n = none ∧ lineAt u f.line = some w ∧ w.st = .valid ∧ w.slot = l.slot ∧
      w.realm = l.realm ∧ w.gen = e.gen ∧ w.kind = e.kind ∧ (∀ i, i ≠ f.line → lineAt u i = lineAt s i)) ∧
  ∀ (n : BitVec 12) (s : State) (r : Refusal40), s.phase = .run → s.kcc.refusals[n.toNat]? = some r → r.realm < 1024 → (∀ p ∈ s.jobs, p.2.phase ∈ [.bins, .fin]) →
    s.probeEid ≠ some r.eid → ∃ u, exec (.keyRefused n) s = .next u ∧ u.kcc = { s.kcc with refusals := s.kcc.refusals.eraseIdx n.toNat } ∧
      Tells s u { faultMsg 8 0 0x701 with detail := r.reason } ∧
      rd u (pg pKCC) KCC.REFUSALS.COUNT = min (rd s (pg pKCC) KCC.REFUSALS.COUNT + 1) (2 ^ KCC.REFUSALS.COUNT.w - 1) ∧
      (∀ x t, job? s r.job = some x → x.eid = r.eid → x.phase = .bins → step? s r.job r.step = some t → t.bad = none →
        ∃ w, step? u r.job r.step = some w ∧ w.key = .refused ∧ w.bad = some { status := 8, detail := 0, loc := 0 })

/-! ### Ticks, plans and the profile -/

/-- A tick boundary with no chain under way: TICK_COUNT rises by one, a running bank pauses, and the timeouts of armed gates count down;
with no profile switch ordered the express reserve is loaded anew and the booked plan is used up; where a switch was ordered before the
last plan the switch is due and the tick waits for it (R146, R156, R165, R183, R306). -/
def Obligations.TicksStartAfresh : Prop :=
  ∀ s : State, s.phase ≠ .cold → s.jobs = [] → let b := pg pTCK
    ∃ t, exec .tickBoundary s = .next t ∧ t.tickFc = s.fcNow ∧ t.jobs = [] ∧ t.rch = s.rch ∧ t.kcc = s.kcc ∧
      rd t b TCK.TICK_COUNT.COUNT = min (rd s b TCK.TICK_COUNT.COUNT + 1) (2 ^ TCK.TICK_COUNT.COUNT.w - 1) ∧
      (s.plan.swOrder = none → rd t b TCK.EXPRESS_USED.MGR = 0 ∧ t.plan.grants = [] ∧ t.plan.booked = false ∧
        (∀ i < 16, SMap.getD t.plan.xLeft i 0 = rd s b TCK.EXPRESS.BLOCKS) ∧ ∀ g < 4, SMap.getD t.plan.eLeft g 0 = rd s b TCK.EXPRESS.EMR_BLOCKS) ∧
      (s.plan.swOrder ≠ none → s.plan.swSeen = true → cpServes s = true → t.plan.swDue = true ∧ t.plan.swOrder = s.plan.swOrder) ∧
      (∀ n < 32, bankState t n = if bankState s n = bkRUNNING then bkPAUSED else bankState s n) ∧
      ∀ g x, (g, x) ∈ s.gates → g < 4096 → gateState s g = gARMED → (g, { x with ticksLeft := x.ticksLeft - 1 }) ∈ t.gates

/-- PLAN_BUILD with no chain under way books a plan of no grants and its books: the cap's budget, the base draw, the derated rest, the
reserve, the debt repaid, nothing granted and what is left; without a sensor reading the factor is FLOOR_FRAC. In the window before a
switch boundary no plan is made for the tick, and the plan of the switch tick is used at once, its books of 64 kc less. OVERRIDE_MW takes a cap within the variant's range that the profile's cap and the floor
check allow, or 0, and refuses others with a NOTICE (R169, R176, R178, R182, R183).
PROFILE_SWITCH_APPLY at the switch boundary: the ordered profile is in force, with its cap and tick, the classes' deficits start
afresh, and the command ends; a record that can no longer be used leaves the old profile and ends the command with its reason (R183). -/
def Obligations.PlansCapsAndSwitches : Prop :=
  ((∀ (r0 r1 r2 r3 r4 r5 r6 r7 : SensorReading) (s : State), let b := pg pTCK
      s.phase = .run → enabled s pTCK = true → s.plan.booked = false →
      (s.plan.switchTick = true → s.jobs = [] → ∃ t, exec (.planBuild r0 r1 r2 r3 r4 r5 r6 r7) s = .next t ∧ t.plan.switchTick = false ∧
        t.plan.booked = false ∧ t.plan.grants = [] ∧ t.jobs = [] ∧ t.rch = s.rch ∧ t.plan.derate = s.plan.derate ∧
        rd t b TCK.BOOK_CAPG.MGR = capgOf s (capMw s) (tickKc s - 64) % 2 ^ TCK.BOOK_CAPG.MGR.w) ∧
      (s.plan.switchTick = false → s.jobs = [] → s.plan.swOrder = none → ∃ t, exec (.planBuild r0 r1 r2 r3 r4 r5 r6 r7) s = .next t ∧ t.plan.booked = true ∧ t.plan.grants = [] ∧
        (let capg := capgOf s (capMw s) (planKc s)
         let base := baseNow s (planKc s)
         let dyn := (capg - base) * t.plan.derate / 256
         let reserve := min (rd s b TCK.EXPRESS.GRAINS * 1000) dyn
         t.plan.books = [(capg : Int), base, dyn, reserve, s.plan.debt, 0, (dyn : Int) - reserve - s.plan.debt]) ∧
        t.jobs = [] ∧ t.rch = s.rch ∧
        (r0 = none → r1 = none → r2 = none → r3 = none → r4 = none → r5 = none → r6 = none → r7 = none →
          t.plan.derate = rd s b TCK.LIMITS.FLOOR_FRAC ∧ rd t b TCK.TEMP_HOT.VALID = 0 ∧ rd t b TCK.STAT.SENSOR_SHORT = 1)) ∧
      (s.plan.switchTick = false → s.plan.swOrder ≠ none → ∃ t, exec (.planBuild r0 r1 r2 r3 r4 r5 r6 r7) s = .next t ∧ t.plan.booked = true ∧ t.plan.grants = [] ∧
        t.plan.swSeen = true ∧ t.plan.swOrder = s.plan.swOrder ∧ t.jobs = s.jobs)) ∧
    ∀ (src id : BitVec 8) (v : BitVec 32) (s : State), let b := pg pTCK; let mw := v.toNat / 65536
      CanWrite s src.toNat pTCK 0x44 →
      let ok := s.part.capRange.1 ≤ mw ∧ mw ≤ rd s b TCK.POWER_CAP.PROFILE_MW ∧ floorBad s mw s.cp.splEn = false
      (mw = 0 ∨ ok → ∃ t, exec (.overrideMwWrite src id v) s = .next t ∧ t.tp = okTo id ∧ rd t b TCK.POWER_CAP.OVERRIDE_MW = mw ∧ AccessOnly s t ∧
        KeepRegs s t fun k => k ∈ accessKeys pTCK ∨ k = fkey b TCK.POWER_CAP.OVERRIDE_MW) ∧
      (mw ≠ 0 → ¬ok → ∃ t, exec (.overrideMwWrite src id v) s = .next t ∧ t.tp = okTo id ∧ AccessOnly s t ∧ KeepRegs s t (· ∈ accessKeys pTCK) ∧
        (SMap.get? s.unlocks pTCK = none →
          Tells s t { unit := 3, member := 0, kind := 0x003, access := 2, port := src.toNat, addr := b + 0x44, detail := 0x0314 }))) ∧
  (∀ (s : State) (p : Nat), let b := pg pTCK
      s.phase = .run → cpServes s = true → s.plan.swDue = true → s.plan.swOrder = some p → p < 4 → s.cp.cycle = [] → s.jobs = [] →
      (∀ f, pickProf s p = .ok f → ∃ t, exec .profileSwitchApply s = .next t ∧ rd t (pg pSYS) SYS.PROFILE.ACTIVE = p ∧
        rd t (pg pSYS) SYS.PROFILE.PENDING = 0 ∧ rd t (pg pSYS) SYS.PROFILE.SWITCHING = 0 ∧ t.plan.swOrder = none ∧ t.plan.switchTick = true ∧
        t.plan.deficits = [] ∧ rd t b TCK.POWER_CAP.PROFILE_MW = f.cap % 2 ^ TCK.POWER_CAP.PROFILE_MW.w ∧
        rd t b TCK.TICK.LOG2_KC = f.tick % 2 ^ TCK.TICK.LOG2_KC.w ∧ rd t (pg pCTL) CTL.RESULT.REASON = 0 ∧ rd t (pg pCTL) CTL.CMD_STAT.BUSY = 0) ∧
      (∀ e, pickProf s p = .error e → ∃ t, exec .profileSwitchApply s = .next t ∧ rd t (pg pSYS) SYS.PROFILE.ACTIVE = rd s (pg pSYS) SYS.PROFILE.ACTIVE ∧
        rd t (pg pSYS) SYS.PROFILE.PENDING = 0 ∧ rd t (pg pSYS) SYS.PROFILE.SWITCHING = 0 ∧ t.plan.swOrder = none ∧
        rd t (pg pCTL) CTL.RESULT.REASON = e % 2 ^ 16 ∧ rd t (pg pCTL) CTL.CMD_STAT.BUSY = 0 ∧
        t = { s with regs := t.regs, plan := t.plan, cp := { s.cp with host := none } }))

/-! ### Teff -/

/-- The end of a cell's window runs both health tests: a failure is counted and told and ends the cell's passes; a pass counts towards
the end of STARTUP, and the window of a HEALTHY cell goes to the conditioner while four cells are HEALTHY (R332 to R337).
The conditioner's seed of the oldest window goes to the expander next in turn: the first of one that is not instantiated is its
entropy, the second instantiates it, and a live one is reseeded; with none to take it the seed is held. A known-answer test that fails
takes its expander out of service, with its event and message (R336, R337, R339 to R341). -/
def Obligations.WindowsBecomeSeeds : Prop :=
  (∀ (c : BitVec 4) (w : BitVec 1024) (s : State), let n := c.toNat; let b := pg pTEF
      s.phase = .run → enabled s pTEF = true → cellOn s n = true →
      let x := cell s n
      let l := samplesOf w
      let rct := (l.foldl (rctStep (rd s b TEF.HT_CFG.RCT_CUTOFF)) (x.lastBit, x.run, false)).2.2
      let apt := decide (rd s b TEF.HT_CFG.APT_CUTOFF ≤ (l.filter (· == l.headD 0)).length)
      ((rct || apt) = true → ∃ t, exec (.healthWindowEnd c w) s = .next t ∧ (cell t n).passes = 0 ∧ (cell t n).windows = x.windows + 1 ∧
        rd t b TEF.WINDOWS_FAILED.COUNT = min (rd s b TEF.WINDOWS_FAILED.COUNT + 1) (2 ^ TEF.WINDOWS_FAILED.COUNT.w - 1) ∧
        bitAt (rd t b HDR.EVT.BITS) TEF.EVT.HEALTH_FAIL = true ∧ t.tef.windows = s.tef.windows ∧
        rd t b TEF.CELL_STAT.HEALTHY = rd s b TEF.CELL_STAT.HEALTHY ∧ t = { s with tef := t.tef, regs := t.regs, chaff := t.chaff } ∧
        (rct = false → cellDropped s n = false → flag s b TEF.STAT.RAW = false →
          Tells s t { faultMsg 7 n 0x401 with detail := 2 + (x.windows + 1) % 65536 * 65536 })) ∧
      ((rct || apt) = false → ∃ t, exec (.healthWindowEnd c w) s = .next t ∧ t = { s with tef := t.tef, regs := t.regs } ∧
        KeepRegs s t (· ∈ [fkey b TEF.WINDOWS_PASSED.COUNT, fkey b TEF.CELL_STAT.HEALTHY]) ∧ (cell t n).windows = x.windows + 1 ∧
        rd t b TEF.WINDOWS_PASSED.COUNT = min (rd s b TEF.WINDOWS_PASSED.COUNT + 1) (2 ^ TEF.WINDOWS_PASSED.COUNT.w - 1) ∧
        (cellDropped s n = false → x.startup = true → x.passes = 3 → cellHealthy t n = true ∧ (cell t n).startup = false) ∧
        (cellDropped s n = false → x.startup = true → x.passes ≠ 3 → (cell t n).passes = x.passes + 1 ∧ cellHealthy t n = cellHealthy s n) ∧
        (cellDropped s n = false → x.startup = false → cellHealthy s n = true → flag s b TEF.STAT.RAW = false → 4 ≤ healthyCount s →
          t.tef.windows = s.tef.windows ++ [windowBytes w]) ∧
        (cellDropped s n = true ∨ x.startup = true → t.tef.windows = s.tef.windows))) ∧
  (∀ (w : Bytes) (ws : List Bytes) (s : State), let b := pg pTEF
      s.phase = .run → enabled s pTEF = true → flag s b TEF.STAT.RAW = false → s.tef.windows = w :: ws →
      (seedTarget s = none → ∃ t, exec (.seedFormed false) s = .next t ∧
        t = { s with tef := { s.tef with windows := ws, seeds := (s.tef.seeds ++ [seedOf w]).take 4 } }) ∧
      (∀ e, seedTarget s = some e →
        (expState s e = 1 → (expRec s e).ent = none → ∃ t, exec (.seedFormed false) s = .next t ∧ t.tef.windows = ws ∧
          (expRec t e).ent = some (seedOf w) ∧ expState t e = 1 ∧ (∀ i, i ≠ e → expRec t i = expRec s i) ∧
          t = { s with tef := t.tef, regs := t.regs } ∧ KeepRegs s t (· = fkey b TEF.SEEDS.COUNT)) ∧
        (∀ ent, e ≠ 8 → e ≠ 9 → expState s e = 1 → (expRec s e).ent = some ent → ∃ t, exec (.seedFormed false) s = .next t ∧ t.tef.windows = ws ∧
          expState t e = 2 ∧ (∀ i, i ≠ e → expRec t i = expRec s i) ∧
          (e = 10 → (expRec t e).key = (drbgInstantiate (ent ++ (seedOf w).take 16 ++ persOf s e)).k ∧ rd t b (TEF.EXP.CALLS.at e) = 0)) ∧
        (e ≠ 8 → e ≠ 9 → e ≠ 11 → expState s e ∈ [2, 3, 4] → ∃ t, exec (.seedFormed false) s = .next t ∧ t.tef.windows = ws ∧ expState t e = 2 ∧
          bitAt (rd t b TEF.RESEED_REQ.REQ) e = false ∧ (∀ i, i ≠ e → expRec t i = expRec s i) ∧
          (e = 10 → (expRec t e).key = (drbgReseed { k := (expRec s e).key, v := (expRec s e).v } (seedOf w)).k)) ∧
        (needsKat s e = false → exec (.seedFormed true) s = exec (.seedFormed false) s) ∧
        (needsKat s e = true → (∀ i < 12, i ≠ e → expState s i = 0 ∨ expState s i = 5) → ∃ t, exec (.seedFormed true) s = .next t ∧
          expState t e = 5 ∧ bitAt (rd t b HDR.EVT.BITS) TEF.EVT.KAT_FAIL = true ∧ t.tef.windows = ws ∧ t.tef.exps = s.tef.exps ∧
          t.tef.seeds = (s.tef.seeds ++ [seedOf w]).take 4 ∧ t = { s with tef := t.tef, regs := t.regs, chaff := t.chaff } ∧
          Tells s t { unit := 7, member := 0x20 + e, kind := 0x404, access := 0, port := 0, addr := 0, detail := 0x0713 })) ∧
      (seedTarget s = none → exec (.seedFormed true) s = exec (.seedFormed false) s))

/-- Raw-sample mode: RAW_EN = 1 stops the seeds and zeroizes the expanders where it is permitted and is ignored with a NOTICE where it
is not; a capture starts with an empty buffer and ends full with RAW_DONE; RAW_EN = 0 zeroizes the buffer and starts the cells again
(R345 to R348). Requests of reseeds and of dropped cells' return are taken as R332, R341 and R350 say. -/
def Obligations.TeffWritesAct : Prop :=
  ∀ (src id : BitVec 8) (v : BitVec 32) (s : State), let b := pg pTEF
    (CanWrite s src.toNat pTEF 0x90 → enabled s pTEF = true → flag s b TEF.STAT.RAW = false →
      (testPermit s = true → ∃ t, exec (.rawEnter src id v) s = .next t ∧ t.tp = okTo id ∧ flag t b TEF.STAT.RAW = true ∧
        rd t b TEF.RAW_CTL.RAW_EN = 1 ∧ t.tef.seeds = [] ∧ t.tef.windows = [] ∧ (∀ p ∈ t.tef.exps, p.2.key = [] ∧ p.2.v = [] ∧ p.2.fifo = []) ∧
        (∀ e < 12, expState t e = if expState s e = 0 ∨ expState s e = 5 then expState s e else 1) ∧ (∀ e < 12, rd t b (TEF.EXP.CALLS.at e) = 0) ∧
        t = { s with regs := t.regs, tef := t.tef, chaff := t.chaff, tp := t.tp, unlocks := t.unlocks }) ∧
      (testPermit s = false → ∃ t, exec (.rawEnter src id v) s = .next t ∧ t.tp = okTo id ∧ flag t b TEF.STAT.RAW = false ∧ AccessOnly s t ∧
        KeepRegs s t (· ∈ accessKeys pTEF) ∧ (SMap.get? s.unlocks pTEF = none → Tells s t
          { unit := 7, member := 0x30, kind := 0x003, access := 2, port := src.toNat, addr := b + 0x90, detail := 0x0712 }))) ∧
    (CanWrite s src.toNat pTEF 0x90 → flag s b TEF.STAT.RAW = true →
      (∃ t, exec (.rawExit src id v) s = .next t ∧ t.tp = okTo id ∧ flag t b TEF.STAT.RAW = false ∧ rd t b TEF.RAW_CTL.RAW_EN = 0 ∧
        t.tef.capture = [] ∧ rd t b TEF.RAW_STAT.FILLED = 0 ∧ rd t b TEF.RAW_CTL.CAPTURE = 0 ∧
        ∀ c < 16, cellOn s c = true → cellDropped s c = false → (cell t c).startup = true ∧ (cell t c).passes = 0 ∧ cellHealthy t c = false) ∧
      (bitAt v.toNat 0 = true → ∃ t, exec (.capture src id v) s = .next t ∧ t.tp = okTo id ∧ flag t b TEF.STAT.RAW = true ∧ t.tef.capture = [] ∧
        rd t b TEF.RAW_STAT.FILLED = 0 ∧ rd t b TEF.RAW_CTL.CAPTURE = 1 ∧ rd t b TEF.RAW_CTL.CELL = v.toNat / 4 % 16 ∧
        rd t b TEF.RAW_CTL.ALL = v.toNat / 64 % 2)) ∧
    (∀ d : List (BitVec 8), d.length = 65536 → flag s b TEF.STAT.RAW = true → flag s b TEF.RAW_CTL.CAPTURE = true →
      ∃ t, exec (.captureDone d) s = .next t ∧ t.tef = { s.tef with capture := d } ∧ rd t b TEF.RAW_STAT.FILLED = 65536 ∧
        rd t b TEF.RAW_CTL.CAPTURE = 0 ∧ bitAt (rd t b HDR.EVT.BITS) TEF.EVT.RAW_DONE = true ∧ t = { s with tef := t.tef, regs := t.regs } ∧
        KeepRegs s t (· ∈ [fkey b TEF.RAW_STAT.FILLED, fkey b TEF.RAW_CTL.CAPTURE, fkey b HDR.EVT.BITS, fkey (pg pCHF) HDR.EVT.BITS])) ∧
    (CanWrite s src.toNat pTEF 0x58 → ∃ t, exec (.reseedReqWrite src id v) s = .next t ∧ t.tp = okTo id ∧ AccessOnly s t ∧
      KeepRegs s t (fun k => k ∈ accessKeys pTEF ∨ k = fkey b TEF.RESEED_REQ.REQ) ∧
      ∀ e < 12, bitAt (rd t b TEF.RESEED_REQ.REQ) e =
        (bitAt (rd s b TEF.RESEED_REQ.REQ) e || (bitAt v.toNat e && expState s e != 0 && expState s e != 5))) ∧
    (CanWrite s src.toNat pTEF 0x48 → ∃ t, exec (.cellClrWrite src id v) s = .next t ∧ t.tp = okTo id ∧ AccessOnly s t ∧
      KeepRegs s t (fun k => k ∈ accessKeys pTEF ∨ k = fkey b TEF.CELL_STAT.DROPPED) ∧
      (∀ c < 16, ustate s pTEF = 0 → bitAt (rd t b TEF.CELL_STAT.DROPPED) c = (bitAt (rd s b TEF.CELL_STAT.DROPPED) c && !bitAt v.toNat c)) ∧
      (ustate s pTEF ≠ 0 → KeepRegs s t (· ∈ accessKeys pTEF)))

/-! ### The Granary and the sentinel -/

/-- The end of a program's attempt: once verified its row reads as programmed and its bank is idle, with the attempt counted; the records
of a log row are flushed and the head moves on; an attempt short of the eighth that does not verify is repeated (R376, R381, R393).
A checkpoint is written 32 operating seconds after the last, into the next slot; the end of the scan lets the Granary go, and after a
supply loss rebuilds its counts from the newest checkpoint and record (that an erased medium counts as zeros in the code of R388 is the
model's reading, log entry 67); operating seconds advance (R387, R388, R394). -/
def Obligations.ProgramsClockAndScan : Prop :=
  (∀ (bank : BitVec 1) (s : State) (p : Prog), let n := bank.toNat; let b := pg pGRN; let w := physRow s p.row
      s.phase = .run → SMap.get? s.grn.cur n = some p → s.grn.queue = [] → Quiet s → p.attempts < 7 → SMap.Wf s.grn.cur → RowsOk s.grn.rows →
      (p.attempts < rd s b GRN.WEAR_CFG.RETRY_WARN →
        p.use = .refresh ∨ (∃ tag, p.use = .cp tag) ∨ (∃ f, p.use = .checkpoint f ∧ s.grn.clearing ≠ 2) ∨ (∃ r q, p.use = .log r q) →
        ∃ t, exec (.programAttemptDone bank true) s = .next t ∧ rowAt t w = progRow (rowAt s w) p.mask p.data ∧
          (∀ r, r ≠ w → rowAt t r = rowAt s r) ∧ SMap.get? t.grn.cur n = none ∧ t = { s with regs := t.regs, grn := t.grn } ∧
          rd t b (GRN.ATTEMPTS.COUNT.at p.attempts) = min (rd s b (GRN.ATTEMPTS.COUNT.at p.attempts) + 1) (2 ^ GRN.ATTEMPTS.COUNT.w - 1) ∧
          rd t b GRN.ROWS_PROGRAMMED.COUNT = min (rd s b GRN.ROWS_PROGRAMMED.COUNT + 1) (2 ^ GRN.ROWS_PROGRAMMED.COUNT.w - 1) ∧
          KeepRegs s t (· ∈ [fkey b (GRN.ATTEMPTS.COUNT.at p.attempts), fkey b GRN.ROWS_PROGRAMMED.COUNT, fkey b GRN.BANK_STAT.B0_BUSY,
            fkey b GRN.BANK_STAT.B1_BUSY]) ∧
          (∀ r q, p.use = .log r q → t.grn.head = (s.grn.head + q.length) % 98304 ∧ ∀ x ∈ t.grn.staged, recSeq x ∈ q → x.flushed = true)) ∧
      (flag s b GRN.STAT.PF_REFUSE = false → ∃ t, exec (.programAttemptDone bank false) s = .next t ∧ t.grn.rows = s.grn.rows ∧
        SMap.get? t.grn.cur n = some { p with attempts := p.attempts + 1 } ∧ t = { s with regs := t.regs, grn := t.grn } ∧
        KeepRegs s t (· ∈ [fkey b GRN.BANK_STAT.B0_BUSY, fkey b GRN.BANK_STAT.B1_BUSY]))) ∧
  (∀ s : State, let b := pg pGRN; let j := s.grn.ckptSlot
      (grnUp s = true → s.grn.ckptAt + 32 ≤ opSeconds s → progReason s (.checkpoint false) (clockRow j) = 0 → s.grn.queue = [] →
        SMap.get? s.grn.cur (bankOf (clockRow j)) = none → ∃ t p, exec .clockCheckpoint s = .next t ∧
          SMap.get? t.grn.cur (bankOf (clockRow j)) = some p ∧ p.use = .checkpoint false ∧ p.row = clockRow j ∧
          slice p.data (16 * (j % 4)) 16 = ckptBytes s false ∧ t.grn.ckptSlot = (j + 1) % 256 ∧ t.grn.ckptAt = opSeconds s ∧
          t.grn.rows = s.grn.rows ∧ t = { s with regs := t.regs, grn := t.grn }) ∧
      (opSeconds s < s.grn.ckptAt + 32 → exec .clockCheckpoint s = .next s) ∧
      (s.phase = .run → flag s b GRN.STAT.SCAN = true → ∃ t, exec .granaryScanDone s = .next t ∧ flag t b GRN.STAT.SCAN = false ∧
        flag t b GRN.STAT.FLUSHING = true ∧ t.grn.flush ≠ none ∧ t.grn.rows = s.grn.rows ∧ t = { s with regs := t.regs, grn := t.grn } ∧
        (flag s (pg pSYS) SYS.STAT.SUPPLY_LOSS = false → ∀ f ∈ [GRN.OP_SECONDS.SECONDS, GRN.POWER_CYCLES.COUNT, GRN.SEQ_NEXT.SEQ], rd t b f = rd s b f) ∧
        (flag s (pg pSYS) SYS.STAT.SUPPLY_LOSS = true → ∀ c r, newestCkpt s = some c → newestRec (scanRemap s) = some r →
          let n := (r.seq + 1) % 2 ^ 32
          rd t b GRN.OP_SECONDS.SECONDS = max (c.op + if c.pf then 1 else 32) (leNat (slice r.bytes 4 4) + 1) % 2 ^ 32 ∧
          rd t b GRN.POWER_CYCLES.COUNT = min (max c.cycles (leNat (slice r.bytes 8 3)) + 1) 0xFFFFFF ∧
          rd t b GRN.SEQ_NEXT.SEQ = ((if seqBefore n c.floor then c.floor else n) + 4096) % 2 ^ 32) ∧
        (flag s (pg pSYS) SYS.STAT.SUPPLY_LOSS = true → s.grn.rows = [] →
          rd t b GRN.OP_SECONDS.SECONDS = 32 ∧ rd t b GRN.POWER_CYCLES.COUNT = 1 ∧ rd t b GRN.SEQ_NEXT.SEQ = 4097)) ∧
      (s.phase ≠ .cold → ∃ t, exec .opSecondsAdvance s = .next t ∧ rd t b GRN.OP_SECONDS.SECONDS = (rd s b GRN.OP_SECONDS.SECONDS + 1) % 2 ^ 32 ∧
        t = { s with regs := t.regs } ∧ KeepRegs s t (· = fkey b GRN.OP_SECONDS.SECONDS)))

/-- Flushes of the log: one covers the records not flushed when the threshold, their age or GRN.FLUSH starts it; a row of it is presented
to the medium; and it ends once every covered record is flushed (R393, R394). -/
def Obligations.FlushesCoverAndEnd : Prop :=
  ∀ s : State, grnUp s = true → let b := pg pGRN
    (s.grn.flush = none → rd s b GRN.LOG_CFG.HIGH ≤ (unflushed s).length → ∃ t f, exec .logFlush s = .next t ∧ t.grn.flush = some f ∧
      f.covers = (unflushed s).map recSeq ∧ f.kind = 0 ∧ flag t b GRN.STAT.FLUSHING = true ∧ t = { s with regs := t.regs, grn := t.grn }) ∧
    (s.grn.flush = none → (unflushed s).length < rd s b GRN.LOG_CFG.HIGH → exec .logFlush s = .next s) ∧
    (∀ f r, s.grn.flush = some f → f.kind ≠ 0 → (unflushed s).filter (fun x => f.covers.contains (recSeq x)) = [r] → s.grn.clearing = 0 →
      s.grn.queue = [] → s.grn.cur = [] → logRo s = false → flag s b GRN.STAT.PF_REFUSE = false → flag s b GRN.STAT.EXEC_BANK0 = false →
      ∃ t p, exec .logFlush s = .next t ∧ SMap.get? t.grn.cur (bankOf (logRow (s.grn.head / 2))) = some p ∧ p.row = logRow (s.grn.head / 2) ∧
        p.use = .log (s.grn.head / 2) [recSeq r] ∧ (r.bytes.length = 32 → s.grn.head % 2 = 0 → p.data = r.bytes ++ List.replicate 32 0xFF)) ∧
    (∀ r rs, unflushed s = r :: rs →
      (leNat (slice r.bytes 4 4) + rd s b GRN.LOG_CFG.AGE ≤ opSeconds s → ∃ t f, exec .flushAgeExpire s = .next t ∧ t.grn.flush = some f ∧
        f.covers = (unflushed s).map recSeq ∧ flag t b GRN.STAT.FLUSHING = true ∧ t = { s with regs := t.regs, grn := t.grn }) ∧
      (opSeconds s < leNat (slice r.bytes 4 4) + rd s b GRN.LOG_CFG.AGE → exec .flushAgeExpire s = .next s)) ∧
    (∀ (src id : BitVec 8) (v : BitVec 32), CanWrite s src.toNat pGRN 0x94 → enabled s pGRN = true → bitAt v.toNat 0 = true →
      ∃ t f, exec (.flush src id v) s = .next t ∧ t.tp = okTo id ∧ t.grn.flush = some f ∧ f.covers = (unflushed s).map recSeq ∧ 1 ≤ f.kind ∧
        flag t b GRN.STAT.FLUSHING = true ∧ t.grn.rows = s.grn.rows) ∧
    (∀ f, s.grn.flush = some f → f.kind ≠ 3 → logBusy s = false → (∀ r ∈ unflushed s, recSeq r ∉ f.covers) → ∃ t, exec .flushDone s = .next t ∧
      t.grn = { s.grn with flush := none } ∧ flag t b GRN.STAT.FLUSHING = false ∧ t = { s with regs := t.regs, grn := t.grn } ∧
      (f.kind ≠ 0 → bitAt (rd t b HDR.EVT.BITS) GRN.EVT.FLUSH_DONE = true) ∧ (f.kind = 0 → KeepRegs s t (· = fkey b GRN.STAT.FLUSHING)))

/-- LOG_SEEK puts the writing port's own cursor on the first record not before SEQ, or at the end; LOG_CLEAR under its unlock arms the
clear up to life-cycle state 2 and is refused from state 3; the clear erases every row of the log that can be written, and with all of
them erased the head goes to slot 0 (R398, R399; that read-only partitions keep their rows is the model's reading, log entry 67). -/
def Obligations.LogIsSoughtAndCleared : Prop :=
  ∀ (src id : BitVec 8) (v : BitVec 32) (s : State), let b := pg pGRN
    (CanWrite s src.toNat pGRN 0x68 → enabled s pGRN = true → ∃ t, exec (.logSeek src id v) s = .next t ∧ t.tp = okTo id ∧
      SMap.get? t.grn.cursors src.toNat = some (match seekRec s v.toNat with
        | some i => { key := i.key, seq := i.seq } | none => { key := 2 ^ 40, seq := 0 }) ∧
      (∀ q, q ≠ src.toNat → SMap.get? t.grn.cursors q = SMap.get? s.grn.cursors q) ∧ t.grn = { s.grn with cursors := t.grn.cursors }) ∧
    (CanWrite s src.toNat pGRN 0x90 → unlocked s pGRN src.toNat 0x90 = true → bitAt v.toNat 0 = true →
      (lcState s < 3 → s.grn.clearing = 0 → ∃ t, exec (.logClear src id v) s = .next t ∧ t.tp = okTo id ∧ t.grn = { s.grn with clearing := 1 }) ∧
      (3 ≤ lcState s → ∃ t, exec (.logClear src id v) s = .next t ∧ t.tp = okTo id ∧ t.grn = s.grn ∧ rd t b HDR.CHK.REASON = 0x0502 ∧
        Tells s t { unit := 5, member := 0, kind := 0x003, access := 2, port := src.toNat, addr := b + 0x90, detail := 0x0502 })) ∧
    (grnUp s = true → s.grn.clearing = 1 → s.grn.flush = none → s.grn.queue = [] → flag s b GRN.STAT.PF_REFUSE = false →
      ∃ t, exec .logClearDone s = .next t ∧
      (∀ n, logErasable s n = true → SMap.get? t.grn.rows n = none) ∧
      (∀ n r, (partOf n ∉ [3, 6, 7] ∨ (partOf n ≠ 6 ∧ logErasable s n = false ∧ ∀ p ∈ s.grn.remap, p.2 < 3200)) → (n, r) ∈ s.grn.rows →
        (n, r) ∈ t.grn.rows) ∧
      ((∀ n, partOf n = 3 ∨ partOf n = 7 → logErasable s n = true) → t.grn.head = 0) ∧ t.grn.staged = s.grn.staged ∧
      t = { s with regs := t.regs, grn := t.grn })

/-- A sample is converted to millivolts, its code times GAIN over 65,536 plus the signed OFFSET, shown in LEVEL; a result outside 30,000 mV
to 80,000 mV is held at the nearer bound and flagged (R45). A sum below 0, which the rule's u32 need not show as below 30,000,
is held at a bound and flagged as well; the next statement says which bound the model takes. -/
def Obligations.SamplesAreConverted : Prop :=
  ∀ (code : BitVec 16) (s : State), let b := pg pSNT
    let off : Nat := rd s b SNT.OFFSET.OFFSET % 2 ^ 16
    let raw : Nat := code.toNat * rd s b SNT.GAIN.GAIN / 2 ^ 16
    let mv : Int := (raw : Int) + (if off < 2 ^ 15 then (off : Int) else (off : Int) - 2 ^ 16)
    s.phase = .run →
    (ustate s pSNT = 2 → flag s b SNT.STAT.PF = false ∧ flag s b SNT.STAT.WARN = false ∧ flag s b SNT.WARN.WARN_EN = false ∧ s.grn.flush = none ∧
      s.grn.queue = []) →
    ∃ t, exec (.sntSample code) s = .next t ∧
      (0 ≤ mv → mv < 30000 → rd t b SNT.LEVEL.MV = 30000 ∧ flag t b SNT.STAT.OUT_OF_RANGE = true) ∧
      (mv < 0 → (rd t b SNT.LEVEL.MV = 30000 ∨ rd t b SNT.LEVEL.MV = 80000) ∧ flag t b SNT.STAT.OUT_OF_RANGE = true) ∧
      (80000 < mv → rd t b SNT.LEVEL.MV = 80000 ∧ flag t b SNT.STAT.OUT_OF_RANGE = true) ∧
      (30000 ≤ mv → mv ≤ 80000 → (rd t b SNT.LEVEL.MV : Int) = mv ∧ flag t b SNT.STAT.OUT_OF_RANGE = false)

/-- A sample of the sentinel shows its level and extremes; the sample that completes TRIP_COUNT below TRIP_MV begins the power-fail state
with its flush; without a sample for its time the input is STALE, is told, and a flush starts; and PF_ACK rises once the flush and its
checkpoint are in the medium (R44, R45, R395, R396). A sum below 0, which the code of R45 leaves to its conversion to u32, is held at the
lower bound (the model's choice, log entry 66). -/
def Obligations.SupplyIsWatched : Prop :=
  ∀ s : State, let b := pg pSNT; let g := pg pGRN
    (∀ code : BitVec 16, let mv := mvOf s code.toNat
      s.phase = .run →
      (ustate s pSNT ≠ 2 → ∃ t, exec (.sntSample code) s = .next t ∧ rd t b SNT.LEVEL.MV = mv ∧ flag t b SNT.STAT.STALE = false ∧
        rd t b SNT.SAMPLES.COUNT = min (rd s b SNT.SAMPLES.COUNT + 1) (2 ^ SNT.SAMPLES.COUNT.w - 1) ∧
        rd t b SNT.MIN.MV = min (rd s b SNT.MIN.MV) mv ∧ rd t b SNT.STAT.OUT_OF_RANGE = bit (mvHeld s code.toNat) ∧
        t = { s with regs := t.regs, snt := t.snt } ∧ rd t b SNT.STAT.PF = rd s b SNT.STAT.PF ∧ (mvRaw s code.toNat < 0 → mv = 30000)) ∧
      (ustate s pSNT = 2 → flag s b SNT.STAT.PF = false → flag s b SNT.STAT.WARN = false → flag s b SNT.WARN.WARN_EN = false →
        mv < rd s b SNT.TRIP.TRIP_MV → s.grn.flush = none → s.grn.queue = [] →
        (rd s b SNT.TRIP.TRIP_COUNT ≤ s.snt.below + 1 → ∃ t f, exec (.sntSample code) s = .next t ∧ flag t b SNT.STAT.PF = true ∧
          bitAt (rd t b HDR.EVT.BITS) SNT.EVT.TRIP = true ∧ rd t b SNT.TRIPS.COUNT = min (rd s b SNT.TRIPS.COUNT + 1) (2 ^ SNT.TRIPS.COUNT.w - 1) ∧
          flag t g GRN.STAT.PF_REFUSE = true ∧ t.grn.flush = some f ∧ f.kind = 3 ∧ f.covers = (unflushed s).map recSeq ∧
          t.grn.pfStage = 1 ∧ t.grn.tripFc = s.fcNow ∧ t = { s with regs := t.regs, snt := t.snt, grn := t.grn }) ∧
        (s.snt.below + 1 < rd s b SNT.TRIP.TRIP_COUNT → ∃ t, exec (.sntSample code) s = .next t ∧ flag t b SNT.STAT.PF = false ∧
          t.snt.below = s.snt.below + 1 ∧ t.grn = s.grn))) ∧
    (s.phase = .run → flag s b SNT.STAT.STALE = false → ∃ t f, exec .sntStale s = .next t ∧ flag t b SNT.STAT.STALE = true ∧
      bitAt (rd t b HDR.EVT.BITS) SNT.EVT.STALE = true ∧ rd t b SNT.STALES.COUNT = min (rd s b SNT.STALES.COUNT + 1) (2 ^ SNT.STALES.COUNT.w - 1) ∧
      Tells s t (faultMsg 11 0 0x504) ∧ t.grn = { s.grn with flush := some f } ∧ f.covers = (unflushed s).map recSeq ∧
      t = { s with regs := t.regs, chaff := t.chaff, grn := t.grn }) ∧
    (grnUp s = true → pfDone s = true → ∃ t, exec .pfFlushDone s = .next t ∧ t.grn = { s.grn with flush := none, pfStage := 0 } ∧
      flag t g GRN.STAT.FLUSHING = false ∧ bitAt (rd t g HDR.EVT.BITS) GRN.EVT.PF_DONE = true ∧ t = { s with regs := t.regs, snt := t.snt, grn := t.grn } ∧
      (flag s b SNT.STAT.PF = true → t.snt.pfAck = true ∧ rd t b SNT.LAST_PF.FC = (s.fcNow - s.grn.tripFc) % 2 ^ SNT.LAST_PF.FC.w) ∧
      (flag s b SNT.STAT.PF = false → t.snt = s.snt))

/-! ### Glume -/

/-- Glume's start-up enables it when the OTP is whole, and takes up an interrupted wipe; a requested transition that passes the checks
starts at its stage, one that fails them gives its reason; and a decided transition ends with its result (R408, R411 to R415). -/
def Obligations.LifeCycleMoves : Prop :=
  (∀ s : State, let b := pg pGLM
    s.phase = .run → flag s b GLM.STAT.STARTUP = true → s.glm.trans = none →
    (wipeBits s < 12 ∨ 4 ≤ lcState s → segFixes s = [] → arbFix s = [] →
      ∃ t, exec .glumeStartupDone s = .next t ∧ ustate t pGLM = (if locked s then 6 else 2) ∧ rd t b HDR.CTL.EN = 1 ∧
        flag t b GLM.STAT.STARTUP = false ∧ t = { s with regs := t.regs, chaff := t.chaff } ∧ (integrityReasons s = [] → t.chaff = s.chaff) ∧
        (∀ e, integrityReasons s = [e] → Tells s t { faultMsg 6 0 0x901 with detail := e }) ∧
        KeepRegs s t (· ∈ [fkey b HDR.STAT.STATE, fkey b HDR.CTL.EN, fkey b GLM.STAT.STARTUP, fkey b GLM.OTP_STAT.CORR])) ∧
    (12 ≤ wipeBits s → lcState s < 4 → ∃ t, exec .glumeStartupDone s = .next t ∧ t.glm = { s.glm with trans := some { target := 4, result := none } } ∧
      rd t b GLM.LC_STAT.STAGE = 1 ∧ rd t b GLM.LC_STAT.PENDING = 1 ∧ rd t b GLM.LC_STAT.RESUMED = 1 ∧
      bitAt (rd t b HDR.EVT.BITS) GLM.EVT.RESUMED = true ∧ flag t b GLM.STAT.STARTUP = true ∧ t = { s with regs := t.regs, glm := t.glm })) ∧
  (∀ (src id : BitVec 8) (v : BitVec 32) (s : State), let b := pg pGLM; let target := v.toNat % 8
    CanWrite s src.toNat pGLM 0x48 → unlocked s pGLM src.toNat 0x48 = true → glumeUp s = true → s.glm.trans = none → flag s b GLM.DBG_STAT.TOKEN = false →
    (lcReason s target = 0 → ∃ t, exec (.lcReq src id v) s = .next t ∧ t.tp = okTo id ∧ t.glm.trans = some { target, result := none } ∧
      rd t b GLM.LC_STAT.PENDING = 1 ∧ rd t b GLM.LC_STAT.STAGE = (if target = 4 then 1 else if target = 2 then 3 else 4) ∧ t.glm.otp = s.glm.otp ∧
      (target ∈ [1, 3] → t.glm.burns = s.glm.burns ++ [{ use := .segment, words := [(target - 1, 0xFFFF)] }]) ∧
      (target = 5 → t.glm.burns = s.glm.burns ++ [{ use := .segment, words := [(4, 0xFFFF), (5, 0xFFFF)] }])) ∧
    (lcReason s target ≠ 0 → ∃ t, exec (.lcReq src id v) s = .next t ∧ t.tp = okTo id ∧ t.glm = s.glm ∧
      rd t b GLM.LC_RESULT.REASON = lcReason s target ∧
      Tells s t { unit := 6, member := 0, kind := 0x003, access := 2, port := src.toNat, addr := b + 0x48, detail := lcReason s target }) ∧
    (target ≠ lcState s + 1 → lcReason s target ≠ 0) ∧ (locked s = true → lcReason s target = 0x0611)) ∧
  ∀ (s : State) (n r : Nat), let b := pg pGLM
    s.phase = .run → s.glm.trans = some { target := n, result := some r } → r < 2 ^ 16 →
    ∃ t, exec .lcTransitionDone s = .next t ∧ t.glm = { s.glm with trans := none } ∧ rd t b GLM.LC_STAT.PENDING = 0 ∧
      rd t b GLM.LC_STAT.STAGE = 0 ∧ rd t b GLM.LC_RESULT.REASON = r ∧ t = { s with regs := t.regs, glm := t.glm } ∧
      bitAt (rd t b HDR.EVT.BITS) (if r = 0 then GLM.EVT.LC_DONE else GLM.EVT.LC_FAIL) = true

/-- OTP_PROG and ARB_REQ under their unlocks queue the burn they ask for or are refused with their reason, KEY_LOAD delivers the device key
in states 2 and 3, and the end of a burn leaves every bit of its words set and no other word changed (R407, R416 to R418). -/
def Obligations.BurnsAndKeyLoad : Prop :=
  (∀ (src id : BitVec 8) (v : BitVec 32) (s : State), let b := pg pGLM
    let no := fun (t : State) (e : Nat) => t.glm = s.glm ∧ t.kcc = s.kcc ∧ rd t b HDR.CHK.REASON = e
    glumeUp s = true → locked s = false →
    (CanWrite s src.toNat pGLM 0x58 → unlocked s pGLM src.toNat 0x58 = true → let w := v.toNat % 1024; let d := v.toNat / 65536
      (otpAccepts s w d = true → ∃ t, exec (.otpProg src id v) s = .next t ∧ t.tp = okTo id ∧
        t.glm = { s.glm with burns := s.glm.burns ++ [{ use := .prog, words := [(w, d)] }] }) ∧
      (otpAccepts s w d = false → ∃ t, exec (.otpProg src id v) s = .next t ∧ t.tp = okTo id ∧ no t 0x0619)) ∧
    (CanWrite s src.toNat pGLM 0x64 → unlocked s pGLM src.toNat 0x64 = true → let n := v.toNat % 256
      (arbValue s < n → n ≤ 128 → ∃ t, exec (.arbReq src id v) s = .next t ∧ t.tp = okTo id ∧
        t.glm = { s.glm with burns := s.glm.burns ++ [{ use := .arb n, words := arbWords (arbValue s) n }] }) ∧
      (n ≤ arbValue s ∨ 128 < n → ∃ t, exec (.arbReq src id v) s = .next t ∧ t.tp = okTo id ∧ no t 0x0618)) ∧
    (CanWrite s src.toNat pGLM 0x68 →
      (lcState s = 2 ∨ lcState s = 3 → ∃ t, exec (.keyLoad src id v) s = .next t ∧ t.tp = okTo id ∧ t.glm = s.glm ∧ t.kcc.devKey ≠ none ∧
        (s.part.masked = false → devKeyOf t = some (deviceKey s) ∧ t.tef = s.tef)) ∧
      (lcState s ≠ 2 ∧ lcState s ≠ 3 → ∃ t, exec (.keyLoad src id v) s = .next t ∧ t.tp = okTo id ∧ no t 0x061A))) ∧
  ∀ (s : State) (x : Burn) (xs : List Burn), let b := pg pGLM
    s.phase = .run → s.glm.burns = x :: xs → SMap.Wf s.glm.otp → flag s b GLM.DBG_STAT.TOKEN = false →
    x.use = .prog ∨ (∃ n, x.use = .arb n) ∨ x.use = .segment →
    ∃ t, exec (.otpBurnDone true) s = .next t ∧ (∀ p ∈ x.words, otpWord t p.1 &&& p.2 % 65536 = p.2 % 65536) ∧
      (∀ w, (∀ p ∈ x.words, p.1 ≠ w) → otpWord t w = otpWord s w) ∧ t.glm.burns = xs ∧
      (∀ n, x.use = .arb n → bitAt (rd t b HDR.EVT.BITS) GLM.EVT.ARB_DONE = true) ∧
      (∀ r, x.use = .segment → (∀ p ∈ x.words, p.2 = 0xFFFF) → s.glm.trans = some r → t.glm.trans = some { r with result := some 0 })

/-- The debug port's DBG_CTL and the verification of a token: a challenge is a new nonce of power cycles, count and ticks; a submission
takes up the token; an accepted token opens its grant and a refused one is counted; END and the grant's time close it; HALT needs
level 3 (R419 to R425, R428). -/
def Obligations.DebugGrants : Prop :=
  (∀ (id : BitVec 8) (v : BitVec 32) (s : State), let b := pg pGLM
    CanWrite s 254 pGLM 0x80 → glumeUp s = true →
    (v.toNat / 2 % 8 = 0 → grantOver s = false → flag s b GLM.DBG_CP.HALTED = false → s.glm.refusedFc = none → s.glm.verify = none → powerCycles s ≠ 0xFFFFFF →
      let n := natLe 3 (powerCycles s) ++ natLe 5 s.glm.chal ++ natLe 8 (ticks s)
      ∃ t, exec (.challenge 254 id v) s = .next t ∧ t.tp = okTo id ∧ flag t b GLM.DBG_STAT.NONCE_VALID = true ∧
        rd t b GLM.DBG_NONCE_LO.BYTES = leNat (slice n 0 8) ∧ rd t b GLM.DBG_NONCE_HI.BYTES = leNat (slice n 8 8) ∧
        t.glm = { s.glm with chal := (s.glm.chal + 1) % 2 ^ 40 } ∧ t.cp = s.cp) ∧
    (v.toNat % 16 ∈ [0, 2] → grantOver s = false → flag s b GLM.DBG_CP.HALTED = false → s.glm.verify = none → flag s b GLM.DBG_STAT.NONCE_VALID = true →
      let bytes := (List.range 32).flatMap fun i => natLe 8 (SMap.getD s.glm.token i 0)
      let nonce := natLe 8 (rd s b GLM.DBG_NONCE_LO.BYTES) ++ natLe 8 (rd s b GLM.DBG_NONCE_HI.BYTES)
      ∃ t, exec (.submit 254 id v) s = .next t ∧ t.tp = okTo id ∧ flag t b GLM.DBG_STAT.NONCE_VALID = false ∧ t.glm = { s.glm with verify := some { bytes, nonce := some nonce } }) ∧
    (v.toNat % 16 = 8 → grantOver s = false → (3 ≤ dbgLevel s → flag s b GLM.DBG_CP.HALTED = false → ∃ t, exec (.halt 254 id v) s = .next t ∧ t.tp = okTo id ∧
        flag t b GLM.DBG_CP.HALTED = true ∧ rd t b GLM.DBG_CTL.HALT = 1 ∧ t.cp = { s.cp with haltFc := s.fcNow }) ∧
      (dbgLevel s < 3 → ∃ t, exec (.halt 254 id v) s = .next t ∧ rd t b GLM.DBG_CP.HALTED = rd s b GLM.DBG_CP.HALTED ∧ t.cp = s.cp ∧
        rd t b HDR.CHK.REASON = 0x0622)) ∧
    (v.toNat % 16 = 0 → ∃ t, exec (.halt 254 id v) s = .next t ∧ t.tp = okTo id ∧ flag t b GLM.DBG_CP.HALTED = false)) ∧
  (∀ (src id : BitVec 8) (v : BitVec 32) (s : State), let b := pg pGLM
    CanWrite s src.toNat pGLM 0x80 → glumeUp s = true → src ≠ 254 ∨ v.toNat % 4 = 0 → flag s b GLM.DBG_STAT.TOKEN = true → v.toNat / 8 % 2 = 0 →
    ∃ t, exec (.endGrant src id v) s = .next t ∧ t.tp = okTo id ∧ flag t b GLM.DBG_STAT.TOKEN = false ∧ t.glm.level = 0 ∧
      rd t b GLM.DBG_EXPIRY.SECONDS = 0xFFFFFFFF ∧ bitAt (rd t b HDR.EVT.BITS) GLM.EVT.GRANT_END = true ∧ flag t b GLM.DBG_CP.HALTED = false) ∧
  (∀ s : State, let b := pg pGLM
    s.phase = .run → flag s b GLM.DBG_STAT.TOKEN = true →
    (rd s b GLM.DBG_EXPIRY.SECONDS ≤ opSeconds s → ∃ t, exec .grantExpire s = .next t ∧ flag t b GLM.DBG_STAT.TOKEN = false ∧ t.glm.level = 0 ∧
      bitAt (rd t b HDR.EVT.BITS) GLM.EVT.GRANT_END = true ∧ flag t b GLM.DBG_CP.HALTED = false) ∧
    (opSeconds s < rd s b GLM.DBG_EXPIRY.SECONDS → exec .grantExpire s = .next s)) ∧
  ∀ (s : State) (k : TokenRun), let b := pg pGLM
    s.phase = .run → s.glm.verify = some k →
    (tokenReason s k = 0 → ∃ t, exec .tokenVerifyDone s = .next t ∧ flag t b GLM.DBG_STAT.TOKEN = true ∧ t.glm.verify = none ∧ t.glm.token = [] ∧
      t.glm.level = leNat (slice k.bytes 5 1) ∧ t.glm.keyIndex = leNat (slice k.bytes 6 1) ∧
      rd t b GLM.DBG_EXPIRY.SECONDS = (opSeconds s + leNat (slice k.bytes 32 4)) % 2 ^ 32 ∧ bitAt (rd t b HDR.EVT.BITS) GLM.EVT.GRANT_START = true) ∧
    (tokenReason s k ≠ 0 → ∃ t, exec .tokenVerifyDone s = .next t ∧ rd t b GLM.DBG_STAT.TOKEN = rd s b GLM.DBG_STAT.TOKEN ∧ t.glm.verify = none ∧
      t.glm.token = [] ∧ t.glm.level = s.glm.level ∧ rd t b GLM.DBG_STAT.REFUSED = 1 ∧ t.glm.refusedFc = some s.fcNow ∧
      rd t b GLM.DBG_FAILS.COUNT = min (rd s b GLM.DBG_FAILS.COUNT + 1) (2 ^ GLM.DBG_FAILS.COUNT.w - 1) ∧
      bitAt (rd t b HDR.EVT.BITS) GLM.EVT.TOKEN_REFUSED = true ∧
      Tells s t { unit := 6, member := 0, kind := 0x003, access := 2, port := 254, addr := b + 0x80, detail := tokenReason s k })

/-! ### The control processor -/

/-- Firmware commands: FW_INSTALL asks for the image's bytes, and when the last have arrived it programs the inactive bank with a good image
and refuses a broken one; FW_ACTIVATE with every SQ DISABLED restarts the block; FW_STATUS tells both banks; and a command that is for port
0 alone is turned away from another port and told (R24, R438, R447). -/
def Obligations.FirmwareCommandsAct : Prop :=
  (∀ (src id : BitVec 8) (host : Bytes) (s : State), let b := pg pCTL
    CanCommand s src.toNat →
    (src = 0 → 0 < argAt s 1 → argAt s 1 ≤ 2 ^ 21 → ∃ t, exec (.fwInstall src id host) s = .next t ∧ t.tp = okTo id ∧ CmdReads s t 0x01 (argAt s 1)) ∧
    (src = 0 → argAt s 1 = 0 ∨ 2 ^ 21 < argAt s 1 → ∃ t, exec (.fwInstall src id host) s = .next t ∧ t.tp = okTo id ∧ CmdEnded s t 0x01 0x0212 ∧ t.grn = s.grn) ∧
    (src = 0 → liveSqs s ≠ [] → ∃ t, exec (.fwActivate src id) s = .next t ∧ t.tp = okTo id ∧ CmdEnded s t 0x02 0x0217 ∧ t.phase = .run) ∧
    (src = 0 → liveSqs s = [] → s.fab.reads = [] → s.fab.writes = [] → ∃ t, exec (.fwActivate src id) s = .next t ∧ t.tp = okTo id ∧ t.phase = .run ∧
      t.jobs = [] ∧ t.kcc = freshKcc ∧ t.cp.rom = true ∧ ∀ n, measReg t n = { measReg s n with lock := none }) ∧
    (∃ t, exec (.fwStatus src id) s = .next t ∧ t.tp = okTo id ∧ CmdEnded s t 0x03 0 ∧ rd t b CTL.CMD_STAT.PORT = src.toNat ∧
      rd t b (CTL.ARG.VALUE.at 0) = le (rowsBytes s 0 64) 16 8 ∧ rd t b (CTL.ARG.VALUE.at 1) = le (rowsBytes s 65536 64) 16 8 ∧
      rd t b (CTL.ARG.VALUE.at 2) = leNat ((bootItem s).bytes.take 4) % 2 ^ 64 ∧ AccessOnly s t) ∧
    (src ≠ 0 → SMap.get? s.unlocks pCTL = none → ∀ c k, (c, k) ∈ [(Instr.fwInstall src id host, 0x01), (Instr.fwActivate src id, 0x02),
        (Instr.settingsWrite src id host, 0x20), (Instr.realmCreate src id, 0x30), (Instr.realmDestroy src id, 0x31), (Instr.sealOperand src id host, 0x38)] →
      ∃ t, exec c s = .next t ∧ t.tp = okTo id ∧ CmdEnded s t k 0x0210 ∧ AccessOnly s t ∧
        Tells s t { unit := 2, member := 0, kind := 0x004, access := 2, port := src.toNat, addr := b + 0x40, detail := anyDetail 0x004 })) ∧
  ∀ (port : BitVec 4) (tag : BitVec 9) (beat : BitVec 6) (data : BitVec 512) (s : State) (all : Bytes),
    LastHostBeat s port tag beat data 0x01 0 all → argAt s 1 ≠ 0 → argAt s 1 ≤ 2 ^ 21 →
    let im := all.take (sheafTotal all)
    let bank := 1 - (bootItem s).active
    let ends := fun (t : State) (e : Nat) => flag t (pg pCTL) CTL.CMD_STAT.BUSY = false ∧ rd t (pg pCTL) CTL.RESULT.REASON = e ∧ t.grn = s.grn
    (sheafForm all = false → ∃ t, exec (.readBeat port tag beat data false false) s = .next t ∧ ends t 0x0212) ∧
    (sheafForm all = true → sheafGood im = false → ∃ t, exec (.readBeat port tag beat data false false) s = .next t ∧ ends t 0x0213) ∧
    (sheafForm all = true → sheafGood im = true → sheafFits s im = true → sheafSvn im < arbValue s →
      ∃ t, exec (.readBeat port tag beat data false false) s = .next t ∧ ends t 0x0215) ∧
    (sheafForm all = true → sheafGood im = true → sheafFits s im = true → arbValue s ≤ sheafSvn im →
      bitAt (argAt s 2) 0 = true ∨ (microFits s im = true ∧ peersFit s im = true) →
      ∀ r rs, rowsFor (bankRow bank) im = r :: rs → progReason s (.cp 0) r.1 = 0 →
      ∃ t, exec (.readBeat port tag beat data false false) s = .next t ∧ t.cp.stage = im ∧ flag t (pg pCTL) CTL.CMD_STAT.BUSY = true ∧
        t.cp.task = { rows := rs, next := .verify bank (sha512 (signedBytes im)) } ∧ cpBusy t 0 = true)

/-- Commands of settings and profiles: a switch is ordered where the profile can be read; PROFILE_STORE and SETTINGS_WRITE ask for the bytes of
the record or of the items, and with the last of them they program what is good and end with their reason where it is not (R24, R443, R446,
R447). -/
def Obligations.SettingsCommandsAct : Prop :=
  (∀ (src id : BitVec 8) (host : Bytes) (s : State), CanCommand s src.toNat →
    (let p := argAt s 0 % 4
     (∀ f, pickProf s p = .ok f → ∃ t, exec (.profileSwitch src id) s = .next t ∧ t.tp = okTo id ∧ t.plan = { s.plan with swOrder := some p, swDue := false, swSeen := false } ∧
       rd t (pg pSYS) SYS.PROFILE.PENDING = p ∧ rd t (pg pSYS) SYS.PROFILE.SWITCHING = 1 ∧ flag t (pg pCTL) CTL.CMD_STAT.BUSY = true) ∧
     (∀ e, pickProf s p = .error e → e < 2 ^ 16 → ∃ t, exec (.profileSwitch src id) s = .next t ∧ t.tp = okTo id ∧ CmdEnded s t 0x10 e ∧ t.plan = s.plan)) ∧
    (3 < argAt s 0 → ∃ t, exec (.profileStore src id host) s = .next t ∧ t.tp = okTo id ∧ CmdEnded s t 0x11 0x0205 ∧ t.grn = s.grn) ∧
    (argAt s 0 ≤ 3 → ∃ t, exec (.profileStore src id host) s = .next t ∧ t.tp = okTo id ∧ CmdReads s t 0x11 4096) ∧
    (src = 0 → 32768 < argAt s 1 → ∃ t, exec (.settingsWrite src id host) s = .next t ∧ t.tp = okTo id ∧ CmdEnded s t 0x20 0x0205 ∧ t.grn = s.grn) ∧
    (src = 0 → 0 < argAt s 1 → argAt s 1 ≤ 32768 → ∃ t, exec (.settingsWrite src id host) s = .next t ∧ t.tp = okTo id ∧ CmdReads s t 0x20 (argAt s 1))) ∧
  ∀ (port : BitVec 4) (tag : BitVec 9) (beat : BitVec 6) (data : BitVec 512) (s : State) (src : Nat) (all : Bytes),
    let b := pg pCTL
    let ends := fun (t : State) (e : Nat) => flag t b CTL.CMD_STAT.BUSY = false ∧ rd t b CTL.RESULT.REASON = e ∧ t.grn = s.grn
    let programs := fun (t : State) (rs : List (Nat × Bytes)) => flag t b CTL.CMD_STAT.BUSY = true ∧ t.cp.task = { rows := rs, next := .result } ∧ cpBusy t 0 = true
    (LastHostBeat s port tag beat data 0x11 src all → let p := argAt s 0
      p ≤ 3 →
      (recordOk all p = false → ∃ t, exec (.readBeat port tag beat data false false) s = .next t ∧ ends t 0x021A) ∧
      (recordOk all p = true → profReason s (profOf all) = 0 →
        let n := nextRecord s p
        let body := all.take 4 ++ natLe 4 n.2 ++ slice all 8 4084
        ∀ r rs, rowsFor (profRow p n.1) (body ++ natLe 4 (crc32c body)) = r :: rs → progReason s (.cp 0) r.1 = 0 →
        ∃ t, exec (.readBeat port tag beat data false false) s = .next t ∧ programs t rs) ∧
      (recordOk all p = true → profReason s (profOf all) ≠ 0 → profReason s (profOf all) < 2 ^ 16 →
        ∃ t, exec (.readBeat port tag beat data false false) s = .next t ∧ ends t (profReason s (profOf all)))) ∧
    (LastHostBeat s port tag beat data 0x20 0 all → argAt s 1 ≠ 0 → argAt s 1 ≤ 32768 →
      let items := parseItems (all.length / 4 + 2) all
      (items = none → ∃ t, exec (.readBeat port tag beat data false false) s = .next t ∧ ends t 0x0205) ∧
      (∀ l, items = some l → (∃ x ∈ l, 0x8000 ≤ x.1) → 1 < lcState s → ∃ t, exec (.readBeat port tag beat data false false) s = .next t ∧ ends t 0x0202) ∧
      (∀ l r rs, items = some l → l ≠ [] → (∀ x ∈ l, x.1 < 0x8000) →
        settingsRows s 1 (sheafFmt (rowsBytes s (bankRow (rd s (pg pSYS) SYS.BOOT.BANK)) 64)) l = some (r :: rs) → progReason s (.cp 0) r.1 = 0 →
        ∃ t, exec (.readBeat port tag beat data false false) s = .next t ∧ programs t rs))

/-- Commands of realms, and those that write host memory: a realm is made with a new root, which is programmed, and unmade once it has no
lines; SEAL_OPERAND asks for its plaintext, and with the last of it writes the sealed operand to the host; LOG_EXPORT writes the records,
ending at once where there is nothing to export (R24, R252, R398, R447). -/
def Obligations.RealmCommandsAct : Prop :=
  (∀ (src id : BitVec 8) (host : Bytes) (s : State), CanCommand s src.toNat → let a := argAt s 0; let r := a % 1024; let st := rd s (rtB r) RT.STATE.STATE
    (src = 0 →
      (r = 0 ∨ st ≠ 0 → ∃ t, exec (.realmCreate src id) s = .next t ∧ t.tp = okTo id ∧ CmdEnded s t 0x30 0x021E ∧ t.kcc = s.kcc) ∧
      (r ≠ 0 → st = 0 → blockBad s r = false → bitAt a 16 = false → bitAt a 17 = false → rangesBad s r = false → devKeyOf s ≠ none → rootThere s r = false →
        kccExp s ≠ none → progReason s (.cp 0) (rootRow 0 r) = 0 → ∃ t rows, exec (.realmCreate src id) s = .next t ∧ t.tp = okTo id ∧
          (rows.map (·.1)) = [rootRow 0 r, rootRow 1 r] ∧ CmdPrograms s t 0x30 rows (.created r) ∧ realmKeys t r ≠ none ∧
          rd t (rtB r) RT.STATE.STATE = 0) ∧
      (r = 0 ∨ st ≠ 1 → ∃ t, exec (.realmDestroy src id) s = .next t ∧ t.tp = okTo id ∧ CmdEnded s t 0x31 0x021E ∧ t.kcc = s.kcc) ∧
      (r ≠ 0 → st = 1 → (∀ p ∈ s.kcc.lines, p.2.realm ≠ r) → readRow s (rootRow 0 r) = erasedRow → readRow s (rootRow 1 r) = erasedRow →
        huskPlaces s = [] → SMap.Wf s.kcc.keys → ∃ t, exec (.realmDestroy src id) s = .next t ∧ t.tp = okTo id ∧ CmdEnded s t 0x31 0 ∧
          rd t (rtB r) RT.STATE.STATE = 0 ∧ realmKeys t r = none ∧ (∀ p ∈ t.kcc.husks, p.2.realm ≠ r)) ∧
      (r ≠ 0 → st = 1 → (∃ p ∈ s.kcc.lines, p.2.realm = r ∧ p.2.pins ≠ 0) → ∃ t, exec (.realmDestroy src id) s = .next t ∧ t.tp = okTo id ∧
        rd t (rtB r) RT.STATE.STATE = 2 ∧ flag t (pg pCTL) CTL.CMD_STAT.BUSY = true ∧ t.kcc.keys = s.kcc.keys) ∧
      (let n := argAt s 2
       (n < 1 ∨ 5120 < n → ∃ t, exec (.sealOperand src id host) s = .next t ∧ t.tp = okTo id ∧ CmdEnded s t 0x38 0x0205 ∧ t.fab = s.fab) ∧
       (1 ≤ n → n ≤ 5120 → 0x31 ≤ a / 65536 % 256 → a / 65536 % 256 ≤ 0x3C → realmKeys s r ≠ none → realmActive s r = true →
         ∃ t, exec (.sealOperand src id host) s = .next t ∧ t.tp = okTo id ∧ CmdReads s t 0x38 n))) ∧
    (allRecs s = [] → ∃ t, exec (.logExport src id) s = .next t ∧ t.tp = okTo id ∧ CmdEnded s t 0x40 0 ∧ t.fab = s.fab) ∧
    (∀ i, argAt s 0 < 2 ^ 32 → seekRec s (argAt s 0) = some i → 1 ≤ argAt s 1 → ∃ t, exec (.logExport src id) s = .next t ∧ t.tp = okTo id ∧ Asks t .cp ∧
      flag t (pg pCTL) CTL.CMD_STAT.BUSY = true ∧ t.grn.cursors = s.grn.cursors)) ∧
  ∀ (port : BitVec 4) (tag : BitVec 9) (beat : BitVec 6) (data : BitVec 512) (s : State) (all : Bytes), let a := argAt s 0; let r := a % 1024
    LastHostBeat s port tag beat data 0x38 0 all → 1 ≤ argAt s 2 → argAt s 2 ≤ 5120 → 0x31 ≤ a / 65536 % 256 → a / 65536 % 256 ≤ 0x3C →
    realmKeys s r ≠ none → realmActive s r = true → kccExp s ≠ none →
    ∃ t, exec (.readBeat port tag beat data false false) s = .next t ∧ Asks t .cp ∧ flag t (pg pCTL) CTL.CMD_STAT.BUSY = true ∧ t.kcc = s.kcc

/-- The control processor's own time: the ROM runs a good active image, or none; the baseline enables a row's units, waits, and passes
over a row that waited too long; a trial is confirmed in its window or restarts the block; a missed kick restarts the processor, and a
kick in time takes up a command that waits (R434, R435, R440, R441, R486, R487). -/
def Obligations.ControlProcessorRuns : Prop :=
  ∀ s : State, s.phase = .run → let b := pg pCTL
    (s.cp.rom = true → glumeUp s = true → flag s (pg pGLM) GLM.DBG_CP.HALTED = false → ustate s pCTL ≠ 4 → flag s (pg pGRN) GRN.STAT.SCAN = false →
      flag s b CTL.CMD_STAT.BUSY = false → Quiet s → cpBusy s 0 = false →
      let m := (Config.ramTest s.freeCtr).toNat
      (bitAt m 1 = true → ∃ t, exec .bootRomStart s = .next t ∧ rd t (pg pSYS) SYS.BOOT.MODE = 4 ∧ t.cp.rom = false ∧ t.cp.up = s.cp.up ∧
        Tells s t (faultMsg 2 0 0x902)) ∧
      (bitAt m 1 = false → bitAt m 0 = false → (bootItem s).trial = 0 → let k := (bootItem s).active
        bankReason s k ((bootItem s).dig k) = 0 → k < 2 → ∃ t, exec .bootRomStart s = .next t ∧ rd t (pg pSYS) SYS.BOOT.BANK = k ∧
          rd t (pg pSYS) SYS.BOOT.MODE = 0 ∧ t.cp.up = true ∧ t.cp.rom = false ∧ t.cp.bootFc = s.fcNow ∧ flag t b HDR.CTL.EN = true)) ∧
    (cpRuns s = true → locked s = false → s.cp.row ≠ 0 → rowsSettled s s.cp.row = true →
      (s.cp.row < 9 → rowWait s s.cp.row = none → (s.cp.row = 6 → needsRoot0 s = false) → ∃ t, exec .cpBaselineRow s = .next t ∧
        t.cp.row = s.cp.row + 1 ∧ t.cp.rowFc = s.fcNow ∧ (∀ p ∈ rowPages s s.cp.row, ustate s p = 0 → ustate t p = 1 ∧ flag t (pg p) HDR.CTL.EN = true) ∧
        t = { s with regs := t.regs, cp := t.cp, chaff := t.chaff }) ∧
      (s.cp.row = 9 → ∃ t, exec .cpBaselineRow s = .next t ∧ t.cp.row = 10 ∧ flag t b CTL.FW_STAT.READY = true) ∧
      (∀ u, s.cp.row < 9 → rowWait s s.cp.row = some u → exec .cpBaselineRow s = .next s ∧ ∃ t, exec .baselineWaitTimeout s = .next t ∧
        t.cp.row = s.cp.row + 1 ∧ (∀ p, ustate t p = ustate s p) ∧ t = { s with regs := t.regs, cp := t.cp, chaff := t.chaff })) ∧
    (∀ (src id : BitVec 8) (v : BitVec 32), CanWrite s src.toNat pCTL 0x90 → bitAt v.toNat 0 = true →
      (flag s b CTL.FW_STAT.READY = true → trialOpen s = true → cpRunFc s ≤ 60 * fcPerSecond s → CpFree s →
        let i := { bootItem s with active := s.cp.trialBank, trial := 0 }
        ∀ r rs, bootRows s i = r :: rs → progReason s (.cp 0) r.1 = 0 → ∃ t, exec (.fwConfirm src id v) s = .next t ∧ t.tp = okTo id ∧
          t.cp.task = { rows := rs, next := .confirm (sheafSvn (rowsBytes s (bankRow s.cp.trialBank) 64)) } ∧ cpBusy t 0 = true) ∧
      (flag s b CTL.FW_STAT.READY = false ∨ trialOpen s = false ∨ 60 * fcPerSecond s < cpRunFc s → ∃ t, exec (.fwConfirm src id v) s = .next t ∧
        t.tp = okTo id ∧ t.cp = s.cp ∧ AccessOnly s t)) ∧
    (cpRuns s = true →
      (trialOpen s = true → s.fab.reads = [] → s.fab.writes = [] → ∃ t, exec .confirmWindowExpire s = .next t ∧ t.phase = .run ∧ t.jobs = [] ∧
        t.cp.rom = true ∧ t.cp.up = false ∧ ∀ n, measReg t n = { measReg s n with lock := none }) ∧
      (trialOpen s = false → exec .confirmWindowExpire s = .next s) ∧
      (flag s b CTL.STAT.TRIAL = false → ∃ t, exec .wdogExpire s = .next t ∧ rd t b CTL.WDOG.EXPIRIES = min (rd s b CTL.WDOG.EXPIRIES + 1) (2 ^ CTL.WDOG.EXPIRIES.w - 1) ∧
        bitAt (rd t b HDR.EVT.BITS) CTL.EVT.WDOG = true ∧ Tells s t { faultMsg 2 0 0x903 with detail := 0x021F } ∧ flag t b HDR.CTL.EN = false ∧
        flag t b CTL.CMD_STAT.BUSY = false ∧ flag t b CTL.FW_STAT.READY = false ∧ t.cp.up = false ∧ t.cp.rom = true ∧
        flag t b CTL.STAT.SERVICE = false ∧ flag t b CTL.STAT.RECOVERY = false ∧
        t = { s with regs := t.regs, cp := t.cp, chaff := t.chaff, grn := t.grn }) ∧
      (CpFree s → flag s b CTL.CMD_STAT.BUSY = false → exec .wdogKick s = .next s) ∧
      (CpFree s → s.cp.host = none → flag s b CTL.CMD_STAT.BUSY = true → rd s b CTL.CMD_STAT.LAST_CODE = 0x03 → flag s b CTL.STAT.SERVICE = false →
        flag s b CTL.STAT.RECOVERY = false → ∃ t, exec .wdogKick s = .next t ∧
        flag t b CTL.CMD_STAT.BUSY = false ∧ rd t b CTL.RESULT.REASON = 0 ∧ rd t b (CTL.ARG.VALUE.at 0) = le (rowsBytes s 0 64) 16 8 ∧
        bitAt (rd t b HDR.EVT.BITS) CTL.EVT.CMD_DONE = true ∧ t = { s with regs := t.regs }))

/-! ### Culm links -/

/-- What arrives on a live link: a flit in order is acknowledged, counted, and a whole message of it is delivered; one out of order is
discarded with a NAK; one with a bad CRC is counted and told. A NAK names what is sent again, an expiry sends everything again, and
cumulative credits add what is new (R456 to R459). -/
def Obligations.FlitsAndCreditsArrive : Prop :=
  ∀ (n : BitVec 2) (s : State), let l := n.toNat; let b := pg (pCLM l); let x := link s l
    linkRuns s l = true →
    (∀ f : BitVec 512, let p := beatBytes f; let h := leNat (p.take 4); let vc := h % 4
      (linkState s l ∈ [lkDOWN, lkLOST, lkLOCKED] → exec (.flitReceive n f) s = .next s) ∧
      (linkLive s l = true → leNat (slice p 60 4) ≠ crc32c (p.take 60) → ∃ t, exec (.flitReceive n f) s = .next t ∧
        rd t b CLM.CRC_ERRS.COUNT = min (rd s b CLM.CRC_ERRS.COUNT + 1) (2 ^ CLM.CRC_ERRS.COUNT.w - 1) ∧
        Tells s t { faultMsg 0x14 l 0x801 with detail := 0 } ∧ (link t l).inbox = x.inbox ∧ (link t l).expSeq = x.expSeq) ∧
      (linkLive s l = true → leNat (slice p 60 4) = crc32c (p.take 60) → vc ≠ 3 → h / 256 % 4096 ≠ x.expSeq →
        ∃ t, exec (.flitReceive n f) s = .next t ∧ (link t l).nakOut = true ∧ (link t l).inbox = x.inbox ∧ (link t l).expSeq = x.expSeq ∧
          t = { s with clm := t.clm }) ∧
      (linkLive s l = true → leNat (slice p 60 4) = crc32c (p.take 60) → vc ≠ 3 → h / 256 % 4096 = x.expSeq →
        ∃ t, exec (.flitReceive n f) s = .next t ∧ (link t l).expSeq = (x.expSeq + 1) % 4096 ∧ (link t l).nakOut = false ∧
          (link t l).given = listSet x.given vc ((x.given.getD vc 0 + 1) % 65536) ∧
          rd t b CLM.FLITS_RX.COUNT = min (rd s b CLM.FLITS_RX.COUNT + 1) (2 ^ CLM.FLITS_RX.COUNT.w - 1) ∧
          (bitAt h 2 = true → bitAt h 3 = true → let m := msgOfBytes (slice p 4 56)
            m.epoch = x.epoch → carries s l vc = true → (vcTypes vc).any (fun y => mcode y == m.mtype) = true →
            (link t l).inbox = x.inbox ++ [(vc, m)]) ∧
          t = { s with clm := t.clm, regs := t.regs })) ∧
    (linkLive s l = true →
      (∀ q : BitVec 16, let e := q.toNat % 4096
        (e = x.nextSeq → ∃ t, exec (.nak n q) s = .next t ∧ (link t l).replay = [] ∧ (link t l).resends = 0 ∧ t = { s with clm := t.clm }) ∧
        (∀ i, e ≠ x.nextSeq → x.replay.findIdx? (fun p => p.1 == e) = some i → x.resends < 8 → ∃ t, exec (.nak n q) s = .next t ∧
          (link t l).replay = x.replay.drop i ∧ (link t l).resends = (if i = 0 then x.resends else 0) + 1 ∧
          rd t b CLM.REPLAYS.COUNT = min (rd s b CLM.REPLAYS.COUNT + 1) (2 ^ CLM.REPLAYS.COUNT.w - 1) ∧ (link t l).txq = x.txq)) ∧
      (x.replay = [] → exec (.replayTimeout n) s = .next s) ∧
      (x.replay ≠ [] → x.resends < 8 → ∃ t, exec (.replayTimeout n) s = .next t ∧ (link t l).replay = x.replay ∧
        (link t l).resends = x.resends + 1 ∧ rd t b CLM.REPLAYS.COUNT = min (rd s b CLM.REPLAYS.COUNT + 1) (2 ^ CLM.REPLAYS.COUNT.w - 1) ∧
        t = { s with clm := t.clm, regs := t.regs }) ∧
      (∀ c0 c1 c2 : BitVec 16, x.txq = [] → ∀ c, c = Instr.credit n c0 c1 c2 ∨ c = Instr.idle n c0 c1 c2 → ∃ t, exec c s = .next t ∧
        (link t l).seen = [c0.toNat, c1.toNat, c2.toNat] ∧ (link t l).replay = x.replay ∧ t = { s with clm := t.clm } ∧
        ∀ v c a, (v, c, a) ∈ [(0, c0, 64), (1, c1, 256), (2, c2, 16)] →
          (link t l).cred[v]? = some (min a (x.cred.getD v 0 + (c.toNat + 65536 - x.seen.getD v 0) % 65536))))

/-- The life of a link: the PHY starts its training, a TRAIN flit of a peer with a common version brings it UP and one without isolates it,
heartbeats are sent and missed, and a lost link trains again (R453, R463 to R465, R479).
The messages of VC2: HELLO has no effect, HB ends the count of missed ones, MIRROR is counted and told, LEAVE loses the peer; and a
REALM_SYNC that agrees makes its entry coherent and takes AUTH, while one that does not leaves it incoherent with 0x1414 (R461, R465, R470, R478). -/
def Obligations.LinksLiveAndTalk : Prop :=
  (∀ (n : BitVec 2) (s : State), let l := n.toNat; let b := pg (pCLM l); let x := link s l
      present s .clm l = true →
      (rd s b CLM.LINK_STAT.PHY_UP = 0 → ∃ t, exec (.linkPhyUp n) s = .next t ∧ rd t b CLM.LINK_STAT.PHY_UP = 1 ∧ rd t b CLM.LINK_STAT.RATE ∈ [1, 2] ∧
        t = { s with clm := t.clm, regs := t.regs, freeCtr := s.freeCtr + 1 } ∧
        (s.phase = .run → enabled s (pCLM l) = true → linkState s l ∈ [lkDOWN, lkLOST] →
          linkState t l = if flag s b CLM.FENCE.FENCE then lkFENCED else lkTRAINING) ∧
        (s.phase ≠ .run ∨ enabled s (pCLM l) = false → linkState t l = linkState s l)) ∧
      (flag s b CLM.LINK_STAT.PHY_UP = true → s.phase = .run → ∃ t, exec (.linkPhyDown n) s = .next t ∧ (linkLive s l = true → linkState t l = lkLOST) ∧
        (linkState s l = lkTRAINING → linkState t l = lkDOWN ∧ rd t b CLM.LINK_STAT.PHY_UP = 0 ∧ t = { s with clm := t.clm, regs := t.regs })) ∧
      (s.phase = .run →
        (∀ f : BitVec 512, let p := beatBytes f; let i := trainOf (slice p 4 56)
          leNat (slice p 0 1) % 4 = 3 → leNat (slice p 4 1) = 3 → leNat (slice p 60 4) = crc32c (p.take 60) → linkState s l = lkTRAINING →
          peerClash s l i = false → i.fenced = false → i.locked = false → (∀ k < 16, flag s b (CLM.SHR.EN.at k) = false) →
          let e := max ((x.epoch + 1) % 65536) i.epoch
          let hi := min (rd s b CLM.PROTO.MAX) i.mx
          (max (rd s b CLM.PROTO.MIN) i.mn ≤ hi → ∃ t, exec (.train n f) s = .next t ∧ linkState t l = lkUP ∧ flag t b CLM.STAT.UP = true ∧
            rd t b CLM.PROTO.AGREED = hi % 256 ∧ rd t b CLM.LINK_STAT.EPOCH = e % 65536 ∧ rd t b CLM.PEER_ID.ID = i.id % 2 ^ 64 ∧
            (link t l).epoch = e ∧ (link t l).expSeq = 0 ∧ (link t l).nextSeq = 0 ∧ (link t l).cred = vcAllow ∧ (link t l).inbox = [] ∧
            bitAt (rd t b HDR.EVT.BITS) CLM.EVT.UP = true ∧ t = { s with clm := t.clm, regs := t.regs }) ∧
          (hi < max (rd s b CLM.PROTO.MIN) i.mn → ∃ t, exec (.train n f) s = .next t ∧ linkState t l = lkISOLATED ∧ rd t b HDR.CHK.REASON = 0x1412 ∧
            Tells s t { faultMsg 0x14 l 0x802 with detail := 0x1412 } ∧ t = { s with clm := t.clm, regs := t.regs, chaff := t.chaff })) ∧
        (linkLive s l = true → (rd s b CLM.INJECT.MODE = 4 → rd s b CLM.INJECT.COUNT = 0) → ∃ t, exec (.hbSend n) s = .next t ∧ Sent s t l mHB (bareMsg mHB 0 0) ∧
          t = { s with clm := t.clm, regs := t.regs }) ∧
        (linkLive s l = true → rd s b CLM.INJECT.MODE = 4 → rd s b CLM.INJECT.COUNT ≠ 0 → ∃ t, exec (.hbSend n) s = .next t ∧ t.clm = s.clm ∧
          rd t b CLM.INJECT.COUNT = (rd s b CLM.INJECT.COUNT - 1) % 2 ^ CLM.INJECT.COUNT.w ∧ t = { s with regs := t.regs }) ∧
        (linkLive s l = true → (x.missed + 1 < rd s b CLM.HB_CFG.MISS → ∃ t, exec (.hbMiss n) s = .next t ∧ (link t l).missed = x.missed + 1 ∧
            rd t b CLM.HB_MISSED.COUNT = min (rd s b CLM.HB_MISSED.COUNT + 1) (2 ^ CLM.HB_MISSED.COUNT.w - 1) ∧ linkState t l = linkState s l) ∧
          (rd s b CLM.HB_CFG.MISS ≤ x.missed + 1 → ∃ t, exec (.hbMiss n) s = .next t ∧ linkState t l = lkLOST)) ∧
        (linkState s l = lkLOST → ∃ t, exec (.lostRetrain n) s = .next t ∧ t = { s with clm := t.clm, regs := t.regs } ∧
          linkState t l = if enabled s (pCLM l) && flag s b CLM.LINK_STAT.PHY_UP then lkTRAINING else lkDOWN))) ∧
  (∀ (n : BitVec 2) (s : State) (g : LinkMsg), let l := n.toNat; let b := pg (pCLM l); let x := link s l
      (Arrived s l mHELLO g → ∃ t, exec (.hello n) s = .next t ∧ t = { s with clm := t.clm } ∧ (link t l).inbox.length + 1 = x.inbox.length) ∧
      (Arrived s l mHB g → ∃ t, exec (.hb n) s = .next t ∧ t = { s with clm := t.clm } ∧ (link t l).missed = 0 ∧ (link t l).replay = x.replay) ∧
      (Arrived s l mMIRROR g → ∃ t, exec (.mirror n) s = .next t ∧ rd t b CLM.MIRRORS.COUNT = min (rd s b CLM.MIRRORS.COUNT + 1) (2 ^ CLM.MIRRORS.COUNT.w - 1) ∧
        bitAt (rd t b HDR.EVT.BITS) CLM.EVT.MIRROR = true ∧ t = { s with clm := t.clm, regs := t.regs, chaff := t.chaff } ∧
        Tells s t { unit := 0x14, member := l, kind := 0x803, access := 9, port := 255, addr := g.addr % 2 ^ 48, detail := 0x1419 }) ∧
      (Arrived s l mLEAVE g → ∃ t, exec (.leave n) s = .next t ∧ linkState t l = lkLOST ∧ bitAt (rd t b HDR.EVT.BITS) CLM.EVT.LOST = true ∧
        (s.kcc.lookups = [] → s.jobs = [] → ∀ i < 16, flag t b (CLM.SHR.COHERENT.at i) = false)) ∧
      (∀ i rk, Arrived s l mREALMSYNC g → linkState s l = lkUP → shrEntry s l g.realm = some i → realmKeys s g.realm = some rk →
        SMap.get? x.syncs g.realm = none → g.status = bit rk.stored → s.kcc.lookups = [] → s.jobs = [] → (∀ q ∈ x.preps, q.lost = false) →
        let agree := g.addr = realmBase s g.realm ∧ g.len = realmCount s g.realm ∧ g.body.take 8 = syncCheck rk g.realm
        (agree → ∃ t, exec (.realmSync n) s = .next t ∧ flag t b (CLM.SHR.COHERENT.at i) = true ∧ flag t b (CLM.SHR.AUTH.at i) = false ∧
          t.kcc.husks = s.kcc.husks) ∧
        (¬agree → ∃ t, exec (.realmSync n) s = .next t ∧ flag t b (CLM.SHR.COHERENT.at i) = false ∧ rd t b HDR.CHK.REASON = 0x1414 ∧
          bitAt (rd t b HDR.EVT.BITS) CLM.EVT.REALM_MISMATCH = true ∧ Tells s t { faultMsg 0x14 l 0x005 with detail := 0x1414 })))

/-- Registers of a link: its fence ends the sharing, takes authority for its realms and forgets the peer's pending installs, and its end
trains again; SHR names a realm and gives authority up; an SQ is forwarded by one entry at most; and injections act where tests are
permitted (R468, R470, R473, R479). -/
def Obligations.LinkRegistersAct : Prop :=
  ∀ (src id : BitVec 8) (n : BitVec 2) (v : BitVec 32) (s : State), let l := n.toNat; let p := pCLM l; let b := pg p
    (CanWrite s src.toNat p 0x60 → unlocked s p src.toNat 0x60 = true →
      (bitAt v.toNat 0 = true → flag s b CLM.FENCE.FENCE = false → linkLive s l = false → linkState s l ≠ lkLOCKED → s.kcc.lookups = [] →
        ∃ t, exec (.clmFenceWrite src id n v) s = .next t ∧ t.tp = okTo id ∧ flag t b CLM.FENCE.FENCE = true ∧ linkState t l = lkFENCED ∧
          (link t l).preps = [] ∧ ∀ i < 16, flag s b (CLM.SHR.EN.at i) = true → flag t b (CLM.SHR.AUTH.at i) = true) ∧
      (bitAt v.toNat 0 = false → flag s b CLM.FENCE.FENCE = true → linkState s l = lkFENCED → ∃ t, exec (.clmFenceWrite src id n v) s = .next t ∧
        t.tp = okTo id ∧ flag t b CLM.FENCE.FENCE = false ∧
        linkState t l = if enabled s p && flag s b CLM.LINK_STAT.PHY_UP then lkTRAINING else lkDOWN)) ∧
    (∀ i : BitVec 4, let k := i.toNat
      CanWrite s src.toNat p (0x80 + 4 * k) → linkState s l ≠ lkUP → s.kcc.lookups = [] → s.jobs = [] → ∃ t, exec (.yield src id n i v) s = .next t ∧
        t.tp = okTo id ∧ rd t b (CLM.SHR.EN.at k) = v.toNat / 1024 % 2 ∧
        rd t b (CLM.SHR.REALM.at k) = (if flag s b (CLM.SHR.EN.at k) then rd s b (CLM.SHR.REALM.at k) else v.toNat % 1024) ∧
        (bitAt v.toNat 12 = true → flag t b (CLM.SHR.AUTH.at k) = false) ∧
        (bitAt v.toNat 12 = false → rd t b (CLM.SHR.AUTH.at k) = rd s b (CLM.SHR.AUTH.at k)) ∧
        (bitAt v.toNat 13 = false → rd t b (CLM.SHR.PULL.at k) = 0) ∧
        (flag s b (CLM.SHR.EN.at k) ≠ bitAt v.toNat 10 → flag t b (CLM.SHR.COHERENT.at k) = false) ∧ AccessOnly s t) ∧
    (CanWrite s src.toNat p 0x6C → let e := fwdB l (rd s b CLM.FWD_SEL.ENTRY) 0; let q := v.toNat % 8192
      (flag s e CLM.FWD_CFG.EN = true → ∃ t, exec (.fwdCfgWrite src id n v) s = .next t ∧ t.tp = okTo id ∧
        rd t e CLM.FWD_CFG.EN = v.toNat / 8192 % 2 ∧ rd t e CLM.FWD_CFG.SQ = rd s e CLM.FWD_CFG.SQ ∧ AccessOnly s t) ∧
      (flag s e CLM.FWD_CFG.EN = false → bitAt v.toNat 13 = true →
        (∀ k < 4, ∀ i < 16, flag s (fwdB k i 0) CLM.FWD_CFG.EN = true → rd s (fwdB k i 0) CLM.FWD_CFG.SQ ≠ q) →
        ∃ t, exec (.fwdCfgWrite src id n v) s = .next t ∧ t.tp = okTo id ∧ rd t e CLM.FWD_CFG.EN = 1 ∧ rd t e CLM.FWD_CFG.SQ = q ∧ t.jobs = s.jobs) ∧
      (∀ k i, flag s e CLM.FWD_CFG.EN = false → bitAt v.toNat 13 = true → k < 4 → i < 16 → flag s (fwdB k i 0) CLM.FWD_CFG.EN = true →
        rd s (fwdB k i 0) CLM.FWD_CFG.SQ = q → ∃ t, exec (.fwdCfgWrite src id n v) s = .next t ∧ t.tp = okTo id ∧ flag t e CLM.FWD_CFG.EN = false ∧
          AccessOnly s t)) ∧
    (CanWrite s src.toNat p 0x64 →
      (testPermit s = true → let c := v.toNat / 256 % 16; ∃ t, exec (.clmInjectWrite src id n v) s = .next t ∧ t.tp = okTo id ∧
        rd t b CLM.INJECT.COUNT = c ∧ rd t b CLM.INJECT.MODE = (if c = 0 then 0 else v.toNat % 8) ∧ rd t b CLM.INJECT.VC = v.toNat / 4096 % 4 ∧
        (link t l).swap = none ∧ t.clm = SMap.set s.clm l { link s l with swap := none }) ∧
      (testPermit s = false → ∃ t, exec (.clmInjectWrite src id n v) s = .next t ∧ t.tp = okTo id ∧ AccessOnly s t ∧
        KeepRegs s t (· ∈ accessKeys p)))

/-- Messages of forwarded jobs and of their window accesses: a JOB is queued for dispatch or answered REFUSED; ABORT ends it; DONE and
REFUSED end its forwarding; window requests within their bounds reach the fabric and others are answered 0x141A; and their answers reach
the step that asked (R473 to R476). A job that waits for its bank ends at the ABORT, and any other at its next quantum boundary (R185). -/
def Obligations.ForwardedJobsGoRound : Prop :=
  ∀ (n : BitVec 2) (s : State) (g : LinkMsg), let l := n.toNat; let b := pg (pCLM l); let x := link s l
    (Arrived s l mJOB g →
      (jobAccepted s l g = true → ∃ t d, exec (.job n) s = .next t ∧ t.rch.dq = s.rch.dq ++ [d] ∧ d.bytes = g.body.take g.len ∧
        d.peer = some { link := l, tag := g.tag, realm := g.realm } ∧ d.stay = true ∧ d.eid = s.rch.nextEid ∧ (link t l).runs = x.runs ++ [g.tag] ∧
        rd t b CLM.JOBS_RUN.COUNT = min (rd s b CLM.JOBS_RUN.COUNT + 1) (2 ^ CLM.JOBS_RUN.COUNT.w - 1) ∧
        t = { s with rch := t.rch, clm := t.clm, regs := t.regs }) ∧
      (jobAccepted s l g = false → ∃ t, exec (.job n) s = .next t ∧
        Sent s t l mREFUSED { bareMsg mREFUSED g.tag g.realm with status := 0x141B, addr := g.addr } ∧
        rd t b CLM.JOBS_REFUSED.COUNT = min (rd s b CLM.JOBS_REFUSED.COUNT + 1) (2 ^ CLM.JOBS_REFUSED.COUNT.w - 1) ∧
        t = { s with clm := t.clm, regs := t.regs })) ∧
    (Arrived s l mABORT g →
      (∀ d ∈ s.rch.dq, isPeer l g.tag d.peer = false) →
      ((∀ i y, job? s i = some y → bankWaits s y = false) → ∃ t, exec (.abort n) s = .next t ∧ t.rch = s.rch ∧
        (∀ i y, job? s i = some y → isPeer l g.tag y.peer = true → ∃ z, job? t i = some z ∧ z.aborting = true) ∧
        (∀ i y, job? s i = some y → isPeer l g.tag y.peer = false → job? t i = some y)) ∧
      (∀ i y, s.jobs = [(i, y)] → isPeer l g.tag y.peer = true → y.phase = .run → bankWaits s y = true → committedJob s y = false →
        ∃ t, exec (.abort n) s = .next t ∧ ∀ z, job? t i = some z → z.phase = .fin)) ∧
    (∀ d, Arrived s l mABORT g → s.rch.dq.find? (fun d => isPeer l g.tag d.peer) = some d → g.tag ∈ x.runs → ∃ t, exec (.abort n) s = .next t ∧
      t.rch.dq = s.rch.dq.filter (fun e => e.eid != d.eid) ∧ (link t l).runs = x.runs.erase g.tag ∧ t.jobs = s.jobs ∧
      (let body := doneBody { status := 0x18, detail := 0, loc := 0 } 0 (entTag d.bytes) []
       Sent s t l mDONE { bareMsg mDONE g.tag g.realm with len := body.length, body })) ∧
    (∀ j, fwdJob s l g = some j →
      (Arrived s l mDONE g → let st := leNat (slice g.body 0 1); ∃ t, exec (.done n) s = .next t ∧
        (link t l).jobs = x.jobs.filter (fun k => k.tx != j.tx) ∧
        (st ≠ 0 → ∃ c ∈ t.rch.compls, c.sq = j.ent.sq ∧ c.covers = [j.ent.eid] ∧ c.status = st ∧ c.index = j.ent.index ∧ c.posted = false)) ∧
      (Arrived s l mREFUSED g → sqState s j.ent.sq ≠ 3 → ∃ t, exec (.refused n) s = .next t ∧
        (link t l).jobs = x.jobs.filter (fun k => k.tx != j.tx) ∧ t.rch.dq = putBack { j.ent with stay := true } s.rch.dq ∧
        t = { s with clm := t.clm, rch := t.rch })) ∧
    (Arrived s l mWREAD g →
      (serveOk s l g false = true → ∃ t, exec (.wread n) s = .next t ∧ Asks t (.peerRead l (serveTag s l g.tag) (g.addr % 64) g.len)) ∧
      (serveOk s l g false = false → ∃ t, exec (.wread n) s = .next t ∧ Sent s t l mRDATA { bareMsg mRDATA g.tag g.realm with status := 0x141A } ∧
        rd t b CLM.WIN_FAULTS.COUNT = min (rd s b CLM.WIN_FAULTS.COUNT + 1) (2 ^ CLM.WIN_FAULTS.COUNT.w - 1) ∧ t.fab = s.fab)) ∧
    (Arrived s l mWWRITE g →
      (serveOk s l g true = true → ∃ t, exec (.wwrite n) s = .next t ∧ Asks t (.peerWrite l (serveTag s l g.tag)) ∧
        ∃ v ∈ (link t l).serves, v.tag = serveTag s l g.tag ∧ v.bad = false) ∧
      (serveOk s l g true = false → ∃ t, exec (.wwrite n) s = .next t ∧ Sent s t l mWACK { bareMsg mWACK g.tag g.realm with status := 0x141A } ∧
        rd t b CLM.WIN_FAULTS.COUNT = min (rd s b CLM.WIN_FAULTS.COUNT + 1) (2 ^ CLM.WIN_FAULTS.COUNT.w - 1) ∧ t.fab = s.fab)) ∧
    (∀ a j e k r off skip len pos, winAsk s l g = some a → a.who = .frag j e k r off skip len pos → Arrived s l mRDATA g →
      (∀ u, step? s j k = some u → dataLive s j e k = true → r < 3 →
        (g.status = 0 → ∃ t w, exec (.rdata n) s = .next t ∧ step? t j k = some w ∧ SMap.get? (w.range r).pieces off = some (slice g.body 0 len)) ∧
        (g.status ≠ 0 → txnLive s j e k = true → ∃ t w, exec (.rdata n) s = .next t ∧ step? t j k = some w ∧
          (u.bad = none → w.st = .formed ∧ w.bad = some { status := 0x20, detail := min pos 0x1FFF, loc := a.addr }))) ∧
      ((∀ y, job? s j = some y → y.eid ≠ e) → ∃ t, exec (.rdata n) s = .next t ∧ t = { s with clm := t.clm } ∧
        (link t l).asks = x.asks.filter fun c => c.tx != a.tx)) ∧
    ∀ a j e k pos y u, winAsk s l g = some a → a.who = .out j e k pos → Arrived s l mWACK g → job? s j = some y → y.eid = e → y.phase ≠ .fin →
      step? s j k = some u → ∃ t w, exec (.wack n) s = .next t ∧ step? t j k = some w ∧ w.outLeft = u.outLeft - 1 ∧
        (g.status = 0 → w.bad = u.bad) ∧ (g.status ≠ 0 → u.bad = none → w.bad = some { status := 0x21, detail := min pos 0x1FFF, loc := a.addr })

/-- Messages of shared keys: a PREPARE is held and acknowledged; COMMIT writes it to the Seedbank and CANCEL drops it; PACK and CACK settle
the sender's side; a REVOKE takes the slot's lines and is acknowledged; outcomes are asked for and told; and entries are pulled (R470 to
R472). -/
def Obligations.SharedKeysAreSettled : Prop :=
  ∀ (n : BitVec 2) (s : State) (g : LinkMsg), let l := n.toNat; let x := link s l
    let back := fun (m st : Nat) => { bareMsg m g.tag g.realm with status := st, addr := g.addr }
    (Arrived s l mPREPARE g → x.preps.length < 64 →
      (shrEntry s l g.realm ≠ none → ∃ t, exec (.prepare n) s = .next t ∧ Sent s t l mPACK (back mPACK 0) ∧ (link t l).preps = x.preps ++
        [{ tx := g.tag % 4096, realm := g.realm, slot := g.addr, entry := slice g.body 0 256, lost := false }]) ∧
      (shrEntry s l g.realm = none → ∃ t, exec (.prepare n) s = .next t ∧ Sent s t l mPACK (back mPACK 0x0818) ∧ (link t l).preps = x.preps)) ∧
    (∀ q, x.preps.find? (fun q => q.tx == g.tag % 4096) = some q →
      (Arrived s l mCOMMIT g → ∃ t, exec (.commit n) s = .next t ∧ Writes t (.peer l q.tx q.slot q.realm) q.entry ∧ t.jobs = s.jobs) ∧
      (Arrived s l mCANCEL g → s.kcc.lookups = [] → s.jobs = [] → ∃ t, exec (.cancel n) s = .next t ∧
        (link t l).preps = x.preps.filter (fun p => p.tx != q.tx) ∧ Sent s t l mCACK { bareMsg mCACK q.tx q.realm with addr := q.slot } ∧
        t.kcc = s.kcc)) ∧
    (x.preps.find? (fun q => q.tx == g.tag % 4096) = none → Arrived s l mCOMMIT g → ∃ t, exec (.commit n) s = .next t ∧
      Sent s t l mCACK (back mCACK 0) ∧ t.kcc = s.kcc) ∧
    (∀ o w, Arrived s l mPACK g → x.outs.find? (fun o => o.tx == g.tag % 4096 && o.done.isNone) = some o → g.status = 0 →
      SMap.get? s.kcc.writes o.tok = some w → (∃ j k key ln, w.use = .install j k key ln ∧ awaitsWrite s j k o.tok = true) → w.acks ≠ 1 →
      ∃ t, exec (.pack n) s = .next t ∧ SMap.get? t.kcc.writes o.tok = some { w with acks := w.acks - 1 } ∧ t.jobs = s.jobs ∧ t.fab = s.fab) ∧
    (Arrived s l mCACK g → ∃ t, exec (.cack n) s = .next t ∧ (link t l).outs = x.outs.filter (fun o => o.tx != g.tag % 4096) ∧
      t = { s with clm := t.clm }) ∧
    (∀ u, Arrived s l mREVOKE g → (let h := leNat (slice g.body 0 4)
        adoptHusk s g.addr { realm := g.realm, gen := h, final := h == 2 ^ 31 - 1 && slotGen s g.realm g.addr == 2 ^ 31 - 1 } = some u) →
      s.kcc.lookups = [] → s.jobs = [] → ∃ t, exec (.revoke n) s = .next t ∧ t.kcc.husks = u.kcc.husks ∧ Sent s t l mRACK (back mRACK 0) ∧
        ∀ p ∈ t.kcc.lines, p.2.slot = g.addr → p.2.realm = g.realm → p.2.st = .stale) ∧
    (Arrived s l mRACK g → ∃ t, exec (.rack n) s = .next t ∧ t = { s with clm := t.clm, kcc := { s.kcc with revokes := t.kcc.revokes } } ∧
      ∀ v ∈ t.kcc.revokes, v.slot = g.addr → v.realm = g.realm → l ∉ v.acks) ∧
    (∀ o, Arrived s l mOUTCOMEQ g → g.len = 2 → g.body = o → o.length = 2 → ∃ t body, exec (.outcomeQ n) s = .next t ∧
      body = o ++ [byteOf (bit (x.outs.any fun e => e.tx == leNat o % 4096 && e.done == some true))] ∧
      Sent s t l mOUTCOME { back mOUTCOME 0 with len := 3, body } ∧ t.kcc = s.kcc) ∧
    (∀ q, Arrived s l mOUTCOME g → g.len = 3 → g.body.length = 3 → x.preps.find? (fun q => q.tx == leNat (g.body.take 2) % 4096 && q.lost) = some q →
      g.realm ∉ x.syncOk → bitAt (leNat (g.body.drop 2)) 0 = true → ∃ t, exec (.outcome n) s = .next t ∧
      Writes t (.peer l q.tx q.slot q.realm) q.entry ∧ t.jobs = s.jobs ∧ ∀ p ∈ (link t l).preps, p.tx = q.tx → p.lost = false) ∧
    (Arrived s l mKEYPULL g → shrEntry s l g.realm ≠ none → realmStored s g.realm = true → g.addr < rd s (pg pKCC) KCC.SB_SLOTS.COUNT →
      ∃ t, exec (.keyPull n) s = .next t ∧ Asks t (.pullRead l (serveTag s l g.tag) g.addr) ∧ t.kcc = s.kcc) ∧
    (Arrived s l mKEYPULL g → shrEntry s l g.realm = none ∨ realmStored s g.realm = false → ∃ t, exec (.keyPull n) s = .next t ∧
      Sent s t l mPULLDATA { bareMsg mPULLDATA g.tag g.realm with status := 0x0812 } ∧ t.fab = s.fab) ∧
    ∀ p f ln, Arrived s l mPULLDATA g → x.pulls.find? (fun p => p.1 == g.tag % 4096) = some p → SMap.get? s.kcc.fills p.2 = some f →
      f.bad = false → lineAt s f.line = some ln →
      (g.status = 0 → ∃ t, exec (.pullData n) s = .next t ∧ Writes t (.pull p.2) (slice g.body 0 256)) ∧
      (g.status ≠ 0 → s.kcc.lookups = [] → s.jobs = [] → ∃ t, exec (.pullData n) s = .next t ∧ lineAt t f.line = some { ln with st := .refused 0x0817 })
end

