-- ==== Sys2Proof/Laws/Word.lean ====
section
/-! SUPPORT. The laws of the sparse map: a read after a write, and that every operation keeps the canonical form. -/

namespace Sys2Proof.SMap

variable {β : Type}

@[simp] theorem get?_nil (i : Nat) : SMap.get? ([] : SMap β) i = none := rfl

@[simp] theorem get?_set_same (m : SMap β) (i : Nat) (b : β) : SMap.get? (SMap.set m i b) i = some b := by
  induction m with
  | nil => simp [SMap.set, SMap.get?]
  | cons p m ih =>
    obtain ⟨k, v⟩ := p
    simp only [SMap.set]
    split
    · simp [SMap.get?]
    · split
      · simp [SMap.get?]
      · simp only [SMap.get?]
        rw [if_neg (by omega)]
        exact ih

theorem get?_set_ne (m : SMap β) {i j : Nat} (b : β) (h : j ≠ i) : SMap.get? (SMap.set m i b) j = SMap.get? m j := by
  induction m with
  | nil => simp [SMap.set, SMap.get?, h.symm]
  | cons p m ih =>
    obtain ⟨k, v⟩ := p
    simp only [SMap.set]
    split
    · simp [SMap.get?, h.symm]
    · split
      · next hik => subst hik; simp [SMap.get?, h.symm]
      · simp only [SMap.get?, ih]

theorem get?_set (m : SMap β) (i j : Nat) (b : β) :
    SMap.get? (SMap.set m i b) j = if j = i then some b else SMap.get? m j := by
  split
  · next h => subst h; simp
  · next h => exact get?_set_ne m b h

@[simp] theorem getD_set_same (m : SMap β) (i : Nat) (b d : β) : SMap.getD (SMap.set m i b) i d = b := by
  simp [SMap.getD]

theorem getD_set_ne (m : SMap β) {i j : Nat} (b d : β) (h : j ≠ i) : SMap.getD (SMap.set m i b) j d = SMap.getD m j d := by
  simp [SMap.getD, get?_set_ne m b h]

theorem above_mono {lo hi : Nat} {m : SMap β} (h : lo ≤ hi) (ha : SMap.above hi m) : SMap.above lo m :=
  fun p hp => Nat.lt_of_le_of_lt h (ha p hp)

theorem above_set {lo i : Nat} {m : SMap β} (b : β) (h : lo < i) (ha : SMap.above lo m) : SMap.above lo (SMap.set m i b) := by
  induction m with
  | nil => intro p hp; simp [SMap.set] at hp; subst hp; exact h
  | cons q m ih =>
    obtain ⟨k, v⟩ := q
    have hk : lo < k := ha (k, v) (by simp)
    have hm : SMap.above lo m := fun p hp => ha p (by simp [hp])
    intro p hp
    simp only [SMap.set] at hp
    split at hp
    · rcases List.mem_cons.1 hp with rfl | hp
      · exact h
      · exact ha p hp
    · split at hp
      · rcases List.mem_cons.1 hp with rfl | hp
        · exact h
        · exact hm p hp
      · rcases List.mem_cons.1 hp with rfl | hp
        · exact hk
        · exact ih hm p hp

/-- Writing a key keeps the canonical form. -/
theorem wf_set {m : SMap β} (i : Nat) (b : β) (h : SMap.Wf m) : SMap.Wf (SMap.set m i b) := by
  induction m with
  | nil => exact ⟨fun p hp => (List.not_mem_nil hp).elim, trivial⟩
  | cons q m ih =>
    obtain ⟨k, v⟩ := q
    obtain ⟨ha, hm⟩ := h
    simp only [SMap.set]
    split
    · next hik => exact ⟨fun p hp => by
        rcases List.mem_cons.1 hp with rfl | hp
        · exact hik
        · exact Nat.lt_trans hik (ha p hp), ha, hm⟩
    · split
      · next hik => exact ⟨fun p hp => hik ▸ ha p hp, hm⟩
      · next h1 h2 => exact ⟨above_set b (by show k < i; omega) ha, ih hm⟩

theorem above_erase {lo i : Nat} {m : SMap β} (ha : SMap.above lo m) : SMap.above lo (SMap.erase m i) := by
  induction m with
  | nil => exact ha
  | cons q m ih =>
    obtain ⟨k, v⟩ := q
    have hm : SMap.above lo m := fun p hp => ha p (by simp [hp])
    simp only [SMap.erase]
    split
    · exact hm
    · intro p hp
      rcases List.mem_cons.1 hp with rfl | hp
      · exact ha _ (by simp)
      · exact ih hm p hp

/-- Removing a key keeps the canonical form. -/
theorem wf_erase {m : SMap β} (i : Nat) (h : SMap.Wf m) : SMap.Wf (SMap.erase m i) := by
  induction m with
  | nil => trivial
  | cons q m ih =>
    obtain ⟨k, v⟩ := q
    obtain ⟨ha, hm⟩ := h
    simp only [SMap.erase]
    split
    · exact hm
    · exact ⟨above_erase ha, ih hm⟩

theorem above_filter {lo : Nat} {m : SMap β} (f : Nat × β → Bool) (ha : SMap.above lo m) : SMap.above lo (m.filter f) :=
  fun p hp => ha p (List.mem_filter.1 hp).1

/-- Keeping some of the keys keeps the canonical form. -/
theorem wf_filter {m : SMap β} (f : Nat × β → Bool) (h : SMap.Wf m) : SMap.Wf (m.filter f) := by
  induction m with
  | nil => trivial
  | cons q m ih =>
    obtain ⟨ha, hm⟩ := h
    simp only [List.filter_cons]
    split
    · exact ⟨above_filter f ha, ih hm⟩
    · exact ih hm

theorem get?_eq_none_of_above {m : SMap β} {i : Nat} (h : SMap.above i m) : SMap.get? m i = none := by
  induction m with
  | nil => rfl
  | cons q m ih =>
    obtain ⟨k, v⟩ := q
    have hk : i < k := h (k, v) (by simp)
    simp only [SMap.get?]
    rw [if_neg (by omega)]
    exact ih fun p hp => h p (by simp [hp])

theorem get?_erase_same {m : SMap β} (i : Nat) (h : SMap.Wf m) : SMap.get? (SMap.erase m i) i = none := by
  induction m with
  | nil => rfl
  | cons q m ih =>
    obtain ⟨k, v⟩ := q
    obtain ⟨ha, hm⟩ := h
    simp only [SMap.erase]
    split
    · next hk => subst hk; exact get?_eq_none_of_above ha
    · next hk => simp only [SMap.get?]; rw [if_neg hk]; exact ih hm

theorem get?_erase_ne (m : SMap β) {i j : Nat} (h : j ≠ i) : SMap.get? (SMap.erase m i) j = SMap.get? m j := by
  induction m with
  | nil => rfl
  | cons q m ih =>
    obtain ⟨k, v⟩ := q
    simp only [SMap.erase]
    split
    · next hk => subst hk; simp [SMap.get?, h.symm]
    · simp only [SMap.get?, ih]

theorem mem_set {m : SMap β} {i : Nat} {b : β} {p : Nat × β} (h : p ∈ SMap.set m i b) : p = (i, b) ∨ p ∈ m := by
  induction m with
  | nil => simp [SMap.set] at h; exact .inl h
  | cons q m ih =>
    obtain ⟨k, v⟩ := q
    simp only [SMap.set] at h
    split at h
    · rcases List.mem_cons.1 h with rfl | h
      · exact .inl rfl
      · exact .inr h
    · split at h
      · rcases List.mem_cons.1 h with rfl | h
        · exact .inl rfl
        · exact .inr (List.mem_cons_of_mem _ h)
      · rcases List.mem_cons.1 h with rfl | h
        · exact .inr (by simp)
        · rcases ih h with h | h
          · exact .inl h
          · exact .inr (List.mem_cons_of_mem _ h)

theorem mem_erase {m : SMap β} {i : Nat} {p : Nat × β} (h : p ∈ SMap.erase m i) : p ∈ m := by
  induction m with
  | nil => exact h
  | cons q m ih =>
    obtain ⟨k, v⟩ := q
    simp only [SMap.erase] at h
    split at h
    · exact List.mem_cons_of_mem _ h
    · rcases List.mem_cons.1 h with rfl | h
      · simp
      · exact List.mem_cons_of_mem _ (ih h)

end Sys2Proof.SMap
end

