-- ==== Sys2Proof/Laws/Evolves.lean ====
section
/-! SUPPORT. What no operation of the block can do, said once: a relation between a state and a later one, its laws for updates
of State's fields, and its laws for branches and folds. The lemmas `evolves_<operation>` of the other files under
Sys2Proof/Laws/ say it of each operation. -/

namespace Sys2Proof.Machine

/-- Every OTP bit set in `a` is set in `b`. -/
def OtpKept (a b : SMap OtpWord) : Prop :=
  ∀ w o, SMap.get? a w = some o → ∃ o', SMap.get? b w = some o' ∧ o.data &&& o'.data = o.data

/-- `t` can follow `s`: the delivered part and the queue are the same, time and the counter of free values have not gone back,
canonical tables are still canonical, and no OTP bit has been lost. -/
structure Evolves (s t : State) : Prop where
  part : t.part = s.part
  queue : t.pending = s.pending
  time : s.fcNow ≤ t.fcNow
  free : s.freeCtr ≤ t.freeCtr
  regs : SMap.Wf s.regs → SMap.Wf t.regs
  rows : RowsOk s.grn.rows → RowsOk t.grn.rows
  otpWf : SMap.Wf s.glm.otp → SMap.Wf t.glm.otp
  otp : OtpKept s.glm.otp t.glm.otp

theorem OtpKept.refl (a : SMap OtpWord) : OtpKept a a := fun _ o h => ⟨o, h, Nat.and_self _⟩

theorem OtpKept.trans {a b c : SMap OtpWord} (h : OtpKept a b) (k : OtpKept b c) : OtpKept a c := by
  intro w o ho
  obtain ⟨o1, h1, e1⟩ := h w o ho
  obtain ⟨o2, h2, e2⟩ := k w o1 h1
  refine ⟨o2, h2, ?_⟩
  rw [← e1, Nat.and_assoc, e2]

namespace Evolves

theorem refl (s : State) : Evolves s s := ⟨rfl, rfl, Nat.le_refl _, Nat.le_refl _, id, id, id, OtpKept.refl _⟩

theorem trans {s t u : State} (h : Evolves s t) (k : Evolves t u) : Evolves s u :=
  ⟨k.part.trans h.part, k.queue.trans h.queue, Nat.le_trans h.time k.time, Nat.le_trans h.free k.free, k.regs ∘ h.regs,
   k.rows ∘ h.rows, k.otpWf ∘ h.otpWf, h.otp.trans k.otp⟩

/-- A change that leaves all that the relation speaks of. -/
theorem same {s t : State} (h1 : t.part = s.part) (h2 : t.pending = s.pending) (h3 : t.fcNow = s.fcNow) (h4 : t.freeCtr = s.freeCtr)
    (h5 : t.regs = s.regs) (h6 : t.grn.rows = s.grn.rows) (h7 : t.glm.otp = s.glm.otp) : Evolves s t :=
  ⟨h1, h2, Nat.le_of_eq h3.symm, Nat.le_of_eq h4.symm, fun h => h5 ▸ h, fun h => h6 ▸ h, fun h => h7 ▸ h, h7 ▸ OtpKept.refl _⟩

theorem ite {s a b : State} {c : Prop} [Decidable c] (ha : Evolves s a) (hb : Evolves s b) : Evolves s (if c then a else b) := by
  split
  · exact ha
  · exact hb

theorem foldl {α : Type} {f : State → α → State} (hf : ∀ s a, Evolves s (f s a)) (l : List α) (s t : State) (h : Evolves s t) :
    Evolves s (l.foldl f t) := by
  induction l generalizing t with
  | nil => exact h
  | cons a l ih => exact ih _ (h.trans (hf t a))

end Evolves

/-! ### Updates of State's fields -/

namespace Evolves

variable {s t : State}

/-- An update of any fields that the relation leaves free, the medium's rows and the OTP words as they were. -/
theorem upd_all (h : Evolves s t) {phase started keeper strap tickFc probeFc probeEid tp unlocks fab chaff rch gates jobs plan lanes susp kcc meas banks accs tef grn snt glm clm cp}
    (e1 : grn.rows = t.grn.rows) (e2 : glm.otp = t.glm.otp) :
    Evolves s { t with
      phase := phase, started := started, keeper := keeper, strap := strap, tickFc := tickFc, probeFc := probeFc,
      probeEid := probeEid, tp := tp, unlocks := unlocks, fab := fab, chaff := chaff, rch := rch,
      gates := gates, jobs := jobs, plan := plan, lanes := lanes, susp := susp, kcc := kcc,
      meas := meas, banks := banks, accs := accs, tef := tef, grn := grn, snt := snt, glm := glm,
      clm := clm, cp := cp } :=
  h.trans (same rfl rfl rfl rfl rfl e1 e2)

theorem upd_regs (h : Evolves s t) {x : SMap Nat} (e : SMap.Wf t.regs → SMap.Wf x) : Evolves s { t with regs := x } :=
  h.trans ⟨rfl, rfl, Nat.le_refl _, Nat.le_refl _, e, id, id, OtpKept.refl _⟩

theorem upd_freeCtr (h : Evolves s t) {x : Nat} (e : t.freeCtr ≤ x) : Evolves s { t with freeCtr := x } :=
  h.trans ⟨rfl, rfl, Nat.le_refl _, e, id, id, id, OtpKept.refl _⟩

theorem upd_fcNow (h : Evolves s t) {x : Nat} (e : t.fcNow ≤ x) : Evolves s { t with fcNow := x } :=
  h.trans ⟨rfl, rfl, e, Nat.le_refl _, id, id, id, OtpKept.refl _⟩

/-- The state that an operation answers beside a value. -/
theorem fst {α : Type} {p : State × α} {a : State} {b : α} (h : p = (a, b)) (k : Evolves s p.1) : Evolves s a := by
  subst h; exact k

theorem snd {α : Type} {p : α × State} {a : State} {b : α} (h : p = (b, a)) (k : Evolves s p.2) : Evolves s a := by
  subst h; exact k

end Evolves

theorem evolves_wr (s : State) (base : Nat) (f : Field) (v : Nat) : Evolves s (wr s base f v) :=
  .upd_regs (.refl s) (SMap.wf_set _ _)

theorem evolves_freshFree (s : State) : Evolves s (freshFree s).2 := .upd_freeCtr (.refl s) (Nat.le_succ _)

end Sys2Proof.Machine
end

