-- ==== Sys2Proof/Laws/Ops.lean ====
section
/-! SUPPORT. What no operation of Machine/Ops.lean can do (Laws/Evolves.lean), one lemma for each. -/

namespace Sys2Proof.Machine

theorem evolves_incBy (s : State) (base : Nat) (f : Field) (n : Nat) : Evolves s (incBy s base f n) := by
  unfold incBy
  with_reducible apply evolves_wr

theorem evolves_inc (s : State) (base : Nat) (f : Field) : Evolves s (inc s base f) := by
  unfold inc
  with_reducible apply evolves_incBy

theorem evolves_dec (s : State) (base : Nat) (f : Field) : Evolves s (dec s base f) := by
  unfold dec
  with_reducible apply evolves_wr

theorem evolves_noteRise (s t : State) (p : Nat) : Evolves t (noteRise s t p) := by
  unfold noteRise
  refine .ite ?_ ?_
  · exact (evolves_wr ..)
  · exact .refl _

theorem evolves_setEvt (s : State) (p b : Nat) : Evolves s (setEvt s p b) := by
  unfold setEvt
  refine .trans ?_ (by with_reducible apply evolves_noteRise)
  with_reducible apply evolves_wr

theorem evolves_setUstate (s : State) (p v : Nat) : Evolves s (setUstate s p v) := by
  unfold setUstate
  with_reducible apply evolves_wr

theorem evolves_pmuAdd (s : State) (n m : Nat) : Evolves s (pmuAdd s n m) := by
  unfold pmuAdd
  extract_lets +onlyGivenNames x0
  try clear_value x0
  extract_lets +onlyGivenNames x1
  have hx1 : Evolves s x1 := by
    unfold x1
    with_reducible apply evolves_wr
  try clear_value x1
  with_reducible refine .ite ?_ ?_
  · with_reducible exact hx1
  · with_reducible refine .ite ?_ ?_
    · with_reducible exact hx1
    · refine .trans ?_ (by with_reducible apply evolves_setEvt)
      refine .trans ?_ (by with_reducible apply evolves_wr)
      with_reducible exact hx1

theorem evolves_pmu (s : State) (ev unitNo m : Nat) : Evolves s (pmu s ev unitNo m) := by
  unfold pmu
  with_reducible refine .ite ?_ ?_
  · with_reducible refine .foldl (fun st0 _ => ?_) _ _ _ ?_
    · with_reducible refine .ite ?_ ?_
      · with_reducible apply evolves_pmuAdd
      · with_reducible exact .refl _
    · with_reducible exact .refl _
  · with_reducible exact .refl _

theorem evolves_stampKc (s : State) (k : Nat) : Evolves s (stampKc s k) := by
  unfold stampKc
  with_reducible refine .ite ?_ ?_
  · with_reducible apply evolves_wr
  · with_reducible exact .refl _

theorem evolves_probeStamp (s : State) (eid k : Nat) : Evolves s (probeStamp s eid k) := by
  unfold probeStamp
  with_reducible refine .ite ?_ ?_
  · with_reducible apply evolves_stampKc
  · with_reducible exact .refl _

theorem evolves_probeZero (s : State) : Evolves s (probeZero s) := by
  unfold probeZero
  extract_lets +onlyGivenNames x0
  try clear_value x0
  extract_lets +onlyGivenNames x1
  have hx1 : Evolves s x1 := by
    unfold x1
    refine .trans ?_ (by with_reducible apply evolves_wr)
    with_reducible apply evolves_wr
  try clear_value x1
  refine .upd_all ?_ rfl rfl
  with_reducible exact hx1

theorem evolves_probeBell (s : State) (q : Nat) : Evolves s (probeBell s q) := by
  unfold probeBell
  with_reducible refine .ite ?_ ?_
  · refine .trans ?_ (by with_reducible apply evolves_stampKc)
    refine .trans ?_ (by with_reducible apply evolves_wr)
    with_reducible apply evolves_probeZero
  · with_reducible exact .refl _

theorem evolves_probeTake (s : State) (q eid : Nat) : Evolves s (probeTake s q eid) := by
  unfold probeTake
  with_reducible refine .ite ?_ ?_
  · refine .trans ?_ (by with_reducible apply evolves_stampKc)
    refine .upd_all ?_ rfl rfl
    with_reducible exact .refl _
  · with_reducible exact .refl _

theorem evolves_setSrc (s : State) (k : Nat) (r : ChaffSrc) : Evolves s (setSrc s k r) := by
  unfold setSrc
  refine .upd_all ?_ rfl rfl
  with_reducible exact .refl _

theorem evolves_chaff (s : State) (m : ChaffMsg) : Evolves s (chaff s m) := by
  unfold chaff
  extract_lets +onlyGivenNames x0
  try clear_value x0
  extract_lets +onlyGivenNames x1
  try clear_value x1
  with_reducible refine .ite ?_ ?_
  · extract_lets +onlyGivenNames x2
    have hx2 : Evolves s x2 := by
      unfold x2
      with_reducible apply evolves_setSrc
    try clear_value x2
    refine .upd_all ?_ rfl rfl
    with_reducible exact hx2
  · split
    all_goals
      with_reducible apply evolves_setSrc

theorem evolves_chaffPlain (s : State) (unit member kind detail : Nat) :
    Evolves s (chaffPlain s unit member kind detail) := by
  unfold chaffPlain
  with_reducible apply evolves_chaff

theorem evolves_notice (s : State) (unit member reason : Nat) : Evolves s (notice s unit member reason) := by
  unfold notice
  with_reducible apply evolves_chaffPlain

theorem evolves_chaffAny (s : State) (unit member kind : Nat) : Evolves s (chaffAny s unit member kind) := by
  unfold chaffAny
  with_reducible apply evolves_chaffPlain

theorem evolves_fabChaff (s : State) (kind access port mq addr : Nat) :
    Evolves s (fabChaff s kind access port mq addr) := by
  unfold fabChaff
  with_reducible apply evolves_chaff

theorem evolves_writeIgnored (s : State) (unit member src addr reason : Nat) :
    Evolves s (writeIgnored s unit member src addr reason) := by
  unfold writeIgnored
  with_reducible apply evolves_chaff

theorem evolves_setSqx (s : State) (q : Nat) (x : SqX) : Evolves s (setSqx s q x) := by
  unfold setSqx
  refine .upd_all ?_ rfl rfl
  with_reducible exact .refl _

theorem evolves_setVec (s : State) (v : Nat) (x : Vec) : Evolves s (setVec s v x) := by
  unfold setVec
  refine .upd_all ?_ rfl rfl
  with_reducible exact .refl _

theorem evolves_setGatex (s : State) (g : Nat) (x : GateX) : Evolves s (setGatex s g x) := by
  unfold setGatex
  refine .upd_all ?_ rfl rfl
  with_reducible exact .refl _

theorem evolves_setJob (s : State) (j : Nat) (x : Job) : Evolves s (setJob s j x) := by
  unfold setJob
  refine .upd_all ?_ rfl rfl
  with_reducible exact .refl _

theorem evolves_modJob (s : State) (j : Nat) (f : Job → Job) : Evolves s (modJob s j f) := by
  unfold modJob
  split
  all_goals first
    | with_reducible apply evolves_setJob
    | with_reducible exact .refl _

theorem evolves_modStep (s : State) (j k : Nat) (f : StepRun → StepRun) : Evolves s (modStep s j k f) := by
  unfold modStep
  with_reducible apply evolves_modJob

theorem evolves_setLane (s : State) (l : Nat) (x : Lane) : Evolves s (setLane s l x) := by
  unfold setLane
  refine .upd_all ?_ rfl rfl
  with_reducible exact .refl _

theorem evolves_setStash (s : State) (l : List StashLine) : Evolves s (setStash s l) := by
  unfold setStash
  refine .upd_all ?_ rfl rfl
  with_reducible exact .refl _

theorem evolves_stashPoke (s : State) (a : Nat) (b : Byte) : Evolves s (stashPoke s a b) := by
  unfold stashPoke
  with_reducible apply evolves_setStash

theorem evolves_stashOwn (s : State) (cells : List (Nat × Byte)) : Evolves s (stashOwn s cells) := by
  unfold stashOwn
  with_reducible refine .ite ?_ ?_
  · with_reducible exact .refl _
  · with_reducible refine .foldl (fun st0 _ => ?_) _ _ _ ?_
    · with_reducible apply evolves_stashPoke
    · with_reducible exact .refl _

theorem evolves_present1 (s : State) (p : Nat) (r : FabReq) : Evolves s (present1 s p r) := by
  unfold present1
  split
  all_goals first
    | (extract_lets +onlyGivenNames x0
       try clear_value x0
       extract_lets +onlyGivenNames x1
       try clear_value x1
       refine .trans ?_ (by with_reducible apply evolves_pmu)
       refine .upd_all ?_ rfl rfl
       with_reducible exact .refl _)
    | (extract_lets +onlyGivenNames x2
       try clear_value x2
       extract_lets +onlyGivenNames x3
       try clear_value x3
       refine .trans ?_ (by with_reducible apply evolves_pmu)
       refine .trans ?_ (by with_reducible apply evolves_stashOwn)
       refine .upd_all ?_ rfl rfl
       with_reducible exact .refl _)

theorem evolves_pump (n : Nat) (s : State) (p : Nat) : Evolves s (pump n s p) := by
  induction n generalizing s with
  | zero => exact .refl _
  | succ n ih =>
    simp only [pump]
    refine .ite ?_ (.refl _)
    split
    · refine .trans ?_ (ih _)
      refine .trans ?_ (evolves_present1 ..)
      exact .upd_all (.refl _) rfl rfl
    · exact .refl _

theorem evolves_request (s : State) (r : FabReq) : Evolves s (request s r) := by
  unfold request
  refine .trans ?_ (by with_reducible apply evolves_pump)
  refine .upd_all ?_ rfl rfl
  with_reducible exact .refl _

theorem evolves_readReq (s : State) (p a n mq : Nat) (prio na : Bool) (who : Who) :
    Evolves s (readReq s p a n mq prio na who) := by
  unfold readReq
  with_reducible apply evolves_request

theorem evolves_writeReq (s : State) (p a mq : Nat) (prio na poison : Bool) (who : Who) (bs : Bytes) :
    Evolves s (writeReq s p a mq prio na poison who bs) := by
  unfold writeReq
  with_reducible apply evolves_request

theorem evolves_idleLane (s : State) (n l : Nat) : Evolves s (idleLane s n l) := by
  unfold idleLane
  extract_lets +onlyGivenNames x0
  have hx0 : Evolves s x0 := by
    unfold x0
    with_reducible apply evolves_pmu
  try clear_value x0
  with_reducible refine .ite ?_ ?_
  · refine .trans ?_ (by with_reducible apply evolves_incBy)
    with_reducible exact hx0
  · with_reducible exact hx0

theorem evolves_passFc (s : State) (n : Nat) : Evolves s (passFc s n) := by
  unfold passFc
  extract_lets +onlyGivenNames x0
  have hx0 : Evolves s x0 := by
    unfold x0
    refine .foldl (fun st1 _ => evolves_idleLane ..) _ _ _ ?_
    exact .upd_fcNow (.refl _) (Nat.le_add_right _ _)
  clear_value x0
  refine .ite ?_ hx0
  extract_lets +onlyGivenNames v x1
  have hx1 : Evolves s x1 := by
    unfold x1
    refine .trans ?_ (evolves_pmu ..)
    refine .trans ?_ (evolves_wr ..)
    exact hx0
  clear_value x1
  refine .ite hx1 ?_
  refine .trans ?_ (evolves_setEvt ..)
  refine .trans ?_ (evolves_wr ..)
  exact hx1

theorem evolves_idleFx (s : State) : Evolves s (idleFx s) := by
  unfold idleFx
  with_reducible apply evolves_passFc

end Sys2Proof.Machine
end

