-- ==== Sys2Proof/Laws/Rings.lean ====
section
/-! SUPPORT. What no operation of Machine/Rings.lean can do (Laws/Evolves.lean), one lemma for each. -/

namespace Sys2Proof.Machine

theorem evolves_sendVec (s : State) (v port mq : Nat) : Evolves s (sendVec s v port mq) := by
  unfold sendVec
  extract_lets +onlyGivenNames x0
  try clear_value x0
  refine .trans ?_ (by with_reducible apply evolves_writeReq)
  with_reducible apply evolves_setVec

theorem evolves_trigger (s : State) (v port mq : Nat) : Evolves s (trigger s v port mq) := by
  unfold trigger
  extract_lets +onlyGivenNames x0
  try clear_value x0
  with_reducible refine .ite ?_ ?_
  · with_reducible refine .ite ?_ ?_
    · with_reducible exact .refl _
    · with_reducible apply evolves_setVec
  · with_reducible apply evolves_sendVec

theorem evolves_sendPending (s : State) (v : Nat) : Evolves s (sendPending s v) := by
  unfold sendPending
  extract_lets +onlyGivenNames x0
  try clear_value x0
  with_reducible refine .ite ?_ ?_
  · with_reducible apply evolves_sendVec
  · with_reducible exact .refl _

theorem evolves_ppEvent (s : State) (p b : Nat) : Evolves s (ppEvent s p b) := by
  unfold ppEvent
  extract_lets +onlyGivenNames x0
  have hx0 : Evolves s x0 := by
    unfold x0
    with_reducible apply evolves_wr
  try clear_value x0
  extract_lets +onlyGivenNames x1
  have hx1 : Evolves s x1 := by
    unfold x1
    with_reducible refine .ite ?_ ?_
    · refine .trans ?_ (by with_reducible apply evolves_wr)
      with_reducible exact hx0
    · with_reducible refine .ite ?_ ?_
      · refine .trans ?_ (by with_reducible apply evolves_wr)
        with_reducible exact hx0
      · refine .trans ?_ (by with_reducible apply evolves_wr)
        with_reducible exact hx0
  try clear_value x1
  with_reducible refine .ite ?_ ?_
  · refine .trans ?_ (by with_reducible apply evolves_trigger)
    with_reducible exact hx1
  · with_reducible exact hx1

theorem evolves_stashDrop (s : State) (a : Nat) : Evolves s (stashDrop s a) := by
  unfold stashDrop
  with_reducible apply evolves_setStash

theorem evolves_stashPut (s : State) (a : Nat) (d : Bytes) : Evolves s (stashPut s a d) := by
  unfold stashPut
  with_reducible refine .ite ?_ ?_
  · with_reducible apply evolves_setStash
  · extract_lets +onlyGivenNames x0
    try clear_value x0
    with_reducible apply evolves_setStash

theorem evolves_stashCopyFx (s : State) (a : Nat) (d : Bytes) (be port : Nat) :
    Evolves s (stashCopyFx s a d be port) := by
  unfold stashCopyFx
  extract_lets +onlyGivenNames x0
  have hx0 : Evolves s x0 := by
    unfold x0
    with_reducible apply evolves_inc
  try clear_value x0
  with_reducible refine .ite ?_ ?_
  · with_reducible exact .refl _
  · split
    all_goals first
      | with_reducible exact hx0
      | (with_reducible refine .ite ?_ ?_
         · refine .trans ?_ (by with_reducible apply evolves_stashDrop)
           with_reducible exact hx0
         · split
           all_goals first
             | with_reducible apply evolves_stashPut
             | (with_reducible refine .ite ?_ ?_
                · with_reducible apply evolves_stashPut
                · with_reducible exact hx0))

theorem evolves_modSqx (s : State) (q : Nat) (f : SqX → SqX) : Evolves s (modSqx s q f) := by
  unfold modSqx
  exact (evolves_setSqx ..)

theorem evolves_newCompl (s : State) (q : Nat) (covers : List Nat) (status index tag step detail : Nat) (result : Bytes)
    (jobs : List Nat) :
    Evolves s (newCompl s q covers status index tag step detail result jobs) := by
  unfold newCompl
  extract_lets +onlyGivenNames x0
  try clear_value x0
  extract_lets +onlyGivenNames x1
  try clear_value x1
  extract_lets +onlyGivenNames x2
  have hx2 : Evolves s x2 := by
    unfold x2
    refine .upd_all ?_ rfl rfl
    with_reducible exact .refl _
  try clear_value x2
  with_reducible refine .foldl (fun st3 _ => ?_) _ _ _ ?_
  · with_reducible apply evolves_modJob
  · with_reducible exact hx2

theorem evolves_closeOut (s : State) (q : Nat) : Evolves s (closeOut s q) := by
  unfold closeOut
  extract_lets +onlyGivenNames x0
  try clear_value x0
  extract_lets +onlyGivenNames x1
  have hx1 : Evolves s x1 := by
    unfold x1
    with_reducible apply evolves_modSqx
  try clear_value x1
  with_reducible refine .foldl (fun st2 _ => ?_) _ _ _ ?_
  · split
    all_goals first
      | with_reducible exact .refl _
      | with_reducible apply evolves_newCompl
  · with_reducible exact hx1

theorem evolves_closeBatch (s : State) (q : Nat) : Evolves s (closeBatch s q) := by
  unfold closeBatch
  extract_lets +onlyGivenNames x0
  have hx0 : Evolves s x0 := by
    unfold x0
    with_reducible apply evolves_modSqx
  try clear_value x0
  refine .trans ?_ (by with_reducible apply evolves_closeOut)
  refine .trans ?_ (by with_reducible apply evolves_wr)
  with_reducible exact hx0

theorem evolves_finishEntry (s : State) (q eid index tag : Nat) (v : Verdict) (step : Nat) (result : Bytes) (inlineOut : Bool)
    (jobs : List Nat) :
    Evolves s (finishEntry s q eid index tag v step result inlineOut jobs) := by
  unfold finishEntry
  extract_lets +onlyGivenNames x0
  try clear_value x0
  extract_lets +onlyGivenNames x1
  try clear_value x1
  extract_lets +onlyGivenNames x2
  try clear_value x2
  extract_lets +onlyGivenNames x3
  have hx3 : Evolves s x3 := by
    unfold x3
    with_reducible apply evolves_modSqx
  try clear_value x3
  extract_lets +onlyGivenNames x4
  have hx4 : Evolves s x4 := by
    unfold x4
    with_reducible refine .ite ?_ ?_
    · with_reducible exact hx3
    · refine .trans ?_ (by with_reducible apply evolves_newCompl)
      with_reducible exact hx3
  try clear_value x4
  refine .trans ?_ (by with_reducible apply evolves_closeOut)
  with_reducible exact hx4

theorem evolves_putInBatch (s : State) (q eid : Nat) : Evolves s (putInBatch s q eid) := by
  unfold putInBatch
  extract_lets +onlyGivenNames x0
  try clear_value x0
  with_reducible refine .ite ?_ ?_
  · with_reducible apply evolves_setSqx
  · extract_lets +onlyGivenNames x1
    try clear_value x1
    extract_lets +onlyGivenNames x2
    have hx2 : Evolves s x2 := by
      unfold x2
      refine .upd_all ?_ rfl rfl
      with_reducible exact .refl _
    try clear_value x2
    refine .trans ?_ (by with_reducible apply evolves_wr)
    refine .trans ?_ (by with_reducible apply evolves_setSqx)
    with_reducible exact hx2

theorem evolves_joinBatch (s : State) (q eid : Nat) (deferred ends inl : Bool) :
    Evolves s (joinBatch s q eid deferred ends inl) := by
  unfold joinBatch
  extract_lets +onlyGivenNames x0
  have hx0 : Evolves s x0 := by
    unfold x0
    with_reducible refine .ite ?_ ?_
    · with_reducible apply evolves_putInBatch
    · with_reducible exact .refl _
  try clear_value x0
  extract_lets +onlyGivenNames x1
  try clear_value x1
  with_reducible refine .ite ?_ ?_
  · refine .trans ?_ (by with_reducible apply evolves_closeBatch)
    with_reducible exact hx0
  · with_reducible exact hx0

theorem evolves_haltEvents (s : State) (q : Nat) : Evolves s (haltEvents s q) := by
  unfold haltEvents
  refine .trans ?_ (by with_reducible apply evolves_chaffAny)
  refine .trans ?_ (by with_reducible apply evolves_ppEvent)
  with_reducible apply evolves_setEvt

theorem evolves_addEnt (s : State) (q index units : Nat) (skip express : Bool) :
    Evolves s (addEnt s q index units skip express).2 := by
  have h : Evolves s (modSqx { s with rch := { s.rch with nextEid := s.rch.nextEid + 1 } } q fun x =>
      { x with span := x.span + units, ents := x.ents ++ [{ eid := s.rch.nextEid, index, units, skip, express, st := if skip then .answered else .live }] }) :=
    .trans (.upd_all (.refl _) rfl rfl) (evolves_modSqx ..)
  unfold addEnt
  refine .ite h ?_
  refine .trans ?_ (evolves_inc ..)
  refine .trans ?_ (evolves_inc ..)
  refine .trans h (evolves_inc ..)

theorem evolves_haltEntry (s : State) (q detail tag loc : Nat) : Evolves s (haltEntry s q detail tag loc) := by
  unfold haltEntry
  extract_lets +onlyGivenNames x0
  try clear_value x0
  split
  all_goals
    extract_lets +onlyGivenNames x1
    have hx1 : Evolves s x1 := by
      unfold x1
      refine .trans ?_ (by with_reducible apply evolves_wr)
      refine .trans ?_ (by with_reducible apply evolves_wr)
      refine .trans ?_ (by with_reducible apply evolves_wr)
      exact (.snd (by assumption) (by with_reducible apply evolves_addEnt))
    try clear_value x1
    extract_lets +onlyGivenNames x2
    have hx2 : Evolves s x2 := by
      unfold x2
      with_reducible refine .ite ?_ ?_
      · with_reducible exact hx1
      · refine .trans ?_ (by with_reducible apply evolves_inc)
        with_reducible exact hx1
    try clear_value x2
    extract_lets +onlyGivenNames x3
    have hx3 : Evolves s x3 := by
      unfold x3
      refine .trans ?_ (by with_reducible apply evolves_modSqx)
      refine .trans ?_ (by with_reducible apply evolves_closeBatch)
      with_reducible exact hx2
    try clear_value x3
    refine .trans ?_ (by with_reducible apply evolves_haltEvents)
    refine .trans ?_ (by with_reducible apply evolves_newCompl)
    with_reducible exact hx3

theorem evolves_haltBare (s : State) (q index detail : Nat) : Evolves s (haltBare s q index detail) := by
  unfold haltBare
  with_reducible refine .ite ?_ ?_
  · extract_lets +onlyGivenNames x0
    have hx0 : Evolves s x0 := by
      unfold x0
      refine .trans ?_ (by with_reducible apply evolves_wr)
      refine .trans ?_ (by with_reducible apply evolves_wr)
      with_reducible apply evolves_wr
    try clear_value x0
    refine .trans ?_ (by with_reducible apply evolves_haltEvents)
    refine .trans ?_ (by with_reducible apply evolves_modSqx)
    refine .trans ?_ (by with_reducible apply evolves_closeBatch)
    with_reducible exact hx0
  · with_reducible refine .ite ?_ ?_
    · refine .trans ?_ (by with_reducible apply evolves_haltEvents)
      refine .trans ?_ (by with_reducible apply evolves_wr)
      with_reducible apply evolves_wr
    · with_reducible exact .refl _

theorem evolves_popOldest (s : State) (q : Nat) (e : RingEnt) : Evolves s (popOldest s q e) := by
  unfold popOldest
  extract_lets +onlyGivenNames x0
  try clear_value x0
  extract_lets +onlyGivenNames x1
  have hx1 : Evolves s x1 := by
    unfold x1
    refine .trans ?_ (by with_reducible apply evolves_modSqx)
    with_reducible apply evolves_wr
  try clear_value x1
  extract_lets +onlyGivenNames x2
  have hx2 : Evolves s x2 := by
    unfold x2
    with_reducible refine .ite ?_ ?_
    · with_reducible exact hx1
    · refine .trans ?_ (by with_reducible apply evolves_dec)
      refine .trans ?_ (by with_reducible apply evolves_inc)
      with_reducible exact hx1
  try clear_value x2
  with_reducible refine .ite ?_ ?_
  · refine .trans ?_ (by with_reducible apply evolves_wr)
    refine .trans ?_ (by with_reducible apply evolves_modSqx)
    with_reducible exact hx2
  · with_reducible exact hx2

theorem evolves_settle (n : Nat) (s : State) (q : Nat) : Evolves s (settle n s q) := by
  induction n generalizing s with
  | zero => exact .refl _
  | succ n ih =>
    simp only [settle]
    split
    · refine .ite ?_ (.refl _)
      exact .trans (evolves_popOldest ..) (ih _)
    · exact .refl _

theorem evolves_settleAll (s : State) (q : Nat) : Evolves s (settleAll s q) := by
  unfold settleAll
  with_reducible apply evolves_settle

theorem evolves_markEnts (s : State) (q : Nat) (eids : List Nat) (f : EntSt → EntSt) :
    Evolves s (markEnts s q eids f) := by
  unfold markEnts
  with_reducible apply evolves_modSqx

theorem evolves_returnDue (s : State) (q : Nat) : Evolves s (returnDue s q) := by
  unfold returnDue
  split
  all_goals first
    | with_reducible exact .refl _
    | (extract_lets +onlyGivenNames x0
       try clear_value x0
       with_reducible refine .ite ?_ ?_
       · with_reducible exact .refl _
       · extract_lets +onlyGivenNames x1
         try clear_value x1
         extract_lets +onlyGivenNames x2
         try clear_value x2
         extract_lets +onlyGivenNames x3
         try clear_value x3
         extract_lets +onlyGivenNames x4
         have hx4 : Evolves s x4 := by
           unfold x4
           with_reducible apply evolves_markEnts
         try clear_value x4
         refine .trans ?_ (by with_reducible apply evolves_request)
         with_reducible exact hx4)

theorem evolves_returnAnswer (s : State) (q : Nat) (eids : List Nat) (err : Bool) :
    Evolves s (returnAnswer s q eids err) := by
  unfold returnAnswer
  with_reducible refine .ite ?_ ?_
  · extract_lets +onlyGivenNames x0
    try clear_value x0
    refine .trans ?_ (by with_reducible apply evolves_settleAll)
    with_reducible refine .foldl (fun st1 _ => ?_) _ _ _ ?_
    · with_reducible apply evolves_popOldest
    · with_reducible exact .refl _
  · extract_lets +onlyGivenNames x2
    try clear_value x2
    extract_lets +onlyGivenNames x3
    have hx3 : Evolves s x3 := by
      unfold x3
      with_reducible apply evolves_markEnts
    try clear_value x3
    with_reducible refine .ite ?_ ?_
    · extract_lets +onlyGivenNames x4
      try clear_value x4
      refine .trans ?_ (by with_reducible apply evolves_settleAll)
      refine .trans ?_ (by with_reducible apply evolves_haltBare)
      with_reducible exact hx3
    · refine .trans ?_ (by with_reducible apply evolves_returnDue)
      with_reducible exact hx3

theorem evolves_freeJob (s : State) (j : Nat) : Evolves s (freeJob s j) := by
  unfold freeJob
  refine .upd_all ?_ rfl rfl
  with_reducible exact .refl _

theorem evolves_setCompls (s : State) (l : List Compl) : Evolves s (setCompls s l) := by
  unfold setCompls
  refine .upd_all ?_ rfl rfl
  with_reducible exact .refl _

theorem evolves_discardCompl (s : State) (c : Compl) : Evolves s (discardCompl s c) := by
  unfold discardCompl
  extract_lets +onlyGivenNames x0
  have hx0 : Evolves s x0 := by
    unfold x0
    with_reducible apply evolves_incBy
  try clear_value x0
  extract_lets +onlyGivenNames x1
  have hx1 : Evolves s x1 := by
    unfold x1
    refine .trans ?_ (by with_reducible apply evolves_setCompls)
    with_reducible exact hx0
  try clear_value x1
  refine .trans ?_ (by with_reducible apply evolves_settleAll)
  with_reducible refine .foldl (fun st2 _ => ?_) _ _ _ ?_
  · with_reducible apply evolves_freeJob
  · refine .trans ?_ (by with_reducible apply evolves_markEnts)
    with_reducible exact hx1

theorem evolves_probeDone (s : State) (cs : List Compl) : Evolves s (probeDone s cs) := by
  unfold probeDone
  with_reducible refine .ite ?_ ?_
  · extract_lets +onlyGivenNames x0
    have hx0 : Evolves s x0 := by
      unfold x0
      with_reducible apply evolves_stampKc
    try clear_value x0
    extract_lets +onlyGivenNames x1
    have hx1 : Evolves s x1 := by
      unfold x1
      refine .upd_all ?_ rfl rfl
      with_reducible exact hx0
    try clear_value x1
    refine .trans ?_ (by with_reducible apply evolves_setEvt)
    refine .trans ?_ (by with_reducible apply evolves_wr)
    refine .trans ?_ (by with_reducible apply evolves_wr)
    refine .trans ?_ (by with_reducible apply evolves_wr)
    with_reducible exact hx1
  · with_reducible exact .refl _

theorem evolves_postCompls (s : State) (q : Nat) (cs : List Compl) : Evolves s (postCompls s q cs) := by
  unfold postCompls
  extract_lets +onlyGivenNames x0
  try clear_value x0
  extract_lets +onlyGivenNames x1
  try clear_value x1
  extract_lets +onlyGivenNames x2
  try clear_value x2
  extract_lets +onlyGivenNames x3
  try clear_value x3
  extract_lets +onlyGivenNames x4
  have hx4 : Evolves s x4 := by
    unfold x4
    refine .trans ?_ (by with_reducible apply evolves_wr)
    with_reducible apply evolves_wr
  try clear_value x4
  extract_lets +onlyGivenNames x5
  have hx5 : Evolves s x5 := by
    unfold x5
    refine .trans ?_ (by with_reducible apply evolves_incBy)
    with_reducible exact hx4
  try clear_value x5
  extract_lets +onlyGivenNames x6
  have hx6 : Evolves s x6 := by
    unfold x6
    refine .trans ?_ (by with_reducible apply evolves_incBy)
    with_reducible exact hx5
  try clear_value x6
  extract_lets +onlyGivenNames x7
  have hx7 : Evolves s x7 := by
    unfold x7
    refine .trans ?_ (by with_reducible apply evolves_pmu)
    with_reducible exact hx6
  try clear_value x7
  extract_lets +onlyGivenNames x8
  try clear_value x8
  extract_lets +onlyGivenNames x9
  have hx9 : Evolves s x9 := by
    unfold x9
    refine .trans ?_ (by with_reducible apply evolves_setCompls)
    with_reducible exact hx7
  try clear_value x9
  extract_lets +onlyGivenNames x10
  have hx10 : Evolves s x10 := by
    unfold x10
    with_reducible refine .foldl (fun st11 _ => ?_) _ _ _ ?_
    · with_reducible apply evolves_writeReq
    · with_reducible exact hx9
  try clear_value x10
  refine .trans ?_ (by with_reducible apply evolves_probeDone)
  with_reducible exact hx10

theorem evolves_faultCq (s : State) (c : Nat) : Evolves s (faultCq s c) := by
  unfold faultCq
  with_reducible refine .ite ?_ ?_
  · extract_lets +onlyGivenNames x0
    have hx0 : Evolves s x0 := by
      unfold x0
      refine .trans ?_ (by with_reducible apply evolves_chaffAny)
      refine .trans ?_ (by with_reducible apply evolves_setEvt)
      with_reducible apply evolves_wr
    try clear_value x0
    with_reducible refine .foldl (fun st1 _ => ?_) _ _ _ ?_
    · with_reducible apply evolves_haltBare
    · with_reducible exact hx0
  · with_reducible exact .refl _

theorem evolves_complAnswer (s : State) (cid : Nat) (err : Bool) : Evolves s (complAnswer s cid err) := by
  unfold complAnswer
  split
  all_goals first
    | with_reducible exact .refl _
    | (extract_lets +onlyGivenNames x0
       try clear_value x0
       extract_lets +onlyGivenNames x1
       have hx1 : Evolves s x1 := by
         unfold x1
         with_reducible apply evolves_setCompls
       try clear_value x1
       extract_lets +onlyGivenNames x2
       have hx2 : Evolves s x2 := by
         unfold x2
         with_reducible refine .ite ?_ ?_
         · refine .trans ?_ (by with_reducible apply evolves_faultCq)
           with_reducible exact hx1
         · with_reducible exact hx1
       try clear_value x2
       with_reducible refine .ite ?_ ?_
       · with_reducible exact hx2
       · with_reducible refine .ite ?_ ?_
         · refine .trans ?_ (by with_reducible apply evolves_discardCompl)
           with_reducible exact hx2
         · extract_lets +onlyGivenNames x3
           have hx3 : Evolves s x3 := by
             unfold x3
             refine .trans ?_ (by with_reducible apply evolves_setCompls)
             with_reducible exact hx2
           try clear_value x3
           extract_lets +onlyGivenNames x4
           have hx4 : Evolves s x4 := by
             unfold x4
             with_reducible refine .foldl (fun st5 _ => ?_) _ _ _ ?_
             · with_reducible apply evolves_freeJob
             · refine .trans ?_ (by with_reducible apply evolves_markEnts)
               with_reducible exact hx3
           try clear_value x4
           with_reducible refine .ite ?_ ?_
           · refine .trans ?_ (by with_reducible apply evolves_trigger)
             with_reducible exact hx4
           · with_reducible exact hx4)

theorem evolves_countLines (s : State) (q first n : Nat) : Evolves s (countLines s q first n) := by
  unfold countLines
  extract_lets +onlyGivenNames x0
  try clear_value x0
  refine .trans ?_ (by with_reducible apply evolves_pmu)
  with_reducible apply evolves_incBy

theorem evolves_countMisses (s : State) (n : Nat) : Evolves s (countMisses s n) := by
  unfold countMisses
  refine .trans ?_ (by with_reducible apply evolves_pmu)
  with_reducible apply evolves_incBy

theorem evolves_parkOn (s : State) (q first n : Nat) (tag : Option Nat) : Evolves s (parkOn s q first n tag) := by
  unfold parkOn
  extract_lets +onlyGivenNames x0
  try clear_value x0
  extract_lets +onlyGivenNames x1
  try clear_value x1
  extract_lets +onlyGivenNames x2
  try clear_value x2
  extract_lets +onlyGivenNames x3
  have hx3 : Evolves s x3 := by
    unfold x3
    with_reducible apply evolves_countMisses
  try clear_value x3
  extract_lets +onlyGivenNames x4
  try clear_value x4
  extract_lets +onlyGivenNames x5
  try clear_value x5
  extract_lets +onlyGivenNames x6
  have hx6 : Evolves s x6 := by
    unfold x6
    refine .trans ?_ (by with_reducible apply evolves_setSqx)
    refine .upd_all ?_ rfl rfl
    with_reducible exact hx3
  try clear_value x6
  with_reducible refine .foldl (fun st7 _ => ?_) _ _ _ ?_
  · with_reducible apply evolves_readReq
  · with_reducible exact hx6

theorem evolves_parkMissing (s : State) (q cur units : Nat) (tag : Nat) :
    Evolves s (parkMissing s q cur units tag) := by
  unfold parkMissing
  extract_lets +onlyGivenNames x0
  try clear_value x0
  with_reducible refine .ite ?_ ?_
  · with_reducible apply evolves_parkOn
  · extract_lets +onlyGivenNames x1
    try clear_value x1
    with_reducible apply evolves_parkOn

theorem evolves_unpark (s : State) (q : Nat) : Evolves s (unpark s q) := by
  unfold unpark
  with_reducible apply evolves_modSqx

theorem evolves_advance (s : State) (q units : Nat) : Evolves s (advance s q units) := by
  unfold advance
  with_reducible apply evolves_wr

theorem evolves_takeEntry (s : State) (q units h0 : Nat) (bytes : Bytes) :
    Evolves s (takeEntry s q units h0 bytes) := by
  unfold takeEntry
  extract_lets +onlyGivenNames x0
  try clear_value x0
  extract_lets +onlyGivenNames x1
  try clear_value x1
  split
  all_goals
    extract_lets +onlyGivenNames x2
    have hx2 : Evolves s x2 := by
      unfold x2
      refine .trans ?_ (by with_reducible apply evolves_probeTake)
      exact (.snd (by assumption) (by with_reducible apply evolves_addEnt))
    try clear_value x2
    extract_lets +onlyGivenNames x3
    have hx3 : Evolves s x3 := by
      unfold x3
      refine .trans ?_ (by with_reducible apply evolves_wr)
      refine .trans ?_ (by with_reducible apply evolves_advance)
      refine .trans ?_ (by with_reducible apply evolves_unpark)
      with_reducible exact hx2
    try clear_value x3
    extract_lets +onlyGivenNames x4
    have hx4 : Evolves s x4 := by
      unfold x4
      refine .trans ?_ (by with_reducible apply evolves_joinBatch)
      with_reducible exact hx3
    try clear_value x4
    extract_lets +onlyGivenNames x5
    try clear_value x5
    extract_lets +onlyGivenNames x6
    extract_lets +onlyGivenNames x7
    try clear_value x7
    extract_lets +onlyGivenNames x8
    have hx8 : Evolves s x8 := by
      unfold x8
      with_reducible refine .ite ?_ ?_
      · try unfold x6
        refine .trans ?_ (by with_reducible apply evolves_finishEntry)
        with_reducible exact hx4
      · with_reducible refine .ite ?_ ?_
        · try unfold x6
          refine .trans ?_ (by with_reducible apply evolves_finishEntry)
          with_reducible exact hx4
        · with_reducible refine .ite ?_ ?_
          · try unfold x6
            refine .trans ?_ (by with_reducible apply evolves_finishEntry)
            with_reducible exact hx4
          · refine .upd_all ?_ rfl rfl
            with_reducible exact hx4
    try clear_value x8
    with_reducible exact hx8

theorem evolves_visit (s0 : State) (q : Nat) : Evolves s0 (visit s0 q) := by
  unfold visit
  extract_lets +onlyGivenNames x0
  have hx0 : Evolves s0 x0 := by
    unfold x0
    with_reducible refine .ite ?_ ?_
    · with_reducible exact .refl _
    · refine .trans ?_ (by with_reducible apply evolves_wr)
      refine .trans ?_ (by with_reducible apply evolves_wr)
      with_reducible apply evolves_modSqx
  try clear_value x0
  extract_lets +onlyGivenNames x1
  try clear_value x1
  extract_lets +onlyGivenNames x2
  try clear_value x2
  extract_lets +onlyGivenNames x3
  try clear_value x3
  with_reducible refine .ite ?_ ?_
  · refine .trans ?_ (by with_reducible apply evolves_unpark)
    with_reducible exact hx0
  · with_reducible refine .ite ?_ ?_
    · refine .trans ?_ (by with_reducible apply evolves_wr)
      refine .trans ?_ (by with_reducible apply evolves_modSqx)
      with_reducible exact hx0
    · split
      all_goals first
        | (refine .trans ?_ (by with_reducible apply evolves_parkOn)
           with_reducible exact hx0)
        | (extract_lets +onlyGivenNames x4
           try clear_value x4
           extract_lets +onlyGivenNames x5
           try clear_value x5
           extract_lets +onlyGivenNames x6
           try clear_value x6
           extract_lets +onlyGivenNames x7
           try clear_value x7
           extract_lets +onlyGivenNames x8
           with_reducible refine .ite ?_ ?_
           · refine .trans ?_ (by with_reducible apply evolves_unpark)
             refine .trans ?_ (by with_reducible apply evolves_countLines)
             with_reducible exact hx0
           · with_reducible refine .ite ?_ ?_
             · try unfold x8
               refine .trans ?_ (by with_reducible apply evolves_haltEntry)
               refine .trans ?_ (by with_reducible apply evolves_countLines)
               with_reducible exact hx0
             · with_reducible refine .ite ?_ ?_
               · try unfold x8
                 refine .trans ?_ (by with_reducible apply evolves_haltEntry)
                 refine .trans ?_ (by with_reducible apply evolves_countLines)
                 with_reducible exact hx0
               · with_reducible refine .ite ?_ ?_
                 · with_reducible refine .ite ?_ ?_
                   · try unfold x8
                     refine .trans ?_ (by with_reducible apply evolves_haltEntry)
                     refine .trans ?_ (by with_reducible apply evolves_countLines)
                     with_reducible exact hx0
                   · refine .trans ?_ (by with_reducible apply evolves_wr)
                     refine .trans ?_ (by with_reducible apply evolves_advance)
                     refine .trans ?_ (by with_reducible apply evolves_unpark)
                     refine .trans ?_ (by with_reducible apply evolves_addEnt)
                     refine .trans ?_ (by with_reducible apply evolves_countLines)
                     with_reducible exact hx0
                 · with_reducible refine .ite ?_ ?_
                   · refine .trans ?_ (by with_reducible apply evolves_parkMissing)
                     with_reducible exact hx0
                   · with_reducible refine .ite ?_ ?_
                     · try unfold x8
                       refine .trans ?_ (by with_reducible apply evolves_haltEntry)
                       refine .trans ?_ (by with_reducible apply evolves_countLines)
                       with_reducible exact hx0
                     · with_reducible refine .ite ?_ ?_
                       · try unfold x8
                         refine .trans ?_ (by with_reducible apply evolves_haltEntry)
                         refine .trans ?_ (by with_reducible apply evolves_countLines)
                         with_reducible exact hx0
                       · with_reducible refine .ite ?_ ?_
                         · try unfold x8
                           refine .trans ?_ (by with_reducible apply evolves_haltEntry)
                           refine .trans ?_ (by with_reducible apply evolves_countLines)
                           with_reducible exact hx0
                         · with_reducible refine .ite ?_ ?_
                           · try unfold x8
                             refine .trans ?_ (by with_reducible apply evolves_haltEntry)
                             refine .trans ?_ (by with_reducible apply evolves_countLines)
                             with_reducible exact hx0
                           · refine .trans ?_ (by with_reducible apply evolves_takeEntry)
                             refine .trans ?_ (by with_reducible apply evolves_countLines)
                             with_reducible exact hx0)

theorem evolves_scanFx (s : State) : Evolves s (scanFx s) := by
  unfold scanFx
  with_reducible refine .ite ?_ ?_
  · split
    all_goals first
      | (extract_lets +onlyGivenNames x0
         try clear_value x0
         extract_lets +onlyGivenNames x1
         have hx1 : Evolves s x1 := by
           unfold x1
           with_reducible refine .ite ?_ ?_
           · refine .upd_all ?_ rfl rfl
             with_reducible exact .refl _
           · with_reducible refine .ite ?_ ?_
             · refine .upd_all ?_ rfl rfl
               with_reducible exact .refl _
             · with_reducible exact .refl _
         try clear_value x1
         refine .trans ?_ (by with_reducible apply evolves_visit)
         with_reducible exact hx1)
      | with_reducible exact .refl _
  · with_reducible exact .refl _

theorem evolves_sqBeat (s : State) (q v unit : Nat) (d : Bytes) (bad : Bool) (addr : Nat) :
    Evolves s (sqBeat s q v unit d bad addr) := by
  unfold sqBeat
  split
  all_goals first
    | with_reducible exact .refl _
    | (with_reducible refine .ite ?_ ?_
       · with_reducible exact .refl _
       · with_reducible refine .ite ?_ ?_
         · with_reducible refine .ite ?_ ?_
           · extract_lets +onlyGivenNames x0
             try clear_value x0
             refine .trans ?_ (by with_reducible apply evolves_haltEntry)
             refine .upd_freeCtr ?_ ?_
             · with_reducible exact .refl _
             · exact Nat.le_add_right _ _
           · with_reducible apply evolves_unpark
         · extract_lets +onlyGivenNames x1
           try clear_value x1
           refine .trans ?_ (by with_reducible apply evolves_setSqx)
           refine .upd_all ?_ rfl rfl
           with_reducible exact .refl _)

end Sys2Proof.Machine
end

