-- ==== Sys2Proof/Laws/Access.lean ====
section
/-! SUPPORT. What no operation of Machine/Access.lean can do (Laws/Evolves.lean), one lemma for each. -/

namespace Sys2Proof.Machine

theorem evolves_respond (s : State) (id data err : Nat) : Evolves s (respond s id data err) := by
  unfold respond
  refine .upd_all ?_ rfl rfl
  with_reducible exact .refl _

theorem evolves_deny (s : State) (a : Acc) (we : Bool) : Evolves s (deny s a we) := by
  unfold deny
  extract_lets +onlyGivenNames x0
  have hx0 : Evolves s x0 := by
    unfold x0
    with_reducible apply evolves_chaff
  try clear_value x0
  extract_lets +onlyGivenNames x1
  have hx1 : Evolves s x1 := by
    unfold x1
    with_reducible refine .ite ?_ ?_
    · refine .trans ?_ (by with_reducible apply evolves_ppEvent)
      refine .trans ?_ (by with_reducible apply evolves_inc)
      with_reducible exact hx0
    · with_reducible exact hx0
  try clear_value x1
  refine .trans ?_ (by with_reducible apply evolves_respond)
  with_reducible exact hx1

theorem evolves_lapse (s : State) (p access src addr : Nat) : Evolves s (lapse s p access src addr) := by
  unfold lapse
  extract_lets +onlyGivenNames x0
  have hx0 : Evolves s x0 := by
    unfold x0
    refine .trans ?_ (by with_reducible apply evolves_incBy)
    refine .trans ?_ (by with_reducible apply evolves_wr)
    refine .upd_all ?_ rfl rfl
    with_reducible exact .refl _
  try clear_value x0
  extract_lets +onlyGivenNames x1
  try clear_value x1
  refine .trans ?_ (by with_reducible apply evolves_chaff)
  with_reducible exact hx0

theorem evolves_cancelUnlock (s : State) (p src addr : Nat) : Evolves s (cancelUnlock s p src addr) := by
  unfold cancelUnlock
  split
  all_goals first
    | with_reducible apply evolves_lapse
    | with_reducible exact .refl _

theorem evolves_unlockWrite (s : State) (p src v : Nat) : Evolves s (unlockWrite s p src v) := by
  unfold unlockWrite
  extract_lets +onlyGivenNames x0
  have hx0 : Evolves s x0 := by
    unfold x0
    with_reducible apply evolves_cancelUnlock
  try clear_value x0
  with_reducible refine .ite ?_ ?_
  · extract_lets +onlyGivenNames x1
    have hx1 : Evolves s x1 := by
      unfold x1
      refine .trans ?_ (by with_reducible apply evolves_wr)
      refine .trans ?_ (by with_reducible apply evolves_wr)
      with_reducible exact hx0
    try clear_value x1
    refine .upd_all ?_ rfl rfl
    with_reducible exact hx1
  · refine .trans ?_ (by with_reducible apply evolves_incBy)
    with_reducible exact hx0

theorem evolves_lockedWrite {s : State} {p off src : Nat} {fx : State → State} (h : ∀ t, Evolves t (fx t)) :
    Evolves s (lockedWrite s p off src fx) := by
  unfold lockedWrite
  refine .ite ?_ ?_
  · refine .trans ?_ (h _)
    refine .trans ?_ (evolves_wr ..)
    exact .upd_all (.refl _) rfl rfl
  · exact .trans (evolves_cancelUnlock ..) (evolves_chaff ..)

theorem evolves_storeField (s : State) (base a v : Nat) (rwl p0 : Bool) (f : Field) :
    Evolves s (storeField s base a v rwl p0 f) := by
  unfold storeField
  split
  all_goals first
    | with_reducible exact .refl _
    | (extract_lets +onlyGivenNames x0
       try clear_value x0
       extract_lets +onlyGivenNames x1
       try clear_value x1
       with_reducible refine .ite ?_ ?_
       · with_reducible exact .refl _
       · split
         all_goals first
           | with_reducible apply evolves_wr
           | (with_reducible refine .ite ?_ ?_
              · with_reducible apply evolves_wr
              · with_reducible exact .refl _)
           | with_reducible exact .refl _)

theorem evolves_storeWord (s : State) (base a v : Nat) (rwl p0 : Bool) (fs : List Field) :
    Evolves s (storeWord s base a v rwl p0 fs) := by
  unfold storeWord
  with_reducible refine .foldl (fun st0 _ => ?_) _ _ _ ?_
  · with_reducible apply evolves_storeField
  · with_reducible exact .refl _

theorem evolves_storePage (s : State) (src p off v : Nat) : Evolves s (storePage s src p off v) := by
  unfold storePage
  split
  all_goals first
    | with_reducible apply evolves_storeWord
    | with_reducible exact .refl _

theorem evolves_countAccess (s : State) (a : Acc) : Evolves s (countAccess s a) := by
  unfold countAccess
  split
  all_goals first
    | with_reducible apply evolves_pmu
    | with_reducible exact .refl _

theorem evolves_tqWrite {s : State} {a : Acc} {fx : State → State} (h : ∀ t, Evolves t (fx t)) : Evolves s (tqWrite s a fx) := by
  unfold tqWrite
  split
  · exact .refl _
  · exact .refl _
  · exact evolves_respond ..
  · exact evolves_respond ..
  · refine .ite ?_ (evolves_deny ..)
    exact ((evolves_countAccess ..).trans (h _)).trans (evolves_respond ..)

theorem evolves_onPage {s : State} {p : Nat} {fx : State → State} (h : ∀ t, Evolves t (fx t)) : Evolves s (onPage s p fx) := by
  unfold onPage
  exact .ite (h _) (.refl _)

theorem evolves_pageWrite {s : State} {src id p off : Nat} {fx : State → State} (h : ∀ t, Evolves t (fx t)) :
    Evolves s (pageWrite s src id p off fx) :=
  evolves_tqWrite fun _ => evolves_onPage fun _ => (evolves_cancelUnlock ..).trans (h _)

theorem evolves_pageLocked {s : State} {src id p off : Nat} {fx : State → State} (h : ∀ t, Evolves t (fx t)) :
    Evolves s (pageLocked s src id p off fx) :=
  evolves_tqWrite fun _ => evolves_onPage fun _ => evolves_lockedWrite h

theorem evolves_entryWrite {s : State} {src id : Nat} {k : PageKind} {n off : Nat} {wide : Bool} {fx : State → State} (h : ∀ t, Evolves t (fx t)) :
    Evolves s (entryWrite s src id k n off wide fx) :=
  evolves_tqWrite fun _ => .ite (h _) (.refl _)

theorem evolves_evtForceFx (s : State) (src p v : Nat) : Evolves s (evtForceFx s src p v) := by
  unfold evtForceFx
  split
  all_goals first
    | (with_reducible refine .ite ?_ ?_
       · refine .trans ?_ (by with_reducible apply evolves_noteRise)
         with_reducible apply evolves_wr
       · with_reducible apply evolves_writeIgnored)
    | with_reducible exact .refl _

theorem evolves_fecClear (s : State) (b : Nat) : Evolves s (fecClear s b) := by
  unfold fecClear
  with_reducible refine .foldl (fun st0 _ => ?_) _ _ _ ?_
  · with_reducible apply evolves_wr
  · with_reducible exact .refl _

theorem evolves_fecSrcWrite (s : State) (b v : Nat) : Evolves s (fecSrcWrite s b v) := by
  unfold fecSrcWrite
  with_reducible refine .ite ?_ ?_
  · with_reducible apply evolves_fecClear
  · with_reducible exact .refl _

theorem evolves_dbMapFx (s : State) (src p k v : Nat) : Evolves s (dbMapFx s src p k v) := by
  unfold dbMapFx
  extract_lets +onlyGivenNames x0
  try clear_value x0
  extract_lets +onlyGivenNames x1
  try clear_value x1
  extract_lets +onlyGivenNames x2
  try clear_value x2
  extract_lets +onlyGivenNames x3
  try clear_value x3
  extract_lets +onlyGivenNames x4
  try clear_value x4
  extract_lets +onlyGivenNames x5
  try clear_value x5
  with_reducible refine .ite ?_ ?_
  · with_reducible apply evolves_writeIgnored
  · refine .trans ?_ (by with_reducible apply evolves_wr)
    with_reducible apply evolves_wr

theorem evolves_ptCtlFx (s : State) (src p v : Nat) : Evolves s (ptCtlFx s src p v) := by
  unfold ptCtlFx
  with_reducible refine .ite ?_ ?_
  · with_reducible exact .refl _
  · extract_lets +onlyGivenNames x0
    have hx0 : Evolves s x0 := by
      unfold x0
      with_reducible apply evolves_wr
    try clear_value x0
    extract_lets +onlyGivenNames x1
    try clear_value x1
    extract_lets +onlyGivenNames x2
    try clear_value x2
    with_reducible refine .ite ?_ ?_
    · with_reducible refine .ite ?_ ?_
      · refine .trans ?_ (by with_reducible apply evolves_chaff)
        with_reducible exact hx0
      · with_reducible exact hx0
    · extract_lets +onlyGivenNames x3
      have hx3 : Evolves s x3 := by
        unfold x3
        with_reducible refine .ite ?_ ?_
        · with_reducible exact hx0
        · refine .trans ?_ (by with_reducible apply evolves_wr)
          with_reducible exact hx0
      try clear_value x3
      with_reducible refine .ite ?_ ?_
      · with_reducible refine .ite ?_ ?_
        · with_reducible exact hx3
        · with_reducible refine .ite ?_ ?_
          · refine .trans ?_ (by with_reducible apply evolves_wr)
            with_reducible exact hx3
          · refine .trans ?_ (by with_reducible apply evolves_notice)
            with_reducible exact hx3
      · with_reducible refine .ite ?_ ?_
        · refine .trans ?_ (by with_reducible apply evolves_wr)
          with_reducible exact hx3
        · with_reducible exact hx3

theorem evolves_ptMsiFx (s : State) (p v : Nat) : Evolves s (ptMsiFx s p v) := by
  unfold ptMsiFx
  with_reducible refine .ite ?_ ?_
  · with_reducible exact .refl _
  · refine .trans ?_ (by with_reducible apply evolves_wr)
    refine .trans ?_ (by with_reducible apply evolves_wr)
    with_reducible apply evolves_wr

theorem evolves_ptStore (s : State) (src p off v : Nat) : Evolves s (ptStore s src p off v) := by
  unfold ptStore
  with_reducible refine .ite ?_ ?_
  · with_reducible exact .refl _
  · with_reducible apply evolves_storeWord

theorem evolves_rtStore (s : State) (src r off v : Nat) : Evolves s (rtStore s src r off v) := by
  unfold rtStore
  with_reducible refine .ite ?_ ?_
  · extract_lets +onlyGivenNames x0
    have hx0 : Evolves s x0 := by
      unfold x0
      with_reducible apply evolves_storeWord
    try clear_value x0
    with_reducible refine .ite ?_ ?_
    · with_reducible refine .ite ?_ ?_
      · with_reducible exact .refl _
      · with_reducible refine .ite ?_ ?_
        · with_reducible apply evolves_notice
        · with_reducible exact hx0
    · with_reducible refine .ite ?_ ?_
      · with_reducible exact hx0
      · with_reducible exact .refl _
  · with_reducible refine .ite ?_ ?_
    · refine .trans ?_ (by with_reducible apply evolves_wr)
      with_reducible apply evolves_wr
    · with_reducible apply evolves_storeWord

theorem evolves_ppStore (s : State) (src p off v : Nat) : Evolves s (ppStore s src p off v) := by
  unfold ppStore
  with_reducible refine .ite ?_ ?_
  · with_reducible apply evolves_storeWord
  · with_reducible apply evolves_dbMapFx

theorem evolves_doorbellFx (s : State) (p k : Nat) : Evolves s (doorbellFx s p k) := by
  unfold doorbellFx
  extract_lets +onlyGivenNames x0
  with_reducible refine .ite ?_ ?_
  · try unfold x0
    refine .trans ?_ (by with_reducible apply evolves_chaff)
    refine .trans ?_ (by with_reducible apply evolves_ppEvent)
    with_reducible apply evolves_inc
  · extract_lets +onlyGivenNames x1
    try clear_value x1
    extract_lets +onlyGivenNames x2
    have hx2 : Evolves s x2 := by
      unfold x2
      refine .trans ?_ (by with_reducible apply evolves_pmu)
      with_reducible apply evolves_inc
    try clear_value x2
    with_reducible refine .ite ?_ ?_
    · try unfold x0
      refine .trans ?_ (by with_reducible apply evolves_chaff)
      with_reducible exact hx2
    · extract_lets +onlyGivenNames x3
      have hx3 : Evolves s x3 := by
        unfold x3
        refine .trans ?_ (by with_reducible apply evolves_inc)
        with_reducible exact hx2
      try clear_value x3
      with_reducible refine .ite ?_ ?_
      · refine .trans ?_ (by with_reducible apply evolves_setEvt)
        with_reducible exact hx3
      · extract_lets +onlyGivenNames x4
        have hx4 : Evolves s x4 := by
          unfold x4
          with_reducible refine .ite ?_ ?_
          · refine .trans ?_ (by with_reducible apply evolves_modSqx)
            with_reducible exact hx3
          · with_reducible exact hx3
        try clear_value x4
        refine .trans ?_ (by with_reducible apply evolves_wr)
        refine .trans ?_ (by with_reducible apply evolves_probeBell)
        with_reducible exact hx4

end Sys2Proof.Machine
end

