-- ==== Sys2Proof/Laws/Expanders.lean ====
section
/-! SUPPORT. What no operation of Machine/Expanders.lean can do (Laws/Evolves.lean), one lemma for each. -/

namespace Sys2Proof.Machine

theorem evolves_setExp (s : State) (e : Nat) (x : Expander) : Evolves s (setExp s e x) := by
  unfold setExp
  refine .upd_all ?_ rfl rfl
  with_reducible exact .refl _

theorem evolves_expChaff (s : State) (e kind reason : Nat) : Evolves s (expChaff s e kind reason) := by
  unfold expChaff
  with_reducible apply evolves_chaffPlain

theorem evolves_countCall (s : State) (e : Nat) : Evolves s (countCall s e) := by
  unfold countCall
  extract_lets +onlyGivenNames x0
  try clear_value x0
  extract_lets +onlyGivenNames x1
  have hx1 : Evolves s x1 := by
    unfold x1
    with_reducible apply evolves_wr
  try clear_value x1
  with_reducible refine .ite ?_ ?_
  · refine .trans ?_ (by with_reducible apply evolves_expChaff)
    refine .trans ?_ (by with_reducible apply evolves_setEvt)
    refine .trans ?_ (by with_reducible apply evolves_wr)
    with_reducible exact hx1
  · with_reducible refine .ite ?_ ?_
    · refine .trans ?_ (by with_reducible apply evolves_expChaff)
      refine .trans ?_ (by with_reducible apply evolves_setEvt)
      refine .trans ?_ (by with_reducible apply evolves_wr)
      with_reducible exact hx1
    · with_reducible exact hx1

theorem evolves_expCall (s : State) (e : Nat) (add : Bytes) (n : Nat) : Evolves s (expCall s e add n).1 := by
  unfold expCall
  exact .trans (evolves_setExp ..) (evolves_countCall ..)

theorem evolves_refillFuel (f : Nat) (s : State) (e : Nat) : Evolves s (refillFuel f s e) := by
  induction f generalizing s with
  | zero => exact .refl _
  | succ f ih =>
    simp only [refillFuel]
    refine .ite ?_ (.refl _)
    refine .trans ?_ (ih _)
    exact .trans (evolves_expCall ..) (evolves_setExp ..)

theorem evolves_refill (s : State) (e : Nat) : Evolves s (refill s e) := by
  unfold refill
  with_reducible apply evolves_refillFuel

theorem evolves_drawFuel (f : Nat) (s : State) (e n : Nat) : Evolves s (drawFuel f s e n).1 := by
  induction f generalizing s n with
  | zero => exact .refl _
  | succ f ih =>
    simp only [drawFuel]
    split
    · exact .refl _
    · exact ((evolves_setExp ..).trans (evolves_refill ..)).trans (ih ..)

theorem evolves_draw (s : State) (e n : Nat) : Evolves s (draw s e n).1 := evolves_drawFuel ..

theorem evolves_kccDraw (s : State) (n : Nat) : Evolves s (kccDraw s n).1 := by
  unfold kccDraw
  split
  · exact evolves_draw ..
  · refine .ite (.refl _) ?_
    exact (evolves_wr ..).trans (evolves_setEvt ..)

theorem evolves_zeroExps (s : State) : Evolves s (zeroExps s) := by
  unfold zeroExps
  extract_lets +onlyGivenNames x0
  try clear_value x0
  extract_lets +onlyGivenNames x1
  try clear_value x1
  extract_lets +onlyGivenNames x2
  try clear_value x2
  extract_lets +onlyGivenNames x3
  have hx3 : Evolves s x3 := by
    unfold x3
    refine .upd_all ?_ rfl rfl
    with_reducible exact .refl _
  try clear_value x3
  with_reducible refine .foldl (fun st4 _ => ?_) _ _ _ ?_
  · extract_lets +onlyGivenNames x5
    have hx5 : Evolves st4 x5 := by
      unfold x5
      with_reducible refine .ite ?_ ?_
      · with_reducible exact .refl _
      · with_reducible apply evolves_wr
    try clear_value x5
    refine .trans ?_ (by with_reducible apply evolves_wr)
    with_reducible exact hx5
  · with_reducible exact hx3

end Sys2Proof.Machine
end

