-- ==== Sys2Proof/Laws/Links.lean ====
section
/-! SUPPORT. What no operation of Machine/Links.lean can do (Laws/Evolves.lean), one lemma for each. -/

namespace Sys2Proof.Machine

theorem evolves_setLink (s : State) (l : Nat) (x : Link) : Evolves s (setLink s l x) := by
  unfold setLink
  refine .upd_all ?_ rfl rfl
  with_reducible exact .refl _

theorem evolves_setLinkState (s : State) (l v : Nat) : Evolves s (setLinkState s l v) := by
  unfold setLinkState
  refine .trans ?_ (by with_reducible apply evolves_wr)
  with_reducible apply evolves_wr

theorem evolves_presentFlit (s : State) (l seq : Nat) (f : TxFlit) : Evolves s (presentFlit s l seq f) := by
  unfold presentFlit
  extract_lets +onlyGivenNames x0
  try clear_value x0
  extract_lets +onlyGivenNames x1
  try clear_value x1
  extract_lets +onlyGivenNames x2
  try clear_value x2
  extract_lets +onlyGivenNames x3
  try clear_value x3
  extract_lets +onlyGivenNames x4
  try clear_value x4
  with_reducible refine .ite ?_ ?_
  · extract_lets +onlyGivenNames x5
    try clear_value x5
    extract_lets +onlyGivenNames x6
    have hx6 : Evolves s x6 := by
      unfold x6
      with_reducible apply evolves_wr
    try clear_value x6
    extract_lets +onlyGivenNames x7
    have hx7 : Evolves s x7 := by
      unfold x7
      with_reducible refine .ite ?_ ?_
      · refine .trans ?_ (by with_reducible apply evolves_wr)
        with_reducible exact hx6
      · with_reducible exact hx6
    try clear_value x7
    with_reducible refine .ite ?_ ?_
    · with_reducible exact hx7
    · with_reducible refine .ite ?_ ?_
      · refine .trans ?_ (by with_reducible apply evolves_setLink)
        with_reducible exact hx7
      · split
        all_goals first
          | (with_reducible refine .ite ?_ ?_
             · refine .trans ?_ (by with_reducible apply evolves_setLink)
               with_reducible exact hx7
             · refine .trans ?_ (by with_reducible apply evolves_setLink)
               with_reducible exact hx7)
          | (refine .trans ?_ (by with_reducible apply evolves_setLink)
             with_reducible exact hx7)
  · with_reducible apply evolves_setLink

theorem evolves_pumpLink (n : Nat) (s : State) (l : Nat) : Evolves s (pumpLink n s l) := by
  induction n generalizing s with
  | zero => exact .refl _
  | succ n ih =>
    simp only [pumpLink]
    refine .ite (.refl _) ?_
    split
    · exact .refl _
    · refine .trans ?_ (ih _)
      refine .trans ?_ (evolves_presentFlit ..)
      refine .trans ?_ (evolves_inc ..)
      exact (evolves_setLink ..)

theorem evolves_sendMsg (s : State) (l m : Nat) (msg : LinkMsg) : Evolves s (sendMsg s l m msg) := by
  unfold sendMsg
  extract_lets +onlyGivenNames x0
  try clear_value x0
  extract_lets +onlyGivenNames x1
  try clear_value x1
  refine .trans ?_ (by with_reducible apply evolves_pumpLink)
  with_reducible apply evolves_setLink

theorem evolves_newTx (s : State) (l : Nat) : Evolves s (newTx s l).2 := by
  unfold newTx
  exact (evolves_setLink ..)

theorem evolves_askRead (s : State) (p : PeerRef) (who : Who) (a n : Nat) : Evolves s (askRead s p who a n) := by
  unfold askRead
  with_reducible refine .ite ?_ ?_
  · with_reducible exact .refl _
  · extract_lets +onlyGivenNames x0
    extract_lets +onlyGivenNames x1
    try clear_value x1
    extract_lets +onlyGivenNames x2
    have hx2 : Evolves s x2 := by
      unfold x2
      refine .trans ?_ (by with_reducible apply evolves_setLink)
      with_reducible apply evolves_newTx
    try clear_value x2
    refine .trans ?_ (by with_reducible apply evolves_sendMsg)
    with_reducible exact hx2

theorem evolves_askWrite (s : State) (p : PeerRef) (who : Who) (a : Nat) (b : Bytes) :
    Evolves s (askWrite s p who a b) := by
  unfold askWrite
  with_reducible refine .ite ?_ ?_
  · with_reducible exact .refl _
  · extract_lets +onlyGivenNames x0
    extract_lets +onlyGivenNames x1
    try clear_value x1
    extract_lets +onlyGivenNames x2
    have hx2 : Evolves s x2 := by
      unfold x2
      refine .trans ?_ (by with_reducible apply evolves_setLink)
      with_reducible apply evolves_newTx
    try clear_value x2
    refine .trans ?_ (by with_reducible apply evolves_sendMsg)
    with_reducible exact hx2

theorem evolves_sendJob (s : State) (d : DqEnt) : Evolves s (sendJob s d) := by
  unfold sendJob
  split
  all_goals first
    | with_reducible exact .refl _
    | (extract_lets +onlyGivenNames x0
       try clear_value x0
       extract_lets +onlyGivenNames x1
       have hx1 : Evolves s x1 := by
         unfold x1
         refine .upd_all ?_ rfl rfl
         with_reducible exact .refl _
       try clear_value x1
       extract_lets +onlyGivenNames x2
       extract_lets +onlyGivenNames x3
       try clear_value x3
       extract_lets +onlyGivenNames x4
       have hx4 : Evolves s x4 := by
         unfold x4
         refine .trans ?_ (by with_reducible apply evolves_inc)
         refine .trans ?_ (by with_reducible apply evolves_setLink)
         refine .trans ?_ (by with_reducible apply evolves_newTx)
         with_reducible exact hx1
       try clear_value x4
       refine .trans ?_ (by with_reducible apply evolves_sendMsg)
       refine .trans ?_ (by with_reducible apply evolves_probeStamp)
       with_reducible exact hx4)

theorem evolves_abortForwarded (s : State) (q : Nat) : Evolves s (abortForwarded s q) := by
  unfold abortForwarded
  with_reducible refine .foldl (fun st0 _ => ?_) _ _ _ ?_
  · with_reducible refine .foldl (fun st1 _ => ?_) _ _ _ ?_
    · with_reducible apply evolves_sendMsg
    · with_reducible exact .refl _
  · with_reducible exact .refl _

theorem evolves_sendDone (s : State) (p : PeerRef) (b : Bytes) : Evolves s (sendDone s p b) := by
  unfold sendDone
  extract_lets +onlyGivenNames x0
  try clear_value x0
  with_reducible refine .ite ?_ ?_
  · refine .trans ?_ (by with_reducible apply evolves_sendMsg)
    with_reducible apply evolves_setLink
  · with_reducible exact .refl _

theorem evolves_askPull (s : State) (l r slot n : Nat) : Evolves s (askPull s l r slot n) := by
  unfold askPull
  extract_lets +onlyGivenNames x0
  extract_lets +onlyGivenNames x1
  try clear_value x1
  refine .trans ?_ (by with_reducible apply evolves_sendMsg)
  refine .trans ?_ (by with_reducible apply evolves_setLink)
  with_reducible apply evolves_newTx

end Sys2Proof.Machine
end

