-- ==== Sys2Proof/Laws/Kcc.lean ====
section
/-! SUPPORT. What no operation of Machine/Kcc.lean can do (Laws/Evolves.lean), one lemma for each. -/

namespace Sys2Proof.Machine

theorem evolves_setLine (s : State) (k : Nat) (l : Line) : Evolves s (setLine s k l) := by
  unfold setLine
  refine .upd_all ?_ rfl rfl
  with_reducible exact .refl _

theorem evolves_dropLine (s : State) (k : Nat) : Evolves s (dropLine s k) := by
  unfold dropLine
  refine .upd_all ?_ rfl rfl
  with_reducible exact .refl _

theorem evolves_touchWay (s : State) (k : Nat) : Evolves s (touchWay s k) := by
  unfold touchWay
  extract_lets +onlyGivenNames x0
  try clear_value x0
  refine .upd_all ?_ rfl rfl
  with_reducible exact .refl _

theorem evolves_seedSend (s : State) (slot tok : Nat) : Evolves s (seedSend s slot tok) := by
  unfold seedSend
  split
  all_goals first
    | with_reducible apply evolves_writeReq
    | with_reducible exact .refl _

theorem evolves_seedWrite (s : State) (slot : Nat) (w : SeedWr) : Evolves s (seedWrite s slot w) := by
  unfold seedWrite
  extract_lets +onlyGivenNames x0
  try clear_value x0
  extract_lets +onlyGivenNames x1
  try clear_value x1
  extract_lets +onlyGivenNames x2
  have hx2 : Evolves s x2 := by
    unfold x2
    refine .upd_all ?_ rfl rfl
    with_reducible exact .refl _
  try clear_value x2
  with_reducible refine .ite ?_ ?_
  · refine .trans ?_ (by with_reducible apply evolves_seedSend)
    with_reducible exact hx2
  · with_reducible exact hx2

theorem evolves_kccBlocks (s : State) (i n : Nat) : Evolves s (kccBlocks s i n) := by
  unfold kccBlocks
  split
  all_goals first
    | (refine .trans ?_ (by with_reducible apply evolves_pmu)
       with_reducible apply evolves_incBy)
    | with_reducible exact .refl _

theorem evolves_rewrap {s : State} {l : Line} {count : Nat} {u : SeedUse} {t : State} (h : rewrap s l count u = some t) :
    Evolves s t := by
  unfold rewrap at h
  split at h
  · cases h
  · split at h
    · next hd =>
      injection h with h
      subst h
      refine .trans ?_ (evolves_inc ..)
      exact (Evolves.fst hd (evolves_kccDraw ..)).trans ((evolves_kccBlocks ..).trans (evolves_seedWrite ..))
    · cases h

theorem evolves_takeWay {s : State} {r slot k : Nat} {t : State} (h : takeWay s r slot = some (k, t)) : Evolves s t := by
  unfold takeWay at h
  split at h
  · cases h
  · split at h
    · injection h with h; injection h with _ h; subst h; exact .refl _
    · split at h
      · obtain ⟨u, hu, h⟩ := Option.map_eq_some_iff.1 h
        injection h with _ h
        subst h
        exact ((evolves_rewrap hu).trans (evolves_dropLine ..)).trans (evolves_inc ..)
      · injection h with h; injection h with _ h; subst h
        exact (evolves_dropLine ..).trans (evolves_inc ..)

theorem evolves_setKey (s : State) (j eid k : Nat) (x : KeySt) : Evolves s (setKey s j eid k x) := by
  unfold setKey
  with_reducible refine .ite ?_ ?_
  · extract_lets +onlyGivenNames x0
    try clear_value x0
    extract_lets +onlyGivenNames x1
    have hx1 : Evolves s x1 := by
      unfold x1
      refine .trans ?_ (by with_reducible apply evolves_modStep)
      with_reducible apply evolves_probeStamp
    try clear_value x1
    with_reducible refine .ite ?_ ?_
    · refine .upd_all ?_ rfl rfl
      with_reducible exact hx1
    · with_reducible exact hx1
  · with_reducible exact .refl _

theorem evolves_failStep (s : State) (j k : Nat) (v : Verdict) : Evolves s (failStep s j k v) := by
  unfold failStep
  with_reducible apply evolves_modStep

theorem evolves_lookBad (s : State) (j eid k : Nat) (v : Verdict) : Evolves s (lookBad s j eid k v) := by
  unfold lookBad
  with_reducible refine .ite ?_ ?_
  · refine .trans ?_ (by with_reducible apply evolves_modStep)
    with_reducible apply evolves_probeStamp
  · with_reducible exact .refl _

theorem evolves_failLook (s : State) (l : Lookup) (v : Verdict) : Evolves s (failLook s l v) := by
  unfold failLook
  with_reducible apply evolves_lookBad

theorem evolves_refuse (s : State) (l : Lookup) (reason : Nat) : Evolves s (refuse s l reason) := by
  unfold refuse
  refine .upd_all ?_ rfl rfl
  with_reducible exact .refl _

theorem evolves_await (s : State) (l : Lookup) (w : LookWait) : Evolves s (await s l w) := by
  unfold await
  refine .upd_all ?_ rfl rfl
  with_reducible exact .refl _

theorem evolves_awaitWay (s : State) (l : Lookup) : Evolves s (awaitWay s l) := by
  unfold awaitWay
  refine .trans ?_ (by with_reducible apply evolves_await)
  with_reducible refine .ite ?_ ?_
  · with_reducible exact .refl _
  · refine .trans ?_ (by with_reducible apply evolves_setEvt)
    with_reducible apply evolves_inc

theorem evolves_awaitSlot (s : State) (l : Lookup) : Evolves s (awaitSlot s l) := by
  unfold awaitSlot
  refine .trans ?_ (by with_reducible apply evolves_await)
  with_reducible refine .ite ?_ ?_
  · with_reducible exact .refl _
  · with_reducible apply evolves_inc

theorem evolves_countHit (s : State) (l : Lookup) : Evolves s (countHit s l) := by
  unfold countHit
  split
  all_goals first
    | with_reducible exact .refl _
    | with_reducible apply evolves_inc

theorem evolves_deliver (s : State) (key : Nat) (l : Line) (lk : Lookup) : Evolves s (deliver s key l lk) := by
  unfold deliver
  with_reducible refine .ite ?_ ?_
  · with_reducible apply evolves_awaitWay
  · extract_lets +onlyGivenNames x0
    try clear_value x0
    extract_lets +onlyGivenNames x1
    try clear_value x1
    extract_lets +onlyGivenNames x2
    extract_lets +onlyGivenNames x3
    try clear_value x3
    with_reducible refine .ite ?_ ?_
    · refine .trans ?_ (by with_reducible apply evolves_failLook)
      with_reducible apply evolves_kccDraw
    · with_reducible refine .ite ?_ ?_
      · split
        all_goals first
          | (try unfold x2
             extract_lets +onlyGivenNames x4
             try clear_value x4
             extract_lets +onlyGivenNames x5
             have hx5 : Evolves s x5 := by
               unfold x5
               refine .trans ?_ (by with_reducible apply evolves_setKey)
               refine .trans ?_ (by with_reducible apply evolves_touchWay)
               refine .trans ?_ (by with_reducible apply evolves_setLine)
               exact (.fst (by assumption) (by with_reducible apply evolves_kccDraw))
             try clear_value x5
             with_reducible refine .ite ?_ ?_
             · split
               all_goals first
                 | (refine .trans ?_ (by with_reducible apply evolves_setLine)
                    with_reducible refine .trans ?_ (evolves_rewrap (by assumption))
                    with_reducible exact hx5)
                 | with_reducible exact hx5
             · with_reducible exact hx5)
          | (refine .trans ?_ (by with_reducible apply evolves_failLook)
             exact (.fst (by assumption) (by with_reducible apply evolves_kccDraw)))
      · try unfold x2
        extract_lets +onlyGivenNames x6
        try clear_value x6
        extract_lets +onlyGivenNames x7
        have hx7 : Evolves s x7 := by
          unfold x7
          refine .trans ?_ (by with_reducible apply evolves_setKey)
          refine .trans ?_ (by with_reducible apply evolves_touchWay)
          with_reducible apply evolves_setLine
        try clear_value x7
        with_reducible refine .ite ?_ ?_
        · split
          all_goals first
            | (refine .trans ?_ (by with_reducible apply evolves_setLine)
               with_reducible refine .trans ?_ (evolves_rewrap (by assumption))
               with_reducible exact hx7)
            | with_reducible exact hx7
        · with_reducible exact hx7

theorem evolves_answer (s : State) (key : Nat) (l : Line) (lk : Lookup) : Evolves s (answer s key l lk) := by
  unfold answer
  split
  all_goals first
    | (refine .trans ?_ (by with_reducible apply evolves_refuse)
       with_reducible apply evolves_touchWay)
    | (with_reducible refine .ite ?_ ?_
       · refine .trans ?_ (by with_reducible apply evolves_refuse)
         refine .trans ?_ (by with_reducible apply evolves_setEvt)
         with_reducible apply evolves_touchWay
       · with_reducible refine .ite ?_ ?_
         · refine .trans ?_ (by with_reducible apply evolves_refuse)
           with_reducible apply evolves_touchWay
         · with_reducible refine .ite ?_ ?_
           · refine .trans ?_ (by with_reducible apply evolves_refuse)
             with_reducible apply evolves_touchWay
           · with_reducible refine .ite ?_ ?_
             · refine .trans ?_ (by with_reducible apply evolves_refuse)
               with_reducible apply evolves_touchWay
             · with_reducible refine .ite ?_ ?_
               · with_reducible apply evolves_await
               · with_reducible apply evolves_deliver)

theorem evolves_dropFills (s : State) (f : Nat × Fill → Bool) : Evolves s (dropFills s f) := by
  unfold dropFills
  extract_lets +onlyGivenNames x0
  try clear_value x0
  extract_lets +onlyGivenNames x1
  try clear_value x1
  extract_lets +onlyGivenNames x2
  try clear_value x2
  refine .upd_all ?_ rfl rfl
  with_reducible exact .refl _

theorem evolves_startFill (s : State) (lk : Lookup) (key slot : Nat) (derived : Bool) :
    Evolves s (startFill s lk key slot derived) := by
  unfold startFill
  split
  all_goals first
    | with_reducible apply evolves_awaitSlot
    | (extract_lets +onlyGivenNames x0
       have hx0 : Evolves s x0 := by
         unfold x0
         with_reducible apply evolves_setLine
       try clear_value x0
       extract_lets +onlyGivenNames x1
       try clear_value x1
       extract_lets +onlyGivenNames x2
       have hx2 : Evolves s x2 := by
         unfold x2
         refine .upd_all ?_ rfl rfl
         with_reducible exact hx0
       try clear_value x2
       extract_lets +onlyGivenNames x3
       have hx3 : Evolves s x3 := by
         unfold x3
         refine .trans ?_ (by with_reducible apply evolves_await)
         refine .trans ?_ (by with_reducible apply evolves_pmu)
         refine .trans ?_ (by with_reducible apply evolves_inc)
         with_reducible exact hx2
       try clear_value x3
       with_reducible refine .ite ?_ ?_
       · with_reducible exact hx3
       · refine .trans ?_ (by with_reducible apply evolves_readReq)
         with_reducible exact hx3)

theorem evolves_resolve (s : State) (lk : Lookup) : Evolves s (resolve s lk) := by
  unfold resolve
  with_reducible refine .ite ?_ ?_
  · with_reducible apply evolves_await
  · split
    all_goals first
      | with_reducible apply evolves_refuse
      | (with_reducible refine .ite ?_ ?_
         · with_reducible apply evolves_refuse
         · with_reducible refine .ite ?_ ?_
           · with_reducible apply evolves_refuse
           · extract_lets +onlyGivenNames x0
             try clear_value x0
             split
             all_goals first
               | (split
                  all_goals first
                    | (split
                       all_goals
                         with_reducible apply evolves_await)
                    | with_reducible apply evolves_await
                    | (with_reducible refine .ite ?_ ?_
                       · with_reducible apply evolves_refuse
                       · with_reducible refine .ite ?_ ?_
                         · with_reducible apply evolves_await
                         · refine .trans ?_ (by with_reducible apply evolves_answer)
                           with_reducible apply evolves_countHit))
               | (with_reducible refine .ite ?_ ?_
                  · with_reducible apply evolves_refuse
                  · with_reducible refine .ite ?_ ?_
                    · with_reducible apply evolves_await
                    · with_reducible refine .ite ?_ ?_
                      · with_reducible apply evolves_refuse
                      · with_reducible refine .ite ?_ ?_
                        · with_reducible apply evolves_refuse
                        · with_reducible refine .ite ?_ ?_
                          · with_reducible apply evolves_awaitSlot
                          · split
                            all_goals first
                              | (with_reducible refine .ite ?_ ?_
                                 · with_reducible apply evolves_await
                                 · with_reducible apply evolves_awaitWay)
                              | (refine .trans ?_ (by with_reducible apply evolves_startFill)
                                 with_reducible exact (evolves_takeWay (by assumption)))))

theorem evolves_lookup (s : State) (lk : Lookup) : Evolves s (lookup s lk) := by
  unfold lookup
  refine .trans ?_ (by with_reducible apply evolves_resolve)
  refine .trans ?_ (by with_reducible apply evolves_pmu)
  with_reducible apply evolves_inc

theorem evolves_retry (s : State) (f : Lookup → Bool) : Evolves s (retry s f) := by
  unfold retry
  extract_lets +onlyGivenNames x0
  try clear_value x0
  with_reducible refine .foldl (fun st1 _ => ?_) _ _ _ ?_
  · with_reducible apply evolves_resolve
  · refine .upd_all ?_ rfl rfl
    with_reducible exact .refl _

theorem evolves_retryAll (s : State) : Evolves s (retryAll s) := by
  unfold retryAll
  with_reducible apply evolves_retry

theorem evolves_unpin (s : State) (c : KeyCtx) (realm : Nat) : Evolves s (unpin s c realm) := by
  unfold unpin
  split
  all_goals first
    | with_reducible exact .refl _
    | (extract_lets +onlyGivenNames x0
       try clear_value x0
       extract_lets +onlyGivenNames x1
       try clear_value x1
       refine .trans ?_ (by with_reducible apply evolves_retry)
       with_reducible refine .ite ?_ ?_
       · with_reducible apply evolves_dropLine
       · with_reducible apply evolves_setLine)

theorem evolves_shareOf (s : State) (m : Bytes) : Evolves s (shareOf s m).1 := by
  unfold shareOf
  split
  · exact evolves_draw ..
  · exact .refl _

theorem evolves_countPrestate (s : State) (g kind n : Nat) : Evolves s (countPrestate s g kind n) := by
  unfold countPrestate
  extract_lets +onlyGivenNames x0
  try clear_value x0
  extract_lets +onlyGivenNames x1
  try clear_value x1
  refine .trans ?_ (by with_reducible apply evolves_pmu)
  refine .trans ?_ (by with_reducible apply evolves_inc)
  with_reducible apply evolves_incBy

theorem evolves_validLine (s : State) (l : Line) (e : Entry) (wrapped : Bytes) : Evolves s (validLine s l e wrapped).1 := by
  unfold validLine
  extract_lets
  split
  · exact .ite (.refl _) (evolves_countPrestate ..)
  · exact evolves_shareOf ..

theorem evolves_firstLease (s : State) (key : Nat) (l : Line) : Evolves s (firstLease s key l) := by
  unfold firstLease
  with_reducible refine .ite ?_ ?_
  · extract_lets +onlyGivenNames x0
    try clear_value x0
    split
    all_goals first
      | (refine .trans ?_ (by with_reducible apply evolves_setLine)
         with_reducible exact (evolves_rewrap (by assumption)))
      | with_reducible apply evolves_setLine
  · with_reducible apply evolves_setLine

theorem evolves_endFill (s : State) (n : Nat) : Evolves s (endFill s n) := by
  unfold endFill
  split
  all_goals first
    | with_reducible exact .refl _
    | (split
       all_goals first
         | with_reducible exact .refl _
         | (extract_lets +onlyGivenNames x0
            extract_lets +onlyGivenNames x1
            try clear_value x1
            extract_lets +onlyGivenNames x2
            with_reducible refine .ite ?_ ?_
            · extract_lets +onlyGivenNames x3
              try clear_value x3
              extract_lets +onlyGivenNames x4
              try clear_value x4
              extract_lets +onlyGivenNames x5
              have hx5 : Evolves s x5 := by
                unfold x5
                refine .trans ?_ (by with_reducible apply evolves_dropLine)
                refine .upd_all ?_ rfl rfl
                with_reducible exact .refl _
              try clear_value x5
              refine .trans ?_ (by with_reducible apply evolves_retryAll)
              try unfold x0
              refine .upd_all ?_ rfl rfl
              with_reducible refine .foldl (fun st6 _ => ?_) _ _ _ ?_
              · with_reducible apply evolves_failLook
              · with_reducible exact hx5
            · with_reducible refine .ite ?_ ?_
              · with_reducible exact .refl _
              · split
                all_goals first
                  | (extract_lets +onlyGivenNames x7
                     have hx7 : Evolves s x7 := by
                       unfold x7
                       refine .trans ?_ (by with_reducible apply evolves_setLine)
                       try unfold x2
                       with_reducible apply evolves_kccBlocks
                     try clear_value x7
                     extract_lets +onlyGivenNames x8
                     have hx8 : Evolves s x8 := by
                       unfold x8
                       with_reducible refine .ite ?_ ?_
                       · refine .trans ?_ (by with_reducible apply evolves_setEvt)
                         refine .trans ?_ (by with_reducible apply evolves_inc)
                         with_reducible exact hx7
                       · with_reducible exact hx7
                     try clear_value x8
                     refine .trans ?_ (by with_reducible apply evolves_retryAll)
                     refine .trans ?_ (by with_reducible apply evolves_retry)
                     try unfold x0
                     refine .upd_all ?_ rfl rfl
                     refine .trans ?_ (by with_reducible apply evolves_touchWay)
                     with_reducible exact hx8)
                  | (extract_lets +onlyGivenNames x9
                     refine .trans ?_ (by with_reducible apply evolves_retryAll)
                     refine .trans ?_ (by with_reducible apply evolves_retry)
                     try unfold x0
                     refine .upd_all ?_ rfl rfl
                     refine .trans ?_ (by with_reducible apply evolves_touchWay)
                     refine .trans ?_ (by with_reducible apply evolves_firstLease)
                     refine .trans ?_ (by with_reducible apply evolves_validLine)
                     try unfold x2
                     with_reducible apply evolves_kccBlocks)))

theorem evolves_seedRead (s : State) (n : Nat) (d : Option Bytes) (addr : Nat) : Evolves s (seedRead s n d addr) := by
  unfold seedRead
  split
  all_goals first
    | with_reducible exact .refl _
    | (split
       all_goals first
         | (refine .trans ?_ (by with_reducible apply evolves_retryAll)
            refine .upd_all ?_ rfl rfl
            with_reducible exact .refl _)
         | (split
            all_goals first
              | (split
                 all_goals first
                   | with_reducible apply evolves_askPull
                   | (refine .upd_all ?_ rfl rfl
                      with_reducible exact .refl _))
              | (refine .upd_all ?_ rfl rfl
                 with_reducible exact .refl _))
         | (extract_lets +onlyGivenNames x0
            try clear_value x0
            extract_lets +onlyGivenNames x1
            try clear_value x1
            extract_lets +onlyGivenNames x2
            try clear_value x2
            extract_lets +onlyGivenNames x3
            have hx3 : Evolves s x3 := by
              unfold x3
              refine .upd_all ?_ rfl rfl
              with_reducible exact .refl _
            try clear_value x3
            refine .trans ?_ (by with_reducible apply evolves_retryAll)
            with_reducible refine .foldl (fun st4 _ => ?_) _ _ _ ?_
            · with_reducible apply evolves_failLook
            · refine .trans ?_ (by with_reducible apply evolves_dropLine)
              with_reducible exact hx3))

theorem evolves_retryLeases (s : State) : Evolves s (retryLeases s) := by
  unfold retryLeases
  with_reducible refine .foldl (fun st0 _ => ?_) _ _ _ ?_
  · with_reducible refine .ite ?_ ?_
    · with_reducible apply evolves_firstLease
    · with_reducible exact .refl _
  · with_reducible exact .refl _

theorem evolves_commitLine (s : State) (key : Nat) (l : Line) : Evolves s (commitLine s key l) := by
  unfold commitLine
  split
  all_goals first
    | (with_reducible refine .ite ?_ ?_
       · refine .trans ?_ (by with_reducible apply evolves_touchWay)
         with_reducible apply evolves_setLine
       · with_reducible refine .ite ?_ ?_
         · extract_lets +onlyGivenNames x0
           try clear_value x0
           refine .trans ?_ (by with_reducible apply evolves_retry)
           refine .trans ?_ (by with_reducible apply evolves_touchWay)
           refine .trans ?_ (by with_reducible apply evolves_setLine)
           with_reducible apply evolves_dropFills
         · refine .trans ?_ (by with_reducible apply evolves_touchWay)
           refine .trans ?_ (by with_reducible apply evolves_setLine)
           with_reducible refine .ite ?_ ?_
           · with_reducible apply evolves_dropLine
           · with_reducible apply evolves_setLine)
    | (refine .trans ?_ (by with_reducible apply evolves_touchWay)
       with_reducible apply evolves_setLine)

theorem evolves_leaseAnswer (s : State) (tok line leased : Nat) (err : Bool) :
    Evolves s (leaseAnswer s tok line leased err) := by
  unfold leaseAnswer
  extract_lets +onlyGivenNames x0
  try clear_value x0
  extract_lets +onlyGivenNames x1
  have hx1 : Evolves s x1 := by
    unfold x1
    refine .upd_all ?_ rfl rfl
    with_reducible exact .refl _
  try clear_value x1
  split
  all_goals first
    | with_reducible exact hx1
    | (with_reducible refine .ite ?_ ?_
       · extract_lets +onlyGivenNames x2
         try clear_value x2
         extract_lets +onlyGivenNames x3
         try clear_value x3
         extract_lets +onlyGivenNames x4
         try clear_value x4
         extract_lets +onlyGivenNames x5
         have hx5 : Evolves s x5 := by
           unfold x5
           refine .upd_all ?_ rfl rfl
           with_reducible exact hx1
         try clear_value x5
         extract_lets +onlyGivenNames x6
         have hx6 : Evolves s x6 := by
           unfold x6
           refine .trans ?_ (by with_reducible apply evolves_setEvt)
           with_reducible refine .ite ?_ ?_
           · refine .trans ?_ (by with_reducible apply evolves_dropLine)
             with_reducible exact hx5
           · refine .trans ?_ (by with_reducible apply evolves_setLine)
             with_reducible exact hx5
         try clear_value x6
         with_reducible refine .foldl (fun st7 _ => ?_) _ _ _ ?_
         · with_reducible apply evolves_refuse
         · with_reducible exact hx6
       · refine .trans ?_ (by with_reducible apply evolves_retry)
         refine .trans ?_ (by with_reducible apply evolves_setLine)
         with_reducible exact hx1)

theorem evolves_evictAnswer (s : State) (tok : Nat) (err : Bool) : Evolves s (evictAnswer s tok err) := by
  unfold evictAnswer
  extract_lets +onlyGivenNames x0
  try clear_value x0
  extract_lets +onlyGivenNames x1
  have hx1 : Evolves s x1 := by
    unfold x1
    refine .upd_all ?_ rfl rfl
    with_reducible exact .refl _
  try clear_value x1
  with_reducible refine .ite ?_ ?_
  · refine .trans ?_ (by with_reducible apply evolves_chaffPlain)
    refine .trans ?_ (by with_reducible apply evolves_setEvt)
    with_reducible exact hx1
  · with_reducible exact hx1

theorem evolves_answerRefusal (s : State) (n : Nat) : Evolves s (answerRefusal s n) := by
  unfold answerRefusal
  split
  all_goals first
    | with_reducible exact .refl _
    | (extract_lets +onlyGivenNames x0
       try clear_value x0
       extract_lets +onlyGivenNames x1
       have hx1 : Evolves s x1 := by
         unfold x1
         refine .upd_all ?_ rfl rfl
         with_reducible exact .refl _
       try clear_value x1
       extract_lets +onlyGivenNames x2
       have hx2 : Evolves s x2 := by
         unfold x2
         refine .trans ?_ (by with_reducible apply evolves_inc)
         refine .trans ?_ (by with_reducible apply evolves_inc)
         refine .trans ?_ (by with_reducible apply evolves_chaffPlain)
         with_reducible exact hx1
       try clear_value x2
       refine .trans ?_ (by with_reducible apply evolves_lookBad)
       with_reducible exact hx2)

end Sys2Proof.Machine
end

