-- ==== Sys2Proof/Laws/Banks.lean ====
section
/-! SUPPORT. What no operation of Machine/Banks.lean can do (Laws/Evolves.lean), one lemma for each. -/

namespace Sys2Proof.Machine

theorem evolves_setBankState (s : State) (n v : Nat) : Evolves s (setBankState s n v) := by
  unfold setBankState
  with_reducible apply evolves_wr

theorem evolves_setBankRealm (s : State) (n v : Nat) : Evolves s (setBankRealm s n v) := by
  unfold setBankRealm
  with_reducible apply evolves_wr

theorem evolves_setBankOp (s : State) (n op : Nat) (x : Bool) : Evolves s (setBankOp s n op x) := by
  unfold setBankOp
  refine .trans ?_ (by with_reducible apply evolves_wr)
  with_reducible apply evolves_wr

theorem evolves_noOwner (s : State) (n : Nat) : Evolves s (noOwner s n) := by
  unfold noOwner
  with_reducible apply evolves_wr

theorem evolves_setBank (s : State) (n : Nat) (b : Bank) : Evolves s (setBank s n b) := by
  unfold setBank
  refine .upd_all ?_ rfl rfl
  with_reducible exact .refl _

theorem evolves_clearAcc (s : State) (a : Nat) : Evolves s (clearAcc s a) := by
  unfold clearAcc
  refine .upd_all ?_ rfl rfl
  with_reducible exact .refl _

theorem evolves_wipeBank (s : State) (n : Nat) (owner : Option (Nat × Nat × Nat)) :
    Evolves s (wipeBank s n owner) := by
  unfold wipeBank
  extract_lets +onlyGivenNames x0
  have hx0 : Evolves s x0 := by
    unfold x0
    with_reducible refine .ite ?_ ?_
    · with_reducible apply evolves_noOwner
    · with_reducible exact .refl _
  try clear_value x0
  refine .trans ?_ (by with_reducible apply evolves_clearAcc)
  refine .trans ?_ (by with_reducible apply evolves_setBank)
  refine .trans ?_ (by with_reducible apply evolves_setBankState)
  with_reducible exact hx0

theorem evolves_releaseBank (s : State) (n : Nat) (good : Bool) : Evolves s (releaseBank s n good) := by
  unfold releaseBank
  with_reducible refine .ite ?_ ?_
  · refine .trans ?_ (by with_reducible apply evolves_inc)
    refine .trans ?_ (by with_reducible apply evolves_setBank)
    refine .trans ?_ (by with_reducible apply evolves_setBankState)
    with_reducible apply evolves_noOwner
  · with_reducible apply evolves_wipeBank

theorem evolves_countAbort (s : State) (n : Nat) : Evolves s (countAbort s n) := by
  unfold countAbort
  refine .trans ?_ (by with_reducible apply evolves_setEvt)
  with_reducible apply evolves_inc

theorem evolves_emptyBanks (s : State) : Evolves s (emptyBanks s) := by
  unfold emptyBanks
  with_reducible refine .foldl (fun st0 _ => ?_) _ _ _ ?_
  · refine .trans ?_ (by with_reducible apply evolves_setBankOp)
    refine .trans ?_ (by with_reducible apply evolves_setBankRealm)
    with_reducible apply evolves_setBankState
  · refine .upd_all ?_ rfl rfl
    with_reducible exact .refl _

end Sys2Proof.Machine
end

