-- ==== Sys2Proof/Laws/Chain.lean ====
section
/-! SUPPORT. What no operation of Machine/Chain.lean can do (Laws/Evolves.lean), one lemma for each. -/

namespace Sys2Proof.Machine

theorem evolves_jobRead (s : State) (x : Job) (port a n : Nat) (na : Bool) (who : Who) :
    Evolves s (jobRead s x port a n na who) := by
  unfold jobRead
  split
  all_goals first
    | with_reducible apply evolves_readReq
    | with_reducible apply evolves_askRead

theorem evolves_jobWrite (s : State) (x : Job) (port a : Nat) (na : Bool) (who : Who) (b : Bytes) :
    Evolves s (jobWrite s x port a na who b) := by
  unfold jobWrite
  split
  all_goals first
    | with_reducible apply evolves_writeReq
    | with_reducible apply evolves_askWrite

theorem evolves_readTable (s : State) (j : Nat) (x : Job) (k : Nat) (t : StepRun) (n : Nat) :
    Evolves s (readTable s j x k t n) := by
  unfold readTable
  extract_lets +onlyGivenNames x0
  try clear_value x0
  split
  all_goals first
    | (with_reducible refine .ite ?_ ?_
       · extract_lets +onlyGivenNames x1
         try clear_value x1
         extract_lets +onlyGivenNames x2
         have hx2 : Evolves s x2 := by
           unfold x2
           with_reducible apply evolves_modStep
         try clear_value x2
         refine .trans ?_ (by with_reducible apply evolves_jobRead)
         with_reducible exact hx2
       · with_reducible exact .refl _)
    | with_reducible exact .refl _

theorem evolves_readMore (fuel : Nat) (s : State) (j k n : Nat) : Evolves s (readMore fuel s j k n) := by
  induction fuel generalizing s with
  | zero => exact .refl _
  | succ fuel ih =>
    simp only [readMore]
    split
    · refine .ite (.refl _) ?_
      split
      · exact .refl _
      · exact .ite (.refl _) (((evolves_modStep ..).trans (evolves_jobRead ..)).trans (ih ..))
    · exact .refl _

theorem evolves_readRange (s : State) (j k n : Nat) : Evolves s (readRange s j k n) := by
  unfold readRange
  extract_lets +onlyGivenNames x0
  have hx0 : Evolves s x0 := by
    unfold x0
    with_reducible refine .ite ?_ ?_
    · with_reducible exact .refl _
    · with_reducible apply evolves_readMore
  try clear_value x0
  split
  all_goals first
    | (refine .trans ?_ (by with_reducible apply evolves_readTable)
       with_reducible exact hx0)
    | with_reducible exact hx0

theorem evolves_readStep (s : State) (j k : Nat) : Evolves s (readStep s j k) := by
  unfold readStep
  split
  all_goals first
    | (with_reducible refine .ite ?_ ?_
       · with_reducible exact .refl _
       · with_reducible refine .foldl (fun st0 _ => ?_) _ _ _ ?_
         · with_reducible apply evolves_readRange
         · with_reducible exact .refl _)
    | with_reducible exact .refl _

theorem evolves_readJob (s : State) (j : Nat) : Evolves s (readJob s j) := by
  unfold readJob
  split
  all_goals first
    | (with_reducible refine .foldl (fun st0 _ => ?_) _ _ _ ?_
       · with_reducible apply evolves_readStep
       · with_reducible exact .refl _)
    | with_reducible exact .refl _

theorem evolves_fragArrived (s : State) (j eid k n off skip len : Nat) (d : Bytes) :
    Evolves s (fragArrived s j eid k n off skip len d) := by
  unfold fragArrived
  with_reducible refine .ite ?_ ?_
  · refine .trans ?_ (by with_reducible apply evolves_readJob)
    with_reducible apply evolves_modStep
  · with_reducible exact .refl _

theorem evolves_writeOut (s : State) (j k : Nat) (b : Bytes) : Evolves s (writeOut s j k b) := by
  unfold writeOut
  split
  all_goals first
    | (extract_lets +onlyGivenNames x0
       try clear_value x0
       extract_lets +onlyGivenNames x1
       have hx1 : Evolves s x1 := by
         unfold x1
         with_reducible apply evolves_modStep
       try clear_value x1
       with_reducible refine .foldl (fun st2 _ => ?_) _ _ _ ?_
       · with_reducible apply evolves_jobWrite
       · with_reducible exact hx1)
    | with_reducible exact .refl _

theorem evolves_standOut (s : State) (j k : Nat) : Evolves s (standOut s j k) := by
  unfold standOut
  split
  all_goals first
    | (extract_lets +onlyGivenNames x0
       try clear_value x0
       with_reducible refine .ite ?_ ?_
       · with_reducible apply evolves_writeOut
       · with_reducible exact .refl _)
    | with_reducible exact .refl _

theorem evolves_failLate (s : State) (j k e : Nat) : Evolves s (failLate s j k e) := by
  unfold failLate
  refine .trans ?_ (by with_reducible apply evolves_failStep)
  with_reducible apply evolves_standOut

theorem evolves_tableArrived (s : State) (j eid k n skip len : Nat) (d : Bytes) :
    Evolves s (tableArrived s j eid k n skip len d) := by
  unfold tableArrived
  with_reducible refine .ite ?_ ?_
  · split
    all_goals first
      | with_reducible exact .refl _
      | (extract_lets +onlyGivenNames x0
         try clear_value x0
         extract_lets +onlyGivenNames x1
         try clear_value x1
         extract_lets +onlyGivenNames x2
         try clear_value x2
         with_reducible refine .ite ?_ ?_
         · refine .trans ?_ (by with_reducible apply evolves_failLate)
           with_reducible apply evolves_modStep
         · extract_lets +onlyGivenNames x3
           try clear_value x3
           extract_lets +onlyGivenNames x4
           try clear_value x4
           refine .trans ?_ (by with_reducible apply evolves_readJob)
           with_reducible apply evolves_modStep)
  · with_reducible exact .refl _

theorem evolves_readFailed (s : State) (j eid k pos addr : Nat) : Evolves s (readFailed s j eid k pos addr) := by
  unfold readFailed
  extract_lets +onlyGivenNames x0
  try clear_value x0
  with_reducible refine .ite ?_ ?_
  · with_reducible apply evolves_failStep
  · split
    all_goals first
      | (with_reducible refine .ite ?_ ?_
         · with_reducible refine .foldl (fun st1 _ => ?_) _ _ _ ?_
           · with_reducible apply evolves_failStep
           · with_reducible exact .refl _
         · with_reducible exact .refl _)
      | with_reducible exact .refl _

theorem evolves_setGateState (s : State) (g v : Nat) : Evolves s (setGateState s g v) := by
  unfold setGateState
  with_reducible apply evolves_wr

theorem evolves_gateIgnore (s : State) (g : Nat) (note : Bool) (src : Nat) : Evolves s (gateIgnore s g note src) := by
  unfold gateIgnore
  extract_lets +onlyGivenNames x0
  have hx0 : Evolves s x0 := by
    unfold x0
    with_reducible apply evolves_inc
  try clear_value x0
  with_reducible refine .ite ?_ ?_
  · refine .trans ?_ (by with_reducible apply evolves_writeIgnored)
    with_reducible exact hx0
  · with_reducible exact hx0

theorem evolves_openSource (s : State) (j k : Nat) : Evolves s (openSource s j k) := by
  unfold openSource
  split
  all_goals first
    | (extract_lets +onlyGivenNames x0
       try clear_value x0
       with_reducible refine .ite ?_ ?_
       · with_reducible apply evolves_readStep
       · refine .trans ?_ (by with_reducible apply evolves_readStep)
         with_reducible apply evolves_modStep)
    | with_reducible exact .refl _

theorem evolves_releaseGate (s : State) (j k : Nat) (p : Post) : Evolves s (releaseGate s j k p) := by
  unfold releaseGate
  split
  all_goals first
    | (extract_lets +onlyGivenNames x0
       try clear_value x0
       extract_lets +onlyGivenNames x1
       try clear_value x1
       extract_lets +onlyGivenNames x2
       extract_lets +onlyGivenNames x3
       try clear_value x3
       extract_lets +onlyGivenNames x4
       try clear_value x4
       extract_lets +onlyGivenNames x5
       have hx5 : Evolves s x5 := by
         unfold x5
         refine .upd_all ?_ rfl rfl
         with_reducible exact .refl _
       try clear_value x5
       with_reducible refine .ite ?_ ?_
       · with_reducible exact hx5
       · with_reducible refine .ite ?_ ?_
         · with_reducible refine .ite ?_ ?_
           · try unfold x2
             refine .trans ?_ (by with_reducible apply evolves_failStep)
             with_reducible apply evolves_modStep
           · extract_lets +onlyGivenNames x6
             try clear_value x6
             extract_lets +onlyGivenNames x7
             try clear_value x7
             refine .trans ?_ (by with_reducible apply evolves_readStep)
             refine .trans ?_ (by with_reducible apply evolves_modStep)
             with_reducible exact hx5
         · with_reducible refine .ite ?_ ?_
           · with_reducible refine .ite ?_ ?_
             · try unfold x2
               refine .trans ?_ (by with_reducible apply evolves_failStep)
               with_reducible apply evolves_modStep
             · refine .trans ?_ (by with_reducible apply evolves_openSource)
               refine .trans ?_ (by with_reducible apply evolves_modStep)
               with_reducible exact hx5
           · try unfold x2
             refine .trans ?_ (by with_reducible apply evolves_failStep)
             with_reducible apply evolves_modStep)
    | with_reducible exact .refl _

theorem evolves_armGate (s : State) (j k : Nat) : Evolves s (armGate s j k) := by
  unfold armGate
  split
  all_goals first
    | with_reducible exact .refl _
    | (extract_lets +onlyGivenNames x0
       try clear_value x0
       extract_lets +onlyGivenNames x1
       try clear_value x1
       extract_lets +onlyGivenNames x2
       try clear_value x2
       extract_lets +onlyGivenNames x3
       with_reducible refine .ite ?_ ?_
       · with_reducible apply evolves_failStep
       · with_reducible refine .ite ?_ ?_
         · with_reducible apply evolves_failStep
         · with_reducible refine .ite ?_ ?_
           · split
             all_goals first
               | (with_reducible refine .ite ?_ ?_
                  · extract_lets +onlyGivenNames x4
                    try clear_value x4
                    extract_lets +onlyGivenNames x5
                    have hx5 : Evolves s x5 := by
                      unfold x5
                      refine .trans ?_ (by with_reducible apply evolves_setGatex)
                      with_reducible apply evolves_setGateState
                    try clear_value x5
                    refine .trans ?_ (by with_reducible apply evolves_releaseGate)
                    refine .trans ?_ (by with_reducible apply evolves_wr)
                    with_reducible exact hx5
                  · try unfold x3
                    extract_lets +onlyGivenNames x6
                    have hx6 : Evolves s x6 := by
                      unfold x6
                      refine .trans ?_ (by with_reducible apply evolves_wr)
                      refine .trans ?_ (by with_reducible apply evolves_setGateState)
                      with_reducible apply evolves_gateIgnore
                    try clear_value x6
                    extract_lets +onlyGivenNames x7
                    try clear_value x7
                    extract_lets +onlyGivenNames x8
                    have hx8 : Evolves s x8 := by
                      unfold x8
                      refine .trans ?_ (by with_reducible apply evolves_setGatex)
                      with_reducible exact hx6
                    try clear_value x8
                    extract_lets +onlyGivenNames x9
                    have hx9 : Evolves s x9 := by
                      unfold x9
                      refine .trans ?_ (by with_reducible apply evolves_modStep)
                      with_reducible exact hx8
                    try clear_value x9
                    with_reducible refine .ite ?_ ?_
                    · with_reducible exact hx9
                    · with_reducible refine .foldl (fun st10 _ => ?_) _ _ _ ?_
                      · with_reducible apply evolves_writeReq
                      · with_reducible exact hx9)
               | (try unfold x3
                  extract_lets +onlyGivenNames x11
                  have hx11 : Evolves s x11 := by
                    unfold x11
                    refine .trans ?_ (by with_reducible apply evolves_wr)
                    with_reducible apply evolves_setGateState
                  try clear_value x11
                  extract_lets +onlyGivenNames x12
                  try clear_value x12
                  extract_lets +onlyGivenNames x13
                  have hx13 : Evolves s x13 := by
                    unfold x13
                    refine .trans ?_ (by with_reducible apply evolves_setGatex)
                    with_reducible exact hx11
                  try clear_value x13
                  extract_lets +onlyGivenNames x14
                  have hx14 : Evolves s x14 := by
                    unfold x14
                    refine .trans ?_ (by with_reducible apply evolves_modStep)
                    with_reducible exact hx13
                  try clear_value x14
                  with_reducible refine .ite ?_ ?_
                  · with_reducible exact hx14
                  · with_reducible refine .foldl (fun st15 _ => ?_) _ _ _ ?_
                    · with_reducible apply evolves_writeReq
                    · with_reducible exact hx14)
           · with_reducible refine .ite ?_ ?_
             · try unfold x3
               extract_lets +onlyGivenNames x16
               have hx16 : Evolves s x16 := by
                 unfold x16
                 refine .trans ?_ (by with_reducible apply evolves_wr)
                 with_reducible apply evolves_setGateState
               try clear_value x16
               extract_lets +onlyGivenNames x17
               try clear_value x17
               extract_lets +onlyGivenNames x18
               have hx18 : Evolves s x18 := by
                 unfold x18
                 refine .trans ?_ (by with_reducible apply evolves_setGatex)
                 with_reducible exact hx16
               try clear_value x18
               extract_lets +onlyGivenNames x19
               have hx19 : Evolves s x19 := by
                 unfold x19
                 refine .trans ?_ (by with_reducible apply evolves_modStep)
                 with_reducible exact hx18
               try clear_value x19
               with_reducible refine .ite ?_ ?_
               · with_reducible exact hx19
               · with_reducible refine .foldl (fun st20 _ => ?_) _ _ _ ?_
                 · with_reducible apply evolves_writeReq
                 · with_reducible exact hx19
             · with_reducible apply evolves_failStep)

theorem evolves_killGate (s : State) (g : Nat) : Evolves s (killGate s g) := by
  unfold killGate
  extract_lets +onlyGivenNames x0
  try clear_value x0
  refine .trans ?_ (by with_reducible apply evolves_setGatex)
  with_reducible apply evolves_setGateState

theorem evolves_reserveBins (s : State) (j n : Nat) : Evolves s (reserveBins s j n) := by
  unfold reserveBins
  extract_lets +onlyGivenNames x0
  have hx0 : Evolves s x0 := by
    unfold x0
    with_reducible apply evolves_modJob
  try clear_value x0
  with_reducible refine .ite ?_ ?_
  · refine .trans ?_ (by with_reducible apply evolves_wr)
    with_reducible exact hx0
  · with_reducible exact hx0

theorem evolves_handOut (s : State) (j k : Nat) : Evolves s (handOut s j k) := by
  unfold handOut
  split
  all_goals first
    | (with_reducible refine .ite ?_ ?_
       · extract_lets +onlyGivenNames x0
         have hx0 : Evolves s x0 := by
           unfold x0
           with_reducible apply evolves_writeOut
         try clear_value x0
         with_reducible refine .ite ?_ ?_
         · refine .trans ?_ (by with_reducible apply evolves_modStep)
           with_reducible exact hx0
         · with_reducible exact hx0
       · with_reducible exact .refl _)
    | with_reducible exact .refl _

theorem evolves_formStep (s : State) (j k : Nat) (r : OpRes) (hold : Bool) (checks : Nat) :
    Evolves s (formStep s j k r hold checks) := by
  unfold formStep
  split
  all_goals first
    | with_reducible exact .refl _
    | (extract_lets +onlyGivenNames x0
       try clear_value x0
       with_reducible refine .ite ?_ ?_
       · extract_lets +onlyGivenNames x1
         have hx1 : Evolves s x1 := by
           unfold x1
           with_reducible apply evolves_modStep
         try clear_value x1
         with_reducible refine .ite ?_ ?_
         · with_reducible exact hx1
         · refine .trans ?_ (by with_reducible apply evolves_handOut)
           with_reducible exact hx1
       · extract_lets +onlyGivenNames x2
         have hx2 : Evolves s x2 := by
           unfold x2
           with_reducible apply evolves_modStep
         try clear_value x2
         extract_lets +onlyGivenNames x3
         try clear_value x3
         with_reducible refine .ite ?_ ?_
         · with_reducible exact hx2
         · with_reducible refine .ite ?_ ?_
           · refine .trans ?_ (by with_reducible apply evolves_writeOut)
             with_reducible exact hx2
           · with_reducible refine .ite ?_ ?_
             · with_reducible exact hx2
             · refine .trans ?_ (by with_reducible apply evolves_writeOut)
               with_reducible exact hx2)

theorem evolves_checkPairs (s : State) (j : Nat) (x : Job) : Evolves s (checkPairs s j x) := by
  unfold checkPairs
  split
  all_goals first
    | (extract_lets +onlyGivenNames x0
       try clear_value x0
       extract_lets +onlyGivenNames x1
       have hx1 : Evolves s x1 := by
         unfold x1
         with_reducible apply evolves_modJob
       try clear_value x1
       refine .trans ?_ (by with_reducible apply evolves_chaffPlain)
       refine .trans ?_ (by with_reducible apply evolves_setEvt)
       refine .trans ?_ (by with_reducible apply evolves_inc)
       with_reducible exact hx1)
    | with_reducible exact .refl _

theorem evolves_finishJob (s : State) (j : Nat) : Evolves s (finishJob s j) := by
  unfold finishJob
  split
  all_goals first
    | with_reducible exact .refl _
    | (with_reducible refine .ite ?_ ?_
       · with_reducible exact .refl _
       · extract_lets +onlyGivenNames x0
         have hx0 : Evolves s x0 := by
           unfold x0
           with_reducible apply evolves_checkPairs
         try clear_value x0
         extract_lets +onlyGivenNames x1
         try clear_value x1
         extract_lets +onlyGivenNames x2
         try clear_value x2
         extract_lets +onlyGivenNames x3
         try clear_value x3
         split
         all_goals first
           | (refine .trans ?_ (by with_reducible apply evolves_freeJob)
              refine .trans ?_ (by with_reducible apply evolves_sendDone)
              with_reducible exact hx0)
           | (refine .trans ?_ (by with_reducible apply evolves_finishEntry)
              with_reducible exact hx0))

theorem evolves_leaveStep (s : State) (j k realm : Nat) : Evolves s (leaveStep s j k realm) := by
  unfold leaveStep
  split
  all_goals first
    | (extract_lets +onlyGivenNames x0
       have hx0 : Evolves s x0 := by
         unfold x0
         with_reducible apply evolves_modStep
       try clear_value x0
       extract_lets +onlyGivenNames x1
       try clear_value x1
       extract_lets +onlyGivenNames x2
       try clear_value x2
       extract_lets +onlyGivenNames x3
       have hx3 : Evolves s x3 := by
         unfold x3
         split
         all_goals first
           | (with_reducible refine .ite ?_ ?_
              · refine .trans ?_ (by with_reducible apply evolves_setLane)
                with_reducible exact hx0
              · with_reducible refine .ite ?_ ?_
                · refine .trans ?_ (by with_reducible apply evolves_releaseBank)
                  with_reducible exact hx0
                · with_reducible exact hx0)
           | with_reducible exact hx0
       try clear_value x3
       extract_lets +onlyGivenNames x4
       try clear_value x4
       extract_lets +onlyGivenNames x5
       have hx5 : Evolves s x5 := by
         unfold x5
         refine .upd_all ?_ rfl rfl
         with_reducible exact hx3
       try clear_value x5
       split
       all_goals first
         | (refine .trans ?_ (by with_reducible apply evolves_unpin)
            with_reducible exact hx5)
         | with_reducible exact hx5)
    | with_reducible exact .refl _

theorem evolves_endChain (s : State) (j : Nat) (bad : Option (Verdict × Nat)) : Evolves s (endChain s j bad) := by
  unfold endChain
  split
  all_goals first
    | with_reducible exact .refl _
    | (with_reducible refine .ite ?_ ?_
       · with_reducible exact .refl _
       · extract_lets +onlyGivenNames x0
         try clear_value x0
         extract_lets +onlyGivenNames x1
         have hx1 : Evolves s x1 := by
           unfold x1
           split
           all_goals first
             | with_reducible apply evolves_killGate
             | with_reducible exact .refl _
         try clear_value x1
         extract_lets +onlyGivenNames x2
         have hx2 : Evolves s x2 := by
           unfold x2
           with_reducible refine .ite ?_ ?_
           · with_reducible refine .foldl (fun st3 _ => ?_) _ _ _ ?_
             · split
               all_goals first
                 | (with_reducible refine .ite ?_ ?_
                    · with_reducible apply evolves_countAbort
                    · with_reducible exact .refl _)
                 | with_reducible exact .refl _
             · with_reducible exact hx1
           · with_reducible exact hx1
         try clear_value x2
         extract_lets +onlyGivenNames x4
         have hx4 : Evolves s x4 := by
           unfold x4
           with_reducible refine .foldl (fun st5 _ => ?_) _ _ _ ?_
           · with_reducible apply evolves_leaveStep
           · with_reducible exact hx2
         try clear_value x4
         extract_lets +onlyGivenNames x6
         try clear_value x6
         extract_lets +onlyGivenNames x7
         have hx7 : Evolves s x7 := by
           unfold x7
           refine .trans ?_ (by with_reducible apply evolves_incBy)
           with_reducible exact hx4
         try clear_value x7
         extract_lets +onlyGivenNames x8
         try clear_value x8
         extract_lets +onlyGivenNames x9
         have hx9 : Evolves s x9 := by
           unfold x9
           refine .trans ?_ (by with_reducible apply evolves_modJob)
           with_reducible exact hx7
         try clear_value x9
         extract_lets +onlyGivenNames x10
         try clear_value x10
         extract_lets +onlyGivenNames x11
         have hx11 : Evolves s x11 := by
           unfold x11
           with_reducible refine .ite ?_ ?_
           · refine .trans ?_ (by with_reducible apply evolves_setEvt)
             refine .trans ?_ (by with_reducible apply evolves_inc)
             with_reducible exact hx9
           · with_reducible refine .ite ?_ ?_
             · refine .trans ?_ (by with_reducible apply evolves_inc)
               with_reducible exact hx9
             · with_reducible refine .ite ?_ ?_
               · refine .trans ?_ (by with_reducible apply evolves_setEvt)
                 with_reducible exact hx9
               · with_reducible exact hx9
         try clear_value x11
         refine .trans ?_ (by with_reducible apply evolves_finishJob)
         with_reducible exact hx11)

theorem evolves_lookStep (s : State) (j : Nat) (x : Job) (k : Nat) : Evolves s (lookStep s j x k) := by
  unfold lookStep
  with_reducible refine .ite ?_ ?_
  · extract_lets +onlyGivenNames x0
    try clear_value x0
    extract_lets +onlyGivenNames x1
    try clear_value x1
    refine .trans ?_ (by with_reducible apply evolves_lookup)
    with_reducible apply evolves_modStep
  · with_reducible exact .refl _

theorem evolves_openStep (s : State) (j k : Nat) : Evolves s (openStep s j k) := by
  unfold openStep
  split
  all_goals first
    | with_reducible exact .refl _
    | (extract_lets +onlyGivenNames x0
       try clear_value x0
       extract_lets +onlyGivenNames x1
       try clear_value x1
       extract_lets +onlyGivenNames x2
       try clear_value x2
       extract_lets +onlyGivenNames x3
       try clear_value x3
       extract_lets +onlyGivenNames x4
       try clear_value x4
       extract_lets +onlyGivenNames x5
       try clear_value x5
       extract_lets +onlyGivenNames x6
       have hx6 : Evolves s x6 := by
         unfold x6
         refine .trans ?_ (by with_reducible apply evolves_readStep)
         with_reducible apply evolves_modStep
       try clear_value x6
       extract_lets +onlyGivenNames x7
       try clear_value x7
       with_reducible refine .ite ?_ ?_
       · refine .trans ?_ (by with_reducible apply evolves_openSource)
         with_reducible exact hx6
       · with_reducible exact hx6)

theorem evolves_startStep (s : State) (j k : Nat) : Evolves s (startStep s j k) := by
  unfold startStep
  split
  all_goals first
    | with_reducible exact .refl _
    | (extract_lets +onlyGivenNames x0
       try clear_value x0
       extract_lets +onlyGivenNames x1
       try clear_value x1
       extract_lets +onlyGivenNames x2
       have hx2 : Evolves s x2 := by
         unfold x2
         refine .upd_all ?_ rfl rfl
         with_reducible exact .refl _
       try clear_value x2
       extract_lets +onlyGivenNames x3
       have hx3 : Evolves s x3 := by
         unfold x3
         refine .trans ?_ (by with_reducible apply evolves_modStep)
         with_reducible exact hx2
       try clear_value x3
       extract_lets +onlyGivenNames x4
       have hx4 : Evolves s x4 := by
         unfold x4
         with_reducible refine .ite ?_ ?_
         · refine .trans ?_ (by with_reducible apply evolves_modJob)
           with_reducible exact hx3
         · with_reducible exact hx3
       try clear_value x4
       with_reducible refine .ite ?_ ?_
       · with_reducible exact hx4
       · refine .trans ?_ (by with_reducible apply evolves_openStep)
         with_reducible exact hx4)

theorem evolves_lateLooks (s : State) (j : Nat) : Evolves s (lateLooks s j) := by
  unfold lateLooks
  split
  all_goals first
    | with_reducible exact .refl _
    | (with_reducible refine .foldl (fun st0 _ => ?_) _ _ _ ?_
       · with_reducible apply evolves_lookStep
       · with_reducible exact .refl _)

theorem evolves_startSteps (s : State) (j : Nat) : Evolves s (startSteps s j) := by
  unfold startSteps
  split
  all_goals first
    | with_reducible exact .refl _
    | (with_reducible refine .ite ?_ ?_
       · with_reducible exact .refl _
       · extract_lets +onlyGivenNames x0
         try clear_value x0
         refine .trans ?_ (by with_reducible apply evolves_lateLooks)
         with_reducible refine .foldl (fun st1 _ => ?_) _ _ _ ?_
         · with_reducible apply evolves_startStep
         · with_reducible exact .refl _)

theorem evolves_pumpJob (s : State) (j : Nat) : Evolves s (pumpJob s j) := by
  unfold pumpJob
  split
  all_goals first
    | with_reducible exact .refl _
    | (with_reducible refine .ite ?_ ?_
       · with_reducible refine .ite ?_ ?_
         · with_reducible exact .refl _
         · split
           all_goals first
             | with_reducible apply evolves_endChain
             | (refine .trans ?_ (by with_reducible apply evolves_startSteps)
                with_reducible apply evolves_modJob)
       · with_reducible apply evolves_startSteps)

theorem evolves_pumpJobs (s : State) : Evolves s (pumpJobs s) := by
  unfold pumpJobs
  with_reducible refine .foldl (fun st0 _ => ?_) _ _ _ ?_
  · with_reducible apply evolves_pumpJob
  · with_reducible exact .refl _

theorem evolves_endStep (s : State) (j k : Nat) : Evolves s (endStep s j k) := by
  unfold endStep
  split
  all_goals first
    | (with_reducible refine .ite ?_ ?_
       · with_reducible exact .refl _
       · with_reducible refine .ite ?_ ?_
         · with_reducible apply evolves_endChain
         · with_reducible refine .ite ?_ ?_
           · with_reducible exact .refl _
           · extract_lets +onlyGivenNames x0
             try clear_value x0
             extract_lets +onlyGivenNames x1
             try clear_value x1
             with_reducible refine .ite ?_ ?_
             · extract_lets +onlyGivenNames x2
               try clear_value x2
               with_reducible apply evolves_endChain
             · extract_lets +onlyGivenNames x3
               have hx3 : Evolves s x3 := by
                 unfold x3
                 with_reducible apply evolves_leaveStep
               try clear_value x3
               extract_lets +onlyGivenNames x4
               have hx4 : Evolves s x4 := by
                 unfold x4
                 refine .trans ?_ (by with_reducible apply evolves_modStep)
                 with_reducible exact hx3
               try clear_value x4
               extract_lets +onlyGivenNames x5
               have hx5 : Evolves s x5 := by
                 unfold x5
                 with_reducible refine .ite ?_ ?_
                 · refine .trans ?_ (by with_reducible apply evolves_modJob)
                   with_reducible exact hx4
                 · with_reducible exact hx4
               try clear_value x5
               split
               all_goals first
                 | (with_reducible refine .ite ?_ ?_
                    · refine .trans ?_ (by with_reducible apply evolves_endChain)
                      with_reducible exact hx5
                    · refine .trans ?_ (by with_reducible apply evolves_pumpJobs)
                      with_reducible exact hx5)
                 | with_reducible exact hx5)
    | with_reducible exact .refl _

theorem evolves_outAnswer (s : State) (j eid k pos addr status : Nat) :
    Evolves s (outAnswer s j eid k pos addr status) := by
  unfold outAnswer
  split
  all_goals first
    | with_reducible exact .refl _
    | (with_reducible refine .ite ?_ ?_
       · with_reducible exact .refl _
       · extract_lets +onlyGivenNames x0
         have hx0 : Evolves s x0 := by
           unfold x0
           with_reducible apply evolves_modStep
         try clear_value x0
         extract_lets +onlyGivenNames x1
         try clear_value x1
         extract_lets +onlyGivenNames x2
         have hx2 : Evolves s x2 := by
           unfold x2
           with_reducible refine .ite ?_ ?_
           · with_reducible exact hx0
           · with_reducible refine .ite ?_ ?_
             · with_reducible refine .ite ?_ ?_
               · with_reducible exact hx0
               · refine .trans ?_ (by with_reducible apply evolves_modJob)
                 with_reducible exact hx0
             · refine .trans ?_ (by with_reducible apply evolves_modStep)
               with_reducible exact hx0
         try clear_value x2
         refine .trans ?_ (by with_reducible apply evolves_finishJob)
         with_reducible exact hx2)

theorem evolves_endFault (s : State) (j eid k u : Nat) : Evolves s (endFault s j eid k u) := by
  unfold endFault
  with_reducible apply evolves_modJob

theorem evolves_poisonOut (s : State) (j u : Nat) : Evolves s (poisonOut s j u) := by
  unfold poisonOut
  extract_lets +onlyGivenNames x0
  try clear_value x0
  split
  all_goals first
    | with_reducible exact .refl _
    | (split
       all_goals first
         | (extract_lets +onlyGivenNames x1
            try clear_value x1
            extract_lets +onlyGivenNames x2
            have hx2 : Evolves s x2 := by
              unfold x2
              refine .upd_all ?_ rfl rfl
              with_reducible exact .refl _
            try clear_value x2
            extract_lets +onlyGivenNames x3
            have hx3 : Evolves s x3 := by
              unfold x3
              refine .trans ?_ (by with_reducible apply evolves_fabChaff)
              with_reducible exact hx2
            try clear_value x3
            split
            all_goals first
              | (refine .trans ?_ (by with_reducible apply evolves_endFault)
                 with_reducible exact hx3)
              | with_reducible exact hx3)
         | with_reducible exact .refl _)

theorem evolves_notifyAnswer (s : State) (j eid k addr status : Nat) :
    Evolves s (notifyAnswer s j eid k addr status) := by
  unfold notifyAnswer
  with_reducible refine .ite ?_ ?_
  · extract_lets +onlyGivenNames x0
    have hx0 : Evolves s x0 := by
      unfold x0
      split
      all_goals first
        | with_reducible apply evolves_killGate
        | with_reducible exact .refl _
    try clear_value x0
    refine .trans ?_ (by with_reducible apply evolves_failStep)
    with_reducible exact hx0
  · with_reducible exact .refl _

theorem evolves_abortJob (s : State) (j : Nat) : Evolves s (abortJob s j) := by
  unfold abortJob
  split
  all_goals first
    | with_reducible exact .refl _
    | (extract_lets +onlyGivenNames x0
       try clear_value x0
       with_reducible apply evolves_endChain)

theorem evolves_beginChain (s : State) (j : Nat) (x : Job) : Evolves s (beginChain s j x) := by
  unfold beginChain
  extract_lets +onlyGivenNames x0
  have hx0 : Evolves s x0 := by
    unfold x0
    with_reducible apply evolves_setJob
  try clear_value x0
  extract_lets +onlyGivenNames x1
  try clear_value x1
  extract_lets +onlyGivenNames x2
  try clear_value x2
  extract_lets +onlyGivenNames x3
  have hx3 : Evolves s x3 := by
    unfold x3
    with_reducible refine .foldl (fun st4 _ => ?_) _ _ _ ?_
    · with_reducible refine .ite ?_ ?_
      · with_reducible exact .refl _
      · with_reducible apply evolves_lookStep
    · with_reducible exact hx0
  try clear_value x3
  split
  all_goals first
    | (refine .trans ?_ (by with_reducible apply evolves_endChain)
       with_reducible exact hx3)
    | (with_reducible refine .ite ?_ ?_
       · refine .trans ?_ (by with_reducible apply evolves_pumpJob)
         refine .trans ?_ (by with_reducible apply evolves_modJob)
         with_reducible exact hx3
       · with_reducible refine .ite ?_ ?_
         · refine .trans ?_ (by with_reducible apply evolves_pumpJob)
           refine .trans ?_ (by with_reducible apply evolves_reserveBins)
           with_reducible exact hx3
         · refine .trans ?_ (by with_reducible apply evolves_setEvt)
           refine .trans ?_ (by with_reducible apply evolves_inc)
           with_reducible exact hx3)

theorem evolves_dispatch (s : State) (d : DqEnt) (j : Nat) : Evolves s (dispatch s d j) := by
  unfold dispatch
  extract_lets +onlyGivenNames x0
  try clear_value x0
  extract_lets +onlyGivenNames x1
  have hx1 : Evolves s x1 := by
    unfold x1
    refine .upd_all ?_ rfl rfl
    with_reducible exact .refl _
  try clear_value x1
  extract_lets +onlyGivenNames x2
  have hx2 : Evolves s x2 := by
    unfold x2
    refine .trans ?_ (by with_reducible apply evolves_pmu)
    refine .trans ?_ (by with_reducible apply evolves_inc)
    with_reducible exact hx1
  try clear_value x2
  extract_lets +onlyGivenNames x3
  have hx3 : Evolves s x3 := by
    unfold x3
    with_reducible refine .ite ?_ ?_
    · with_reducible exact hx2
    · refine .trans ?_ (by with_reducible apply evolves_probeStamp)
      with_reducible exact hx2
  try clear_value x3
  refine .trans ?_ (by with_reducible apply evolves_beginChain)
  with_reducible exact hx3

end Sys2Proof.Machine
end

