-- ==== Sys2Proof/Laws/Sorghum.lean ====
section
/-! SUPPORT. What no operation of Machine/Sorghum.lean can do (Laws/Evolves.lean), one lemma for each. -/

namespace Sys2Proof.Machine

theorem evolves_runMicro (s : State) (n op : Nat) (a : ArBlk) (operands : Nat) :
    Evolves s (runMicro s n op a operands) := by
  unfold runMicro
  extract_lets +onlyGivenNames x0
  try clear_value x0
  extract_lets +onlyGivenNames x1
  try clear_value x1
  extract_lets +onlyGivenNames x2
  try clear_value x2
  extract_lets +onlyGivenNames x3
  try clear_value x3
  refine .trans ?_ (by with_reducible apply evolves_setBank)
  refine .upd_all ?_ rfl rfl
  with_reducible exact .refl _

theorem evolves_savePause (s : State) (n : Nat) : Evolves s (savePause s n) := by
  unfold savePause
  extract_lets +onlyGivenNames x0
  split
  all_goals first
    | (split
       all_goals first
         | (refine .trans ?_ (by with_reducible apply evolves_setBank)
            with_reducible apply evolves_freshFree)
         | with_reducible exact .refl _)
    | with_reducible exact .refl _

theorem evolves_pauseBank (s : State) (n : Nat) : Evolves s (pauseBank s n) := by
  unfold pauseBank
  with_reducible refine .ite ?_ ?_
  · refine .trans ?_ (by with_reducible apply evolves_inc)
    refine .trans ?_ (by with_reducible apply evolves_savePause)
    with_reducible apply evolves_setBankState
  · with_reducible exact .refl _

theorem evolves_loadBank (s : State) (n j k : Nat) : Evolves s (loadBank s n j k) := by
  unfold loadBank
  split
  all_goals first
    | with_reducible exact .refl _
    | (extract_lets +onlyGivenNames x0
       try clear_value x0
       extract_lets +onlyGivenNames x1
       try clear_value x1
       extract_lets +onlyGivenNames x2
       have hx2 : Evolves s x2 := by
         unfold x2
         refine .trans ?_ (by with_reducible apply evolves_setBankRealm)
         with_reducible apply evolves_setBankState
       try clear_value x2
       extract_lets +onlyGivenNames x3
       try clear_value x3
       with_reducible refine .ite ?_ ?_
       · refine .trans ?_ (by with_reducible apply evolves_openStep)
         refine .trans ?_ (by with_reducible apply evolves_setBank)
         with_reducible exact hx2
       · with_reducible refine .ite ?_ ?_
         · extract_lets +onlyGivenNames x4
           refine .trans ?_ (by with_reducible apply evolves_openStep)
           refine .trans ?_ (by with_reducible apply evolves_setBank)
           refine .trans ?_ (by with_reducible apply evolves_expCall)
           with_reducible exact hx2
         · refine .trans ?_ (by with_reducible apply evolves_failStep)
           refine .trans ?_ (by with_reducible apply evolves_wipeBank)
           refine .trans ?_ (by with_reducible apply evolves_modStep)
           with_reducible exact hx2)

theorem evolves_bindStep (s : State) (j k : Nat) : Evolves s (bindStep s j k) := by
  unfold bindStep
  split
  all_goals first
    | (extract_lets +onlyGivenNames x0
       try clear_value x0
       with_reducible refine .ite ?_ ?_
       · with_reducible exact .refl _
       · with_reducible refine .ite ?_ ?_
         · with_reducible exact .refl _
         · split
           all_goals first
             | (split
                all_goals first
                  | with_reducible apply evolves_failStep
                  | (with_reducible refine .ite ?_ ?_
                     · with_reducible exact .refl _
                     · refine .trans ?_ (by with_reducible apply evolves_setEvt)
                       refine .trans ?_ (by with_reducible apply evolves_inc)
                       with_reducible apply evolves_modStep))
             | (extract_lets +onlyGivenNames x1
                have hx1 : Evolves s x1 := by
                  unfold x1
                  refine .trans ?_ (by with_reducible apply evolves_setBankRealm)
                  refine .trans ?_ (by with_reducible apply evolves_setBankOp)
                  with_reducible apply evolves_modStep
                try clear_value x1
                with_reducible refine .ite ?_ ?_
                · refine .trans ?_ (by with_reducible apply evolves_wipeBank)
                  with_reducible exact hx1
                · refine .trans ?_ (by with_reducible apply evolves_loadBank)
                  with_reducible exact hx1))
    | with_reducible exact .refl _

theorem evolves_dropBank (s : State) (n j k : Nat) : Evolves s (dropBank s n j k) := by
  unfold dropBank
  refine .trans ?_ (by with_reducible apply evolves_wipeBank)
  with_reducible apply evolves_modStep

theorem evolves_bankReady (s : State) (n j k : Nat) (inp priv : Bytes) : Evolves s (bankReady s n j k inp priv) := by
  unfold bankReady
  extract_lets +onlyGivenNames x0
  try clear_value x0
  extract_lets +onlyGivenNames x1
  have hx1 : Evolves s x1 := by
    unfold x1
    refine .trans ?_ (by with_reducible apply evolves_incBy)
    refine .trans ?_ (by with_reducible apply evolves_setBankState)
    with_reducible apply evolves_setBank
  try clear_value x1
  refine .trans ?_ (by with_reducible apply evolves_modStep)
  refine .upd_all ?_ rfl rfl
  with_reducible exact hx1

theorem evolves_bankLoadedFx (s : State) (n : Nat) : Evolves s (bankLoadedFx s n) := by
  unfold bankLoadedFx
  split
  all_goals first
    | with_reducible exact .refl _
    | (split
       all_goals first
         | (with_reducible refine .ite ?_ ?_
            · with_reducible exact .refl _
            · extract_lets +onlyGivenNames x0
              try clear_value x0
              extract_lets +onlyGivenNames x1
              try clear_value x1
              extract_lets +onlyGivenNames x2
              try clear_value x2
              split
              all_goals first
                | (with_reducible refine .ite ?_ ?_
                   · with_reducible apply evolves_dropBank
                   · with_reducible exact .refl _)
                | (refine .trans ?_ (by with_reducible apply evolves_failStep)
                   with_reducible apply evolves_dropBank)
                | (extract_lets +onlyGivenNames x3
                   try clear_value x3
                   extract_lets +onlyGivenNames x4
                   with_reducible refine .ite ?_ ?_
                   · with_reducible apply evolves_dropBank
                   · with_reducible refine .ite ?_ ?_
                     · with_reducible exact .refl _
                     · with_reducible refine .ite ?_ ?_
                       · try unfold x4
                         refine .trans ?_ (by with_reducible apply evolves_failStep)
                         with_reducible apply evolves_dropBank
                       · split
                         all_goals first
                           | with_reducible apply evolves_bankReady
                           | (extract_lets +onlyGivenNames x5
                              try clear_value x5
                              with_reducible refine .ite ?_ ?_
                              · with_reducible refine .ite ?_ ?_
                                · try unfold x4
                                  refine .trans ?_ (by with_reducible apply evolves_failStep)
                                  with_reducible apply evolves_dropBank
                                · with_reducible apply evolves_bankReady
                              · with_reducible refine .ite ?_ ?_
                                · with_reducible exact .refl _
                                · extract_lets +onlyGivenNames x6
                                  extract_lets +onlyGivenNames x7
                                  have hx7 : Evolves s x7 := by
                                    unfold x7
                                    refine .trans ?_ (by with_reducible apply evolves_refuse)
                                    refine .trans ?_ (by with_reducible apply evolves_dropBank)
                                    try unfold x6
                                    with_reducible apply evolves_kccBlocks
                                  try clear_value x7
                                  split
                                  all_goals first
                                    | with_reducible exact hx7
                                    | (split
                                       all_goals first
                                         | (refine .trans ?_ (by with_reducible apply evolves_bankReady)
                                            try unfold x6
                                            with_reducible apply evolves_kccBlocks)
                                         | with_reducible exact hx7))))
         | with_reducible exact .refl _)

theorem evolves_wipeDone (s : State) (n : Nat) (nonzero : Bool) : Evolves s (wipeDone s n nonzero) := by
  unfold wipeDone
  with_reducible refine .ite ?_ ?_
  · with_reducible exact .refl _
  · extract_lets +onlyGivenNames x0
    have hx0 : Evolves s x0 := by
      unfold x0
      with_reducible apply evolves_inc
    try clear_value x0
    extract_lets +onlyGivenNames x1
    have hx1 : Evolves s x1 := by
      unfold x1
      with_reducible refine .ite ?_ ?_
      · refine .trans ?_ (by with_reducible apply evolves_chaffPlain)
        with_reducible exact hx0
      · with_reducible exact hx0
    try clear_value x1
    split
    all_goals first
      | (with_reducible refine .ite ?_ ?_
         · refine .trans ?_ (by with_reducible apply evolves_loadBank)
           with_reducible exact hx1
         · refine .trans ?_ (by with_reducible apply evolves_setBank)
           refine .trans ?_ (by with_reducible apply evolves_setBankRealm)
           refine .trans ?_ (by with_reducible apply evolves_setBankState)
           with_reducible exact hx1)
      | (refine .trans ?_ (by with_reducible apply evolves_setBank)
         refine .trans ?_ (by with_reducible apply evolves_setBankRealm)
         refine .trans ?_ (by with_reducible apply evolves_setBankState)
         with_reducible exact hx1)

theorem evolves_bankEcc (s : State) (n : Nat) : Evolves s (bankEcc s n) := by
  unfold bankEcc
  extract_lets +onlyGivenNames x0
  have hx0 : Evolves s x0 := by
    unfold x0
    refine .trans ?_ (by with_reducible apply evolves_chaffPlain)
    refine .trans ?_ (by with_reducible apply evolves_setEvt)
    with_reducible apply evolves_inc
  try clear_value x0
  split
  all_goals first
    | (with_reducible refine .ite ?_ ?_
       · refine .trans ?_ (by with_reducible apply evolves_failStep)
         refine .trans ?_ (by with_reducible apply evolves_dropBank)
         with_reducible exact hx0
       · refine .trans ?_ (by with_reducible apply evolves_wipeBank)
         with_reducible exact hx0)
    | (with_reducible refine .ite ?_ ?_
       · with_reducible exact hx0
       · refine .trans ?_ (by with_reducible apply evolves_wipeBank)
         with_reducible exact hx0)

end Sys2Proof.Machine
end

