-- ==== Sys2Proof/Laws/Lanes.lean ====
section
/-! SUPPORT. What no operation of Machine/Lanes.lean can do (Laws/Evolves.lean), one lemma for each. -/

namespace Sys2Proof.Machine

theorem evolves_ungrant (s : State) (j k : Nat) : Evolves s (ungrant s j k) := by
  unfold ungrant
  extract_lets +onlyGivenNames x0
  try clear_value x0
  extract_lets +onlyGivenNames x1
  try clear_value x1
  extract_lets +onlyGivenNames x2
  have hx2 : Evolves s x2 := by
    unfold x2
    refine .upd_all ?_ rfl rfl
    with_reducible exact .refl _
  try clear_value x2
  refine .trans ?_ (by with_reducible apply evolves_modStep)
  with_reducible exact hx2

theorem evolves_suspendCtx (s : State) (l j k : Nat) : Evolves s (suspendCtx s l j k) := by
  unfold suspendCtx
  extract_lets +onlyGivenNames x0
  try clear_value x0
  extract_lets +onlyGivenNames x1
  have hx1 : Evolves s x1 := by
    unfold x1
    with_reducible refine .ite ?_ ?_
    · with_reducible apply evolves_ungrant
    · with_reducible exact .refl _
  try clear_value x1
  extract_lets +onlyGivenNames x2
  try clear_value x2
  extract_lets +onlyGivenNames x3
  have hx3 : Evolves s x3 := by
    unfold x3
    refine .trans ?_ (by with_reducible apply evolves_setLane)
    with_reducible exact hx1
  try clear_value x3
  extract_lets +onlyGivenNames x4
  have hx4 : Evolves s x4 := by
    unfold x4
    refine .upd_all ?_ rfl rfl
    with_reducible exact hx3
  try clear_value x4
  extract_lets +onlyGivenNames x5
  have hx5 : Evolves s x5 := by
    unfold x5
    refine .trans ?_ (by with_reducible apply evolves_inc)
    refine .trans ?_ (by with_reducible apply evolves_inc)
    with_reducible exact hx4
  try clear_value x5
  extract_lets +onlyGivenNames x6
  try clear_value x6
  with_reducible refine .ite ?_ ?_
  · refine .trans ?_ (by with_reducible apply evolves_wr)
    with_reducible exact hx5
  · with_reducible exact hx5

theorem evolves_noteNoCtx (s : State) (gs : List Grant) (l cls : Nat) : Evolves s (noteNoCtx s gs l cls) := by
  unfold noteNoCtx
  extract_lets +onlyGivenNames x0
  have hx0 : Evolves s x0 := by
    unfold x0
    with_reducible apply evolves_setEvt
  try clear_value x0
  with_reducible refine .ite ?_ ?_
  · refine .trans ?_ (by with_reducible apply evolves_setEvt)
    with_reducible exact hx0
  · with_reducible exact hx0

theorem evolves_putCtx (s : State) (l j k n : Nat) : Evolves s (putCtx s l j k n) := by
  unfold putCtx
  extract_lets +onlyGivenNames x0
  try clear_value x0
  extract_lets +onlyGivenNames x1
  try clear_value x1
  extract_lets +onlyGivenNames x2
  have hx2 : Evolves s x2 := by
    unfold x2
    with_reducible apply evolves_setLane
  try clear_value x2
  extract_lets +onlyGivenNames x3
  have hx3 : Evolves s x3 := by
    unfold x3
    with_reducible refine .ite ?_ ?_
    · refine .trans ?_ (by with_reducible apply evolves_inc)
      refine .upd_all ?_ rfl rfl
      with_reducible exact hx2
    · with_reducible exact hx2
  try clear_value x3
  refine .trans ?_ (by with_reducible apply evolves_modStep)
  refine .upd_all ?_ rfl rfl
  with_reducible exact hx3

theorem evolves_takeCtx {s : State} {l j k : Nat} {t : State} (h : takeCtx s l j k = some t) : Evolves s t := by
  unfold takeCtx at h
  extract_lets cls at h
  split at h
  · injection h with h; subst h; exact evolves_putCtx ..
  · split at h
    · injection h with h; subst h; exact (evolves_suspendCtx ..).trans (evolves_putCtx ..)
    · cases h

theorem evolves_laneBoundary (s : State) (l : Nat) : Evolves s (laneBoundary s l) := by
  unfold laneBoundary
  extract_lets +onlyGivenNames x0
  try clear_value x0
  with_reducible refine .ite ?_ ?_
  · with_reducible exact .refl _
  · with_reducible refine .ite ?_ ?_
    · with_reducible refine .ite ?_ ?_
      · with_reducible exact .refl _
      · split
        all_goals first
          | (extract_lets +onlyGivenNames x1
             try clear_value x1
             extract_lets +onlyGivenNames x2
             have hx2 : Evolves s x2 := by
               unfold x2
               refine .trans ?_ (by with_reducible apply evolves_wr)
               refine .trans ?_ (by with_reducible apply evolves_wr)
               with_reducible apply evolves_setLane
             try clear_value x2
             with_reducible refine .ite ?_ ?_
             · refine .trans ?_ (by with_reducible apply evolves_setEvt)
               refine .trans ?_ (by with_reducible apply evolves_wr)
               with_reducible exact hx2
             · with_reducible exact hx2)
          | (extract_lets +onlyGivenNames x3
             try clear_value x3
             extract_lets +onlyGivenNames x4
             have hx4 : Evolves s x4 := by
               unfold x4
               refine .trans ?_ (by with_reducible apply evolves_wr)
               with_reducible apply evolves_inc
             try clear_value x4
             with_reducible refine .ite ?_ ?_
             · refine .trans ?_ (by with_reducible apply evolves_wr)
               with_reducible exact hx4
             · with_reducible refine .ite ?_ ?_
               · refine .trans ?_ (by with_reducible apply evolves_inc)
                 with_reducible exact hx4
               · refine .trans ?_ (by with_reducible apply evolves_chaffPlain)
                 refine .trans ?_ (by with_reducible apply evolves_inc)
                 refine .trans ?_ (by with_reducible apply evolves_setEvt)
                 refine .trans ?_ (by with_reducible apply evolves_wr)
                 refine .trans ?_ (by with_reducible apply evolves_wr)
                 with_reducible exact hx4)
    · extract_lets +onlyGivenNames x5
      try clear_value x5
      with_reducible refine .ite ?_ ?_
      · refine .trans ?_ (by with_reducible apply evolves_notice)
        refine .trans ?_ (by with_reducible apply evolves_setEvt)
        with_reducible apply evolves_wr
      · with_reducible refine .ite ?_ ?_
        · with_reducible exact .refl _
        · with_reducible apply evolves_wr

theorem evolves_drawSeeds (s : State) : Evolves s (drawSeeds s) := by
  unfold drawSeeds
  with_reducible refine .foldl (fun st0 _ => ?_) _ _ _ ?_
  · with_reducible refine .ite ?_ ?_
    · extract_lets +onlyGivenNames x1
      refine .trans ?_ (by with_reducible apply evolves_setLane)
      with_reducible apply evolves_expCall
    · with_reducible exact .refl _
  · with_reducible exact .refl _

theorem evolves_drawIv (s : State) (l j k : Nat) : Evolves s (drawIv s l j k) := by
  unfold drawIv
  split
  all_goals first
    | (extract_lets +onlyGivenNames x0
       try clear_value x0
       extract_lets +onlyGivenNames x1
       try clear_value x1
       with_reducible refine .ite ?_ ?_
       · with_reducible exact .refl _
       · with_reducible refine .ite ?_ ?_
         · extract_lets +onlyGivenNames x2
           refine .trans ?_ (by with_reducible apply evolves_modStep)
           with_reducible apply evolves_draw
         · with_reducible apply evolves_failStep)
    | with_reducible exact .refl _

theorem evolves_seatLane {s : State} {l j k : Nat} {t : State} (h : seatLane s l j k = some t) : Evolves s t := by
  unfold seatLane at h
  extract_lets first at h
  split at h
  · injection h with h; subst h; exact .refl _
  · split at h
    · cases h
    · split at h
      · next ht =>
        have h1 := evolves_takeCtx ht
        injection h with h; subst h
        refine .trans ?_ (.ite (h1.trans (evolves_drawIv ..)) h1)
        split
        · exact evolves_suspendCtx ..
        · exact .refl _
      · cases h

theorem evolves_suspendMoveFx (s : State) (j k l : Nat) : Evolves s (suspendMoveFx s j k l) := by
  unfold suspendMoveFx
  with_reducible refine .ite ?_ ?_
  · with_reducible refine .ite ?_ ?_
    · with_reducible exact .refl _
    · with_reducible refine .ite ?_ ?_
      · with_reducible apply evolves_suspendCtx
      · extract_lets +onlyGivenNames x0
        try clear_value x0
        extract_lets +onlyGivenNames x1
        have hx1 : Evolves s x1 := by
          unfold x1
          with_reducible apply evolves_setLane
        try clear_value x1
        refine .trans ?_ (by with_reducible apply evolves_failStep)
        refine .trans ?_ (by with_reducible apply evolves_notice)
        refine .trans ?_ (by with_reducible apply evolves_setEvt)
        with_reducible exact hx1
  · with_reducible refine .ite ?_ ?_
    · split
      all_goals first
        | with_reducible exact (evolves_takeCtx (by assumption))
        | with_reducible apply evolves_noteNoCtx
    · with_reducible exact .refl _

theorem evolves_starveTick (s : State) : Evolves s (starveTick s) := by
  unfold starveTick
  with_reducible refine .ite ?_ ?_
  · refine .upd_all ?_ rfl rfl
    with_reducible exact .refl _
  · with_reducible refine .foldl (fun st0 _ => ?_) _ _ _ ?_
    · with_reducible refine .foldl (fun st1 _ => ?_) _ _ _ ?_
      · with_reducible refine .ite ?_ ?_
        · with_reducible apply evolves_modStep
        · with_reducible exact .refl _
      · with_reducible exact .refl _
    · with_reducible exact .refl _

theorem evolves_starveExpireFx (s : State) (j k : Nat) : Evolves s (starveExpireFx s j k) := by
  unfold starveExpireFx
  extract_lets +onlyGivenNames x0
  try clear_value x0
  split
  all_goals first
    | (with_reducible refine .ite ?_ ?_
       · with_reducible apply evolves_failStep
       · with_reducible exact .refl _)
    | with_reducible exact .refl _

end Sys2Proof.Machine
end

