-- ==== Sys2Proof/Laws/Planner.lean ====
section
/-! SUPPORT. What no operation of Machine/Planner.lean can do (Laws/Evolves.lean), one lemma for each. -/

namespace Sys2Proof.Machine

theorem evolves_dropSensor (s : State) (i : Nat) : Evolves s (dropSensor s i) := by
  unfold dropSensor
  extract_lets +onlyGivenNames x0
  try clear_value x0
  extract_lets +onlyGivenNames x1
  have hx1 : Evolves s x1 := by
    unfold x1
    with_reducible apply evolves_wr
  try clear_value x1
  refine .trans ?_ (by with_reducible apply evolves_chaffAny)
  refine .trans ?_ (by with_reducible apply evolves_setEvt)
  refine .trans ?_ (by with_reducible apply evolves_wr)
  refine .trans ?_ (by with_reducible apply evolves_wr)
  with_reducible exact hx1

theorem evolves_readSensors (s : State) (rs : List SensorReading) : Evolves s (readSensors s rs) := by
  unfold readSensors
  extract_lets +onlyGivenNames x0
  try clear_value x0
  extract_lets +onlyGivenNames x1
  extract_lets +onlyGivenNames x2
  have hx2 : Evolves s x2 := by
    unfold x2
    with_reducible refine .foldl (fun st3 _ => ?_) _ _ _ ?_
    · split
      all_goals first
        | with_reducible apply evolves_wr
        | with_reducible exact .refl _
    · with_reducible exact .refl _
  try clear_value x2
  extract_lets +onlyGivenNames x4
  have hx4 : Evolves s x4 := by
    unfold x4
    with_reducible refine .foldl (fun st5 _ => ?_) _ _ _ ?_
    · with_reducible refine .ite ?_ ?_
      · with_reducible apply evolves_dropSensor
      · with_reducible exact .refl _
    · with_reducible exact hx2
  try clear_value x4
  extract_lets +onlyGivenNames x6
  try clear_value x6
  extract_lets +onlyGivenNames x7
  try clear_value x7
  extract_lets +onlyGivenNames x8
  have hx8 : Evolves s x8 := by
    unfold x8
    with_reducible refine .foldl (fun st9 _ => ?_) _ _ _ ?_
    · split
      all_goals first
        | (with_reducible refine .ite ?_ ?_
           · with_reducible apply evolves_dropSensor
           · with_reducible exact .refl _)
        | with_reducible exact .refl _
    · with_reducible exact hx4
  try clear_value x8
  with_reducible refine .foldl (fun st10 _ => ?_) _ _ _ ?_
  · with_reducible apply evolves_wr
  · with_reducible exact hx8

theorem evolves_heatFx (s : State) (rs : List SensorReading) : Evolves s (heatFx s rs) := by
  unfold heatFx
  extract_lets +onlyGivenNames x0
  try clear_value x0
  extract_lets +onlyGivenNames x1
  have hx1 : Evolves s x1 := by
    unfold x1
    with_reducible apply evolves_readSensors
  try clear_value x1
  extract_lets +onlyGivenNames x2
  try clear_value x2
  extract_lets +onlyGivenNames x3
  have hx3 : Evolves s x3 := by
    unfold x3
    refine .trans ?_ (by with_reducible apply evolves_wr)
    refine .trans ?_ (by with_reducible apply evolves_wr)
    with_reducible exact hx1
  try clear_value x3
  extract_lets +onlyGivenNames x4
  try clear_value x4
  split
  all_goals first
    | (refine .upd_all ?_ rfl rfl
       with_reducible exact hx3)
    | (extract_lets +onlyGivenNames x5
       have hx5 : Evolves s x5 := by
         unfold x5
         refine .trans ?_ (by with_reducible apply evolves_wr)
         refine .trans ?_ (by with_reducible apply evolves_wr)
         with_reducible exact hx3
       try clear_value x5
       extract_lets +onlyGivenNames x6
       try clear_value x6
       extract_lets +onlyGivenNames x7
       try clear_value x7
       extract_lets +onlyGivenNames x8
       try clear_value x8
       extract_lets +onlyGivenNames x9
       try clear_value x9
       extract_lets +onlyGivenNames x10
       try clear_value x10
       extract_lets +onlyGivenNames x11
       try clear_value x11
       extract_lets +onlyGivenNames x12
       try clear_value x12
       extract_lets +onlyGivenNames x13
       try clear_value x13
       extract_lets +onlyGivenNames x14
       have hx14 : Evolves s x14 := by
         unfold x14
         refine .upd_all ?_ rfl rfl
         with_reducible exact hx5
       try clear_value x14
       with_reducible refine .ite ?_ ?_
       · refine .trans ?_ (by with_reducible apply evolves_chaffAny)
         refine .trans ?_ (by with_reducible apply evolves_setEvt)
         refine .trans ?_ (by with_reducible apply evolves_wr)
         with_reducible exact hx14
       · with_reducible exact hx14)

theorem evolves_noteLaneWaits (s : State) (gs : List Grant) : Evolves s (noteLaneWaits s gs) := by
  unfold noteLaneWaits
  with_reducible refine .foldl (fun st0 _ => ?_) _ _ _ ?_
  · split
    all_goals first
      | (with_reducible refine .ite ?_ ?_
         · with_reducible refine .foldl (fun st1 _ => ?_) _ _ _ ?_
           · with_reducible apply evolves_noteNoCtx
           · with_reducible exact .refl _
         · with_reducible exact .refl _)
      | with_reducible exact .refl _
  · with_reducible exact .refl _

theorem evolves_noteCtxWaits (s : State) (gs : List Grant) : Evolves s (noteCtxWaits s gs) := by
  unfold noteCtxWaits
  with_reducible refine .foldl (fun st0 _ => ?_) _ _ _ ?_
  · split
    all_goals first
      | (with_reducible refine .ite ?_ ?_
         · with_reducible refine .foldl (fun st1 _ => ?_) _ _ _ ?_
           · refine .trans ?_ (by with_reducible apply evolves_setEvt)
             with_reducible apply evolves_inc
           · with_reducible apply evolves_modStep
         · with_reducible exact .refl _)
      | with_reducible exact .refl _
  · with_reducible exact .refl _

theorem evolves_bookPlan (s : State) : Evolves s (bookPlan s) := by
  unfold bookPlan
  extract_lets +onlyGivenNames x0
  try clear_value x0
  extract_lets +onlyGivenNames x1
  try clear_value x1
  extract_lets +onlyGivenNames x2
  try clear_value x2
  extract_lets +onlyGivenNames x3
  try clear_value x3
  extract_lets +onlyGivenNames x4
  try clear_value x4
  extract_lets +onlyGivenNames x5
  try clear_value x5
  extract_lets +onlyGivenNames x6
  try clear_value x6
  extract_lets +onlyGivenNames x7
  try clear_value x7
  extract_lets +onlyGivenNames x8
  try clear_value x8
  extract_lets +onlyGivenNames x9
  try clear_value x9
  extract_lets +onlyGivenNames x10
  try clear_value x10
  extract_lets +onlyGivenNames x11
  have hx11 : Evolves s x11 := by
    unfold x11
    refine .trans ?_ (by with_reducible apply evolves_incBy)
    refine .upd_all ?_ rfl rfl
    with_reducible exact .refl _
  try clear_value x11
  refine .trans ?_ (by with_reducible apply evolves_noteLaneWaits)
  refine .trans ?_ (by with_reducible apply evolves_noteCtxWaits)
  with_reducible refine .ite ?_ ?_
  · refine .trans ?_ (by with_reducible apply evolves_inc)
    with_reducible exact hx11
  · with_reducible exact hx11

end Sys2Proof.Machine
end

