-- ==== Sys2Proof/Laws/Tick.lean ====
section
/-! SUPPORT. What no operation of Machine/Tick.lean can do (Laws/Evolves.lean), one lemma for each. -/

namespace Sys2Proof.Machine

theorem evolves_takeLock (s : State) (n : Nat) : Evolves s (takeLock s n) := by
  unfold takeLock
  refine .upd_all ?_ rfl rfl
  with_reducible exact .refl _

theorem evolves_takeEmr {s : State} {g j k : Nat} {t : State} (h : takeEmr s g j k = some t) : Evolves s t := by
  unfold takeEmr at h
  split at h
  · split at h
    · injection h with h; subst h; exact .refl _
    · split at h
      · injection h with h; subst h; exact evolves_modStep ..
      · cases h
  · cases h

theorem evolves_takeBank (s : State) (n op : Nat) (a : ArBlk) : Evolves s (takeBank s n op a) := by
  unfold takeBank
  extract_lets +onlyGivenNames x0
  try clear_value x0
  with_reducible refine .ite ?_ ?_
  · with_reducible exact .refl _
  · extract_lets +onlyGivenNames x1
    try clear_value x1
    extract_lets +onlyGivenNames x2
    have hx2 : Evolves s x2 := by
      unfold x2
      refine .trans ?_ (by with_reducible apply evolves_setBankState)
      with_reducible apply evolves_pauseBank
    try clear_value x2
    refine .trans ?_ (by with_reducible apply evolves_wr)
    refine .trans ?_ (by with_reducible apply evolves_wr)
    with_reducible exact hx2

theorem evolves_resumeOther (s : State) (n : Nat) : Evolves s (resumeOther s n) := by
  unfold resumeOther
  extract_lets +onlyGivenNames x0
  try clear_value x0
  split
  all_goals first
    | (split
       all_goals first
         | (with_reducible refine .ite ?_ ?_
            · with_reducible apply evolves_takeBank
            · with_reducible exact .refl _)
         | with_reducible exact .refl _)
    | with_reducible exact .refl _

theorem evolves_seatOn {s : State} {g : Grant} {t : State} (h : seatOn s g = some t) : Evolves s t := by
  unfold seatOn at h
  split at h
  · injection h with h; subst h; exact .refl _
  · split at h
    · cases h
    · split at h
      · exact evolves_seatLane h
      · exact evolves_seatLane h
      · obtain ⟨u, hu, h⟩ := Option.map_eq_some_iff.1 h
        subst h
        exact .ite ((evolves_takeEmr hu).trans (evolves_takeLock ..)) (evolves_takeEmr hu)
      · obtain ⟨u, hu, h⟩ := Option.map_eq_some_iff.1 h
        subst h
        exact .ite ((evolves_takeEmr hu).trans (evolves_takeLock ..)) (evolves_takeEmr hu)
      · split at h
        · injection h with h; subst h
          split
          · exact evolves_takeBank ..
          · exact .refl _
        · cases h
      · injection h with h; subst h; exact .refl _
      · injection h with h; subst h; exact .refl _

theorem evolves_addWork (s : State) (g : Grant) : Evolves s (addWork s g) := by
  unfold addWork
  with_reducible apply evolves_modStep

theorem evolves_chargeX (s : State) (g : Grant) (cost : Nat) : Evolves s (chargeX s g cost) := by
  unfold chargeX
  extract_lets +onlyGivenNames x0
  try clear_value x0
  extract_lets +onlyGivenNames x1
  try clear_value x1
  refine .trans ?_ (by with_reducible apply evolves_pmu)
  refine .trans ?_ (by with_reducible apply evolves_incBy)
  refine .upd_all ?_ rfl rfl
  with_reducible exact .refl _

theorem evolves_runX (s : State) (g : Grant) : Evolves s (runX s g) := by
  unfold runX
  extract_lets +onlyGivenNames x0
  try clear_value x0
  refine .upd_all ?_ rfl rfl
  with_reducible exact .refl _

theorem evolves_admitOne {s : State} {j : Nat} {x : Job} {aux : Bool} {z : Seat} {n : Nat} {t : State}
    (h : admitOne s j x aux z n = some t) : Evolves s t := by
  unfold admitOne at h
  split at h
  · cases h
  · split at h
    · cases h
    · extract_lets g c at h
      split at h
      · cases h
      · split at h
        · cases h
        · next hs =>
          extract_lets s2 s3 s4 at h
          have h1 := (evolves_addWork ..).trans (evolves_seatOn hs)
          have h2 : Evolves s s2 := (h1.trans (evolves_chargeX ..)).trans (evolves_runX ..)
          have h3 : Evolves s s3 := .ite h2 (h2.trans (evolves_modStep ..))
          have h4 : Evolves s s4 := h3.trans (evolves_probeStamp ..)
          injection h with h; subst h
          exact .ite (h4.trans (evolves_inc ..)) h4

theorem evolves_admitAll {j : Nat} {x : Job} {aux : Bool} {l : List (Seat × Nat)} {s t : State}
    (h : admitAll j x aux l s = some t) : Evolves s t := by
  induction l generalizing s with
  | nil => simp only [admitAll, Option.some.injEq] at h; subst h; exact .refl _
  | cons p ps ih =>
    simp only [admitAll] at h
    split at h
    · next h1 => exact (evolves_admitOne h1).trans (ih h)
    · cases h

theorem evolves_deferX (s : State) (j k : Nat) : Evolves s (deferX s j k) := by
  unfold deferX
  split
  all_goals first
    | (with_reducible refine .ite ?_ ?_
       · with_reducible exact .refl _
       · refine .trans ?_ (by with_reducible apply evolves_pmu)
         refine .trans ?_ (by with_reducible apply evolves_setEvt)
         refine .trans ?_ (by with_reducible apply evolves_inc)
         with_reducible apply evolves_modStep)
    | with_reducible exact .refl _

theorem evolves_admitX (s : State) (r : XReq) : Evolves s (admitX s r) := by
  unfold admitX
  split
  all_goals first
    | with_reducible exact .refl _
    | (extract_lets +onlyGivenNames x0
       try clear_value x0
       extract_lets +onlyGivenNames x1
       try clear_value x1
       with_reducible refine .ite ?_ ?_
       · with_reducible refine .foldl (fun st2 _ => ?_) _ _ _ ?_
         · with_reducible apply evolves_failStep
         · with_reducible exact .refl _
       · split
         all_goals first
           | (refine .trans ?_ (by with_reducible apply evolves_readJob)
              with_reducible exact (evolves_admitAll (by assumption)))
           | (with_reducible refine .ite ?_ ?_
              · with_reducible exact .refl _
              · with_reducible refine .foldl (fun st3 _ => ?_) _ _ _ ?_
                · with_reducible apply evolves_deferX
                · with_reducible exact .refl _))

theorem evolves_admitNew (s : State) : Evolves s (admitNew s) := by
  unfold admitNew
  with_reducible refine .ite ?_ ?_
  · with_reducible refine .foldl (fun st0 _ => ?_) _ _ _ ?_
    · split
      all_goals first
        | (with_reducible refine .ite ?_ ?_
           · extract_lets +onlyGivenNames x1
             have hx1 : Evolves st0 x1 := by
               unfold x1
               with_reducible apply evolves_admitX
             try clear_value x1
             with_reducible refine .foldl (fun st2 _ => ?_) _ _ _ ?_
             · with_reducible apply evolves_admitX
             · with_reducible exact hx1
           · with_reducible exact .refl _)
        | with_reducible exact .refl _
    · with_reducible exact .refl _
  · with_reducible exact .refl _

theorem evolves_admitStanding (s : State) : Evolves s (admitStanding s) := by
  unfold admitStanding
  with_reducible refine .ite ?_ ?_
  · with_reducible refine .foldl (fun st0 _ => ?_) _ _ _ ?_
    · with_reducible apply evolves_admitX
    · with_reducible exact .refl _
  · with_reducible exact .refl _

theorem evolves_loadReserve (s : State) (mgr : Nat) : Evolves s (loadReserve s mgr) := by
  unfold loadReserve
  extract_lets +onlyGivenNames x0
  try clear_value x0
  extract_lets +onlyGivenNames x1
  try clear_value x1
  extract_lets +onlyGivenNames x2
  try clear_value x2
  extract_lets +onlyGivenNames x3
  try clear_value x3
  refine .trans ?_ (by with_reducible apply evolves_wr)
  refine .upd_all ?_ rfl rfl
  with_reducible exact .refl _

theorem evolves_countBlocks (s : State) (g op n : Nat) : Evolves s (countBlocks s g op n) := by
  unfold countBlocks
  extract_lets +onlyGivenNames x0
  try clear_value x0
  extract_lets +onlyGivenNames x1
  have hx1 : Evolves s x1 := by
    unfold x1
    with_reducible refine .ite ?_ ?_
    · with_reducible apply evolves_incBy
    · with_reducible refine .ite ?_ ?_
      · with_reducible apply evolves_incBy
      · with_reducible apply evolves_incBy
  try clear_value x1
  refine .trans ?_ (by with_reducible apply evolves_pmu)
  with_reducible exact hx1

theorem evolves_countAux (s : State) (a op n : Nat) : Evolves s (countAux s a op n) := by
  unfold countAux
  split
  all_goals first
    | (with_reducible refine .ite ?_ ?_
       · with_reducible apply evolves_incBy
       · with_reducible apply evolves_incBy)
    | with_reducible exact .refl _

theorem evolves_countWork (s : State) (j k w : Nat) : Evolves s (countWork s j k w) := by
  unfold countWork
  split
  all_goals first
    | (extract_lets +onlyGivenNames x0
       try clear_value x0
       extract_lets +onlyGivenNames x1
       try clear_value x1
       extract_lets +onlyGivenNames x2
       try clear_value x2
       extract_lets +onlyGivenNames x3
       try clear_value x3
       extract_lets +onlyGivenNames x4
       have hx4 : Evolves s x4 := by
         unfold x4
         split
         all_goals first
           | with_reducible exact .refl _
           | (with_reducible refine .ite ?_ ?_
              · extract_lets +onlyGivenNames x5
                try clear_value x5
                extract_lets +onlyGivenNames x6
                try clear_value x6
                refine .trans ?_ (by with_reducible apply evolves_modStep)
                refine .trans ?_ (by with_reducible apply evolves_pmu)
                refine .trans ?_ (by with_reducible apply evolves_incBy)
                with_reducible apply evolves_incBy
              · with_reducible refine .ite ?_ ?_
                · with_reducible apply evolves_countBlocks
                · with_reducible refine .ite ?_ ?_
                  · refine .trans ?_ (by with_reducible apply evolves_pmu)
                    with_reducible apply evolves_incBy
                  · with_reducible exact .refl _)
       try clear_value x4
       refine .trans ?_ (by with_reducible apply evolves_modStep)
       with_reducible exact hx4)
    | with_reducible exact .refl _

theorem evolves_countEmmer (s : State) (j k w : Nat) : Evolves s (countEmmer s j k w) := by
  unfold countEmmer
  split
  all_goals first
    | (split
       all_goals first
         | (with_reducible refine .ite ?_ ?_
            · refine .trans ?_ (by with_reducible apply evolves_modStep)
              with_reducible apply evolves_countAux
            · with_reducible exact .refl _)
         | with_reducible exact .refl _)
    | with_reducible exact .refl _

theorem evolves_countAll (s : State) : Evolves s (countAll s) := by
  unfold countAll
  with_reducible refine .foldl (fun st0 _ => ?_) _ _ _ ?_
  · with_reducible refine .foldl (fun st1 _ => ?_) _ _ _ ?_
    · split
      all_goals first
        | (with_reducible refine .ite ?_ ?_
           · refine .trans ?_ (by with_reducible apply evolves_countEmmer)
             with_reducible apply evolves_countWork
           · with_reducible exact .refl _)
        | with_reducible exact .refl _
    · with_reducible exact .refl _
  · with_reducible exact .refl _

theorem evolves_endQuanta (s : State) : Evolves s (endQuanta s) := by
  unfold endQuanta
  extract_lets +onlyGivenNames x0
  try clear_value x0
  extract_lets +onlyGivenNames x1
  try clear_value x1
  refine .trans ?_ (by with_reducible apply evolves_countAll)
  refine .upd_all ?_ rfl rfl
  with_reducible exact .refl _

theorem evolves_saveMessages (s : State) : Evolves s (saveMessages s) := by
  unfold saveMessages
  extract_lets +onlyGivenNames x0
  try clear_value x0
  extract_lets +onlyGivenNames x1
  try clear_value x1
  extract_lets +onlyGivenNames x2
  have hx2 : Evolves s x2 := by
    unfold x2
    refine .upd_all ?_ rfl rfl
    with_reducible exact .refl _
  try clear_value x2
  with_reducible refine .foldl (fun st3 _ => ?_) _ _ _ ?_
  · with_reducible refine .foldl (fun st4 _ => ?_) _ _ _ ?_
    · with_reducible apply evolves_modStep
    · with_reducible exact .refl _
  · with_reducible exact hx2

theorem evolves_pauseBanks (s : State) : Evolves s (pauseBanks s) := by
  unfold pauseBanks
  with_reducible refine .foldl (fun st0 _ => ?_) _ _ _ ?_
  · extract_lets +onlyGivenNames x1
    try clear_value x1
    with_reducible refine .ite ?_ ?_
    · with_reducible exact .refl _
    · with_reducible apply evolves_pauseBank
  · with_reducible exact .refl _

theorem evolves_endAborting (s : State) : Evolves s (endAborting s) := by
  unfold endAborting
  with_reducible refine .foldl (fun st0 _ => ?_) _ _ _ ?_
  · split
    all_goals first
      | (with_reducible refine .ite ?_ ?_
         · refine .trans ?_ (by with_reducible apply evolves_freeJob)
           with_reducible apply evolves_abortJob
         · with_reducible refine .ite ?_ ?_
           · with_reducible apply evolves_abortJob
           · with_reducible exact .refl _)
      | with_reducible exact .refl _
  · with_reducible exact .refl _

theorem evolves_endWaiting (s : State) : Evolves s (endWaiting s) := by
  unfold endWaiting
  with_reducible refine .foldl (fun st0 _ => ?_) _ _ _ ?_
  · split
    all_goals first
      | (with_reducible refine .ite ?_ ?_
         · with_reducible apply evolves_abortJob
         · with_reducible exact .refl _)
      | with_reducible exact .refl _
  · with_reducible exact .refl _

theorem evolves_endRevoked (s : State) : Evolves s (endRevoked s) := by
  unfold endRevoked
  extract_lets +onlyGivenNames x0
  try clear_value x0
  with_reducible refine .foldl (fun st1 _ => ?_) _ _ _ ?_
  · with_reducible refine .foldl (fun st2 _ => ?_) _ _ _ ?_
    · split
      all_goals first
        | (with_reducible refine .ite ?_ ?_
           · with_reducible apply evolves_failStep
           · with_reducible exact .refl _)
        | with_reducible exact .refl _
    · with_reducible exact .refl _
  · with_reducible exact .refl _

theorem evolves_seatGranted (s : State) (g : Grant) : Evolves s (seatGranted s g) := by
  unfold seatGranted
  split
  all_goals first
    | (refine .trans ?_ (by with_reducible apply evolves_probeStamp)
       refine .trans ?_ (by with_reducible apply evolves_readJob)
       with_reducible exact (evolves_seatOn (by assumption)))
    | (refine .trans ?_ (by with_reducible apply evolves_noteNoCtx)
       with_reducible apply evolves_ungrant)

theorem evolves_applyGrants (s : State) (gs : List Grant) : Evolves s (applyGrants s gs) := by
  unfold applyGrants
  extract_lets +onlyGivenNames x0
  try clear_value x0
  extract_lets +onlyGivenNames x1
  try clear_value x1
  extract_lets +onlyGivenNames x2
  have hx2 : Evolves s x2 := by
    unfold x2
    refine .upd_all ?_ rfl rfl
    with_reducible exact .refl _
  try clear_value x2
  with_reducible refine .foldl (fun st3 _ => ?_) _ _ _ ?_
  · with_reducible apply evolves_seatGranted
  · with_reducible refine .foldl (fun st4 _ => ?_) _ _ _ ?_
    · with_reducible apply evolves_addWork
    · with_reducible exact hx2

theorem evolves_showBooks (s : State) : Evolves s (showBooks s) := by
  unfold showBooks
  extract_lets +onlyGivenNames x0
  try clear_value x0
  extract_lets +onlyGivenNames x1
  try clear_value x1
  extract_lets +onlyGivenNames x2
  try clear_value x2
  extract_lets +onlyGivenNames x3
  have hx3 : Evolves s x3 := by
    unfold x3
    with_reducible refine .ite ?_ ?_
    · with_reducible exact .refl _
    · refine .trans ?_ (by with_reducible apply evolves_wr)
      refine .trans ?_ (by with_reducible apply evolves_wr)
      refine .trans ?_ (by with_reducible apply evolves_wr)
      refine .trans ?_ (by with_reducible apply evolves_wr)
      refine .trans ?_ (by with_reducible apply evolves_wr)
      refine .trans ?_ (by with_reducible apply evolves_wr)
      with_reducible apply evolves_wr
  try clear_value x3
  extract_lets +onlyGivenNames x4
  try clear_value x4
  extract_lets +onlyGivenNames x5
  try clear_value x5
  extract_lets +onlyGivenNames x6
  have hx6 : Evolves s x6 := by
    unfold x6
    refine .trans ?_ (by with_reducible apply evolves_wr)
    refine .trans ?_ (by with_reducible apply evolves_wr)
    with_reducible exact hx3
  try clear_value x6
  extract_lets +onlyGivenNames x7
  have hx7 : Evolves s x7 := by
    unfold x7
    refine .trans ?_ (by with_reducible apply evolves_wr)
    refine .trans ?_ (by with_reducible apply evolves_wr)
    refine .trans ?_ (by with_reducible apply evolves_wr)
    with_reducible exact hx6
  try clear_value x7
  extract_lets +onlyGivenNames x8
  have hx8 : Evolves s x8 := by
    unfold x8
    with_reducible refine .ite ?_ ?_
    · refine .trans ?_ (by with_reducible apply evolves_setEvt)
      with_reducible exact hx7
    · with_reducible exact hx7
  try clear_value x8
  extract_lets +onlyGivenNames x9
  have hx9 : Evolves s x9 := by
    unfold x9
    with_reducible refine .ite ?_ ?_
    · refine .trans ?_ (by with_reducible apply evolves_pmu)
      refine .trans ?_ (by with_reducible apply evolves_inc)
      with_reducible exact hx8
    · with_reducible exact hx8
  try clear_value x9
  extract_lets +onlyGivenNames x10
  have hx10 : Evolves s x10 := by
    unfold x10
    with_reducible refine .ite ?_ ?_
    · refine .trans ?_ (by with_reducible apply evolves_inc)
      with_reducible exact hx9
    · with_reducible exact hx9
  try clear_value x10
  with_reducible refine .ite ?_ ?_
  · refine .trans ?_ (by with_reducible apply evolves_setEvt)
    refine .upd_all ?_ rfl rfl
    with_reducible exact hx10
  · with_reducible exact hx10

theorem evolves_endStop (s : State) : Evolves s (endStop s) := by
  unfold endStop
  with_reducible refine .ite ?_ ?_
  · extract_lets +onlyGivenNames x0
    try clear_value x0
    extract_lets +onlyGivenNames x1
    have hx1 : Evolves s x1 := by
      unfold x1
      refine .trans ?_ (by with_reducible apply evolves_setEvt)
      refine .trans ?_ (by with_reducible apply evolves_wr)
      refine .upd_all ?_ rfl rfl
      with_reducible exact .refl _
    try clear_value x1
    refine .trans ?_ (by with_reducible apply evolves_setSrc)
    with_reducible exact hx1
  · with_reducible exact .refl _

theorem evolves_takePlan (s : State) : Evolves s (takePlan s) := by
  unfold takePlan
  extract_lets +onlyGivenNames x0
  have hx0 : Evolves s x0 := by
    unfold x0
    with_reducible refine .ite ?_ ?_
    · with_reducible apply evolves_showBooks
    · with_reducible exact .refl _
  try clear_value x0
  extract_lets +onlyGivenNames x1
  try clear_value x1
  extract_lets +onlyGivenNames x2
  have hx2 : Evolves s x2 := by
    unfold x2
    with_reducible refine .ite ?_ ?_
    · with_reducible exact hx0
    · refine .trans ?_ (by with_reducible apply evolves_applyGrants)
      refine .trans ?_ (by with_reducible apply evolves_pmu)
      refine .trans ?_ (by with_reducible apply evolves_incBy)
      with_reducible exact hx0
  try clear_value x2
  refine .upd_all ?_ rfl rfl
  with_reducible exact hx2

theorem evolves_adoptRealm (s : State) (r : Nat) : Evolves s (adoptRealm s r) := by
  unfold adoptRealm
  extract_lets +onlyGivenNames x0
  try clear_value x0
  extract_lets +onlyGivenNames x1
  try clear_value x1
  refine .upd_all ?_ rfl rfl
  with_reducible exact .refl _

theorem evolves_adoptLimits (s : State) : Evolves s (adoptLimits s) := by
  unfold adoptLimits
  with_reducible refine .foldl (fun st0 _ => ?_) _ _ _ ?_
  · with_reducible apply evolves_adoptRealm
  · with_reducible exact .refl _

theorem evolves_tickGates (s : State) : Evolves s (tickGates s) := by
  unfold tickGates
  refine .upd_all ?_ rfl rfl
  with_reducible exact .refl _

theorem evolves_openTick (s : State) (mgr : Nat) : Evolves s (openTick s mgr) := by
  unfold openTick
  refine .trans ?_ (by with_reducible apply evolves_takePlan)
  refine .trans ?_ (by with_reducible apply evolves_admitStanding)
  with_reducible apply evolves_loadReserve

theorem evolves_tickFx (s : State) : Evolves s (tickFx s) := by
  unfold tickFx
  extract_lets +onlyGivenNames x0
  have hx0 : Evolves s x0 := by
    unfold x0
    refine .trans ?_ (by with_reducible apply evolves_inc)
    with_reducible apply evolves_admitNew
  try clear_value x0
  extract_lets +onlyGivenNames x1
  have hx1 : Evolves s x1 := by
    unfold x1
    refine .upd_all ?_ rfl rfl
    with_reducible exact hx0
  try clear_value x1
  extract_lets +onlyGivenNames x2
  have hx2 : Evolves s x2 := by
    unfold x2
    refine .trans ?_ (by with_reducible apply evolves_pauseBanks)
    refine .trans ?_ (by with_reducible apply evolves_saveMessages)
    refine .trans ?_ (by with_reducible apply evolves_endQuanta)
    with_reducible exact hx1
  try clear_value x2
  extract_lets +onlyGivenNames x3
  have hx3 : Evolves s x3 := by
    unfold x3
    refine .trans ?_ (by with_reducible apply evolves_endStop)
    refine .trans ?_ (by with_reducible apply evolves_endRevoked)
    refine .trans ?_ (by with_reducible apply evolves_endAborting)
    with_reducible exact hx2
  try clear_value x3
  extract_lets +onlyGivenNames x4
  have hx4 : Evolves s x4 := by
    unfold x4
    refine .trans ?_ (by with_reducible apply evolves_starveTick)
    with_reducible refine .foldl (fun st5 _ => ?_) _ _ _ ?_
    · with_reducible apply evolves_laneBoundary
    · with_reducible exact hx3
  try clear_value x4
  extract_lets +onlyGivenNames x6
  try clear_value x6
  extract_lets +onlyGivenNames x7
  try clear_value x7
  extract_lets +onlyGivenNames x8
  have hx8 : Evolves s x8 := by
    unfold x8
    with_reducible refine .ite ?_ ?_
    · refine .upd_all ?_ rfl rfl
      with_reducible exact hx4
    · refine .trans ?_ (by with_reducible apply evolves_openTick)
      with_reducible exact hx4
  try clear_value x8
  refine .trans ?_ (by with_reducible apply evolves_adoptLimits)
  refine .trans ?_ (by with_reducible apply evolves_tickGates)
  with_reducible exact hx8

theorem evolves_planFx (s : State) (rs : List SensorReading) : Evolves s (planFx s rs) := by
  unfold planFx
  with_reducible refine .ite ?_ ?_
  · extract_lets +onlyGivenNames x0
    try clear_value x0
    extract_lets +onlyGivenNames x1
    have hx1 : Evolves s x1 := by
      unfold x1
      refine .trans ?_ (by with_reducible apply evolves_takePlan)
      refine .trans ?_ (by with_reducible apply evolves_bookPlan)
      refine .upd_all ?_ rfl rfl
      with_reducible exact .refl _
    try clear_value x1
    refine .upd_all ?_ rfl rfl
    with_reducible exact hx1
  · extract_lets +onlyGivenNames x2
    have hx2 : Evolves s x2 := by
      unfold x2
      refine .trans ?_ (by with_reducible apply evolves_drawSeeds)
      with_reducible apply evolves_heatFx
    try clear_value x2
    with_reducible refine .ite ?_ ?_
    · refine .upd_all ?_ rfl rfl
      with_reducible exact hx2
    · refine .trans ?_ (by with_reducible apply evolves_bookPlan)
      with_reducible exact hx2

theorem evolves_gateTimeoutFx (s : State) (g : Nat) : Evolves s (gateTimeoutFx s g) := by
  unfold gateTimeoutFx
  split
  all_goals first
    | (with_reducible refine .ite ?_ ?_
       · refine .trans ?_ (by with_reducible apply evolves_failStep)
         with_reducible apply evolves_killGate
       · with_reducible exact .refl _)
    | with_reducible exact .refl _

theorem evolves_overrideFx (s : State) (src v : Nat) : Evolves s (overrideFx s src v) := by
  unfold overrideFx
  extract_lets +onlyGivenNames x0
  try clear_value x0
  extract_lets +onlyGivenNames x1
  try clear_value x1
  with_reducible refine .ite ?_ ?_
  · with_reducible apply evolves_wr
  · with_reducible refine .ite ?_ ?_
    · with_reducible apply evolves_writeIgnored
    · with_reducible apply evolves_wr

end Sys2Proof.Machine
end

