-- ==== Sys2Proof/Laws/RingCmds.lean ====
section
/-! SUPPORT. What no operation of Machine/RingCmds.lean can do (Laws/Evolves.lean), one lemma for each. -/

namespace Sys2Proof.Machine

theorem evolves_sqEnableFx (s : State) (q : Nat) : Evolves s (sqEnableFx s q) := by
  unfold sqEnableFx
  extract_lets +onlyGivenNames x0
  try clear_value x0
  extract_lets +onlyGivenNames x1
  have hx1 : Evolves s x1 := by
    unfold x1
    with_reducible apply evolves_wr
  try clear_value x1
  with_reducible refine .ite ?_ ?_
  · refine .trans ?_ (by with_reducible apply evolves_setEvt)
    refine .trans ?_ (by with_reducible apply evolves_wr)
    with_reducible exact hx1
  · extract_lets +onlyGivenNames x2
    try clear_value x2
    extract_lets +onlyGivenNames x3
    have hx3 : Evolves s x3 := by
      unfold x3
      refine .trans ?_ (by with_reducible apply evolves_wr)
      refine .trans ?_ (by with_reducible apply evolves_wr)
      refine .trans ?_ (by with_reducible apply evolves_wr)
      with_reducible exact hx1
    try clear_value x3
    extract_lets +onlyGivenNames x4
    have hx4 : Evolves s x4 := by
      unfold x4
      refine .trans ?_ (by with_reducible apply evolves_wr)
      refine .trans ?_ (by with_reducible apply evolves_wr)
      refine .trans ?_ (by with_reducible apply evolves_wr)
      with_reducible exact hx3
    try clear_value x4
    refine .trans ?_ (by with_reducible apply evolves_setSqx)
    refine .trans ?_ (by with_reducible apply evolves_wr)
    refine .trans ?_ (by with_reducible apply evolves_wr)
    with_reducible exact hx4

theorem evolves_sqDrainFx (s : State) (q : Nat) : Evolves s (sqDrainFx s q) := by
  unfold sqDrainFx
  extract_lets +onlyGivenNames x0
  have hx0 : Evolves s x0 := by
    unfold x0
    refine .trans ?_ (by with_reducible apply evolves_wr)
    refine .trans ?_ (by with_reducible apply evolves_wr)
    with_reducible apply evolves_wr
  try clear_value x0
  extract_lets +onlyGivenNames x1
  have hx1 : Evolves s x1 := by
    unfold x1
    refine .trans ?_ (by with_reducible apply evolves_modSqx)
    refine .trans ?_ (by with_reducible apply evolves_closeBatch)
    with_reducible exact hx0
  try clear_value x1
  extract_lets +onlyGivenNames x2
  try clear_value x2
  extract_lets +onlyGivenNames x3
  try clear_value x3
  extract_lets +onlyGivenNames x4
  have hx4 : Evolves s x4 := by
    unfold x4
    refine .upd_all ?_ rfl rfl
    with_reducible exact hx1
  try clear_value x4
  extract_lets +onlyGivenNames x5
  have hx5 : Evolves s x5 := by
    unfold x5
    with_reducible refine .foldl (fun st6 _ => ?_) _ _ _ ?_
    · with_reducible apply evolves_finishEntry
    · with_reducible exact hx4
  try clear_value x5
  extract_lets +onlyGivenNames x7
  have hx7 : Evolves s x7 := by
    unfold x7
    refine .upd_all ?_ rfl rfl
    with_reducible exact hx5
  try clear_value x7
  refine .trans ?_ (by with_reducible apply evolves_endWaiting)
  refine .trans ?_ (by with_reducible apply evolves_settleAll)
  refine .trans ?_ (by with_reducible apply evolves_abortForwarded)
  with_reducible exact hx7

theorem evolves_sqResumeFx (s : State) (q : Nat) : Evolves s (sqResumeFx s q) := by
  unfold sqResumeFx
  with_reducible refine .ite ?_ ?_
  · with_reducible exact .refl _
  · with_reducible refine .ite ?_ ?_
    · with_reducible apply evolves_wr
    · extract_lets +onlyGivenNames x0
      have hx0 : Evolves s x0 := by
        unfold x0
        refine .trans ?_ (by with_reducible apply evolves_settleAll)
        with_reducible apply evolves_modSqx
      try clear_value x0
      extract_lets +onlyGivenNames x1
      try clear_value x1
      extract_lets +onlyGivenNames x2
      try clear_value x2
      extract_lets +onlyGivenNames x3
      try clear_value x3
      extract_lets +onlyGivenNames x4
      try clear_value x4
      extract_lets +onlyGivenNames x5
      try clear_value x5
      with_reducible refine .ite ?_ ?_
      · refine .trans ?_ (by with_reducible apply evolves_wr)
        with_reducible exact hx0
      · extract_lets +onlyGivenNames x6
        have hx6 : Evolves s x6 := by
          unfold x6
          refine .trans ?_ (by with_reducible apply evolves_wr)
          refine .trans ?_ (by with_reducible apply evolves_wr)
          refine .trans ?_ (by with_reducible apply evolves_wr)
          with_reducible exact hx0
        try clear_value x6
        extract_lets +onlyGivenNames x7
        have hx7 : Evolves s x7 := by
          unfold x7
          refine .trans ?_ (by with_reducible apply evolves_wr)
          refine .trans ?_ (by with_reducible apply evolves_wr)
          with_reducible exact hx6
        try clear_value x7
        extract_lets +onlyGivenNames x8
        try clear_value x8
        extract_lets +onlyGivenNames x9
        try clear_value x9
        extract_lets +onlyGivenNames x10
        have hx10 : Evolves s x10 := by
          unfold x10
          refine .trans ?_ (by with_reducible apply evolves_modSqx)
          refine .upd_all ?_ rfl rfl
          with_reducible exact hx7
        try clear_value x10
        refine .trans ?_ (by with_reducible apply evolves_settleAll)
        with_reducible exact hx10

theorem evolves_sqCtlFx (s : State) (q v : Nat) : Evolves s (sqCtlFx s q v) := by
  unfold sqCtlFx
  extract_lets +onlyGivenNames x0
  try clear_value x0
  extract_lets +onlyGivenNames x1
  have hx1 : Evolves s x1 := by
    unfold x1
    with_reducible apply evolves_wr
  try clear_value x1
  extract_lets +onlyGivenNames x2
  try clear_value x2
  with_reducible refine .ite ?_ ?_
  · with_reducible refine .ite ?_ ?_
    · refine .trans ?_ (by with_reducible apply evolves_sqEnableFx)
      with_reducible exact hx1
    · with_reducible refine .ite ?_ ?_
      · refine .trans ?_ (by with_reducible apply evolves_sqResumeFx)
        with_reducible exact hx1
      · with_reducible exact hx1
  · with_reducible refine .ite ?_ ?_
    · refine .trans ?_ (by with_reducible apply evolves_sqDrainFx)
      with_reducible exact hx1
    · with_reducible exact hx1

theorem evolves_sqDrainDoneFx (s : State) (q : Nat) : Evolves s (sqDrainDoneFx s q) := by
  unfold sqDrainDoneFx
  extract_lets +onlyGivenNames x0
  have hx0 : Evolves s x0 := by
    unfold x0
    with_reducible apply evolves_wr
  try clear_value x0
  with_reducible refine .ite ?_ ?_
  · refine .trans ?_ (by with_reducible apply evolves_setUstate)
    with_reducible exact hx0
  · with_reducible exact hx0

theorem evolves_cqEnableFx (s : State) (c : Nat) : Evolves s (cqEnableFx s c) := by
  unfold cqEnableFx
  extract_lets +onlyGivenNames x0
  try clear_value x0
  extract_lets +onlyGivenNames x1
  have hx1 : Evolves s x1 := by
    unfold x1
    with_reducible apply evolves_wr
  try clear_value x1
  with_reducible refine .ite ?_ ?_
  · refine .trans ?_ (by with_reducible apply evolves_setEvt)
    refine .trans ?_ (by with_reducible apply evolves_wr)
    with_reducible exact hx1
  · extract_lets +onlyGivenNames x2
    have hx2 : Evolves s x2 := by
      unfold x2
      refine .trans ?_ (by with_reducible apply evolves_wr)
      refine .trans ?_ (by with_reducible apply evolves_wr)
      refine .trans ?_ (by with_reducible apply evolves_wr)
      with_reducible exact hx1
    try clear_value x2
    refine .upd_all ?_ rfl rfl
    with_reducible exact hx2

theorem evolves_cqDisableFx (s : State) (c : Nat) : Evolves s (cqDisableFx s c) := by
  unfold cqDisableFx
  with_reducible refine .ite ?_ ?_
  · extract_lets +onlyGivenNames x0
    have hx0 : Evolves s x0 := by
      unfold x0
      refine .trans ?_ (by with_reducible apply evolves_wr)
      refine .trans ?_ (by with_reducible apply evolves_wr)
      with_reducible apply evolves_wr
    try clear_value x0
    refine .upd_all ?_ rfl rfl
    with_reducible exact hx0
  · with_reducible apply evolves_wr

theorem evolves_cqCtlFx (s : State) (c v : Nat) : Evolves s (cqCtlFx s c v) := by
  unfold cqCtlFx
  with_reducible refine .ite ?_ ?_
  · with_reducible refine .ite ?_ ?_
    · with_reducible apply evolves_cqEnableFx
    · with_reducible exact .refl _
  · with_reducible refine .ite ?_ ?_
    · with_reducible exact .refl _
    · with_reducible apply evolves_cqDisableFx

theorem evolves_sqStore (s : State) (src q off v : Nat) : Evolves s (sqStore s src q off v) := by
  unfold sqStore
  with_reducible refine .ite ?_ ?_
  · with_reducible apply evolves_sqCtlFx
  · with_reducible apply evolves_storeWord

theorem evolves_cqStore (s : State) (src c off v : Nat) : Evolves s (cqStore s src c off v) := by
  unfold cqStore
  with_reducible refine .ite ?_ ?_
  · with_reducible apply evolves_cqCtlFx
  · with_reducible apply evolves_storeWord

theorem evolves_vecCtlFx (s : State) (v : Nat) : Evolves s (vecCtlFx s v) := by
  unfold vecCtlFx
  extract_lets +onlyGivenNames x0
  try clear_value x0
  extract_lets +onlyGivenNames x1
  try clear_value x1
  refine .trans ?_ (by with_reducible apply evolves_sendPending)
  with_reducible apply evolves_setVec

theorem evolves_vecWordFx (s : State) (off v : Nat) : Evolves s (vecWordFx s off v) := by
  unfold vecWordFx
  extract_lets +onlyGivenNames x0
  try clear_value x0
  extract_lets +onlyGivenNames x1
  try clear_value x1
  with_reducible apply evolves_setVec

theorem evolves_stwSizeFx (s : State) (src n v : Nat) : Evolves s (stwSizeFx s src n v) := by
  unfold stwSizeFx
  extract_lets +onlyGivenNames x0
  try clear_value x0
  extract_lets +onlyGivenNames x1
  try clear_value x1
  extract_lets +onlyGivenNames x2
  try clear_value x2
  extract_lets +onlyGivenNames x3
  try clear_value x3
  extract_lets +onlyGivenNames x4
  try clear_value x4
  extract_lets +onlyGivenNames x5
  extract_lets +onlyGivenNames x6
  have hx6 : Evolves s x6 := by
    unfold x6
    with_reducible apply evolves_wr
  try clear_value x6
  with_reducible refine .ite ?_ ?_
  · try unfold x5
    with_reducible apply evolves_writeIgnored
  · with_reducible refine .ite ?_ ?_
    · try unfold x5
      refine .trans ?_ (by with_reducible apply evolves_writeIgnored)
      with_reducible exact hx6
    · with_reducible refine .ite ?_ ?_
      · try unfold x5
        refine .trans ?_ (by with_reducible apply evolves_writeIgnored)
        with_reducible exact hx6
      · refine .trans ?_ (by with_reducible apply evolves_wr)
        with_reducible exact hx6

theorem evolves_rchStore (s : State) (src off v : Nat) : Evolves s (rchStore s src off v) := by
  unfold rchStore
  with_reducible refine .ite ?_ ?_
  · with_reducible apply evolves_vecCtlFx
  · with_reducible refine .ite ?_ ?_
    · with_reducible apply evolves_vecWordFx
    · with_reducible refine .ite ?_ ?_
      · extract_lets +onlyGivenNames x0
        try clear_value x0
        with_reducible refine .ite ?_ ?_
        · with_reducible apply evolves_stwSizeFx
        · with_reducible refine .ite ?_ ?_
          · with_reducible exact .refl _
          · with_reducible apply evolves_storePage
      · with_reducible apply evolves_storePage

theorem evolves_presentCompl (s : State) (c : Compl) : Evolves s (presentCompl s c) := by
  unfold presentCompl
  extract_lets +onlyGivenNames x0
  try clear_value x0
  with_reducible apply evolves_postCompls

end Sys2Proof.Machine
end

