-- ==== Sys2Proof/Laws/Granary.lean ====
section
/-! SUPPORT. What no operation of Machine/Granary.lean can do (Laws/Evolves.lean), one lemma for each. -/

namespace Sys2Proof.Machine

/-- A row write keeps the medium's canonical form. -/
theorem RowsOk.write {m : SMap Row} (n : Nat) (r : Row) (h : RowsOk m) :
    RowsOk (if r = erasedRow then SMap.erase m n else SMap.set m n r) := by
  split
  · exact ⟨SMap.wf_erase n h.1, fun p hp => h.2 p (SMap.mem_erase hp)⟩
  · next hr =>
    refine ⟨SMap.wf_set n r h.1, fun p hp => ?_⟩
    rcases SMap.mem_set hp with rfl | hp
    · exact hr
    · exact h.2 p hp

theorem evolves_setRow (s : State) (n : Nat) (r : Row) : Evolves s (setRow s n r) :=
  ⟨rfl, rfl, Nat.le_refl _, Nat.le_refl _, id, RowsOk.write n r, id, OtpKept.refl _⟩

theorem evolves_tearRow (s : State) (n mask : Nat) (data : Bytes) : Evolves s (tearRow s n mask data) := by
  unfold tearRow
  extract_lets +onlyGivenNames x0
  try clear_value x0
  extract_lets +onlyGivenNames x1
  try clear_value x1
  extract_lets +onlyGivenNames x2
  try clear_value x2
  extract_lets +onlyGivenNames x3
  try clear_value x3
  extract_lets +onlyGivenNames x4
  try clear_value x4
  refine .trans ?_ (by with_reducible apply evolves_setRow)
  refine .upd_freeCtr ?_ ?_
  · with_reducible exact .refl _
  · exact Nat.le_add_right _ _

theorem evolves_spoilRow (s : State) (n mask : Nat) : Evolves s (spoilRow s n mask) := by
  unfold spoilRow
  extract_lets +onlyGivenNames x0
  try clear_value x0
  extract_lets +onlyGivenNames x1
  try clear_value x1
  refine .trans ?_ (by with_reducible apply evolves_setRow)
  refine .upd_freeCtr ?_ ?_
  · with_reducible exact .refl _
  · exact Nat.le_add_right _ _

theorem evolves_noteFlagged (s : State) (n unit : Nat) : Evolves s (noteFlagged s n unit) := by
  unfold noteFlagged
  extract_lets +onlyGivenNames x0
  try clear_value x0
  with_reducible refine .ite ?_ ?_
  · with_reducible exact .refl _
  · refine .trans ?_ (by with_reducible apply evolves_chaff)
    with_reducible apply evolves_incBy

theorem evolves_setBusy (s : State) (b : Nat) (v : Bool) : Evolves s (setBusy s b v) := by
  unfold setBusy
  with_reducible apply evolves_wr

theorem evolves_setGrn (s : State) (g : Granary) (h : g.rows = s.grn.rows) : Evolves s (setGrn s g) :=
  .upd_all (.refl _) h rfl

theorem evolves_markRecs (s : State) (seqs : List Nat) (f : LogRec → LogRec) : Evolves s (markRecs s seqs f) := by
  unfold markRecs
  refine .trans ?_ (by with_reducible apply evolves_setGrn; rfl)
  with_reducible exact .refl _

theorem evolves_pumpBank (s : State) (b : Nat) : Evolves s (pumpBank s b) := by
  unfold pumpBank
  with_reducible refine .ite ?_ ?_
  · with_reducible exact .refl _
  · split
    all_goals first
      | with_reducible exact .refl _
      | (extract_lets +onlyGivenNames x0
         extract_lets +onlyGivenNames x1
         have hx1 : Evolves s x1 := by
           unfold x1
           refine .trans ?_ (by with_reducible apply evolves_setBusy)
           refine .trans ?_ (by with_reducible apply evolves_setGrn; rfl)
           with_reducible exact .refl _
         try clear_value x1
         split
         all_goals first
           | (refine .trans ?_ (by with_reducible apply evolves_markRecs)
              with_reducible exact hx1)
           | with_reducible exact hx1)

theorem evolves_queueProg (s : State) (p : Prog) : Evolves s (queueProg s p) := by
  unfold queueProg
  refine .trans ?_ (by with_reducible apply evolves_pumpBank)
  refine .trans ?_ (by with_reducible apply evolves_setGrn; rfl)
  with_reducible exact .refl _

theorem evolves_submitProg (s : State) (u : ProgUse) (n mask : Nat) (data : Bytes) (level : Nat) :
    Evolves s (submitProg s u n mask data level).1 := by
  unfold submitProg
  extract_lets
  split
  · exact evolves_queueProg ..
  · exact .refl _

theorem evolves_checkpoint (s : State) (pf : Bool) : Evolves s (checkpoint s pf) := by
  unfold checkpoint
  extract_lets +onlyGivenNames x0
  try clear_value x0
  extract_lets +onlyGivenNames x1
  with_reducible refine .ite ?_ ?_
  · refine .trans ?_ (by with_reducible apply evolves_setGrn; rfl)
    with_reducible apply evolves_submitProg
  · refine .trans ?_ (by with_reducible apply evolves_setGrn; rfl)
    with_reducible exact .refl _

theorem evolves_startFlush (s : State) (kind : Nat) : Evolves s (startFlush s kind) := by
  unfold startFlush
  extract_lets +onlyGivenNames x0
  try clear_value x0
  extract_lets +onlyGivenNames x1
  try clear_value x1
  extract_lets +onlyGivenNames x2
  try clear_value x2
  extract_lets +onlyGivenNames x3
  have hx3 : Evolves s x3 := by
    unfold x3
    with_reducible refine .ite ?_ ?_
    · with_reducible apply evolves_inc
    · with_reducible exact .refl _
  try clear_value x3
  refine .trans ?_ (by with_reducible apply evolves_wr)
  refine .trans ?_ (by with_reducible apply evolves_setGrn; rfl)
  with_reducible exact hx3

theorem evolves_flushRow (s : State) : Evolves s (flushRow s) := by
  unfold flushRow
  split
  all_goals first
    | with_reducible exact .refl _
    | (extract_lets +onlyGivenNames x0
       try clear_value x0
       extract_lets +onlyGivenNames x1
       try clear_value x1
       extract_lets +onlyGivenNames x2
       try clear_value x2
       with_reducible refine .ite ?_ ?_
       · with_reducible exact .refl _
       · extract_lets +onlyGivenNames x3
         try clear_value x3
         extract_lets +onlyGivenNames x4
         try clear_value x4
         extract_lets +onlyGivenNames x5
         try clear_value x5
         extract_lets +onlyGivenNames x6
         try clear_value x6
         extract_lets +onlyGivenNames x7
         with_reducible refine .ite ?_ ?_
         · refine .trans ?_ (by with_reducible apply evolves_setGrn; rfl)
           with_reducible apply evolves_submitProg
         · with_reducible exact .refl _)

theorem evolves_showSpares (s : State) : Evolves s (showSpares s) := by
  unfold showSpares
  extract_lets +onlyGivenNames x0
  try clear_value x0
  refine .trans ?_ (by with_reducible apply evolves_wr)
  with_reducible apply evolves_wr

theorem evolves_scanRemap (s : State) : Evolves s (scanRemap s) := by
  unfold scanRemap
  refine .trans ?_ (by with_reducible apply evolves_showSpares)
  with_reducible refine .foldl (fun st0 _ => ?_) _ _ _ ?_
  · split
    all_goals first
      | (refine .trans ?_ (by with_reducible apply evolves_setGrn; rfl)
         with_reducible exact .refl _)
      | with_reducible exact .refl _
  · refine .trans ?_ (by with_reducible apply evolves_setGrn; rfl)
    with_reducible exact .refl _

theorem evolves_progEnded (s : State) (u : ProgUse) (n e : Nat) : Evolves s (progEnded s u n e) := by
  unfold progEnded
  split
  all_goals first
    | (with_reducible refine .ite ?_ ?_
       · extract_lets +onlyGivenNames x0
         have hx0 : Evolves s x0 := by
           unfold x0
           with_reducible apply evolves_markRecs
         try clear_value x0
         refine .trans ?_ (by with_reducible apply evolves_setGrn; rfl)
         with_reducible exact hx0
       · with_reducible refine .ite ?_ ?_
         · extract_lets +onlyGivenNames x1
           have hx1 : Evolves s x1 := by
             unfold x1
             with_reducible apply evolves_markRecs
           try clear_value x1
           refine .trans ?_ (by with_reducible apply evolves_setGrn; rfl)
           with_reducible exact hx1
         · with_reducible apply evolves_markRecs)
    | (with_reducible refine .ite ?_ ?_
       · with_reducible refine .ite ?_ ?_
         · with_reducible apply evolves_checkpoint
         · refine .trans ?_ (by with_reducible apply evolves_setGrn; rfl)
           with_reducible exact .refl _
       · with_reducible refine .ite ?_ ?_
         · refine .trans ?_ (by with_reducible apply evolves_startFlush)
           refine .trans ?_ (by with_reducible apply evolves_setGrn; rfl)
           with_reducible exact .refl _
         · with_reducible exact .refl _)
    | (extract_lets +onlyGivenNames x2
       try clear_value x2
       with_reducible refine .ite ?_ ?_
       · refine .upd_all ?_ rfl rfl
         with_reducible exact .refl _
       · with_reducible refine .ite ?_ ?_
         · with_reducible exact .refl _
         · extract_lets +onlyGivenNames x3
           with_reducible refine .ite ?_ ?_
           · with_reducible apply evolves_submitProg
           · refine .upd_all ?_ rfl rfl
             with_reducible exact .refl _)
    | (with_reducible refine .ite ?_ ?_
       · with_reducible exact .refl _
       · refine .upd_all ?_ rfl rfl
         with_reducible exact .refl _)
    | with_reducible exact .refl _

theorem evolves_refuseWhere (s : State) (hit : Prog → Bool) (e : Nat) : Evolves s (refuseWhere s hit e) := by
  unfold refuseWhere
  extract_lets +onlyGivenNames x0
  try clear_value x0
  extract_lets +onlyGivenNames x1
  extract_lets +onlyGivenNames x2
  have hx2 : Evolves s x2 := by
    unfold x2
    refine .trans ?_ (by with_reducible apply evolves_setGrn; rfl)
    with_reducible exact .refl _
  try clear_value x2
  refine .trans ?_ (by with_reducible apply evolves_showSpares)
  with_reducible refine .foldl (fun st3 _ => ?_) _ _ _ ?_
  · with_reducible apply evolves_progEnded
  · with_reducible exact hx2

theorem evolves_sparesOut (s : State) (n : Nat) : Evolves s (sparesOut s n) := by
  unfold sparesOut
  extract_lets +onlyGivenNames x0
  have hx0 : Evolves s x0 := by
    unfold x0
    with_reducible apply evolves_wr
  try clear_value x0
  refine .trans ?_ (by with_reducible apply evolves_chaffAny)
  refine .trans ?_ (by with_reducible apply evolves_setEvt)
  with_reducible exact hx0

theorem evolves_startRetire (s : State) (u : ProgUse) (n : Nat) (data : Bytes) (att unit : Nat) (failed : Bool) (least : Nat) :
    Evolves s (startRetire s u n data att unit failed least) := by
  unfold startRetire
  extract_lets +onlyGivenNames x0
  try clear_value x0
  extract_lets +onlyGivenNames x1
  try clear_value x1
  with_reducible refine .ite ?_ ?_
  · extract_lets +onlyGivenNames x2
    have hx2 : Evolves s x2 := by
      unfold x2
      with_reducible apply evolves_sparesOut
    try clear_value x2
    with_reducible refine .ite ?_ ?_
    · refine .trans ?_ (by with_reducible apply evolves_progEnded)
      refine .trans ?_ (by with_reducible apply evolves_spoilRow)
      with_reducible exact hx2
    · with_reducible exact hx2
  · refine .trans ?_ (by with_reducible apply evolves_showSpares)
    with_reducible apply evolves_queueProg

theorem evolves_endRetire (s : State) (p : Prog) (row spare unit att : Nat) :
    Evolves s (endRetire s p row spare unit att) := by
  unfold endRetire
  extract_lets +onlyGivenNames x0
  try clear_value x0
  extract_lets +onlyGivenNames x1
  extract_lets +onlyGivenNames x2
  have hx2 : Evolves s x2 := by
    unfold x2
    refine .trans ?_ (by with_reducible apply evolves_setGrn; rfl)
    with_reducible exact .refl _
  try clear_value x2
  extract_lets +onlyGivenNames x3
  have hx3 : Evolves s x3 := by
    unfold x3
    refine .trans ?_ (by with_reducible apply evolves_setEvt)
    refine .trans ?_ (by with_reducible apply evolves_inc)
    refine .trans ?_ (by with_reducible apply evolves_wr)
    refine .trans ?_ (by with_reducible apply evolves_wr)
    with_reducible exact hx2
  try clear_value x3
  extract_lets +onlyGivenNames x4
  have hx4 : Evolves s x4 := by
    unfold x4
    refine .trans ?_ (by with_reducible apply evolves_chaff)
    with_reducible exact hx3
  try clear_value x4
  split
  all_goals first
    | (refine .trans ?_ (by with_reducible apply evolves_progEnded)
       with_reducible exact hx4)
    | with_reducible exact hx4

theorem evolves_retireStep (s : State) (p : Prog) (row spare entry stage unit att n : Nat) :
    Evolves s (retireStep s p row spare entry stage unit att n) := by
  unfold retireStep
  with_reducible refine .ite ?_ ?_
  · refine .trans ?_ (by with_reducible apply evolves_showSpares)
    split
    all_goals first
      | with_reducible apply evolves_progEnded
      | with_reducible exact .refl _
  · with_reducible refine .ite ?_ ?_
    · with_reducible refine .ite ?_ ?_
      · with_reducible apply evolves_startRetire
      · with_reducible apply evolves_queueProg
    · with_reducible refine .ite ?_ ?_
      · with_reducible apply evolves_queueProg
      · refine .trans ?_ (by with_reducible apply evolves_showSpares)
        with_reducible apply evolves_endRetire

theorem evolves_progVerified (s : State) (p : Prog) (n : Nat) : Evolves s (progVerified s p n) := by
  unfold progVerified
  extract_lets +onlyGivenNames x0
  try clear_value x0
  extract_lets +onlyGivenNames x1
  try clear_value x1
  extract_lets +onlyGivenNames x2
  have hx2 : Evolves s x2 := by
    unfold x2
    refine .trans ?_ (by with_reducible apply evolves_setRow)
    refine .trans ?_ (by with_reducible apply evolves_inc)
    with_reducible apply evolves_inc
  try clear_value x2
  split
  all_goals first
    | (refine .trans ?_ (by with_reducible apply evolves_retireStep)
       with_reducible exact hx2)
    | (extract_lets +onlyGivenNames x3
       have hx3 : Evolves s x3 := by
         unfold x3
         refine .trans ?_ (by with_reducible apply evolves_progEnded)
         with_reducible exact hx2
       try clear_value x3
       with_reducible refine .ite ?_ ?_
       · refine .trans ?_ (by with_reducible apply evolves_startRetire)
         with_reducible exact hx3
       · with_reducible exact hx3)

theorem evolves_progFailed (s : State) (p : Prog) : Evolves s (progFailed s p) := by
  unfold progFailed
  extract_lets +onlyGivenNames x0
  try clear_value x0
  extract_lets +onlyGivenNames x1
  have hx1 : Evolves s x1 := by
    unfold x1
    refine .trans ?_ (by with_reducible apply evolves_inc)
    with_reducible apply evolves_inc
  try clear_value x1
  split
  all_goals first
    | (extract_lets +onlyGivenNames x2
       have hx2 : Evolves s x2 := by
         unfold x2
         refine .trans ?_ (by with_reducible apply evolves_spoilRow)
         with_reducible exact hx1
       try clear_value x2
       with_reducible refine .ite ?_ ?_
       · refine .trans ?_ (by with_reducible apply evolves_showSpares)
         split
         all_goals first
           | (refine .trans ?_ (by with_reducible apply evolves_progEnded)
              with_reducible exact hx2)
           | with_reducible exact hx2
       · with_reducible refine .ite ?_ ?_
         · refine .trans ?_ (by with_reducible apply evolves_startRetire)
           with_reducible exact hx2
         · with_reducible refine .ite ?_ ?_
           · extract_lets +onlyGivenNames x3
             try clear_value x3
             with_reducible refine .ite ?_ ?_
             · extract_lets +onlyGivenNames x4
               have hx4 : Evolves s x4 := by
                 unfold x4
                 refine .trans ?_ (by with_reducible apply evolves_sparesOut)
                 with_reducible exact hx2
               try clear_value x4
               split
               all_goals first
                 | (refine .trans ?_ (by with_reducible apply evolves_progEnded)
                    with_reducible exact hx4)
                 | with_reducible exact hx4
             · refine .trans ?_ (by with_reducible apply evolves_showSpares)
               refine .trans ?_ (by with_reducible apply evolves_queueProg)
               with_reducible exact hx2
           · refine .trans ?_ (by with_reducible apply evolves_showSpares)
             refine .trans ?_ (by with_reducible apply evolves_endRetire)
             with_reducible exact hx2)
    | (with_reducible refine .ite ?_ ?_
       · refine .trans ?_ (by with_reducible apply evolves_progEnded)
         refine .trans ?_ (by with_reducible apply evolves_spoilRow)
         with_reducible exact hx1
       · refine .trans ?_ (by with_reducible apply evolves_startRetire)
         with_reducible exact hx1)

theorem evolves_attemptFx (s : State) (b : Nat) (verified : Bool) : Evolves s (attemptFx s b verified) := by
  unfold attemptFx
  split
  all_goals first
    | with_reducible exact .refl _
    | (extract_lets +onlyGivenNames x0
       try clear_value x0
       extract_lets +onlyGivenNames x1
       extract_lets +onlyGivenNames x2
       have hx2 : Evolves s x2 := by
         unfold x2
         refine .trans ?_ (by with_reducible apply evolves_setBusy)
         refine .trans ?_ (by with_reducible apply evolves_setGrn; rfl)
         with_reducible exact .refl _
       try clear_value x2
       extract_lets +onlyGivenNames x3
       have hx3 : Evolves s x3 := by
         unfold x3
         with_reducible refine .ite ?_ ?_
         · refine .trans ?_ (by with_reducible apply evolves_progVerified)
           with_reducible exact hx2
         · with_reducible refine .ite ?_ ?_
           · refine .trans ?_ (by with_reducible apply evolves_progFailed)
             with_reducible exact hx2
           · with_reducible refine .ite ?_ ?_
             · split
               all_goals
                 refine .trans ?_ (by with_reducible apply evolves_showSpares)
                 refine .trans ?_ (by with_reducible apply evolves_progEnded)
                 refine .trans ?_ (by with_reducible apply evolves_spoilRow)
                 with_reducible exact hx2
             · refine .trans ?_ (by with_reducible apply evolves_setBusy)
               refine .trans ?_ (by with_reducible apply evolves_setGrn; rfl)
               with_reducible exact .refl _
       try clear_value x3
       refine .trans ?_ (by with_reducible apply evolves_pumpBank)
       refine .trans ?_ (by with_reducible apply evolves_pumpBank)
       with_reducible exact hx3)

theorem evolves_correctedFx (s : State) (n unit : Nat) : Evolves s (correctedFx s n unit) := by
  unfold correctedFx
  extract_lets +onlyGivenNames x0
  have hx0 : Evolves s x0 := by
    unfold x0
    refine .trans ?_ (by with_reducible apply evolves_chaff)
    with_reducible apply evolves_inc
  try clear_value x0
  refine .trans ?_ (by with_reducible apply evolves_submitProg)
  with_reducible exact hx0

theorem evolves_putRec (s : State) (b : Bytes) (raised fatal : Bool) (u : Nat) :
    Evolves s (putRec s b raised fatal u) := by
  unfold putRec
  with_reducible refine .ite ?_ ?_
  · extract_lets +onlyGivenNames x0
    extract_lets +onlyGivenNames x1
    refine .trans ?_ (by with_reducible apply evolves_wr)
    refine .trans ?_ (by with_reducible apply evolves_setGrn; rfl)
    with_reducible exact .refl _
  · refine .trans ?_ (by with_reducible apply evolves_setEvt)
    with_reducible apply evolves_inc

theorem evolves_stageRec (s : State) (b : Bytes) (raised fatal : Bool) : Evolves s (stageRec s b raised fatal) := by
  unfold stageRec
  extract_lets +onlyGivenNames x0
  try clear_value x0
  split
  all_goals first
    | (with_reducible refine .ite ?_ ?_
       · with_reducible apply evolves_markRecs
       · with_reducible apply evolves_putRec)
    | with_reducible apply evolves_putRec

theorem evolves_setCursor (s : State) (port : Nat) (i : Option LogItem) : Evolves s (setCursor s port i) := by
  unfold setCursor
  extract_lets +onlyGivenNames x0
  try clear_value x0
  extract_lets +onlyGivenNames x1
  extract_lets +onlyGivenNames x2
  have hx2 : Evolves s x2 := by
    unfold x2
    refine .trans ?_ (by with_reducible apply evolves_setGrn; rfl)
    with_reducible exact .refl _
  try clear_value x2
  split
  all_goals first
    | (with_reducible refine .ite ?_ ?_
       · refine .trans ?_ (by with_reducible apply evolves_noteFlagged)
         with_reducible exact hx2
       · with_reducible exact hx2)
    | with_reducible exact hx2

theorem evolves_rebuildFx (s : State) (c : Option Ckpt) (l : Option LogItem) : Evolves s (rebuildFx s c l) := by
  unfold rebuildFx
  extract_lets +onlyGivenNames x0
  try clear_value x0
  extract_lets +onlyGivenNames x1
  try clear_value x1
  extract_lets +onlyGivenNames x2
  try clear_value x2
  extract_lets +onlyGivenNames x3
  try clear_value x3
  extract_lets +onlyGivenNames x4
  try clear_value x4
  extract_lets +onlyGivenNames x5
  try clear_value x5
  extract_lets +onlyGivenNames x6
  try clear_value x6
  extract_lets +onlyGivenNames x7
  try clear_value x7
  refine .trans ?_ (by with_reducible apply evolves_wr)
  refine .trans ?_ (by with_reducible apply evolves_wr)
  with_reducible apply evolves_wr

theorem evolves_scanDoneFx (s : State) : Evolves s (scanDoneFx s) := by
  unfold scanDoneFx
  extract_lets +onlyGivenNames x0
  try clear_value x0
  extract_lets +onlyGivenNames x1
  have hx1 : Evolves s x1 := by
    unfold x1
    with_reducible apply evolves_scanRemap
  try clear_value x1
  extract_lets +onlyGivenNames x2
  try clear_value x2
  extract_lets +onlyGivenNames x3
  try clear_value x3
  extract_lets +onlyGivenNames x4
  try clear_value x4
  extract_lets +onlyGivenNames x5
  try clear_value x5
  extract_lets +onlyGivenNames x6
  try clear_value x6
  extract_lets +onlyGivenNames x7
  extract_lets +onlyGivenNames x8
  have hx8 : Evolves s x8 := by
    unfold x8
    refine .trans ?_ (by with_reducible apply evolves_setGrn; rfl)
    with_reducible exact hx1
  try clear_value x8
  extract_lets +onlyGivenNames x9
  have hx9 : Evolves s x9 := by
    unfold x9
    with_reducible refine .ite ?_ ?_
    · with_reducible exact hx8
    · refine .trans ?_ (by with_reducible apply evolves_setEvt)
      refine .trans ?_ (by with_reducible apply evolves_incBy)
      with_reducible exact hx8
  try clear_value x9
  extract_lets +onlyGivenNames x10
  have hx10 : Evolves s x10 := by
    unfold x10
    refine .trans ?_ (by with_reducible apply evolves_wr)
    with_reducible exact hx9
  try clear_value x10
  extract_lets +onlyGivenNames x11
  have hx11 : Evolves s x11 := by
    unfold x11
    with_reducible refine .ite ?_ ?_
    · refine .trans ?_ (by with_reducible apply evolves_checkpoint)
      refine .trans ?_ (by with_reducible apply evolves_rebuildFx)
      with_reducible exact hx10
    · with_reducible exact hx10
  try clear_value x11
  refine .trans ?_ (by with_reducible apply evolves_pumpBank)
  refine .trans ?_ (by with_reducible apply evolves_pumpBank)
  refine .trans ?_ (by with_reducible apply evolves_startFlush)
  with_reducible exact hx11

theorem evolves_stopGranary (s : State) : Evolves s (stopGranary s) := by
  unfold stopGranary
  extract_lets +onlyGivenNames x0
  have hx0 : Evolves s x0 := by
    unfold x0
    with_reducible refine .foldl (fun st1 _ => ?_) _ _ _ ?_
    · with_reducible apply evolves_tearRow
    · with_reducible exact .refl _
  try clear_value x0
  refine .trans ?_ (by with_reducible apply evolves_setGrn; rfl)
  with_reducible exact hx0

theorem evolves_logFlushFx (s : State) : Evolves s (logFlushFx s) := by
  unfold logFlushFx
  split
  all_goals first
    | with_reducible apply evolves_flushRow
    | (with_reducible refine .ite ?_ ?_
       · refine .trans ?_ (by with_reducible apply evolves_flushRow)
         with_reducible apply evolves_startFlush
       · with_reducible exact .refl _)

theorem evolves_ageFx (s : State) : Evolves s (ageFx s) := by
  unfold ageFx
  split
  all_goals first
    | (with_reducible refine .ite ?_ ?_
       · with_reducible apply evolves_startFlush
       · with_reducible exact .refl _)
    | with_reducible exact .refl _

theorem evolves_flushDoneFx (s : State) : Evolves s (flushDoneFx s) := by
  unfold flushDoneFx
  split
  all_goals first
    | with_reducible exact .refl _
    | (with_reducible refine .ite ?_ ?_
       · with_reducible exact .refl _
       · with_reducible refine .ite ?_ ?_
         · with_reducible refine .ite ?_ ?_
           · extract_lets +onlyGivenNames x0
             have hx0 : Evolves s x0 := by
               unfold x0
               with_reducible apply evolves_checkpoint
             try clear_value x0
             refine .trans ?_ (by with_reducible apply evolves_setGrn; rfl)
             with_reducible exact hx0
           · with_reducible exact .refl _
         · extract_lets +onlyGivenNames x1
           extract_lets +onlyGivenNames x2
           have hx2 : Evolves s x2 := by
             unfold x2
             refine .trans ?_ (by with_reducible apply evolves_wr)
             refine .trans ?_ (by with_reducible apply evolves_setGrn; rfl)
             with_reducible exact .refl _
           try clear_value x2
           with_reducible refine .ite ?_ ?_
           · with_reducible exact hx2
           · refine .trans ?_ (by with_reducible apply evolves_setEvt)
             with_reducible exact hx2)

theorem evolves_flushGoFx (s : State) (v : Nat) : Evolves s (flushGoFx s v) := by
  unfold flushGoFx
  with_reducible refine .ite ?_ ?_
  · with_reducible apply evolves_startFlush
  · with_reducible exact .refl _

theorem evolves_logSeekFx (s : State) (src v : Nat) : Evolves s (logSeekFx s src v) := by
  unfold logSeekFx
  with_reducible refine .ite ?_ ?_
  · with_reducible apply evolves_setCursor
  · with_reducible exact .refl _

theorem evolves_advanceCursor (s : State) (port : Nat) : Evolves s (advanceCursor s port) := by
  unfold advanceCursor
  with_reducible refine .ite ?_ ?_
  · with_reducible apply evolves_setCursor
  · with_reducible exact .refl _

theorem evolves_logClearFx (s : State) (src v : Nat) : Evolves s (logClearFx s src v) := by
  unfold logClearFx
  with_reducible refine .ite ?_ ?_
  · with_reducible exact .refl _
  · with_reducible refine .ite ?_ ?_
    · refine .trans ?_ (by with_reducible apply evolves_writeIgnored)
      with_reducible apply evolves_wr
    · with_reducible refine .ite ?_ ?_
      · refine .trans ?_ (by with_reducible apply evolves_setGrn; rfl)
        with_reducible exact .refl _
      · with_reducible exact .refl _

theorem RowsOk.filter {m : SMap Row} (f : Nat × Row → Bool) (h : RowsOk m) : RowsOk (m.filter f) :=
  ⟨SMap.wf_filter f h.1, fun p hp => h.2 p (List.mem_filter.1 hp).1⟩

theorem evolves_logClearDoneFx (s : State) : Evolves s (logClearDoneFx s) := by
  unfold logClearDoneFx
  refine .ite (.refl _) ?_
  extract_lets +onlyGivenNames b moved spares keep y s0 head y1 s1 n cur y2 s2
  have h0 : Evolves s s0 :=
    ⟨rfl, rfl, Nat.le_refl _, Nat.le_refl _, id, RowsOk.filter _, id, OtpKept.refl _⟩
  have h1 : Evolves s s1 := h0.trans (evolves_setGrn _ _ rfl)
  have h2 : Evolves s s2 := h1.trans (evolves_setGrn _ _ rfl)
  exact ((h2.trans (evolves_incBy ..)).trans (evolves_incBy ..)).trans (evolves_checkpoint ..)

end Sys2Proof.Machine
end

