-- ==== Sys2Proof/Laws/StepOps.lean ====
section
/-! SUPPORT. What no operation of Machine/StepOps.lean can do (Laws/Evolves.lean), one lemma for each. -/

namespace Sys2Proof.Machine

theorem evolves_stampIssue (s : State) (j : Nat) (x : Job) (k : Nat) (t : StepRun) :
    Evolves s (stampIssue s j x k t) := by
  unfold stampIssue
  with_reducible refine .ite ?_ ?_
  · with_reducible apply evolves_probeStamp
  · with_reducible exact .refl _

theorem evolves_stampResult (s : State) (x : Job) : Evolves s (stampResult s x) := by
  unfold stampResult
  with_reducible refine .ite ?_ ?_
  · refine .trans ?_ (by with_reducible apply evolves_probeStamp)
    with_reducible apply evolves_wr
  · with_reducible exact .refl _

theorem evolves_formOp {s : State} {j k op : Nat} {fx : State → Job → StepRun → Bytes → State}
    (h : ∀ t x u b, Evolves t (fx t x u b)) : Evolves s (formOp s j k op fx) := by
  unfold formOp
  split
  · refine .ite (.refl _) ?_
    split
    · exact .refl _
    · exact evolves_failLate ..
    · extract_lets +onlyGivenNames e
      refine .ite (evolves_failStep ..) ?_
      extract_lets +onlyGivenNames s1
      have h1 : Evolves s s1 := evolves_stampIssue ..
      exact .ite ((h1.trans (evolves_stampResult ..)).trans (h ..)) h1
  · exact .refl _

theorem evolves_compareFx (s : State) (j k : Nat) (x : Job) (t : StepRun) (inp : Bytes) :
    Evolves s (compareFx s j k x t inp) := by
  unfold compareFx
  split
  all_goals first
    | with_reducible exact .refl _
    | with_reducible apply evolves_failStep
    | with_reducible apply evolves_formStep

theorem evolves_gateFx (s : State) (j k : Nat) : Evolves s (gateFx s j k) := by
  unfold gateFx
  split
  all_goals first
    | (with_reducible refine .ite ?_ ?_
       · with_reducible exact .refl _
       · split
         all_goals first
           | with_reducible apply evolves_armGate
           | with_reducible exact .refl _
           | (split
              all_goals first
                | with_reducible exact .refl _
                | with_reducible apply evolves_failStep
                | (extract_lets +onlyGivenNames x0
                   have hx0 : Evolves s x0 := by
                     unfold x0
                     with_reducible apply evolves_stampIssue
                   try clear_value x0
                   with_reducible refine .ite ?_ ?_
                   · refine .trans ?_ (by with_reducible apply evolves_formStep)
                     refine .trans ?_ (by with_reducible apply evolves_stampResult)
                     with_reducible exact hx0
                   · with_reducible exact hx0)))
    | with_reducible exact .refl _

theorem evolves_postFx (s : State) (g v src : Nat) : Evolves s (postFx s g v src) := by
  unfold postFx
  extract_lets +onlyGivenNames x0
  try clear_value x0
  extract_lets +onlyGivenNames x1
  try clear_value x1
  with_reducible refine .ite ?_ ?_
  · with_reducible apply evolves_gateIgnore
  · with_reducible refine .ite ?_ ?_
    · with_reducible refine .ite ?_ ?_
      · with_reducible apply evolves_gateIgnore
      · refine .trans ?_ (by with_reducible apply evolves_wr)
        refine .trans ?_ (by with_reducible apply evolves_setGatex)
        with_reducible apply evolves_setGateState
    · with_reducible refine .ite ?_ ?_
      · with_reducible apply evolves_gateIgnore
      · with_reducible refine .ite ?_ ?_
        · with_reducible apply evolves_gateIgnore
        · split
          all_goals first
            | (extract_lets +onlyGivenNames x2
               try clear_value x2
               extract_lets +onlyGivenNames x3
               have hx3 : Evolves s x3 := by
                 unfold x3
                 refine .trans ?_ (by with_reducible apply evolves_setGatex)
                 with_reducible apply evolves_setGateState
               try clear_value x3
               refine .trans ?_ (by with_reducible apply evolves_releaseGate)
               refine .trans ?_ (by with_reducible apply evolves_wr)
               with_reducible exact hx3)
            | with_reducible exact .refl _

theorem evolves_gsPostFx (s : State) (wide : Bool) (g v src : Nat) : Evolves s (gsPostFx s wide g v src) := by
  unfold gsPostFx
  with_reducible refine .ite ?_ ?_
  · with_reducible apply evolves_postFx
  · with_reducible apply evolves_writeIgnored

theorem evolves_grantFx (s : State) (g v src : Nat) : Evolves s (grantFx s g v src) := by
  unfold grantFx
  extract_lets +onlyGivenNames x0
  try clear_value x0
  with_reducible refine .ite ?_ ?_
  · with_reducible apply evolves_writeIgnored
  · extract_lets +onlyGivenNames x1
    have hx1 : Evolves s x1 := by
      unfold x1
      refine .trans ?_ (by with_reducible apply evolves_wr)
      refine .trans ?_ (by with_reducible apply evolves_wr)
      refine .trans ?_ (by with_reducible apply evolves_wr)
      with_reducible apply evolves_wr
    try clear_value x1
    with_reducible refine .ite ?_ ?_
    · with_reducible refine .ite ?_ ?_
      · refine .trans ?_ (by with_reducible apply evolves_setGateState)
        with_reducible exact hx1
      · with_reducible exact hx1
    · refine .trans ?_ (by with_reducible apply evolves_setGateState)
      with_reducible exact hx1

theorem evolves_skipSamples (s : State) (j k l n : Nat) : Evolves s (skipSamples s j k l n) := by
  unfold skipSamples
  split
  all_goals first
    | (with_reducible refine .ite ?_ ?_
       · refine .trans ?_ (by with_reducible apply evolves_modStep)
         with_reducible apply evolves_incBy
       · with_reducible exact .refl _)
    | with_reducible exact .refl _

theorem evolves_aesOn (s : State) (j k op l n : Nat) (checks : Nat × Nat) (x : Job) (key iv inp : Bytes) :
    Evolves s (aesOn s j k op l n checks x key iv inp) := by
  unfold aesOn
  extract_lets +onlyGivenNames x0
  try clear_value x0
  extract_lets +onlyGivenNames x1
  try clear_value x1
  extract_lets +onlyGivenNames x2
  try clear_value x2
  extract_lets +onlyGivenNames x3
  try clear_value x3
  extract_lets +onlyGivenNames x4
  have hx4 : Evolves s x4 := by
    unfold x4
    refine .trans ?_ (by with_reducible apply evolves_skipSamples)
    with_reducible apply evolves_countWork
  try clear_value x4
  extract_lets +onlyGivenNames x5
  have hx5 : Evolves s x5 := by
    unfold x5
    with_reducible refine .ite ?_ ?_
    · refine .trans ?_ (by with_reducible apply evolves_inc)
      with_reducible exact hx4
    · with_reducible refine .ite ?_ ?_
      · refine .trans ?_ (by with_reducible apply evolves_inc)
        with_reducible exact hx4
      · with_reducible exact hx4
  try clear_value x5
  extract_lets +onlyGivenNames x6
  try clear_value x6
  extract_lets +onlyGivenNames x7
  have hx7 : Evolves s x7 := by
    unfold x7
    refine .trans ?_ (by with_reducible apply evolves_incBy)
    with_reducible exact hx5
  try clear_value x7
  extract_lets +onlyGivenNames x8
  try clear_value x8
  with_reducible refine .ite ?_ ?_
  · refine .trans ?_ (by with_reducible apply evolves_formStep)
    refine .trans ?_ (by with_reducible apply evolves_incBy)
    with_reducible exact hx7
  · refine .trans ?_ (by with_reducible apply evolves_formStep)
    with_reducible exact hx7

theorem evolves_aesFx (s : State) (j k op checks skipped : Nat) (x : Job) (t : StepRun) (inp : Bytes) :
    Evolves s (aesFx s j k op checks skipped x t inp) := by
  unfold aesFx
  split
  all_goals first
    | (extract_lets +onlyGivenNames x0
       try clear_value x0
       with_reducible apply evolves_aesOn)
    | (extract_lets +onlyGivenNames x1
       try clear_value x1
       extract_lets +onlyGivenNames x2
       have hx2 : Evolves s x2 := by
         unfold x2
         with_reducible apply evolves_drawIv
       try clear_value x2
       split
       all_goals first
         | (with_reducible refine .ite ?_ ?_
            · with_reducible exact hx2
            · refine .trans ?_ (by with_reducible apply evolves_aesOn)
              with_reducible exact hx2)
         | with_reducible exact hx2)
    | with_reducible exact .refl _

theorem evolves_aesRow (s : State) (j k op checks skipped : Nat) : Evolves s (aesRow s j k op checks skipped) := by
  unfold aesRow
  refine .trans ?_ (evolves_formOp (fun st0 _ _ _ => ?_) ..)
  · with_reducible exact .refl _
  · with_reducible apply evolves_aesFx

theorem evolves_heldFx (s : State) (j k : Nat) : Evolves s (heldFx s j k) := by
  unfold heldFx
  split
  all_goals first
    | (with_reducible refine .ite ?_ ?_
       · with_reducible exact .refl _
       · with_reducible refine .ite ?_ ?_
         · refine .trans ?_ (by with_reducible apply evolves_modStep)
           with_reducible apply evolves_incBy
         · with_reducible refine .ite ?_ ?_
           · with_reducible exact .refl _
           · refine .trans ?_ (by with_reducible apply evolves_handOut)
             refine .trans ?_ (by with_reducible apply evolves_modStep)
             with_reducible apply evolves_incBy)
    | with_reducible exact .refl _

theorem evolves_decPipe (s : State) (x : Job) (k : Nat) : Evolves s (decPipe s x k).1 := by
  unfold decPipe
  extract_lets d
  split
  · exact evolves_freshFree ..
  · exact .refl _

theorem evolves_checkFx (s : State) (j k : Nat) (mismatch : Bool) : Evolves s (checkFx s j k mismatch) := by
  unfold checkFx
  split
  all_goals first
    | (split
       all_goals first
         | with_reducible exact .refl _
         | (with_reducible refine .ite ?_ ?_
            · with_reducible exact .refl _
            · extract_lets +onlyGivenNames x0
              extract_lets +onlyGivenNames x1
              try clear_value x1
              extract_lets +onlyGivenNames x2
              try clear_value x2
              extract_lets +onlyGivenNames x3
              try clear_value x3
              extract_lets +onlyGivenNames x4
              try clear_value x4
              extract_lets +onlyGivenNames x5
              have hx5 : Evolves s x5 := by
                unfold x5
                refine .trans ?_ (by with_reducible apply evolves_setLane)
                refine .trans ?_ (by with_reducible apply evolves_inc)
                with_reducible apply evolves_decPipe
              try clear_value x5
              extract_lets +onlyGivenNames x6
              have hx6 : Evolves s x6 := by
                unfold x6
                refine .trans ?_ (by with_reducible apply evolves_modStep)
                with_reducible exact hx5
              try clear_value x6
              with_reducible refine .ite ?_ ?_
              · extract_lets +onlyGivenNames x7
                have hx7 : Evolves s x7 := by
                  unfold x7
                  refine .trans ?_ (by with_reducible apply evolves_chaffPlain)
                  refine .trans ?_ (by with_reducible apply evolves_setEvt)
                  refine .trans ?_ (by with_reducible apply evolves_inc)
                  with_reducible exact hx6
                try clear_value x7
                refine .trans ?_ (by with_reducible apply evolves_failStep)
                with_reducible exact hx7
              · with_reducible exact hx6))
    | with_reducible exact .refl _

theorem evolves_checkCfgFx (s : State) (l src v : Nat) : Evolves s (checkCfgFx s l src v) := by
  unfold checkCfgFx
  extract_lets +onlyGivenNames x0
  try clear_value x0
  extract_lets +onlyGivenNames x1
  try clear_value x1
  with_reducible refine .ite ?_ ?_
  · with_reducible apply evolves_writeIgnored
  · extract_lets +onlyGivenNames x2
    have hx2 : Evolves s x2 := by
      unfold x2
      with_reducible refine .ite ?_ ?_
      · with_reducible apply evolves_wr
      · with_reducible exact .refl _
    try clear_value x2
    with_reducible refine .ite ?_ ?_
    · refine .trans ?_ (by with_reducible apply evolves_setLane)
      with_reducible exact hx2
    · with_reducible exact hx2

theorem evolves_digestFx (s : State) (j k op : Nat) (x : Job) (t : StepRun) (inp : Bytes) :
    Evolves s (digestFx s j k op x t inp) := by
  unfold digestFx
  split
  all_goals first
    | with_reducible exact .refl _
    | (extract_lets +onlyGivenNames x0
       try clear_value x0
       extract_lets +onlyGivenNames x1
       try clear_value x1
       extract_lets +onlyGivenNames x2
       try clear_value x2
       extract_lets +onlyGivenNames x3
       have hx3 : Evolves s x3 := by
         unfold x3
         with_reducible apply evolves_countWork
       try clear_value x3
       refine .trans ?_ (by with_reducible apply evolves_formStep)
       with_reducible refine .ite ?_ ?_
       · with_reducible exact hx3
       · refine .trans ?_ (by with_reducible apply evolves_inc)
         with_reducible exact hx3)

theorem evolves_digestRow (s : State) (j k op : Nat) : Evolves s (digestRow s j k op) := by
  unfold digestRow
  refine .trans ?_ (evolves_formOp (fun st0 _ _ _ => ?_) ..)
  · with_reducible exact .refl _
  · with_reducible apply evolves_digestFx

theorem evolves_extendMeas (s : State) (n : Nat) (d : Bytes) : Evolves s (extendMeas s n d) := by
  unfold extendMeas
  extract_lets +onlyGivenNames x0
  try clear_value x0
  refine .upd_all ?_ rfl rfl
  with_reducible exact .refl _

theorem evolves_extendFx (s : State) (j k : Nat) (x : Job) (t : StepRun) (inp : Bytes) :
    Evolves s (extendFx s j k x t inp) := by
  unfold extendFx
  extract_lets +onlyGivenNames x0
  try clear_value x0
  split
  all_goals first
    | with_reducible exact .refl _
    | (with_reducible refine .ite ?_ ?_
       · with_reducible apply evolves_formStep
       · with_reducible refine .ite ?_ ?_
         · with_reducible exact .refl _
         · extract_lets +onlyGivenNames x1
           have hx1 : Evolves s x1 := by
             unfold x1
             refine .trans ?_ (by with_reducible apply evolves_extendMeas)
             with_reducible apply evolves_countWork
           try clear_value x1
           refine .trans ?_ (by with_reducible apply evolves_formStep)
           with_reducible exact hx1)

theorem evolves_measSelFx (s : State) (g v : Nat) : Evolves s (measSelFx s g v) := by
  unfold measSelFx
  extract_lets +onlyGivenNames x0
  try clear_value x0
  extract_lets +onlyGivenNames x1
  try clear_value x1
  extract_lets +onlyGivenNames x2
  try clear_value x2
  extract_lets +onlyGivenNames x3
  try clear_value x3
  extract_lets +onlyGivenNames x4
  have hx4 : Evolves s x4 := by
    unfold x4
    refine .trans ?_ (by with_reducible apply evolves_wr)
    refine .trans ?_ (by with_reducible apply evolves_wr)
    with_reducible apply evolves_wr
  try clear_value x4
  with_reducible refine .foldl (fun st5 _ => ?_) _ _ _ ?_
  · with_reducible apply evolves_wr
  · with_reducible exact hx4

theorem evolves_measBrokenFx (s : State) (n : Nat) : Evolves s (measBrokenFx s n) := by
  unfold measBrokenFx
  extract_lets +onlyGivenNames x0
  try clear_value x0
  extract_lets +onlyGivenNames x1
  have hx1 : Evolves s x1 := by
    unfold x1
    refine .upd_all ?_ rfl rfl
    with_reducible exact .refl _
  try clear_value x1
  extract_lets +onlyGivenNames x2
  try clear_value x2
  refine .trans ?_ (by with_reducible apply evolves_chaffPlain)
  refine .trans ?_ (by with_reducible apply evolves_setEvt)
  with_reducible exact hx1

theorem evolves_parityFx (s : State) (g c : Nat) : Evolves s (parityFx s g c) := by
  unfold parityFx
  extract_lets +onlyGivenNames x0
  try clear_value x0
  extract_lets +onlyGivenNames x1
  have hx1 : Evolves s x1 := by
    unfold x1
    with_reducible refine .ite ?_ ?_
    · with_reducible apply evolves_wr
    · with_reducible apply evolves_wr
  try clear_value x1
  extract_lets +onlyGivenNames x2
  have hx2 : Evolves s x2 := by
    unfold x2
    refine .trans ?_ (by with_reducible apply evolves_setEvt)
    refine .trans ?_ (by with_reducible apply evolves_inc)
    refine .trans ?_ (by with_reducible apply evolves_wr)
    with_reducible exact hx1
  try clear_value x2
  extract_lets +onlyGivenNames x3
  have hx3 : Evolves s x3 := by
    unfold x3
    refine .trans ?_ (by with_reducible apply evolves_chaffPlain)
    with_reducible exact hx2
  try clear_value x3
  split
  all_goals first
    | (refine .trans ?_ (by with_reducible apply evolves_modStep)
       refine .trans ?_ (by with_reducible apply evolves_failStep)
       with_reducible exact hx3)
    | with_reducible exact hx3

theorem evolves_holdEccFx (s : State) (j k : Nat) : Evolves s (holdEccFx s j k) := by
  unfold holdEccFx
  extract_lets +onlyGivenNames x0
  try clear_value x0
  extract_lets +onlyGivenNames x1
  have hx1 : Evolves s x1 := by
    unfold x1
    refine .trans ?_ (by with_reducible apply evolves_chaffAny)
    refine .trans ?_ (by with_reducible apply evolves_setEvt)
    with_reducible apply evolves_inc
  try clear_value x1
  with_reducible refine .ite ?_ ?_
  · extract_lets +onlyGivenNames x2
    have hx2 : Evolves s x2 := by
      unfold x2
      refine .upd_all ?_ rfl rfl
      with_reducible exact hx1
    try clear_value x2
    split
    all_goals first
      | (extract_lets +onlyGivenNames x3
         try clear_value x3
         with_reducible refine .ite ?_ ?_
         · refine .trans ?_ (by with_reducible apply evolves_endChain)
           with_reducible exact hx2
         · refine .trans ?_ (by with_reducible apply evolves_failStep)
           with_reducible exact hx2)
      | with_reducible exact hx2
  · refine .trans ?_ (by with_reducible apply evolves_poisonOut)
    with_reducible exact hx1

theorem evolves_srgCheckFail (s : State) (n op : Nat) : Evolves s (srgCheckFail s n op) := by
  unfold srgCheckFail
  refine .trans ?_ (by with_reducible apply evolves_chaffPlain)
  refine .trans ?_ (by with_reducible apply evolves_setEvt)
  with_reducible apply evolves_inc

theorem evolves_arithFx (s : State) (j k op : Nat) (x : Job) (t : StepRun) (inp : Bytes) :
    Evolves s (arithFx s j k op x t inp) := by
  unfold arithFx
  split
  all_goals first
    | with_reducible exact .refl _
    | (extract_lets +onlyGivenNames x0
       try clear_value x0
       extract_lets +onlyGivenNames x1
       try clear_value x1
       extract_lets +onlyGivenNames x2
       try clear_value x2
       extract_lets +onlyGivenNames x3
       try clear_value x3
       extract_lets +onlyGivenNames x4
       have hx4 : Evolves s x4 := by
         unfold x4
         refine .trans ?_ (by with_reducible apply evolves_countEmmer)
         refine .trans ?_ (by with_reducible apply evolves_countWork)
         with_reducible apply evolves_runMicro
       try clear_value x4
       extract_lets +onlyGivenNames x5
       have hx5 : Evolves s x5 := by
         unfold x5
         refine .trans ?_ (by with_reducible apply evolves_resumeOther)
         refine .trans ?_ (by with_reducible apply evolves_setBankState)
         with_reducible exact hx4
       try clear_value x5
       extract_lets +onlyGivenNames x6
       have hx6 : Evolves s x6 := by
         unfold x6
         with_reducible refine .ite ?_ ?_
         · refine .trans ?_ (by with_reducible apply evolves_srgCheckFail)
           with_reducible exact hx5
         · with_reducible exact hx5
       try clear_value x6
       with_reducible refine .ite ?_ ?_
       · split
         all_goals first
           | (extract_lets +onlyGivenNames x7
              try clear_value x7
              refine .trans ?_ (by with_reducible apply evolves_formStep)
              refine .trans ?_ (by with_reducible apply evolves_kccBlocks)
              with_reducible exact hx6)
           | (refine .trans ?_ (by with_reducible apply evolves_formStep)
              with_reducible exact hx6)
       · refine .trans ?_ (by with_reducible apply evolves_formStep)
         with_reducible exact hx6)

theorem evolves_arithRow (s : State) (j k op : Nat) : Evolves s (arithRow s j k op) := by
  unfold arithRow
  refine .trans ?_ (evolves_formOp (fun st0 _ _ _ => ?_) ..)
  · with_reducible exact .refl _
  · with_reducible apply evolves_arithFx

theorem evolves_rngFx (s : State) (j k : Nat) (x : Job) (t : StepRun) (inp : Bytes) :
    Evolves s (rngFx s j k x t inp) := by
  unfold rngFx
  extract_lets +onlyGivenNames x0
  extract_lets +onlyGivenNames x1
  with_reducible refine .ite ?_ ?_
  · try unfold x0
    with_reducible apply evolves_formStep
  · with_reducible refine .ite ?_ ?_
    · try unfold x1
      with_reducible refine .ite ?_ ?_
      · with_reducible apply evolves_formStep
      · with_reducible refine .ite ?_ ?_
        · extract_lets +onlyGivenNames x2
          refine .trans ?_ (by with_reducible apply evolves_formStep)
          with_reducible apply evolves_expCall
        · try unfold x0
          with_reducible apply evolves_formStep
    · with_reducible refine .ite ?_ ?_
      · with_reducible exact .refl _
      · with_reducible refine .ite ?_ ?_
        · try unfold x0
          with_reducible apply evolves_formStep
        · with_reducible apply evolves_modStep

end Sys2Proof.Machine
end

