-- ==== Sys2Proof/Laws/KeyOps.lean ====
section
/-! SUPPORT. What no operation of Machine/KeyOps.lean can do (Laws/Evolves.lean), one lemma for each. -/

namespace Sys2Proof.Machine

theorem evolves_noNonce (s : State) (j k : Nat) : Evolves s (noNonce s j k) := by
  unfold noNonce
  with_reducible apply evolves_formStep

theorem evolves_exportFx (s : State) (j k : Nat) (x : Job) (t : StepRun) : Evolves s (exportFx s j k x t) := by
  unfold exportFx
  split
  all_goals first
    | (split
       all_goals first
         | with_reducible exact .refl _
         | (with_reducible refine .ite ?_ ?_
            · refine .trans ?_ (by with_reducible apply evolves_refuse)
              refine .trans ?_ (by with_reducible apply evolves_modStep)
              with_reducible apply evolves_unpin
            · split
              all_goals first
                | (refine .trans ?_ (by with_reducible apply evolves_formStep)
                   refine .trans ?_ (by with_reducible apply evolves_kccBlocks)
                   exact (.fst (by assumption) (by with_reducible apply evolves_kccDraw)))
                | (refine .trans ?_ (by with_reducible apply evolves_noNonce)
                   exact (.fst (by assumption) (by with_reducible apply evolves_kccDraw)))))
    | with_reducible exact .refl _

theorem evolves_statusFx (s : State) (j k : Nat) (x : Job) (t : StepRun) : Evolves s (statusFx s j k x t) := by
  unfold statusFx
  split
  all_goals first
    | (split
       all_goals first
         | with_reducible apply evolves_formStep
         | with_reducible exact .refl _)
    | with_reducible exact .refl _

theorem evolves_sendPrepares (s : State) (r slot tok : Nat) (entry : Bytes) :
    Evolves s (sendPrepares s r slot tok entry) := by
  unfold sendPrepares
  with_reducible refine .foldl (fun st0 _ => ?_) _ _ _ ?_
  · extract_lets +onlyGivenNames x1
    extract_lets +onlyGivenNames x2
    try clear_value x2
    refine .trans ?_ (by with_reducible apply evolves_sendMsg)
    refine .trans ?_ (by with_reducible apply evolves_setLink)
    with_reducible apply evolves_newTx
  · with_reducible exact .refl _

theorem evolves_decideOuts (s : State) (r slot tok : Nat) (good : Bool) :
    Evolves s (decideOuts s r slot tok good) := by
  unfold decideOuts
  with_reducible refine .foldl (fun st0 _ => ?_) _ _ _ ?_
  · extract_lets +onlyGivenNames x1
    try clear_value x1
    with_reducible refine .foldl (fun st2 _ => ?_) _ _ _ ?_
    · extract_lets +onlyGivenNames x3
      try clear_value x3
      extract_lets +onlyGivenNames x4
      try clear_value x4
      refine .trans ?_ (by with_reducible apply evolves_sendMsg)
      with_reducible apply evolves_setLink
    · with_reducible exact .refl _
  · with_reducible exact .refl _

theorem evolves_installDraw (s : State) (x : Job) (k : Nat) : Evolves s (installDraw s x k).1 := by
  have h8 := evolves_kccDraw s 8
  unfold installDraw
  extract_lets n
  split
  · next h => rw [h] at h8; exact h8
  · next h =>
    rw [h] at h8
    split
    · exact h8
    · split
      · next h' => exact h8.trans (.fst h' (evolves_kccDraw ..))
      · next h' => exact h8.trans (.fst h' (evolves_kccDraw ..))

theorem evolves_beginInstall (s : State) (j k : Nat) (x : Job) (inp : Bytes) :
    Evolves s (beginInstall s j k x inp) := by
  unfold beginInstall
  extract_lets +onlyGivenNames x0
  try clear_value x0
  split
  all_goals first
    | (with_reducible refine .ite ?_ ?_
       · with_reducible exact .refl _
       · refine .trans ?_ (by with_reducible apply evolves_modStep)
         refine .trans ?_ (by with_reducible apply evolves_setEvt)
         with_reducible apply evolves_inc)
    | (split
       all_goals first
         | (split
            all_goals first
              | (refine .trans ?_ (.fst (by assumption) (by with_reducible apply evolves_installDraw))
                 with_reducible exact (evolves_takeWay (by assumption)))
              | (extract_lets +onlyGivenNames x1
                 try clear_value x1
                 extract_lets +onlyGivenNames x2
                 extract_lets +onlyGivenNames x3
                 have hx3 : Evolves s x3 := by
                   unfold x3
                   refine .trans ?_ (by with_reducible apply evolves_setLine)
                   refine .trans ?_ (by with_reducible apply evolves_validLine)
                   refine .trans ?_ (by with_reducible apply evolves_kccBlocks)
                   refine .trans ?_ (.fst (by assumption) (by with_reducible apply evolves_installDraw))
                   with_reducible exact (evolves_takeWay (by assumption))
                 try clear_value x3
                 extract_lets +onlyGivenNames x4
                 try clear_value x4
                 extract_lets +onlyGivenNames x5
                 try clear_value x5
                 extract_lets +onlyGivenNames x6
                 try clear_value x6
                 extract_lets +onlyGivenNames x7
                 try clear_value x7
                 extract_lets +onlyGivenNames x8
                 have hx8 : Evolves s x8 := by
                   unfold x8
                   refine .trans ?_ (by with_reducible apply evolves_modStep)
                   with_reducible exact hx3
                 try clear_value x8
                 with_reducible refine .ite ?_ ?_
                 · refine .trans ?_ (by with_reducible apply evolves_seedWrite)
                   with_reducible exact hx8
                 · refine .trans ?_ (by with_reducible apply evolves_sendPrepares)
                   refine .trans ?_ (by with_reducible apply evolves_seedWrite)
                   with_reducible exact hx8))
         | (refine .trans ?_ (by with_reducible apply evolves_noNonce)
            refine .trans ?_ (.fst (by assumption) (by with_reducible apply evolves_installDraw))
            with_reducible exact (evolves_takeWay (by assumption))))

theorem evolves_installFx (s : State) (j k : Nat) (x : Job) (t : StepRun) (inp : Bytes) :
    Evolves s (installFx s j k x t inp) := by
  unfold installFx
  extract_lets +onlyGivenNames x0
  try clear_value x0
  extract_lets +onlyGivenNames x1
  try clear_value x1
  extract_lets +onlyGivenNames x2
  with_reducible refine .ite ?_ ?_
  · with_reducible exact .refl _
  · with_reducible refine .ite ?_ ?_
    · try unfold x2
      refine .trans ?_ (by with_reducible apply evolves_refuse)
      with_reducible apply evolves_modStep
    · split
      all_goals first
        | with_reducible apply evolves_formStep
        | (try unfold x2
           refine .trans ?_ (by with_reducible apply evolves_refuse)
           with_reducible apply evolves_modStep)
        | (with_reducible refine .ite ?_ ?_
           · with_reducible exact .refl _
           · with_reducible refine .ite ?_ ?_
             · try unfold x2
               refine .trans ?_ (by with_reducible apply evolves_refuse)
               with_reducible apply evolves_modStep
             · with_reducible refine .ite ?_ ?_
               · try unfold x2
                 refine .trans ?_ (by with_reducible apply evolves_refuse)
                 with_reducible apply evolves_modStep
               · with_reducible refine .ite ?_ ?_
                 · with_reducible exact .refl _
                 · with_reducible apply evolves_beginInstall)

theorem evolves_installAnswer (s : State) (tok j k key : Nat) (l : Line) (status addr : Nat) :
    Evolves s (installAnswer s tok j k key l status addr) := by
  unfold installAnswer
  extract_lets +onlyGivenNames x0
  try clear_value x0
  extract_lets +onlyGivenNames x1
  have hx1 : Evolves s x1 := by
    unfold x1
    refine .upd_all ?_ rfl rfl
    with_reducible exact .refl _
  try clear_value x1
  with_reducible refine .ite ?_ ?_
  · refine .trans ?_ (by with_reducible apply evolves_retryAll)
    refine .trans ?_ (by with_reducible apply evolves_formStep)
    refine .trans ?_ (by with_reducible apply evolves_decideOuts)
    refine .trans ?_ (by with_reducible apply evolves_firstLease)
    refine .trans ?_ (by with_reducible apply evolves_commitLine)
    with_reducible exact hx1
  · extract_lets +onlyGivenNames x2
    have hx2 : Evolves s x2 := by
      unfold x2
      refine .trans ?_ (by with_reducible apply evolves_decideOuts)
      refine .trans ?_ (by with_reducible apply evolves_dropLine)
      with_reducible exact hx1
    try clear_value x2
    refine .trans ?_ (by with_reducible apply evolves_retryAll)
    with_reducible refine .ite ?_ ?_
    · refine .trans ?_ (by with_reducible apply evolves_failStep)
      with_reducible exact hx2
    · with_reducible exact hx2

theorem evolves_packArrived (s : State) (tok : Nat) : Evolves s (packArrived s tok) := by
  unfold packArrived
  split
  all_goals first
    | with_reducible exact .refl _
    | (split
       all_goals first
         | (with_reducible refine .ite ?_ ?_
            · refine .trans ?_ (by with_reducible apply evolves_retryAll)
              refine .trans ?_ (by with_reducible apply evolves_decideOuts)
              refine .trans ?_ (by with_reducible apply evolves_dropLine)
              refine .upd_all ?_ rfl rfl
              with_reducible exact .refl _
            · extract_lets +onlyGivenNames x0
              try clear_value x0
              extract_lets +onlyGivenNames x1
              have hx1 : Evolves s x1 := by
                unfold x1
                refine .upd_all ?_ rfl rfl
                with_reducible exact .refl _
              try clear_value x1
              with_reducible refine .ite ?_ ?_
              · refine .trans ?_ (by with_reducible apply evolves_seedSend)
                with_reducible exact hx1
              · with_reducible exact hx1)
         | with_reducible exact .refl _)

theorem evolves_peerAnswer (s : State) (tok l tx slot r : Nat) (err : Bool) :
    Evolves s (peerAnswer s tok l tx slot r err) := by
  unfold peerAnswer
  extract_lets +onlyGivenNames x0
  have hx0 : Evolves s x0 := by
    unfold x0
    with_reducible apply evolves_evictAnswer
  try clear_value x0
  extract_lets +onlyGivenNames x1
  try clear_value x1
  extract_lets +onlyGivenNames x2
  have hx2 : Evolves s x2 := by
    unfold x2
    refine .upd_all ?_ rfl rfl
    with_reducible exact hx0
  try clear_value x2
  extract_lets +onlyGivenNames x3
  have hx3 : Evolves s x3 := by
    unfold x3
    split
    all_goals first
      | (refine .trans ?_ (by with_reducible apply evolves_setLine)
         with_reducible exact hx2)
      | with_reducible exact hx2
  try clear_value x3
  extract_lets +onlyGivenNames x4
  try clear_value x4
  extract_lets +onlyGivenNames x5
  have hx5 : Evolves s x5 := by
    unfold x5
    refine .trans ?_ (by with_reducible apply evolves_setLink)
    with_reducible exact hx3
  try clear_value x5
  refine .trans ?_ (by with_reducible apply evolves_retry)
  refine .trans ?_ (by with_reducible apply evolves_sendMsg)
  with_reducible exact hx5

theorem evolves_pullAnswer (s : State) (tok n : Nat) (entry : Bytes) (err : Bool) (addr : Nat) :
    Evolves s (pullAnswer s tok n entry err addr) := by
  unfold pullAnswer
  extract_lets +onlyGivenNames x0
  try clear_value x0
  extract_lets +onlyGivenNames x1
  have hx1 : Evolves s x1 := by
    unfold x1
    refine .upd_all ?_ rfl rfl
    with_reducible exact .refl _
  try clear_value x1
  with_reducible refine .ite ?_ ?_
  · refine .trans ?_ (by with_reducible apply evolves_seedRead)
    with_reducible exact hx1
  · split
    all_goals first
      | (refine .upd_all ?_ rfl rfl
         with_reducible exact hx1)
      | with_reducible exact hx1

theorem evolves_seedAnswer (s : State) (tok status addr : Nat) : Evolves s (seedAnswer s tok status addr) := by
  unfold seedAnswer
  extract_lets +onlyGivenNames x0
  try clear_value x0
  split
  all_goals first
    | with_reducible exact .refl _
    | (split
       all_goals first
         | with_reducible apply evolves_installAnswer
         | with_reducible apply evolves_leaseAnswer
         | with_reducible apply evolves_evictAnswer
         | with_reducible apply evolves_peerAnswer
         | with_reducible apply evolves_pullAnswer)

theorem evolves_cpWord (s : State) (tag row word v : Nat) : Evolves s (cpWord s tag row word v) := by
  unfold cpWord
  extract_lets +onlyGivenNames x0
  with_reducible refine .ite ?_ ?_
  · with_reducible apply evolves_submitProg
  · refine .upd_all ?_ rfl rfl
    with_reducible exact .refl _

theorem evolves_writeHusk (s : State) (tag slot : Nat) (h : Husk) : Evolves s (writeHusk s tag slot h) := by
  unfold writeHusk
  extract_lets +onlyGivenNames x0
  try clear_value x0
  extract_lets +onlyGivenNames x1
  try clear_value x1
  extract_lets +onlyGivenNames x2
  have hx2 : Evolves s x2 := by
    unfold x2
    refine .upd_all ?_ rfl rfl
    with_reducible exact .refl _
  try clear_value x2
  refine .trans ?_ (by with_reducible apply evolves_cpWord)
  refine .trans ?_ (by with_reducible apply evolves_cpWord)
  with_reducible exact hx2

theorem evolves_showHusks (s : State) : Evolves s (showHusks s) := by
  unfold showHusks
  extract_lets +onlyGivenNames x0
  try clear_value x0
  extract_lets +onlyGivenNames x1
  have hx1 : Evolves s x1 := by
    unfold x1
    with_reducible apply evolves_wr
  try clear_value x1
  with_reducible refine .ite ?_ ?_
  · refine .trans ?_ (by with_reducible apply evolves_setEvt)
    with_reducible exact hx1
  · with_reducible exact hx1

theorem evolves_setHusk (s : State) (slot : Nat) (h : Husk) : Evolves s (setHusk s slot h) := by
  unfold setHusk
  refine .trans ?_ (by with_reducible apply evolves_showHusks)
  refine .upd_all ?_ rfl rfl
  with_reducible exact .refl _

theorem evolves_modRevoke (s : State) (r slot : Nat) (f : Revoking → Revoking) : Evolves s (modRevoke s r slot f) := by
  unfold modRevoke
  refine .upd_all ?_ rfl rfl
  with_reducible exact .refl _

theorem evolves_takeUpRevoke (s : State) (v : Revoking) : Evolves s (takeUpRevoke s v) := by
  unfold takeUpRevoke
  extract_lets +onlyGivenNames x0
  try clear_value x0
  extract_lets +onlyGivenNames x1
  try clear_value x1
  with_reducible refine .ite ?_ ?_
  · with_reducible exact .refl _
  · extract_lets +onlyGivenNames x2
    try clear_value x2
    extract_lets +onlyGivenNames x3
    have hx3 : Evolves s x3 := by
      unfold x3
      refine .trans ?_ (by with_reducible apply evolves_modRevoke)
      refine .upd_all ?_ rfl rfl
      with_reducible exact .refl _
    try clear_value x3
    refine .trans ?_ (by with_reducible apply evolves_writeHusk)
    with_reducible exact hx3

theorem evolves_revokeFx (s : State) (j k : Nat) (x : Job) (t : StepRun) : Evolves s (revokeFx s j k x t) := by
  unfold revokeFx
  extract_lets +onlyGivenNames x0
  try clear_value x0
  extract_lets +onlyGivenNames x1
  try clear_value x1
  extract_lets +onlyGivenNames x2
  with_reducible refine .ite ?_ ?_
  · split
    all_goals first
      | with_reducible apply evolves_takeUpRevoke
      | with_reducible exact .refl _
  · with_reducible refine .ite ?_ ?_
    · with_reducible exact .refl _
    · with_reducible refine .ite ?_ ?_
      · try unfold x2
        refine .trans ?_ (by with_reducible apply evolves_refuse)
        with_reducible apply evolves_modStep
      · with_reducible refine .ite ?_ ?_
        · try unfold x2
          refine .trans ?_ (by with_reducible apply evolves_refuse)
          with_reducible apply evolves_modStep
        · with_reducible refine .ite ?_ ?_
          · refine .trans ?_ (by with_reducible apply evolves_setEvt)
            try unfold x2
            refine .trans ?_ (by with_reducible apply evolves_refuse)
            with_reducible apply evolves_modStep
          · with_reducible refine .ite ?_ ?_
            · with_reducible exact .refl _
            · extract_lets +onlyGivenNames x3
              have hx3 : Evolves s x3 := by
                unfold x3
                split
                all_goals first
                  | with_reducible apply evolves_setLine
                  | with_reducible exact .refl _
              try clear_value x3
              extract_lets +onlyGivenNames x4
              try clear_value x4
              extract_lets +onlyGivenNames x5
              try clear_value x5
              extract_lets +onlyGivenNames x6
              have hx6 : Evolves s x6 := by
                unfold x6
                refine .trans ?_ (by with_reducible apply evolves_modStep)
                refine .upd_all ?_ rfl rfl
                with_reducible exact hx3
              try clear_value x6
              refine .trans ?_ (by with_reducible apply evolves_takeUpRevoke)
              with_reducible exact hx6

theorem evolves_dropSlot (s : State) (r slot reason : Nat) : Evolves s (dropSlot s r slot reason) := by
  unfold dropSlot
  extract_lets +onlyGivenNames x0
  try clear_value x0
  extract_lets +onlyGivenNames x1
  have hx1 : Evolves s x1 := by
    unfold x1
    refine .upd_all ?_ rfl rfl
    with_reducible exact .refl _
  try clear_value x1
  extract_lets +onlyGivenNames x2
  try clear_value x2
  extract_lets +onlyGivenNames x3
  try clear_value x3
  with_reducible refine .foldl (fun st4 _ => ?_) _ _ _ ?_
  · with_reducible apply evolves_refuse
  · refine .upd_all ?_ rfl rfl
    with_reducible exact hx1

theorem evolves_revokeRecorded (s : State) (v : Revoking) : Evolves s (revokeRecorded s v) := by
  unfold revokeRecorded
  extract_lets +onlyGivenNames x0
  try clear_value x0
  extract_lets +onlyGivenNames x1
  have hx1 : Evolves s x1 := by
    unfold x1
    refine .trans ?_ (by with_reducible apply evolves_modRevoke)
    with_reducible apply evolves_setHusk
  try clear_value x1
  extract_lets +onlyGivenNames x2
  have hx2 : Evolves s x2 := by
    unfold x2
    with_reducible refine .ite ?_ ?_
    · refine .trans ?_ (by with_reducible apply evolves_modStep)
      with_reducible exact hx1
    · with_reducible exact hx1
  try clear_value x2
  with_reducible refine .foldl (fun st3 _ => ?_) _ _ _ ?_
  · extract_lets +onlyGivenNames x4
    refine .trans ?_ (by with_reducible apply evolves_sendMsg)
    with_reducible apply evolves_newTx
  · with_reducible exact hx2

theorem evolves_revokeEnds (s : State) (v : Revoking) : Evolves s (revokeEnds s v) := by
  unfold revokeEnds
  extract_lets +onlyGivenNames x0
  have hx0 : Evolves s x0 := by
    unfold x0
    with_reducible apply evolves_dropSlot
  try clear_value x0
  extract_lets +onlyGivenNames x1
  try clear_value x1
  extract_lets +onlyGivenNames x2
  have hx2 : Evolves s x2 := by
    unfold x2
    refine .upd_all ?_ rfl rfl
    with_reducible exact hx0
  try clear_value x2
  extract_lets +onlyGivenNames x3
  have hx3 : Evolves s x3 := by
    unfold x3
    with_reducible refine .ite ?_ ?_
    · refine .trans ?_ (by with_reducible apply evolves_formStep)
      with_reducible exact hx2
    · with_reducible exact hx2
  try clear_value x3
  refine .trans ?_ (by with_reducible apply evolves_pumpJobs)
  refine .trans ?_ (by with_reducible apply evolves_retryAll)
  with_reducible exact hx3

theorem evolves_revokeCommitFx (s : State) (slot : Nat) : Evolves s (revokeCommitFx s slot) := by
  unfold revokeCommitFx
  split
  all_goals first
    | with_reducible exact .refl _
    | (with_reducible refine .ite ?_ ?_
       · with_reducible apply evolves_takeUpRevoke
       · with_reducible refine .ite ?_ ?_
         · with_reducible exact .refl _
         · split
           all_goals first
             | with_reducible apply evolves_modRevoke
             | (extract_lets +onlyGivenNames x0
                have hx0 : Evolves s x0 := by
                  unfold x0
                  with_reducible refine .ite ?_ ?_
                  · with_reducible exact .refl _
                  · with_reducible apply evolves_revokeRecorded
                try clear_value x0
                split
                all_goals first
                  | (with_reducible refine .ite ?_ ?_
                     · refine .trans ?_ (by with_reducible apply evolves_revokeEnds)
                       with_reducible exact hx0
                     · with_reducible exact hx0)
                  | with_reducible exact hx0))

end Sys2Proof.Machine
end

