-- ==== Sys2Proof/Laws/Peers.lean ====
section
/-! SUPPORT. What no operation of Machine/Peers.lean can do (Laws/Evolves.lean), one lemma for each. -/

namespace Sys2Proof.Machine

theorem evolves_enterLink (s : State) (l v : Nat) : Evolves s (enterLink s l v) := by
  unfold enterLink
  extract_lets +onlyGivenNames x0
  have hx0 : Evolves s x0 := by
    unfold x0
    with_reducible apply evolves_setLinkState
  try clear_value x0
  extract_lets +onlyGivenNames x1
  try clear_value x1
  refine .trans ?_ (by with_reducible apply evolves_setLink)
  with_reducible exact hx0

theorem evolves_startTraining (s : State) (l : Nat) : Evolves s (startTraining s l) := by
  unfold startTraining
  refine .trans ?_ (by with_reducible apply evolves_enterLink)
  with_reducible refine .ite ?_ ?_
  · with_reducible exact .refl _
  · with_reducible apply evolves_inc

theorem evolves_retryRealm (s : State) (r : Nat) : Evolves s (retryRealm s r) := by
  unfold retryRealm
  refine .trans ?_ (by with_reducible apply evolves_pumpJobs)
  with_reducible apply evolves_retry

theorem evolves_orphanJobs (s : State) (l : Nat) : Evolves s (orphanJobs s l) := by
  unfold orphanJobs
  extract_lets +onlyGivenNames x0
  try clear_value x0
  extract_lets +onlyGivenNames x1
  try clear_value x1
  extract_lets +onlyGivenNames x2
  have hx2 : Evolves s x2 := by
    unfold x2
    with_reducible apply evolves_setLink
  try clear_value x2
  refine .trans ?_ (by with_reducible apply evolves_incBy)
  with_reducible refine .foldl (fun st3 _ => ?_) _ _ _ ?_
  · with_reducible apply evolves_finishEntry
  · with_reducible exact hx2

theorem evolves_dropPeerJobs (s : State) (l : Nat) : Evolves s (dropPeerJobs s l) := by
  unfold dropPeerJobs
  extract_lets +onlyGivenNames x0
  try clear_value x0
  extract_lets +onlyGivenNames x1
  try clear_value x1
  extract_lets +onlyGivenNames x2
  have hx2 : Evolves s x2 := by
    unfold x2
    refine .upd_all ?_ rfl rfl
    with_reducible exact .refl _
  try clear_value x2
  extract_lets +onlyGivenNames x3
  try clear_value x3
  extract_lets +onlyGivenNames x4
  have hx4 : Evolves s x4 := by
    unfold x4
    refine .trans ?_ (by with_reducible apply evolves_setLink)
    with_reducible exact hx2
  try clear_value x4
  extract_lets +onlyGivenNames x5
  try clear_value x5
  refine .trans ?_ (by with_reducible apply evolves_endWaiting)
  refine .upd_all ?_ rfl rfl
  with_reducible exact hx4

theorem evolves_dropPulls (s : State) (l : Nat) : Evolves s (dropPulls s l) := by
  unfold dropPulls
  extract_lets +onlyGivenNames x0
  try clear_value x0
  with_reducible refine .foldl (fun st1 _ => ?_) _ _ _ ?_
  · split
    all_goals first
      | (extract_lets +onlyGivenNames x2
         try clear_value x2
         extract_lets +onlyGivenNames x3
         have hx3 : Evolves st1 x3 := by
           unfold x3
           refine .upd_all ?_ rfl rfl
           with_reducible exact .refl _
         try clear_value x3
         with_reducible refine .ite ?_ ?_
         · with_reducible exact hx3
         · refine .trans ?_ (by with_reducible apply evolves_retry)
           refine .trans ?_ (by with_reducible apply evolves_dropLine)
           with_reducible exact hx3)
      | with_reducible exact .refl _
  · with_reducible apply evolves_setLink

theorem evolves_cancelInstall (s : State) (tok : Nat) : Evolves s (cancelInstall s tok) := by
  unfold cancelInstall
  split
  all_goals first
    | (split
       all_goals first
         | (extract_lets +onlyGivenNames x0
            try clear_value x0
            extract_lets +onlyGivenNames x1
            have hx1 : Evolves s x1 := by
              unfold x1
              refine .trans ?_ (by with_reducible apply evolves_decideOuts)
              refine .trans ?_ (by with_reducible apply evolves_dropLine)
              refine .upd_all ?_ rfl rfl
              with_reducible exact .refl _
            try clear_value x1
            extract_lets +onlyGivenNames x2
            have hx2 : Evolves s x2 := by
              unfold x2
              with_reducible refine .ite ?_ ?_
              · split
                all_goals first
                  | (refine .trans ?_ (by with_reducible apply evolves_refuse)
                     refine .trans ?_ (by with_reducible apply evolves_modStep)
                     with_reducible exact hx1)
                  | with_reducible exact hx1
              · with_reducible exact hx1
            try clear_value x2
            refine .trans ?_ (by with_reducible apply evolves_retryAll)
            with_reducible exact hx2)
         | with_reducible exact .refl _)
    | with_reducible exact .refl _

theorem evolves_dropInstalls (s : State) (l : Nat) : Evolves s (dropInstalls s l) := by
  unfold dropInstalls
  with_reducible refine .foldl (fun st0 _ => ?_) _ _ _ ?_
  · with_reducible apply evolves_cancelInstall
  · with_reducible exact .refl _

theorem evolves_endShared (s : State) (l : Nat) : Evolves s (endShared s l) := by
  unfold endShared
  extract_lets +onlyGivenNames x0
  have hx0 : Evolves s x0 := by
    unfold x0
    refine .trans ?_ (by with_reducible apply evolves_dropInstalls)
    refine .trans ?_ (by with_reducible apply evolves_dropPulls)
    refine .trans ?_ (by with_reducible apply evolves_dropPeerJobs)
    with_reducible apply evolves_orphanJobs
  try clear_value x0
  extract_lets +onlyGivenNames x1
  try clear_value x1
  extract_lets +onlyGivenNames x2
  have hx2 : Evolves s x2 := by
    unfold x2
    refine .trans ?_ (by with_reducible apply evolves_setLink)
    with_reducible exact hx0
  try clear_value x2
  extract_lets +onlyGivenNames x3
  try clear_value x3
  extract_lets +onlyGivenNames x4
  have hx4 : Evolves s x4 := by
    unfold x4
    refine .upd_all ?_ rfl rfl
    with_reducible exact hx2
  try clear_value x4
  extract_lets +onlyGivenNames x5
  have hx5 : Evolves s x5 := by
    unfold x5
    with_reducible refine .foldl (fun st6 _ => ?_) _ _ _ ?_
    · with_reducible apply evolves_wr
    · with_reducible exact hx4
  try clear_value x5
  with_reducible refine .foldl (fun st7 _ => ?_) _ _ _ ?_
  · with_reducible refine .ite ?_ ?_
    · with_reducible apply evolves_retryRealm
    · with_reducible exact .refl _
  · with_reducible exact hx5

theorem evolves_loseLink (s : State) (l reason next : Nat) : Evolves s (loseLink s l reason next) := by
  unfold loseLink
  with_reducible refine .ite ?_ ?_
  · refine .trans ?_ (by with_reducible apply evolves_chaffPlain)
    refine .trans ?_ (by with_reducible apply evolves_setEvt)
    refine .trans ?_ (by with_reducible apply evolves_enterLink)
    with_reducible apply evolves_endShared
  · with_reducible exact .refl _

theorem evolves_linkOff (s : State) (l : Nat) : Evolves s (linkOff s l) := by
  unfold linkOff
  extract_lets +onlyGivenNames x0
  have hx0 : Evolves s x0 := by
    unfold x0
    with_reducible apply evolves_loseLink
  try clear_value x0
  with_reducible refine .ite ?_ ?_
  · with_reducible exact hx0
  · refine .trans ?_ (by with_reducible apply evolves_enterLink)
    with_reducible exact hx0

theorem evolves_sendMirror (s : State) (l source kind cls seq : Nat) :
    Evolves s (sendMirror s l source kind cls seq) := by
  unfold sendMirror
  extract_lets +onlyGivenNames x0
  try clear_value x0
  with_reducible refine .ite ?_ ?_
  · with_reducible apply evolves_sendMsg
  · with_reducible exact .refl _

theorem evolves_sendLeave (s : State) (l : Nat) : Evolves s (sendLeave s l) := by
  unfold sendLeave
  with_reducible refine .ite ?_ ?_
  · with_reducible apply evolves_sendMsg
  · with_reducible exact .refl _

theorem evolves_lockLinks (s : State) : Evolves s (lockLinks s) := by
  unfold lockLinks
  with_reducible refine .foldl (fun st0 _ => ?_) _ _ _ ?_
  · with_reducible refine .ite ?_ ?_
    · extract_lets +onlyGivenNames x1
      have hx1 : Evolves st0 x1 := by
        unfold x1
        with_reducible refine .ite ?_ ?_
        · with_reducible apply evolves_sendLeave
        · with_reducible exact .refl _
      try clear_value x1
      extract_lets +onlyGivenNames x2
      try clear_value x2
      extract_lets +onlyGivenNames x3
      have hx3 : Evolves st0 x3 := by
        unfold x3
        refine .trans ?_ (by with_reducible apply evolves_setLinkState)
        refine .trans ?_ (by with_reducible apply evolves_endShared)
        with_reducible exact hx1
      try clear_value x3
      refine .trans ?_ (by with_reducible apply evolves_setLink)
      with_reducible exact hx3
    · with_reducible exact .refl _
  · with_reducible exact .refl _

theorem evolves_fenceFx (s : State) (l v : Nat) : Evolves s (fenceFx s l v) := by
  unfold fenceFx
  extract_lets +onlyGivenNames x0
  try clear_value x0
  with_reducible refine .ite ?_ ?_
  · with_reducible refine .ite ?_ ?_
    · with_reducible exact .refl _
    · extract_lets +onlyGivenNames x1
      have hx1 : Evolves s x1 := by
        unfold x1
        with_reducible apply evolves_wr
      try clear_value x1
      extract_lets +onlyGivenNames x2
      have hx2 : Evolves s x2 := by
        unfold x2
        with_reducible refine .ite ?_ ?_
        · refine .trans ?_ (by with_reducible apply evolves_endShared)
          with_reducible exact hx1
        · with_reducible exact hx1
      try clear_value x2
      extract_lets +onlyGivenNames x3
      have hx3 : Evolves s x3 := by
        unfold x3
        with_reducible refine .foldl (fun st4 _ => ?_) _ _ _ ?_
        · with_reducible refine .ite ?_ ?_
          · with_reducible apply evolves_wr
          · with_reducible exact .refl _
        · with_reducible exact hx2
      try clear_value x3
      extract_lets +onlyGivenNames x5
      try clear_value x5
      extract_lets +onlyGivenNames x6
      have hx6 : Evolves s x6 := by
        unfold x6
        refine .trans ?_ (by with_reducible apply evolves_setLink)
        with_reducible exact hx3
      try clear_value x6
      extract_lets +onlyGivenNames x7
      have hx7 : Evolves s x7 := by
        unfold x7
        with_reducible refine .ite ?_ ?_
        · with_reducible exact hx6
        · refine .trans ?_ (by with_reducible apply evolves_enterLink)
          with_reducible exact hx6
      try clear_value x7
      with_reducible refine .foldl (fun st8 _ => ?_) _ _ _ ?_
      · with_reducible refine .ite ?_ ?_
        · with_reducible apply evolves_retryRealm
        · with_reducible exact .refl _
      · with_reducible exact hx7
  · with_reducible refine .ite ?_ ?_
    · extract_lets +onlyGivenNames x9
      have hx9 : Evolves s x9 := by
        unfold x9
        with_reducible apply evolves_wr
      try clear_value x9
      with_reducible refine .ite ?_ ?_
      · with_reducible refine .ite ?_ ?_
        · refine .trans ?_ (by with_reducible apply evolves_startTraining)
          with_reducible exact hx9
        · refine .trans ?_ (by with_reducible apply evolves_enterLink)
          with_reducible exact hx9
      · with_reducible exact hx9
    · with_reducible exact .refl _

end Sys2Proof.Machine
end

