-- ==== Sys2Proof/Laws/Teff.lean ====
section
/-! SUPPORT. What no operation of Machine/Teff.lean can do (Laws/Evolves.lean), one lemma for each. -/

namespace Sys2Proof.Machine

theorem evolves_setCell (s : State) (c : Nat) (x : Cell) : Evolves s (setCell s c x) := by
  unfold setCell
  refine .upd_all ?_ rfl rfl
  with_reducible exact .refl _

theorem evolves_checkPool (s : State) : Evolves s (checkPool s) := by
  unfold checkPool
  extract_lets +onlyGivenNames x0
  try clear_value x0
  extract_lets +onlyGivenNames x1
  try clear_value x1
  extract_lets +onlyGivenNames x2
  have hx2 : Evolves s x2 := by
    unfold x2
    with_reducible apply evolves_wr
  try clear_value x2
  with_reducible refine .ite ?_ ?_
  · refine .trans ?_ (by with_reducible apply evolves_chaffPlain)
    refine .trans ?_ (by with_reducible apply evolves_setEvt)
    with_reducible exact hx2
  · with_reducible exact hx2

theorem evolves_startCells (s : State) : Evolves s (startCells s) := by
  unfold startCells
  extract_lets +onlyGivenNames x0
  try clear_value x0
  extract_lets +onlyGivenNames x1
  refine .trans ?_ (by with_reducible apply evolves_checkPool)
  with_reducible refine .foldl (fun st2 _ => ?_) _ _ _ ?_
  · try unfold x1
    with_reducible refine .ite ?_ ?_
    · refine .trans ?_ (by with_reducible apply evolves_wr)
      with_reducible apply evolves_setCell
    · with_reducible exact .refl _
  · with_reducible exact .refl _

theorem evolves_trimWindows (s : State) : Evolves s (trimWindows s) := by
  unfold trimWindows
  with_reducible refine .ite ?_ ?_
  · refine .upd_all ?_ rfl rfl
    with_reducible exact .refl _
  · with_reducible exact .refl _

theorem evolves_dropCell (s : State) (c : Nat) : Evolves s (dropCell s c) := by
  unfold dropCell
  extract_lets +onlyGivenNames x0
  try clear_value x0
  with_reducible refine .ite ?_ ?_
  · with_reducible exact .refl _
  · extract_lets +onlyGivenNames x1
    try clear_value x1
    extract_lets +onlyGivenNames x2
    have hx2 : Evolves s x2 := by
      unfold x2
      with_reducible apply evolves_setCell
    try clear_value x2
    extract_lets +onlyGivenNames x3
    have hx3 : Evolves s x3 := by
      unfold x3
      refine .trans ?_ (by with_reducible apply evolves_wr)
      with_reducible exact hx2
    try clear_value x3
    extract_lets +onlyGivenNames x4
    have hx4 : Evolves s x4 := by
      unfold x4
      refine .trans ?_ (by with_reducible apply evolves_setEvt)
      refine .trans ?_ (by with_reducible apply evolves_wr)
      with_reducible exact hx3
    try clear_value x4
    refine .trans ?_ (by with_reducible apply evolves_checkPool)
    refine .trans ?_ (by with_reducible apply evolves_trimWindows)
    refine .trans ?_ (by with_reducible apply evolves_chaffPlain)
    with_reducible exact hx4

theorem evolves_healthFail (s : State) (c test : Nat) : Evolves s (healthFail s c test) := by
  unfold healthFail
  extract_lets +onlyGivenNames x0
  try clear_value x0
  extract_lets +onlyGivenNames x1
  have hx1 : Evolves s x1 := by
    unfold x1
    refine .trans ?_ (by with_reducible apply evolves_setEvt)
    with_reducible apply evolves_inc
  try clear_value x1
  with_reducible refine .ite ?_ ?_
  · with_reducible exact hx1
  · refine .trans ?_ (by with_reducible apply evolves_chaffPlain)
    with_reducible exact hx1

theorem evolves_windowFx (s : State) (c : Nat) (w : BitVec 1024) : Evolves s (windowFx s c w) := by
  unfold windowFx
  extract_lets +onlyGivenNames x0
  try clear_value x0
  extract_lets +onlyGivenNames x1
  try clear_value x1
  extract_lets +onlyGivenNames x2
  try clear_value x2
  extract_lets +onlyGivenNames x3
  try clear_value x3
  extract_lets +onlyGivenNames x4
  try clear_value x4
  extract_lets +onlyGivenNames x5
  try clear_value x5
  extract_lets +onlyGivenNames x6
  have hx6 : Evolves s x6 := by
    unfold x6
    with_reducible apply evolves_setCell
  try clear_value x6
  with_reducible refine .ite ?_ ?_
  · extract_lets +onlyGivenNames x7
    have hx7 : Evolves s x7 := by
      unfold x7
      refine .trans ?_ (by with_reducible apply evolves_inc)
      with_reducible exact hx6
    try clear_value x7
    extract_lets +onlyGivenNames x8
    have hx8 : Evolves s x8 := by
      unfold x8
      with_reducible refine .ite ?_ ?_
      · refine .trans ?_ (by with_reducible apply evolves_healthFail)
        with_reducible exact hx7
      · with_reducible exact hx7
    try clear_value x8
    extract_lets +onlyGivenNames x9
    have hx9 : Evolves s x9 := by
      unfold x9
      with_reducible refine .ite ?_ ?_
      · refine .trans ?_ (by with_reducible apply evolves_healthFail)
        with_reducible exact hx8
      · with_reducible exact hx8
    try clear_value x9
    refine .trans ?_ (by with_reducible apply evolves_setCell)
    with_reducible exact hx9
  · extract_lets +onlyGivenNames x10
    have hx10 : Evolves s x10 := by
      unfold x10
      refine .trans ?_ (by with_reducible apply evolves_inc)
      with_reducible exact hx6
    try clear_value x10
    with_reducible refine .ite ?_ ?_
    · with_reducible exact hx10
    · with_reducible refine .ite ?_ ?_
      · with_reducible refine .ite ?_ ?_
        · refine .trans ?_ (by with_reducible apply evolves_wr)
          refine .trans ?_ (by with_reducible apply evolves_setCell)
          with_reducible exact hx10
        · refine .trans ?_ (by with_reducible apply evolves_setCell)
          with_reducible exact hx10
      · with_reducible refine .ite ?_ ?_
        · refine .upd_all ?_ rfl rfl
          with_reducible exact hx10
        · with_reducible exact hx10

theorem evolves_supplyAgain (s : State) (e : Nat) : Evolves s (supplyAgain s e) := by
  unfold supplyAgain
  extract_lets +onlyGivenNames x0
  have hx0 : Evolves s x0 := by
    unfold x0
    with_reducible apply evolves_refill
  try clear_value x0
  with_reducible refine .ite ?_ ?_
  · refine .trans ?_ (by with_reducible apply evolves_pumpJobs)
    refine .trans ?_ (by with_reducible apply evolves_retryAll)
    refine .trans ?_ (by with_reducible apply evolves_retryLeases)
    refine .trans ?_ (by with_reducible apply evolves_wr)
    with_reducible exact hx0
  · with_reducible exact hx0

theorem evolves_instantiate (s : State) (e : Nat) (seed : Bytes) : Evolves s (instantiate s e seed) := by
  unfold instantiate
  extract_lets +onlyGivenNames x0
  try clear_value x0
  split
  all_goals first
    | with_reducible apply evolves_setExp
    | (extract_lets +onlyGivenNames x1
       try clear_value x1
       extract_lets +onlyGivenNames x2
       have hx2 : Evolves s x2 := by
         unfold x2
         with_reducible apply evolves_setExp
       try clear_value x2
       extract_lets +onlyGivenNames x3
       have hx3 : Evolves s x3 := by
         unfold x3
         refine .trans ?_ (by with_reducible apply evolves_wr)
         refine .trans ?_ (by with_reducible apply evolves_wr)
         with_reducible exact hx2
       try clear_value x3
       refine .trans ?_ (by with_reducible apply evolves_supplyAgain)
       with_reducible exact hx3)

theorem evolves_reseedExp (s : State) (e : Nat) (seed : Bytes) : Evolves s (reseedExp s e seed) := by
  unfold reseedExp
  extract_lets +onlyGivenNames x0
  try clear_value x0
  extract_lets +onlyGivenNames x1
  try clear_value x1
  extract_lets +onlyGivenNames x2
  try clear_value x2
  extract_lets +onlyGivenNames x3
  try clear_value x3
  extract_lets +onlyGivenNames x4
  try clear_value x4
  extract_lets +onlyGivenNames x5
  try clear_value x5
  extract_lets +onlyGivenNames x6
  have hx6 : Evolves s x6 := by
    unfold x6
    with_reducible apply evolves_setExp
  try clear_value x6
  extract_lets +onlyGivenNames x7
  have hx7 : Evolves s x7 := by
    unfold x7
    refine .trans ?_ (by with_reducible apply evolves_wr)
    refine .trans ?_ (by with_reducible apply evolves_wr)
    refine .trans ?_ (by with_reducible apply evolves_wr)
    with_reducible exact hx6
  try clear_value x7
  extract_lets +onlyGivenNames x8
  have hx8 : Evolves s x8 := by
    unfold x8
    with_reducible refine .ite ?_ ?_
    · refine .trans ?_ (by with_reducible apply evolves_setEvt)
      with_reducible exact hx7
    · with_reducible exact hx7
  try clear_value x8
  extract_lets +onlyGivenNames x9
  have hx9 : Evolves s x9 := by
    unfold x9
    split
    all_goals first
      | (refine .trans ?_ (by with_reducible apply evolves_modStep)
         with_reducible exact hx8)
      | with_reducible exact hx8
  try clear_value x9
  refine .trans ?_ (by with_reducible apply evolves_supplyAgain)
  with_reducible exact hx9

theorem evolves_giveSeed (s : State) (seed : Bytes) : Evolves s (giveSeed s seed) := by
  unfold giveSeed
  split
  all_goals first
    | (refine .upd_all ?_ rfl rfl
       with_reducible exact .refl _)
    | (extract_lets +onlyGivenNames x0
       try clear_value x0
       extract_lets +onlyGivenNames x1
       have hx1 : Evolves s x1 := by
         unfold x1
         refine .trans ?_ (by with_reducible apply evolves_inc)
         refine .upd_all ?_ rfl rfl
         with_reducible exact .refl _
       try clear_value x1
       with_reducible refine .ite ?_ ?_
       · refine .trans ?_ (by with_reducible apply evolves_instantiate)
         with_reducible exact hx1
       · refine .trans ?_ (by with_reducible apply evolves_reseedExp)
         with_reducible exact hx1)

theorem evolves_seedFx (s : State) (katFail : Bool) : Evolves s (seedFx s katFail) := by
  unfold seedFx
  split
  all_goals first
    | with_reducible exact .refl _
    | (extract_lets +onlyGivenNames x0
       try clear_value x0
       extract_lets +onlyGivenNames x1
       have hx1 : Evolves s x1 := by
         unfold x1
         refine .upd_all ?_ rfl rfl
         with_reducible exact .refl _
       try clear_value x1
       extract_lets +onlyGivenNames x2
       have hx2 : Evolves s x2 := by
         unfold x2
         split
         all_goals first
           | (with_reducible refine .ite ?_ ?_
              · refine .trans ?_ (by with_reducible apply evolves_expChaff)
                refine .trans ?_ (by with_reducible apply evolves_setEvt)
                refine .trans ?_ (by with_reducible apply evolves_wr)
                with_reducible exact hx1
              · with_reducible exact hx1)
           | with_reducible exact hx1
       try clear_value x2
       refine .trans ?_ (by with_reducible apply evolves_giveSeed)
       with_reducible exact hx2)

theorem evolves_startTef (s : State) : Evolves s (startTef s) := by
  unfold startTef
  extract_lets +onlyGivenNames x0
  extract_lets +onlyGivenNames x1
  try clear_value x1
  refine .trans ?_ (by with_reducible apply evolves_startCells)
  with_reducible refine .foldl (fun st2 _ => ?_) _ _ _ ?_
  · try unfold x0
    refine .trans ?_ (by with_reducible apply evolves_setExp)
    with_reducible refine .ite ?_ ?_
    · with_reducible apply evolves_wr
    · with_reducible exact .refl _
  · refine .upd_all ?_ rfl rfl
    with_reducible exact .refl _

theorem evolves_zeroCapture (s : State) : Evolves s (zeroCapture s) := by
  unfold zeroCapture
  refine .trans ?_ (by with_reducible apply evolves_wr)
  refine .trans ?_ (by with_reducible apply evolves_wr)
  refine .upd_all ?_ rfl rfl
  with_reducible exact .refl _

theorem evolves_leaveRaw (s : State) (restart : Bool) : Evolves s (leaveRaw s restart) := by
  unfold leaveRaw
  extract_lets +onlyGivenNames x0
  try clear_value x0
  extract_lets +onlyGivenNames x1
  have hx1 : Evolves s x1 := by
    unfold x1
    refine .trans ?_ (by with_reducible apply evolves_wr)
    refine .trans ?_ (by with_reducible apply evolves_wr)
    with_reducible apply evolves_zeroCapture
  try clear_value x1
  with_reducible refine .ite ?_ ?_
  · refine .trans ?_ (by with_reducible apply evolves_startCells)
    with_reducible exact hx1
  · with_reducible exact hx1

theorem evolves_stopTef (s : State) : Evolves s (stopTef s) := by
  unfold stopTef
  refine .trans ?_ (by with_reducible apply evolves_zeroExps)
  with_reducible apply evolves_leaveRaw

theorem evolves_rawCtlFx (s : State) (src v : Nat) : Evolves s (rawCtlFx s src v) := by
  unfold rawCtlFx
  extract_lets +onlyGivenNames x0
  try clear_value x0
  extract_lets +onlyGivenNames x1
  try clear_value x1
  extract_lets +onlyGivenNames x2
  have hx2 : Evolves s x2 := by
    unfold x2
    with_reducible refine .ite ?_ ?_
    · with_reducible refine .ite ?_ ?_
      · with_reducible exact .refl _
      · with_reducible refine .ite ?_ ?_
        · refine .trans ?_ (by with_reducible apply evolves_wr)
          refine .trans ?_ (by with_reducible apply evolves_wr)
          with_reducible apply evolves_zeroExps
        · with_reducible apply evolves_writeIgnored
    · with_reducible refine .ite ?_ ?_
      · with_reducible apply evolves_leaveRaw
      · with_reducible exact .refl _
  try clear_value x2
  with_reducible refine .ite ?_ ?_
  · with_reducible exact hx2
  · extract_lets +onlyGivenNames x3
    have hx3 : Evolves s x3 := by
      unfold x3
      refine .trans ?_ (by with_reducible apply evolves_wr)
      refine .trans ?_ (by with_reducible apply evolves_wr)
      with_reducible exact hx2
    try clear_value x3
    with_reducible refine .ite ?_ ?_
    · refine .trans ?_ (by with_reducible apply evolves_wr)
      refine .trans ?_ (by with_reducible apply evolves_zeroCapture)
      with_reducible exact hx3
    · with_reducible exact hx3

theorem evolves_captureDoneFx (s : State) (data : Bytes) : Evolves s (captureDoneFx s data) := by
  unfold captureDoneFx
  extract_lets +onlyGivenNames x0
  try clear_value x0
  with_reducible refine .ite ?_ ?_
  · refine .trans ?_ (by with_reducible apply evolves_setEvt)
    refine .trans ?_ (by with_reducible apply evolves_wr)
    refine .trans ?_ (by with_reducible apply evolves_wr)
    refine .upd_all ?_ rfl rfl
    with_reducible exact .refl _
  · with_reducible exact .refl _

theorem evolves_reseedReqFx (s : State) (v : Nat) : Evolves s (reseedReqFx s v) := by
  unfold reseedReqFx
  extract_lets +onlyGivenNames x0
  try clear_value x0
  with_reducible apply evolves_wr

theorem evolves_cellClrFx (s : State) (v : Nat) : Evolves s (cellClrFx s v) := by
  unfold cellClrFx
  with_reducible refine .ite ?_ ?_
  · with_reducible refine .foldl (fun st0 _ => ?_) _ _ _ ?_
    · with_reducible refine .ite ?_ ?_
      · with_reducible apply evolves_wr
      · with_reducible exact .refl _
    · with_reducible exact .refl _
  · with_reducible exact .refl _

theorem evolves_swpRead (s : State) : Evolves s (swpRead s).1 := by
  unfold swpRead
  extract_lets
  split
  · exact (evolves_setExp ..).trans (evolves_refill ..)
  · exact (evolves_inc ..).trans (evolves_setEvt ..)

end Sys2Proof.Machine
end

