-- ==== Sys2Proof/Laws/Units.lean ====
section
/-! SUPPORT. What no operation of Machine/Units.lean can do (Laws/Evolves.lean), one lemma for each. -/

namespace Sys2Proof.Machine

theorem evolves_zeroTarget (s : State) (target inst : Nat) : Evolves s (zeroTarget s target inst) := by
  unfold zeroTarget
  with_reducible refine .ite ?_ ?_
  · with_reducible apply evolves_setStash
  · with_reducible refine .ite ?_ ?_
    · with_reducible refine .foldl (fun st0 _ => ?_) _ _ _ ?_
      · refine .trans ?_ (by with_reducible apply evolves_setBankOp)
        refine .trans ?_ (by with_reducible apply evolves_setBankRealm)
        refine .trans ?_ (by with_reducible apply evolves_setBank)
        with_reducible apply evolves_setBankState
      · with_reducible exact .refl _
    · with_reducible refine .ite ?_ ?_
      · with_reducible apply evolves_zeroCapture
      · with_reducible exact .refl _

theorem evolves_abortMemTest (s : State) : Evolves s (abortMemTest s) := by
  unfold abortMemTest
  extract_lets +onlyGivenNames x0
  try clear_value x0
  with_reducible refine .ite ?_ ?_
  · refine .trans ?_ (by with_reducible apply evolves_wr)
    refine .trans ?_ (by with_reducible apply evolves_wr)
    with_reducible apply evolves_zeroTarget
  · with_reducible exact .refl _

theorem evolves_dropTests (s : State) : Evolves s (dropTests s) := by
  unfold dropTests
  extract_lets +onlyGivenNames x0
  have hx0 : Evolves s x0 := by
    unfold x0
    refine .trans ?_ (by with_reducible apply evolves_wr)
    with_reducible apply evolves_wr
  try clear_value x0
  extract_lets +onlyGivenNames x1
  have hx1 : Evolves s x1 := by
    unfold x1
    refine .upd_all ?_ rfl rfl
    with_reducible exact hx0
  try clear_value x1
  extract_lets +onlyGivenNames x2
  have hx2 : Evolves s x2 := by
    unfold x2
    with_reducible refine .foldl (fun st3 _ => ?_) _ _ _ ?_
    · with_reducible apply evolves_wr
    · with_reducible exact hx1
  try clear_value x2
  with_reducible refine .ite ?_ ?_
  · refine .trans ?_ (by with_reducible apply evolves_leaveRaw)
    with_reducible exact hx2
  · with_reducible exact hx2

theorem evolves_checkPermit (s t : State) : Evolves t (checkPermit s t) := by
  unfold checkPermit
  extract_lets t1
  have h1 : Evolves t t1 := .ite (evolves_dropTests ..) (.refl _)
  exact .ite (h1.trans (evolves_abortMemTest ..)) h1

theorem evolves_katCores (s : State) (g kat : Nat) : Evolves s (katCores s g kat) := by
  unfold katCores
  extract_lets +onlyGivenNames x0
  try clear_value x0
  extract_lets +onlyGivenNames x1
  have hx1 : Evolves s x1 := by
    unfold x1
    refine .trans ?_ (by with_reducible apply evolves_wr)
    refine .trans ?_ (by with_reducible apply evolves_wr)
    with_reducible apply evolves_wr
  try clear_value x1
  with_reducible refine .foldl (fun st2 _ => ?_) _ _ _ ?_
  · with_reducible refine .ite ?_ ?_
    · refine .trans ?_ (by with_reducible apply evolves_chaffAny)
      with_reducible apply evolves_setEvt
    · with_reducible exact .refl _
  · with_reducible exact hx1

theorem evolves_onEnable (s : State) (k : PageKind) (i kat : Nat) : Evolves s (onEnable s k i kat) := by
  unfold onEnable
  split
  all_goals first
    | with_reducible apply evolves_startTef
    | (refine .trans ?_ (by with_reducible apply evolves_pumpJobs)
       with_reducible apply evolves_retryAll)
    | with_reducible apply evolves_katCores
    | (extract_lets +onlyGivenNames x0
       have hx0 : Evolves s x0 := by
         unfold x0
         with_reducible apply evolves_wr
       try clear_value x0
       with_reducible refine .foldl (fun st1 _ => ?_) _ _ _ ?_
       · with_reducible apply evolves_wr
       · with_reducible exact hx0)
    | (refine .trans ?_ (by with_reducible apply evolves_wr)
       refine .upd_all ?_ rfl rfl
       with_reducible exact .refl _)
    | (extract_lets +onlyGivenNames x2
       try clear_value x2
       refine .trans ?_ (by with_reducible apply evolves_wr)
       refine .trans ?_ (by with_reducible apply evolves_wr)
       refine .trans ?_ (by with_reducible apply evolves_wr)
       with_reducible apply evolves_setLane)
    | (with_reducible refine .ite ?_ ?_
       · with_reducible apply evolves_enterLink
       · with_reducible refine .ite ?_ ?_
         · with_reducible apply evolves_startTraining
         · with_reducible apply evolves_enterLink)
    | with_reducible exact .refl _

theorem evolves_moveGroup (s : State) (g : Nat) : Evolves s (moveGroup s g) := by
  unfold moveGroup
  with_reducible refine .foldl (fun st0 _ => ?_) _ _ _ ?_
  · extract_lets +onlyGivenNames x1
    try clear_value x1
    split
    all_goals first
      | (extract_lets +onlyGivenNames x2
         try clear_value x2
         extract_lets +onlyGivenNames x3
         try clear_value x3
         refine .trans ?_ (by with_reducible apply evolves_modStep)
         with_reducible apply evolves_ungrant)
      | (extract_lets +onlyGivenNames x4
         have hx4 : Evolves st0 x4 := by
           unfold x4
           refine .trans ?_ (by with_reducible apply evolves_failStep)
           with_reducible apply evolves_notice
         try clear_value x4
         refine .trans ?_ (by with_reducible apply evolves_modStep)
         with_reducible exact hx4)
  · with_reducible exact .refl _

theorem evolves_stopBank (s : State) (n : Nat) : Evolves s (stopBank s n) := by
  unfold stopBank
  split
  all_goals first
    | (split
       all_goals first
         | (with_reducible refine .ite ?_ ?_
            · with_reducible apply evolves_wipeBank
            · with_reducible refine .ite ?_ ?_
              · with_reducible exact .refl _
              · refine .trans ?_ (by with_reducible apply evolves_failStep)
                refine .trans ?_ (by with_reducible apply evolves_dropBank)
                refine .trans ?_ (by with_reducible apply evolves_countAbort)
                with_reducible apply evolves_notice)
         | with_reducible apply evolves_wipeBank)
    | (with_reducible refine .ite ?_ ?_
       · with_reducible exact .refl _
       · with_reducible apply evolves_wipeBank)

theorem evolves_stopArray (s : State) (a : Nat) : Evolves s (stopArray s a) := by
  unfold stopArray
  refine .trans ?_ (by with_reducible apply evolves_stopBank)
  with_reducible apply evolves_stopBank

theorem evolves_emptyLines (s : State) : Evolves s (emptyLines s) := by
  unfold emptyLines
  with_reducible refine .foldl (fun st0 _ => ?_) _ _ _ ?_
  · extract_lets +onlyGivenNames x1
    try clear_value x1
    extract_lets +onlyGivenNames x2
    split
    all_goals first
      | with_reducible exact .refl _
      | (with_reducible refine .ite ?_ ?_
         · split
           all_goals first
             | (try unfold x2
                with_reducible refine .ite ?_ ?_
                · refine .trans ?_ (by with_reducible apply evolves_dropLine)
                  with_reducible exact (evolves_rewrap (by assumption))
                · refine .trans ?_ (by with_reducible apply evolves_setLine)
                  with_reducible exact (evolves_rewrap (by assumption)))
             | with_reducible exact .refl _
         · try unfold x2
           with_reducible refine .ite ?_ ?_
           · with_reducible apply evolves_dropLine
           · with_reducible apply evolves_setLine)
  · with_reducible exact .refl _

theorem evolves_stopKcc (s : State) : Evolves s (stopKcc s) := by
  unfold stopKcc
  extract_lets +onlyGivenNames x0
  try clear_value x0
  refine .trans ?_ (by with_reducible apply evolves_emptyLines)
  refine .trans ?_ (by with_reducible apply evolves_dropFills)
  refine .upd_all ?_ rfl rfl
  with_reducible exact .refl _

theorem evolves_disarmProbe (s : State) : Evolves s (disarmProbe s) := by
  unfold disarmProbe
  extract_lets +onlyGivenNames x0
  have hx0 : Evolves s x0 := by
    unfold x0
    refine .trans ?_ (by with_reducible apply evolves_wr)
    with_reducible apply evolves_wr
  try clear_value x0
  refine .upd_all ?_ rfl rfl
  with_reducible exact hx0

theorem evolves_onDisable (s : State) (k : PageKind) (i : Nat) : Evolves s (onDisable s k i) := by
  unfold onDisable
  split
  all_goals first
    | with_reducible apply evolves_setLane
    | with_reducible apply evolves_moveGroup
    | with_reducible apply evolves_stopArray
    | (extract_lets +onlyGivenNames x0
       try clear_value x0
       extract_lets +onlyGivenNames x1
       have hx1 : Evolves s x1 := by
         unfold x1
         refine .upd_all ?_ rfl rfl
         with_reducible exact .refl _
       try clear_value x1
       with_reducible refine .ite ?_ ?_
       · refine .trans ?_ (by with_reducible apply evolves_stopArray)
         with_reducible exact hx1
       · with_reducible exact hx1)
    | with_reducible apply evolves_stopKcc
    | (with_reducible refine .foldl (fun st2 _ => ?_) _ _ _ ?_
       · with_reducible refine .ite ?_ ?_
         · with_reducible apply evolves_sqDrainFx
         · with_reducible exact .refl _
       · with_reducible exact .refl _)
    | with_reducible apply evolves_stopTef
    | (refine .upd_all ?_ rfl rfl
       with_reducible exact .refl _)
    | (extract_lets +onlyGivenNames x3
       try clear_value x3
       refine .upd_all ?_ rfl rfl
       with_reducible exact .refl _)
    | with_reducible apply evolves_linkOff
    | with_reducible apply evolves_disarmProbe
    | with_reducible exact .refl _

theorem evolves_startDisable (s : State) (p : Nat) : Evolves s (startDisable s p) := by
  unfold startDisable
  split
  all_goals first
    | (refine .trans ?_ (by with_reducible apply evolves_onDisable)
       refine .trans ?_ (by with_reducible apply evolves_setUstate)
       with_reducible apply evolves_wr)
    | with_reducible exact .refl _

theorem evolves_faultSteps (s : State) (u : Nat) (l : List (Nat × Nat)) : Evolves s (faultSteps s u l) := by
  unfold faultSteps
  with_reducible refine .foldl (fun st0 _ => ?_) _ _ _ ?_
  · with_reducible apply evolves_failStep
  · with_reducible exact .refl _

theorem evolves_faultJobs (s : State) (u : Nat) (f : Nat → Bool) : Evolves s (faultJobs s u f) := by
  unfold faultJobs
  with_reducible refine .foldl (fun st0 _ => ?_) _ _ _ ?_
  · with_reducible refine .ite ?_ ?_
    · extract_lets +onlyGivenNames x1
      try clear_value x1
      with_reducible apply evolves_endChain
    · with_reducible exact .refl _
  · with_reducible exact .refl _

theorem evolves_faultArray (s : State) (a : Nat) : Evolves s (faultArray s a) := by
  unfold faultArray
  extract_lets +onlyGivenNames x0
  try clear_value x0
  extract_lets +onlyGivenNames x1
  have hx1 : Evolves s x1 := by
    unfold x1
    with_reducible refine .foldl (fun st2 _ => ?_) _ _ _ ?_
    · with_reducible apply evolves_modStep
    · with_reducible apply evolves_faultSteps
  try clear_value x1
  with_reducible refine .foldl (fun st3 _ => ?_) _ _ _ ?_
  · refine .trans ?_ (by with_reducible apply evolves_setBankRealm)
    refine .trans ?_ (by with_reducible apply evolves_setBank)
    with_reducible apply evolves_setBankState
  · with_reducible exact hx1

theorem evolves_holdPorts (s : State) : Evolves s (holdPorts s) := by
  unfold holdPorts
  extract_lets +onlyGivenNames x0
  try clear_value x0
  extract_lets +onlyGivenNames x1
  try clear_value x1
  extract_lets +onlyGivenNames x2
  have hx2 : Evolves s x2 := by
    unfold x2
    refine .upd_all ?_ rfl rfl
    with_reducible exact .refl _
  try clear_value x2
  with_reducible refine .foldl (fun st3 _ => ?_) _ _ _ ?_
  · split
    all_goals first
      | (split
         all_goals first
           | (refine .trans ?_ (by with_reducible apply evolves_outAnswer)
              with_reducible apply evolves_endFault)
           | with_reducible exact .refl _)
      | with_reducible exact .refl _
  · with_reducible exact hx2

theorem evolves_onFence (s : State) (k : PageKind) (i : Nat) : Evolves s (onFence s k i) := by
  unfold onFence
  split
  all_goals first
    | (extract_lets +onlyGivenNames x0
       try clear_value x0
       refine .trans ?_ (by with_reducible apply evolves_setLane)
       with_reducible apply evolves_faultSteps)
    | (extract_lets +onlyGivenNames x1
       try clear_value x1
       with_reducible refine .foldl (fun st2 _ => ?_) _ _ _ ?_
       · with_reducible apply evolves_modStep
       · with_reducible apply evolves_faultSteps)
    | with_reducible apply evolves_faultArray
    | (extract_lets +onlyGivenNames x3
       have hx3 : Evolves s x3 := by
         unfold x3
         with_reducible apply evolves_faultJobs
       try clear_value x3
       with_reducible refine .ite ?_ ?_
       · refine .trans ?_ (by with_reducible apply evolves_faultArray)
         with_reducible exact hx3
       · with_reducible exact hx3)
    | (extract_lets +onlyGivenNames x4
       try clear_value x4
       extract_lets +onlyGivenNames x5
       have hx5 : Evolves s x5 := by
         unfold x5
         with_reducible apply evolves_faultSteps
       try clear_value x5
       refine .upd_all ?_ rfl rfl
       with_reducible exact hx5)
    | (extract_lets +onlyGivenNames x6
       try clear_value x6
       extract_lets +onlyGivenNames x7
       have hx7 : Evolves s x7 := by
         unfold x7
         with_reducible apply evolves_dropFills
       try clear_value x7
       extract_lets +onlyGivenNames x8
       try clear_value x8
       extract_lets +onlyGivenNames x9
       have hx9 : Evolves s x9 := by
         unfold x9
         refine .upd_all ?_ rfl rfl
         with_reducible exact hx7
       try clear_value x9
       refine .trans ?_ (by with_reducible apply evolves_pumpJobs)
       with_reducible refine .foldl (fun st10 _ => ?_) _ _ _ ?_
       · with_reducible apply evolves_failLook
       · with_reducible exact hx9)
    | with_reducible apply evolves_stopTef
    | (extract_lets +onlyGivenNames x11
       try clear_value x11
       refine .trans ?_ (by with_reducible apply evolves_faultSteps)
       refine .upd_all ?_ rfl rfl
       with_reducible exact .refl _)
    | with_reducible apply evolves_linkOff
    | with_reducible apply evolves_disarmProbe
    | (refine .upd_all ?_ rfl rfl
       with_reducible exact .refl _)
    | (extract_lets +onlyGivenNames x12
       try clear_value x12
       extract_lets +onlyGivenNames x13
       have hx13 : Evolves s x13 := by
         unfold x13
         with_reducible apply evolves_holdPorts
       try clear_value x13
       extract_lets +onlyGivenNames x14
       try clear_value x14
       extract_lets +onlyGivenNames x15
       have hx15 : Evolves s x15 := by
         unfold x15
         refine .upd_all ?_ rfl rfl
         with_reducible exact hx13
       try clear_value x15
       extract_lets +onlyGivenNames x16
       have hx16 : Evolves s x16 := by
         unfold x16
         with_reducible refine .foldl (fun st17 _ => ?_) _ _ _ ?_
         · with_reducible apply evolves_finishEntry
         · with_reducible exact hx15
       try clear_value x16
       refine .trans ?_ (by with_reducible apply evolves_faultJobs)
       with_reducible exact hx16)
    | with_reducible exact .refl _

theorem evolves_fencePage (s : State) (p : Nat) : Evolves s (fencePage s p) := by
  unfold fencePage
  split
  all_goals first
    | (refine .trans ?_ (by with_reducible apply evolves_onFence)
       refine .trans ?_ (by with_reducible apply evolves_setUstate)
       with_reducible apply evolves_wr)
    | with_reducible exact .refl _

theorem evolves_ctlFx (s : State) (src p v : Nat) : Evolves s (ctlFx s src p v) := by
  unfold ctlFx
  split
  all_goals first
    | with_reducible exact .refl _
    | (extract_lets +onlyGivenNames x0
       try clear_value x0
       extract_lets +onlyGivenNames x1
       have hx1 : Evolves s x1 := by
         unfold x1
         refine .trans ?_ (by with_reducible apply evolves_wr)
         with_reducible apply evolves_storePage
       try clear_value x1
       extract_lets +onlyGivenNames x2
       try clear_value x2
       with_reducible refine .ite ?_ ?_
       · with_reducible exact hx1
       · with_reducible refine .ite ?_ ?_
         · with_reducible refine .ite ?_ ?_
           · refine .trans ?_ (by with_reducible apply evolves_setUstate)
             refine .trans ?_ (by with_reducible apply evolves_wr)
             with_reducible exact hx1
           · with_reducible exact hx1
         · with_reducible refine .ite ?_ ?_
           · refine .trans ?_ (by with_reducible apply evolves_wr)
             with_reducible exact hx1
           · with_reducible refine .ite ?_ ?_
             · with_reducible refine .ite ?_ ?_
               · refine .trans ?_ (by with_reducible apply evolves_wr)
                 with_reducible exact hx1
               · refine .trans ?_ (by with_reducible apply evolves_startDisable)
                 with_reducible exact hx1
             · with_reducible exact hx1)

theorem evolves_cyclePage (s : State) (p v : Nat) : Evolves s (cyclePage s p v) := by
  unfold cyclePage
  with_reducible refine .ite ?_ ?_
  · with_reducible exact .refl _
  · extract_lets +onlyGivenNames x0
    try clear_value x0
    extract_lets +onlyGivenNames x1
    try clear_value x1
    extract_lets +onlyGivenNames x2
    have hx2 : Evolves s x2 := by
      unfold x2
      refine .upd_all ?_ rfl rfl
      with_reducible exact .refl _
    try clear_value x2
    extract_lets +onlyGivenNames x3
    have hx3 : Evolves s x3 := by
      unfold x3
      with_reducible refine .ite ?_ ?_
      · refine .trans ?_ (by with_reducible apply evolves_wr)
        refine .trans ?_ (by with_reducible apply evolves_wr)
        with_reducible exact hx2
      · with_reducible refine .ite ?_ ?_
        · refine .trans ?_ (by with_reducible apply evolves_wr)
          with_reducible exact hx2
        · refine .trans ?_ (by with_reducible apply evolves_wr)
          with_reducible exact hx2
    try clear_value x3
    with_reducible refine .ite ?_ ?_
    · refine .trans ?_ (by with_reducible apply evolves_setUstate)
      refine .trans ?_ (by with_reducible apply evolves_wr)
      with_reducible exact hx3
    · with_reducible exact hx3

theorem evolves_cycleStep (s : State) : Evolves s (cycleStep s) := by
  unfold cycleStep
  with_reducible refine .ite ?_ ?_
  · with_reducible refine .foldl (fun st0 _ => ?_) _ _ _ ?_
    · with_reducible apply evolves_cyclePage
    · with_reducible exact .refl _
  · with_reducible exact .refl _

theorem evolves_enableDone (s : State) (p kat : Nat) : Evolves s (enableDone s p kat) := by
  unfold enableDone
  split
  all_goals first
    | with_reducible exact .refl _
    | (extract_lets +onlyGivenNames x0
       try clear_value x0
       extract_lets +onlyGivenNames x1
       have hx1 : Evolves s x1 := by
         unfold x1
         with_reducible apply evolves_wr
       try clear_value x1
       with_reducible refine .ite ?_ ?_
       · extract_lets +onlyGivenNames x2
         have hx2 : Evolves s x2 := by
           unfold x2
           refine .trans ?_ (by with_reducible apply evolves_onEnable)
           refine .trans ?_ (by with_reducible apply evolves_setUstate)
           with_reducible exact hx1
         try clear_value x2
         refine .trans ?_ (by with_reducible apply evolves_cycleStep)
         with_reducible refine .ite ?_ ?_
         · with_reducible exact hx2
         · refine .trans ?_ (by with_reducible apply evolves_startDisable)
           with_reducible exact hx2
       · extract_lets +onlyGivenNames x3
         have hx3 : Evolves s x3 := by
           unfold x3
           with_reducible refine .ite ?_ ?_
           · refine .trans ?_ (by with_reducible apply evolves_katCores)
             with_reducible exact hx1
           · with_reducible exact hx1
         try clear_value x3
         extract_lets +onlyGivenNames x4
         have hx4 : Evolves s x4 := by
           unfold x4
           refine .trans ?_ (by with_reducible apply evolves_setEvt)
           refine .trans ?_ (by with_reducible apply evolves_setUstate)
           refine .trans ?_ (by with_reducible apply evolves_wr)
           with_reducible exact hx3
         try clear_value x4
         refine .trans ?_ (by with_reducible apply evolves_cycleStep)
         refine .upd_all ?_ rfl rfl
         with_reducible exact hx4)

theorem evolves_disableDone (s : State) (p : Nat) : Evolves s (disableDone s p) := by
  unfold disableDone
  split
  all_goals first
    | with_reducible exact .refl _
    | (extract_lets +onlyGivenNames x0
       have hx0 : Evolves s x0 := by
         unfold x0
         with_reducible refine .ite ?_ ?_
         · with_reducible apply evolves_emptyLines
         · with_reducible exact .refl _
       try clear_value x0
       with_reducible refine .ite ?_ ?_
       · extract_lets +onlyGivenNames x1
         try clear_value x1
         refine .trans ?_ (by with_reducible apply evolves_cycleStep)
         refine .trans ?_ (by with_reducible apply evolves_setUstate)
         refine .upd_all ?_ rfl rfl
         with_reducible exact hx0
       · with_reducible exact hx0)

end Sys2Proof.Machine
end

