-- ==== Sys2Proof/Laws/Glume.lean ====
section
/-! SUPPORT. What no operation of Machine/Glume.lean can do (Laws/Evolves.lean), one lemma for each. -/

namespace Sys2Proof.Machine

theorem evolves_setOtp {s : State} {w : Nat} {o : OtpWord}
    (h : ∀ p, SMap.get? s.glm.otp w = some p → p.data &&& o.data = p.data) : Evolves s (setOtp s w o) := by
  refine ⟨rfl, rfl, Nat.le_refl _, Nat.le_refl _, id, id, SMap.wf_set w o, fun v p hp => ?_⟩
  show ∃ o', SMap.get? (SMap.set s.glm.otp w o) v = some o' ∧ _
  rw [SMap.get?_set]
  split
  · next hv => subst hv; exact ⟨o, rfl, h p hp⟩
  · exact ⟨p, hp, Nat.and_self _⟩

theorem evolves_burnWord (s : State) (w bits : Nat) (whole : Bool) : Evolves s (burnWord s w bits whole) := by
  unfold burnWord
  extract_lets o new
  refine .trans (evolves_setOtp fun p hp => ?_) (evolves_incBy ..)
  have ho : o = p := by simp [o, otpWordRec, SMap.getD, hp]
  show p.data &&& new = p.data
  rw [show new = p.data ||| bits % 65536 by simp only [new, ho]]
  apply Nat.eq_of_testBit_eq
  intro i
  simp only [Nat.testBit_and, Nat.testBit_or]
  cases p.data.testBit i <;> simp

theorem evolves_burnAll (s : State) (ws : List (Nat × Nat)) : Evolves s (burnAll s ws) := by
  unfold burnAll
  with_reducible refine .foldl (fun st0 _ => ?_) _ _ _ ?_
  · with_reducible apply evolves_burnWord
  · with_reducible exact .refl _

theorem evolves_burnSome (s : State) (ws : List (Nat × Nat)) : Evolves s (burnSome s ws) := by
  unfold burnSome
  with_reducible refine .foldl (fun st0 _ => ?_) _ _ _ ?_
  · refine .trans ?_ (by with_reducible apply evolves_burnWord)
    refine .upd_freeCtr ?_ ?_
    · with_reducible exact .refl _
    · exact Nat.le_add_right _ _
  · with_reducible exact .refl _

theorem evolves_addBurn (s : State) (b : Burn) : Evolves s (addBurn s b) := by
  unfold addBurn
  refine .upd_all ?_ rfl rfl
  with_reducible exact .refl _

theorem evolves_stopGlume (s : State) : Evolves s (stopGlume s) := by
  unfold stopGlume
  extract_lets +onlyGivenNames x0
  have hx0 : Evolves s x0 := by
    unfold x0
    split
    all_goals first
      | with_reducible apply evolves_burnSome
      | with_reducible exact .refl _
  try clear_value x0
  refine .upd_all ?_ rfl rfl
  with_reducible exact hx0

theorem evolves_glmRefuse (s : State) (src off reason : Nat) : Evolves s (glmRefuse s src off reason) := by
  unfold glmRefuse
  refine .trans ?_ (by with_reducible apply evolves_writeIgnored)
  with_reducible apply evolves_wr

theorem evolves_resumeCp (s : State) : Evolves s (resumeCp s) := by
  unfold resumeCp
  with_reducible refine .ite ?_ ?_
  · extract_lets +onlyGivenNames x0
    have hx0 : Evolves s x0 := by
      unfold x0
      refine .trans ?_ (by with_reducible apply evolves_wr)
      refine .trans ?_ (by with_reducible apply evolves_wr)
      with_reducible apply evolves_wr
    try clear_value x0
    refine .upd_all ?_ rfl rfl
    with_reducible exact hx0
  · with_reducible exact .refl _

theorem evolves_haltCp (s : State) : Evolves s (haltCp s) := by
  unfold haltCp
  refine .ite (.refl _) ?_
  refine .trans ?_ (evolves_wr ..)
  refine .trans ?_ (evolves_wr ..)
  refine .trans ?_ (evolves_wr ..)
  exact .upd_all (.upd_freeCtr (.refl _) (Nat.le_succ _)) rfl rfl

theorem evolves_endGrantFx (s : State) : Evolves s (endGrantFx s) := by
  unfold endGrantFx
  extract_lets +onlyGivenNames x0
  try clear_value x0
  with_reducible refine .ite ?_ ?_
  · extract_lets +onlyGivenNames x1
    have hx1 : Evolves s x1 := by
      unfold x1
      refine .trans ?_ (by with_reducible apply evolves_wr)
      refine .trans ?_ (by with_reducible apply evolves_wr)
      with_reducible apply evolves_wr
    try clear_value x1
    extract_lets +onlyGivenNames x2
    extract_lets +onlyGivenNames x3
    have hx3 : Evolves s x3 := by
      unfold x3
      refine .trans ?_ (by with_reducible apply evolves_wr)
      refine .upd_all ?_ rfl rfl
      with_reducible exact hx1
    try clear_value x3
    refine .trans ?_ (by with_reducible apply evolves_checkPermit)
    refine .trans ?_ (by with_reducible apply evolves_resumeCp)
    refine .trans ?_ (by with_reducible apply evolves_setEvt)
    with_reducible exact hx3
  · with_reducible exact .refl _

theorem evolves_startGrant (s : State) (b : Bytes) : Evolves s (startGrant s b) := by
  unfold startGrant
  extract_lets +onlyGivenNames x0
  try clear_value x0
  extract_lets +onlyGivenNames x1
  try clear_value x1
  extract_lets +onlyGivenNames x2
  extract_lets +onlyGivenNames x3
  have hx3 : Evolves s x3 := by
    unfold x3
    refine .upd_all ?_ rfl rfl
    with_reducible exact .refl _
  try clear_value x3
  extract_lets +onlyGivenNames x4
  have hx4 : Evolves s x4 := by
    unfold x4
    refine .trans ?_ (by with_reducible apply evolves_wr)
    refine .trans ?_ (by with_reducible apply evolves_wr)
    refine .trans ?_ (by with_reducible apply evolves_wr)
    refine .trans ?_ (by with_reducible apply evolves_wr)
    with_reducible exact hx3
  try clear_value x4
  extract_lets +onlyGivenNames x5
  have hx5 : Evolves s x5 := by
    unfold x5
    refine .trans ?_ (by with_reducible apply evolves_setEvt)
    refine .trans ?_ (by with_reducible apply evolves_wr)
    with_reducible exact hx4
  try clear_value x5
  refine .trans ?_ (by with_reducible apply evolves_checkPermit)
  with_reducible refine .ite ?_ ?_
  · refine .trans ?_ (by with_reducible apply evolves_resumeCp)
    with_reducible exact hx5
  · with_reducible exact hx5

theorem evolves_tokenDone (s : State) : Evolves s (tokenDone s) := by
  unfold tokenDone
  extract_lets +onlyGivenNames x0
  try clear_value x0
  split
  all_goals first
    | with_reducible exact .refl _
    | (extract_lets +onlyGivenNames x1
       extract_lets +onlyGivenNames x2
       have hx2 : Evolves s x2 := by
         unfold x2
         refine .upd_all ?_ rfl rfl
         with_reducible exact .refl _
       try clear_value x2
       extract_lets +onlyGivenNames x3
       try clear_value x3
       with_reducible refine .ite ?_ ?_
       · refine .trans ?_ (by with_reducible apply evolves_startGrant)
         with_reducible exact hx2
       · extract_lets +onlyGivenNames x4
         have hx4 : Evolves s x4 := by
           unfold x4
           refine .trans ?_ (by with_reducible apply evolves_setEvt)
           refine .trans ?_ (by with_reducible apply evolves_inc)
           refine .trans ?_ (by with_reducible apply evolves_wr)
           with_reducible exact hx2
         try clear_value x4
         refine .trans ?_ (by with_reducible apply evolves_writeIgnored)
         refine .upd_all ?_ rfl rfl
         with_reducible exact hx4)

theorem evolves_challengeFx (s : State) : Evolves s (challengeFx s) := by
  unfold challengeFx
  extract_lets +onlyGivenNames x0
  try clear_value x0
  extract_lets +onlyGivenNames x1
  try clear_value x1
  with_reducible refine .ite ?_ ?_
  · refine .trans ?_ (by with_reducible apply evolves_glmRefuse)
    with_reducible apply evolves_wr
  · extract_lets +onlyGivenNames x2
    try clear_value x2
    extract_lets +onlyGivenNames x3
    have hx3 : Evolves s x3 := by
      unfold x3
      refine .trans ?_ (by with_reducible apply evolves_wr)
      with_reducible apply evolves_wr
    try clear_value x3
    refine .trans ?_ (by with_reducible apply evolves_wr)
    refine .upd_all ?_ rfl rfl
    with_reducible exact hx3

theorem evolves_submitFx (s : State) : Evolves s (submitFx s) := by
  unfold submitFx
  extract_lets +onlyGivenNames x0
  try clear_value x0
  with_reducible refine .ite ?_ ?_
  · with_reducible exact .refl _
  · extract_lets +onlyGivenNames x1
    try clear_value x1
    extract_lets +onlyGivenNames x2
    try clear_value x2
    refine .trans ?_ (by with_reducible apply evolves_wr)
    refine .upd_all ?_ rfl rfl
    with_reducible exact .refl _

theorem evolves_haltFx (s : State) (v : Bool) : Evolves s (haltFx s v) := by
  unfold haltFx
  extract_lets +onlyGivenNames x0
  have hx0 : Evolves s x0 := by
    unfold x0
    with_reducible refine .ite ?_ ?_
    · with_reducible apply evolves_endGrantFx
    · with_reducible exact .refl _
  try clear_value x0
  with_reducible refine .ite ?_ ?_
  · with_reducible refine .ite ?_ ?_
    · refine .trans ?_ (by with_reducible apply evolves_haltCp)
      with_reducible exact hx0
    · refine .trans ?_ (by with_reducible apply evolves_glmRefuse)
      with_reducible exact hx0
  · refine .trans ?_ (by with_reducible apply evolves_resumeCp)
    with_reducible exact hx0

theorem evolves_dbgCtlFx (s : State) (src v : Nat) : Evolves s (dbgCtlFx s src v) := by
  unfold dbgCtlFx
  with_reducible refine .ite ?_ ?_
  · with_reducible exact .refl _
  · with_reducible refine .ite ?_ ?_
    · with_reducible refine .ite ?_ ?_
      · with_reducible apply evolves_endGrantFx
      · with_reducible exact .refl _
    · extract_lets +onlyGivenNames x0
      have hx0 : Evolves s x0 := by
        unfold x0
        with_reducible refine .ite ?_ ?_
        · with_reducible apply evolves_challengeFx
        · with_reducible exact .refl _
      try clear_value x0
      extract_lets +onlyGivenNames x1
      have hx1 : Evolves s x1 := by
        unfold x1
        with_reducible refine .ite ?_ ?_
        · refine .trans ?_ (by with_reducible apply evolves_submitFx)
          with_reducible exact hx0
        · with_reducible exact hx0
      try clear_value x1
      extract_lets +onlyGivenNames x2
      have hx2 : Evolves s x2 := by
        unfold x2
        with_reducible refine .ite ?_ ?_
        · refine .trans ?_ (by with_reducible apply evolves_endGrantFx)
          with_reducible exact hx1
        · with_reducible exact hx1
      try clear_value x2
      refine .trans ?_ (by with_reducible apply evolves_haltFx)
      with_reducible exact hx2

theorem evolves_tokenWrite (s : State) (off v : Nat) : Evolves s (tokenWrite s off v) := by
  unfold tokenWrite
  extract_lets +onlyGivenNames x0
  try clear_value x0
  extract_lets +onlyGivenNames x1
  try clear_value x1
  refine .upd_all ?_ rfl rfl
  with_reducible exact .refl _

theorem evolves_setStage (s : State) (n : Nat) : Evolves s (setStage s n) := by
  unfold setStage
  with_reducible apply evolves_wr

theorem evolves_transResult (s : State) (r : Nat) : Evolves s (transResult s r) := by
  unfold transResult
  refine .upd_all ?_ rfl rfl
  with_reducible exact .refl _

theorem evolves_stage4 (s : State) (target : Nat) : Evolves s (stage4 s target) := by
  unfold stage4
  refine .trans ?_ (by with_reducible apply evolves_addBurn)
  with_reducible apply evolves_setStage

theorem evolves_stage3 (s : State) (target : Nat) : Evolves s (stage3 s target) := by
  unfold stage3
  extract_lets +onlyGivenNames x0
  have hx0 : Evolves s x0 := by
    unfold x0
    with_reducible apply evolves_setStage
  try clear_value x0
  with_reducible refine .ite ?_ ?_
  · refine .trans ?_ (by with_reducible apply evolves_addBurn)
    with_reducible exact hx0
  · split
    all_goals
      extract_lets +onlyGivenNames x1
      try clear_value x1
      refine .trans ?_ (by with_reducible apply evolves_addBurn)
      refine .trans ?_ (.fst (by assumption) (by with_reducible apply evolves_draw))
      with_reducible exact hx0

theorem evolves_stage2 (s : State) : Evolves s (stage2 s) := by
  unfold stage2
  extract_lets +onlyGivenNames x0
  try unfold x0
  extract_lets +onlyGivenNames x1
  with_reducible refine .ite ?_ ?_
  · refine .trans ?_ (by with_reducible apply evolves_submitProg)
    try unfold x0
    extract_lets +onlyGivenNames x2
    with_reducible refine .ite ?_ ?_
    · refine .trans ?_ (by with_reducible apply evolves_submitProg)
      with_reducible apply evolves_setStage
    · refine .trans ?_ (by with_reducible apply evolves_transResult)
      refine .trans ?_ (by with_reducible apply evolves_submitProg)
      with_reducible apply evolves_setStage
  · refine .trans ?_ (by with_reducible apply evolves_transResult)
    refine .trans ?_ (by with_reducible apply evolves_submitProg)
    try unfold x0
    extract_lets +onlyGivenNames x3
    with_reducible refine .ite ?_ ?_
    · refine .trans ?_ (by with_reducible apply evolves_submitProg)
      with_reducible apply evolves_setStage
    · refine .trans ?_ (by with_reducible apply evolves_transResult)
      refine .trans ?_ (by with_reducible apply evolves_submitProg)
      with_reducible apply evolves_setStage

theorem evolves_wipeStores (s : State) : Evolves s (wipeStores s) := by
  unfold wipeStores
  extract_lets +onlyGivenNames x0
  try clear_value x0
  extract_lets +onlyGivenNames x1
  try clear_value x1
  refine .trans ?_ (by with_reducible apply evolves_emptyBanks)
  refine .upd_all ?_ rfl rfl
  with_reducible exact .refl _

theorem evolves_startTransition (s : State) (target : Nat) : Evolves s (startTransition s target) := by
  unfold startTransition
  extract_lets +onlyGivenNames x0
  extract_lets +onlyGivenNames x1
  have hx1 : Evolves s x1 := by
    unfold x1
    refine .trans ?_ (by with_reducible apply evolves_wr)
    refine .upd_all ?_ rfl rfl
    with_reducible exact .refl _
  try clear_value x1
  with_reducible refine .ite ?_ ?_
  · refine .trans ?_ (by with_reducible apply evolves_setStage)
    with_reducible exact hx1
  · with_reducible refine .ite ?_ ?_
    · refine .trans ?_ (by with_reducible apply evolves_stage3)
      with_reducible exact hx1
    · refine .trans ?_ (by with_reducible apply evolves_stage4)
      with_reducible exact hx1

theorem evolves_lcReqFx (s : State) (src v : Nat) : Evolves s (lcReqFx s src v) := by
  unfold lcReqFx
  extract_lets +onlyGivenNames x0
  try clear_value x0
  with_reducible refine .ite ?_ ?_
  · with_reducible exact .refl _
  · extract_lets +onlyGivenNames x1
    try clear_value x1
    with_reducible refine .ite ?_ ?_
    · refine .trans ?_ (by with_reducible apply evolves_startTransition)
      with_reducible apply evolves_endGrantFx
    · refine .trans ?_ (by with_reducible apply evolves_writeIgnored)
      with_reducible apply evolves_wr

theorem evolves_glumePump (s : State) : Evolves s (glumePump s) := by
  unfold glumePump
  split
  all_goals first
    | (with_reducible refine .ite ?_ ?_
       · with_reducible apply evolves_stage3
       · with_reducible exact .refl _)
    | with_reducible exact .refl _

theorem evolves_wipeDoneLc (s : State) : Evolves s (wipeDoneLc s) := by
  unfold wipeDoneLc
  split
  all_goals first
    | (with_reducible refine .ite ?_ ?_
       · refine .trans ?_ (by with_reducible apply evolves_stage2)
         with_reducible apply evolves_wipeStores
       · with_reducible exact .refl _)
    | with_reducible exact .refl _

theorem evolves_lcDone (s : State) : Evolves s (lcDone s) := by
  unfold lcDone
  split
  all_goals first
    | (extract_lets +onlyGivenNames x0
       try clear_value x0
       extract_lets +onlyGivenNames x1
       extract_lets +onlyGivenNames x2
       have hx2 : Evolves s x2 := by
         unfold x2
         refine .trans ?_ (by with_reducible apply evolves_setStage)
         refine .trans ?_ (by with_reducible apply evolves_wr)
         refine .upd_all ?_ rfl rfl
         with_reducible exact .refl _
       try clear_value x2
       refine .trans ?_ (by with_reducible apply evolves_setEvt)
       refine .trans ?_ (by with_reducible apply evolves_wr)
       with_reducible exact hx2)
    | with_reducible exact .refl _

theorem evolves_lockGlume (s : State) : Evolves s (lockGlume s) := by
  unfold lockGlume
  extract_lets +onlyGivenNames x0
  try clear_value x0
  extract_lets +onlyGivenNames x1
  try clear_value x1
  extract_lets +onlyGivenNames x2
  extract_lets +onlyGivenNames x3
  extract_lets +onlyGivenNames x4
  have hx4 : Evolves s x4 := by
    unfold x4
    refine .upd_all ?_ rfl rfl
    with_reducible exact .refl _
  try clear_value x4
  extract_lets +onlyGivenNames x5
  have hx5 : Evolves s x5 := by
    unfold x5
    with_reducible refine .ite ?_ ?_
    · refine .trans ?_ (by with_reducible apply evolves_setStage)
      refine .trans ?_ (by with_reducible apply evolves_wr)
      with_reducible exact hx4
    · with_reducible exact .refl _
  try clear_value x5
  refine .trans ?_ (by with_reducible apply evolves_resumeCp)
  refine .upd_all ?_ rfl rfl
  with_reducible exact hx5

theorem evolves_arbRaise (s : State) (target : Nat) : Evolves s (arbRaise s target).1 := by
  unfold arbRaise
  split
  · exact .refl _
  · exact evolves_addBurn ..

theorem evolves_arbReqFx (s : State) (src v : Nat) : Evolves s (arbReqFx s src v) := by
  unfold arbReqFx
  with_reducible refine .ite ?_ ?_
  · with_reducible exact .refl _
  · with_reducible refine .ite ?_ ?_
    · with_reducible apply evolves_glmRefuse
    · extract_lets +onlyGivenNames x0
      with_reducible refine .ite ?_ ?_
      · with_reducible apply evolves_arbRaise
      · with_reducible apply evolves_glmRefuse

theorem evolves_otpProgFx (s : State) (src v : Nat) : Evolves s (otpProgFx s src v) := by
  unfold otpProgFx
  extract_lets +onlyGivenNames x0
  try clear_value x0
  extract_lets +onlyGivenNames x1
  try clear_value x1
  with_reducible refine .ite ?_ ?_
  · with_reducible exact .refl _
  · with_reducible refine .ite ?_ ?_
    · with_reducible apply evolves_glmRefuse
    · with_reducible refine .ite ?_ ?_
      · with_reducible apply evolves_addBurn
      · with_reducible apply evolves_glmRefuse

theorem evolves_dataBurned (s : State) (b : Burn) (ok : Bool) : Evolves s (dataBurned s b ok) := by
  unfold dataBurned
  split
  all_goals first
    | with_reducible exact .refl _
    | (with_reducible refine .ite ?_ ?_
       · with_reducible refine .ite ?_ ?_
         · with_reducible refine .ite ?_ ?_
           · with_reducible apply evolves_transResult
           · with_reducible apply evolves_addBurn
         · with_reducible apply evolves_stage4
       · with_reducible refine .ite ?_ ?_
         · with_reducible apply evolves_stage4
         · with_reducible apply evolves_transResult)

theorem evolves_segmentBurned (s t : State) (b : Burn) : Evolves t (segmentBurned s t b) := by
  unfold segmentBurned
  exact .ite ((evolves_transResult ..).trans (evolves_checkPermit ..)) (evolves_transResult ..)

theorem evolves_burnDone (s : State) (ok : Bool) : Evolves s (burnDone s ok) := by
  unfold burnDone
  split
  all_goals first
    | with_reducible exact .refl _
    | (extract_lets +onlyGivenNames x0
       extract_lets +onlyGivenNames x1
       have hx1 : Evolves s x1 := by
         unfold x1
         refine .upd_all ?_ rfl rfl
         with_reducible exact .refl _
       try clear_value x1
       extract_lets +onlyGivenNames x2
       have hx2 : Evolves s x2 := by
         unfold x2
         refine .trans ?_ (by with_reducible apply evolves_burnSome)
         with_reducible exact hx1
       try clear_value x2
       extract_lets +onlyGivenNames x3
       have hx3 : Evolves s x3 := by
         unfold x3
         with_reducible refine .ite ?_ ?_
         · refine .trans ?_ (by with_reducible apply evolves_burnAll)
           with_reducible exact hx1
         · refine .trans ?_ (by with_reducible apply evolves_incBy)
           with_reducible exact hx2
       try clear_value x3
       split
       all_goals first
         | (with_reducible refine .ite ?_ ?_
            · refine .trans ?_ (by with_reducible apply evolves_endGrantFx)
              with_reducible exact hx3
            · with_reducible exact hx3)
         | (refine .trans ?_ (by with_reducible apply evolves_setEvt)
            with_reducible exact hx3)
         | (refine .trans ?_ (by with_reducible apply evolves_dataBurned)
            with_reducible exact hx3)
         | (refine .trans ?_ (by with_reducible apply evolves_segmentBurned)
            with_reducible exact hx3))

theorem evolves_keyLoadFx (s : State) : Evolves s (keyLoadFx s).1 := by
  unfold keyLoadFx
  split
  · exact .upd_all (evolves_shareOf ..) rfl rfl
  · exact .refl _

theorem evolves_keyLoadReq (s : State) (src v : Nat) : Evolves s (keyLoadReq s src v) := by
  unfold keyLoadReq
  with_reducible refine .ite ?_ ?_
  · with_reducible exact .refl _
  · with_reducible refine .ite ?_ ?_
    · with_reducible apply evolves_glmRefuse
    · extract_lets +onlyGivenNames x0
      with_reducible refine .ite ?_ ?_
      · with_reducible apply evolves_keyLoadFx
      · refine .trans ?_ (by with_reducible apply evolves_glmRefuse)
        with_reducible apply evolves_keyLoadFx

theorem evolves_glumeStart (s : State) : Evolves s (glumeStart s) := by
  unfold glumeStart
  extract_lets +onlyGivenNames x0
  try clear_value x0
  extract_lets +onlyGivenNames x1
  with_reducible refine .ite ?_ ?_
  · try unfold x1
    refine .trans ?_ (by with_reducible apply evolves_setEvt)
    refine .trans ?_ (by with_reducible apply evolves_wr)
    with_reducible apply evolves_startTransition
  · extract_lets +onlyGivenNames x2
    try clear_value x2
    extract_lets +onlyGivenNames x3
    try clear_value x3
    extract_lets +onlyGivenNames x4
    have hx4 : Evolves s x4 := by
      unfold x4
      refine .trans ?_ (by with_reducible apply evolves_wr)
      with_reducible apply evolves_burnAll
    try clear_value x4
    extract_lets +onlyGivenNames x5
    have hx5 : Evolves s x5 := by
      unfold x5
      with_reducible refine .ite ?_ ?_
      · with_reducible exact hx4
      · try unfold x1
        refine .trans ?_ (by with_reducible apply evolves_setEvt)
        refine .trans ?_ (by with_reducible apply evolves_wr)
        with_reducible exact hx4
    try clear_value x5
    extract_lets +onlyGivenNames x6
    have hx6 : Evolves s x6 := by
      unfold x6
      refine .trans ?_ (by with_reducible apply evolves_wr)
      refine .trans ?_ (by with_reducible apply evolves_wr)
      refine .trans ?_ (by with_reducible apply evolves_setUstate)
      with_reducible exact hx5
    try clear_value x6
    with_reducible refine .foldl (fun st7 _ => ?_) _ _ _ ?_
    · with_reducible apply evolves_chaffPlain
    · with_reducible exact hx6

end Sys2Proof.Machine
end

