-- ==== Sys2Proof/Laws/Chaff.lean ====
section
/-! SUPPORT. What no operation of Machine/Chaff.lean can do (Laws/Evolves.lean), one lemma for each. -/

namespace Sys2Proof.Machine

theorem evolves_setRule (s : State) (kind n w : Nat) : Evolves s (setRule s kind n w).1 := by
  unfold setRule
  extract_lets
  split
  · exact .refl _
  · split
    · exact .refl _
    · exact .upd_all (.refl _) rfl rfl

theorem evolves_sendInjected (s : State) : Evolves s (sendInjected s) := by
  unfold sendInjected
  extract_lets +onlyGivenNames x0
  try clear_value x0
  extract_lets +onlyGivenNames x1
  try clear_value x1
  with_reducible refine .ite ?_ ?_
  · refine .trans ?_ (by with_reducible apply evolves_chaffPlain)
    refine .trans ?_ (by with_reducible apply evolves_inc)
    with_reducible apply evolves_wr
  · with_reducible exact .refl _

theorem evolves_returnChaff (s : State) (k : Nat) : Evolves s (returnChaff s k) := by
  unfold returnChaff
  extract_lets +onlyGivenNames x0
  try clear_value x0
  extract_lets +onlyGivenNames x1
  have hx1 : Evolves s x1 := by
    unfold x1
    with_reducible apply evolves_setSrc
  try clear_value x1
  split
  all_goals first
    | (refine .trans ?_ (by with_reducible apply evolves_sendInjected)
       refine .trans ?_ (by with_reducible apply evolves_chaff)
       with_reducible exact hx1)
    | (refine .trans ?_ (by with_reducible apply evolves_sendInjected)
       with_reducible exact hx1)

theorem evolves_capture (s : State) (m : ChaffMsg) : Evolves s (capture s m) := by
  unfold capture
  with_reducible refine .ite ?_ ?_
  · with_reducible exact .refl _
  · split
    all_goals first
      | with_reducible exact .refl _
      | (with_reducible refine .ite ?_ ?_
         · refine .trans ?_ (by with_reducible apply evolves_wr)
           with_reducible apply evolves_wr
         · extract_lets +onlyGivenNames x0
           try clear_value x0
           extract_lets +onlyGivenNames x1
           have hx1 : Evolves s x1 := by
             unfold x1
             refine .trans ?_ (by with_reducible apply evolves_wr)
             with_reducible apply evolves_wr
           try clear_value x1
           extract_lets +onlyGivenNames x2
           have hx2 : Evolves s x2 := by
             unfold x2
             refine .trans ?_ (by with_reducible apply evolves_wr)
             refine .trans ?_ (by with_reducible apply evolves_wr)
             refine .trans ?_ (by with_reducible apply evolves_wr)
             with_reducible exact hx1
           try clear_value x2
           extract_lets +onlyGivenNames x3
           have hx3 : Evolves s x3 := by
             unfold x3
             refine .trans ?_ (by with_reducible apply evolves_wr)
             refine .trans ?_ (by with_reducible apply evolves_wr)
             with_reducible exact hx2
           try clear_value x3
           refine .trans ?_ (by with_reducible apply evolves_setEvt)
           refine .trans ?_ (by with_reducible apply evolves_wr)
           with_reducible exact hx3)

theorem evolves_retirePage (s : State) (p : Nat) : Evolves s (retirePage s p) := by
  unfold retirePage
  extract_lets +onlyGivenNames x0
  try clear_value x0
  extract_lets +onlyGivenNames x1
  have hx1 : Evolves s x1 := by
    unfold x1
    refine .upd_all ?_ rfl rfl
    with_reducible exact .refl _
  try clear_value x1
  with_reducible refine .ite ?_ ?_
  · refine .trans ?_ (by with_reducible apply evolves_startDisable)
    with_reducible exact hx1
  · with_reducible refine .ite ?_ ?_
    · with_reducible apply evolves_setUstate
    · with_reducible refine .ite ?_ ?_
      · refine .trans ?_ (by with_reducible apply evolves_wr)
        with_reducible exact hx1
      · with_reducible refine .ite ?_ ?_
        · with_reducible exact hx1
        · with_reducible exact .refl _

theorem evolves_degradeFx (s : State) (m : ChaffMsg) : Evolves s (degradeFx s m) := by
  unfold degradeFx
  with_reducible refine .ite ?_ ?_
  · with_reducible apply evolves_dropCell
  · with_reducible refine .ite ?_ ?_
    · split
      all_goals first
        | (with_reducible refine .ite ?_ ?_
           · with_reducible apply evolves_setEvt
           · with_reducible refine .ite ?_ ?_
             · with_reducible apply evolves_retirePage
             · with_reducible exact .refl _)
        | with_reducible exact .refl _
    · with_reducible exact .refl _

theorem evolves_severeFx (s : State) (m : ChaffMsg) : Evolves s (severeFx s m) := by
  unfold severeFx
  extract_lets +onlyGivenNames x0
  try clear_value x0
  with_reducible refine .ite ?_ ?_
  · with_reducible exact .refl _
  · with_reducible refine .ite ?_ ?_
    · extract_lets +onlyGivenNames x1
      have hx1 : Evolves s x1 := by
        unfold x1
        with_reducible apply evolves_wr
      try clear_value x1
      refine .trans ?_ (by with_reducible apply evolves_refuseWhere)
      refine .trans ?_ (by with_reducible apply evolves_setEvt)
      with_reducible exact hx1
    · extract_lets +onlyGivenNames x2
      have hx2 : Evolves s x2 := by
        unfold x2
        with_reducible refine .ite ?_ ?_
        · with_reducible apply evolves_setEvt
        · with_reducible exact .refl _
      try clear_value x2
      split
      all_goals first
        | (with_reducible refine .ite ?_ ?_
           · refine .trans ?_ (by with_reducible apply evolves_fencePage)
             with_reducible exact hx2
           · with_reducible exact hx2)
        | with_reducible exact hx2

theorem evolves_lockPages (s : State) : Evolves s (lockPages s) := by
  unfold lockPages
  with_reducible refine .foldl (fun st0 _ => ?_) _ _ _ ?_
  · with_reducible refine .ite ?_ ?_
    · with_reducible apply evolves_setUstate
    · with_reducible exact .refl _
  · with_reducible exact .refl _

theorem evolves_lockWork (s : State) : Evolves s (lockWork s) := by
  unfold lockWork
  extract_lets +onlyGivenNames x0
  try clear_value x0
  extract_lets +onlyGivenNames x1
  try clear_value x1
  extract_lets +onlyGivenNames x2
  try clear_value x2
  extract_lets +onlyGivenNames x3
  try clear_value x3
  extract_lets +onlyGivenNames x4
  have hx4 : Evolves s x4 := by
    unfold x4
    refine .upd_all ?_ rfl rfl
    with_reducible exact .refl _
  try clear_value x4
  extract_lets +onlyGivenNames x5
  have hx5 : Evolves s x5 := by
    unfold x5
    with_reducible refine .foldl (fun st6 _ => ?_) _ _ _ ?_
    · with_reducible apply evolves_finishEntry
    · with_reducible exact hx4
  try clear_value x5
  with_reducible refine .foldl (fun st7 _ => ?_) _ _ _ ?_
  · extract_lets +onlyGivenNames x8
    try clear_value x8
    with_reducible apply evolves_endChain
  · with_reducible exact hx5

theorem evolves_zeroizeFx (s : State) : Evolves s (zeroizeFx s) := by
  unfold zeroizeFx
  extract_lets +onlyGivenNames x0
  try clear_value x0
  refine .trans ?_ (by with_reducible apply evolves_wipeStores)
  refine .trans ?_ (by with_reducible apply evolves_stopTef)
  refine .upd_all ?_ rfl rfl
  with_reducible exact .refl _

theorem evolves_enterLock (s : State) (m : ChaffMsg) : Evolves s (enterLock s m) := by
  unfold enterLock
  with_reducible refine .ite ?_ ?_
  · with_reducible exact .refl _
  · extract_lets +onlyGivenNames x0
    try clear_value x0
    extract_lets +onlyGivenNames x1
    have hx1 : Evolves s x1 := by
      unfold x1
      refine .trans ?_ (by with_reducible apply evolves_lockWork)
      with_reducible apply evolves_lockLinks
    try clear_value x1
    extract_lets +onlyGivenNames x2
    have hx2 : Evolves s x2 := by
      unfold x2
      refine .trans ?_ (by with_reducible apply evolves_wr)
      refine .trans ?_ (by with_reducible apply evolves_wr)
      refine .trans ?_ (by with_reducible apply evolves_wr)
      with_reducible exact hx1
    try clear_value x2
    refine .trans ?_ (by with_reducible apply evolves_checkPermit)
    refine .trans ?_ (by with_reducible apply evolves_lockGlume)
    refine .trans ?_ (by with_reducible apply evolves_lockPages)
    with_reducible exact hx2

theorem evolves_mirrorRec (s : State) (m : ChaffMsg) (cls seq : Nat) : Evolves s (mirrorRec s m cls seq) := by
  unfold mirrorRec
  with_reducible refine .foldl (fun st0 _ => ?_) _ _ _ ?_
  · with_reducible refine .ite ?_ ?_
    · with_reducible apply evolves_sendMirror
    · with_reducible exact .refl _
  · with_reducible exact .refl _

theorem evolves_reactFx (s : State) (m : ChaffMsg) (before now seq : Nat) :
    Evolves s (reactFx s m before now seq) := by
  unfold reactFx
  extract_lets +onlyGivenNames x0
  have hx0 : Evolves s x0 := by
    unfold x0
    with_reducible refine .ite ?_ ?_
    · with_reducible apply evolves_setEvt
    · with_reducible exact .refl _
  try clear_value x0
  with_reducible refine .ite ?_ ?_
  · refine .trans ?_ (by with_reducible apply evolves_degradeFx)
    with_reducible exact hx0
  · extract_lets +onlyGivenNames x1
    have hx1 : Evolves s x1 := by
      unfold x1
      with_reducible refine .ite ?_ ?_
      · refine .trans ?_ (by with_reducible apply evolves_startFlush)
        refine .trans ?_ (by with_reducible apply evolves_setEvt)
        with_reducible exact hx0
      · with_reducible exact hx0
    try clear_value x1
    extract_lets +onlyGivenNames x2
    have hx2 : Evolves s x2 := by
      unfold x2
      refine .trans ?_ (by with_reducible apply evolves_mirrorRec)
      with_reducible exact hx1
    try clear_value x2
    with_reducible refine .ite ?_ ?_
    · refine .trans ?_ (by with_reducible apply evolves_severeFx)
      with_reducible exact hx2
    · refine .trans ?_ (by with_reducible apply evolves_startFlush)
      refine .trans ?_ (by with_reducible apply evolves_enterLock)
      with_reducible exact hx2

theorem evolves_classifyFx (s : State) (m : ChaffMsg) : Evolves s (classifyFx s m) := by
  unfold classifyFx
  extract_lets +onlyGivenNames x0
  try clear_value x0
  extract_lets +onlyGivenNames x1
  try clear_value x1
  extract_lets +onlyGivenNames x2
  try clear_value x2
  extract_lets +onlyGivenNames x3
  try clear_value x3
  extract_lets +onlyGivenNames x4
  have hx4 : Evolves s x4 := by
    unfold x4
    with_reducible apply evolves_setSrc
  try clear_value x4
  extract_lets +onlyGivenNames x5
  have hx5 : Evolves s x5 := by
    unfold x5
    refine .trans ?_ (by with_reducible apply evolves_pmu)
    refine .trans ?_ (by with_reducible apply evolves_incBy)
    with_reducible exact hx4
  try clear_value x5
  extract_lets +onlyGivenNames x6
  have hx6 : Evolves s x6 := by
    unfold x6
    with_reducible refine .ite ?_ ?_
    · refine .trans ?_ (by with_reducible apply evolves_inc)
      with_reducible exact hx5
    · with_reducible exact hx5
  try clear_value x6
  extract_lets +onlyGivenNames x7
  have hx7 : Evolves s x7 := by
    unfold x7
    with_reducible refine .ite ?_ ?_
    · refine .trans ?_ (by with_reducible apply evolves_inc)
      with_reducible exact hx6
    · with_reducible exact hx6
  try clear_value x7
  extract_lets +onlyGivenNames x8
  try clear_value x8
  extract_lets +onlyGivenNames x9
  try clear_value x9
  extract_lets +onlyGivenNames x10
  try clear_value x10
  extract_lets +onlyGivenNames x11
  have hx11 : Evolves s x11 := by
    unfold x11
    refine .trans ?_ (by with_reducible apply evolves_capture)
    refine .trans ?_ (by with_reducible apply evolves_stageRec)
    with_reducible exact hx7
  try clear_value x11
  extract_lets +onlyGivenNames x12
  have hx12 : Evolves s x12 := by
    unfold x12
    with_reducible refine .ite ?_ ?_
    · refine .trans ?_ (by with_reducible apply evolves_reactFx)
      with_reducible exact hx11
    · with_reducible exact hx11
  try clear_value x12
  refine .trans ?_ (by with_reducible apply evolves_returnChaff)
  with_reducible exact hx12

theorem evolves_chaffNext (s : State) (corrupt : Bool) (kind : Nat) : Evolves s (chaffNext s corrupt kind) := by
  unfold chaffNext
  split
  all_goals first
    | with_reducible exact .refl _
    | (extract_lets +onlyGivenNames x0
       try clear_value x0
       extract_lets +onlyGivenNames x1
       have hx1 : Evolves s x1 := by
         unfold x1
         refine .upd_all ?_ rfl rfl
         with_reducible exact .refl _
       try clear_value x1
       with_reducible refine .ite ?_ ?_
       · extract_lets +onlyGivenNames x2
         try clear_value x2
         refine .trans ?_ (by with_reducible apply evolves_classifyFx)
         refine .trans ?_ (by with_reducible apply evolves_setEvt)
         refine .trans ?_ (by with_reducible apply evolves_inc)
         with_reducible exact hx1
       · refine .trans ?_ (by with_reducible apply evolves_classifyFx)
         with_reducible exact hx1)

theorem evolves_releaseFx (s : State) (v : Nat) : Evolves s (releaseFx s v) := by
  unfold releaseFx
  extract_lets +onlyGivenNames x0
  try clear_value x0
  with_reducible refine .ite ?_ ?_
  · with_reducible exact .refl _
  · extract_lets +onlyGivenNames x1
    try clear_value x1
    extract_lets +onlyGivenNames x2
    have hx2 : Evolves s x2 := by
      unfold x2
      with_reducible apply evolves_wr
    try clear_value x2
    with_reducible refine .ite ?_ ?_
    · refine .trans ?_ (by with_reducible apply evolves_notice)
      with_reducible exact hx2
    · extract_lets +onlyGivenNames x3
      try clear_value x3
      extract_lets +onlyGivenNames x4
      have hx4 : Evolves s x4 := by
        unfold x4
        refine .trans ?_ (by with_reducible apply evolves_setSrc)
        with_reducible exact hx2
      try clear_value x4
      extract_lets +onlyGivenNames x5
      try clear_value x5
      extract_lets +onlyGivenNames x6
      try clear_value x6
      extract_lets +onlyGivenNames x7
      have hx7 : Evolves s x7 := by
        unfold x7
        refine .upd_all ?_ rfl rfl
        with_reducible exact hx4
      try clear_value x7
      extract_lets +onlyGivenNames x8
      have hx8 : Evolves s x8 := by
        unfold x8
        split
        all_goals first
          | (refine .trans ?_ (by with_reducible apply evolves_setUstate)
             with_reducible exact hx7)
          | with_reducible exact hx7
      try clear_value x8
      refine .trans ?_ (by with_reducible apply evolves_setEvt)
      with_reducible exact hx8

theorem evolves_ruleValFx (s : State) (src v : Nat) : Evolves s (ruleValFx s src v) := by
  unfold ruleValFx
  with_reducible refine .ite ?_ ?_
  · with_reducible exact .refl _
  · extract_lets +onlyGivenNames x0
    with_reducible refine .ite ?_ ?_
    · with_reducible apply evolves_setRule
    · refine .trans ?_ (by with_reducible apply evolves_wr)
      with_reducible apply evolves_setRule

end Sys2Proof.Machine
end

