-- ==== Sys2Proof/Laws/Culm.lean ====
section
/-! SUPPORT. What no operation of Machine/Culm.lean can do (Laws/Evolves.lean), one lemma for each. -/

namespace Sys2Proof.Machine

theorem evolves_retrainFx (s : State) (l : Nat) : Evolves s (retrainFx s l) := by
  unfold retrainFx
  refine .trans ?_ (by with_reducible apply evolves_chaffPlain)
  refine .trans ?_ (by with_reducible apply evolves_setEvt)
  refine .trans ?_ (by with_reducible apply evolves_startTraining)
  with_reducible apply evolves_endShared

theorem evolves_resendFx (s : State) (l : Nat) : Evolves s (resendFx s l) := by
  unfold resendFx
  extract_lets +onlyGivenNames x0
  try clear_value x0
  with_reducible refine .ite ?_ ?_
  · with_reducible exact .refl _
  · with_reducible refine .ite ?_ ?_
    · with_reducible apply evolves_retrainFx
    · with_reducible refine .foldl (fun st1 _ => ?_) _ _ _ ?_
      · with_reducible apply evolves_presentFlit
      · refine .trans ?_ (by with_reducible apply evolves_inc)
        with_reducible apply evolves_setLink

theorem evolves_takeAck (s : State) (l a : Nat) : Evolves s (takeAck s l a) := by
  unfold takeAck
  extract_lets +onlyGivenNames x0
  try clear_value x0
  extract_lets +onlyGivenNames x1
  try clear_value x1
  with_reducible apply evolves_setLink

theorem evolves_takeCredits (s : State) (l : Nat) (c : List Nat) : Evolves s (takeCredits s l c) := by
  unfold takeCredits
  extract_lets +onlyGivenNames x0
  try clear_value x0
  extract_lets +onlyGivenNames x1
  try clear_value x1
  refine .trans ?_ (by with_reducible apply evolves_pumpLink)
  with_reducible apply evolves_setLink

theorem evolves_nakFx (s : State) (l e : Nat) : Evolves s (nakFx s l e) := by
  unfold nakFx
  extract_lets +onlyGivenNames x0
  try clear_value x0
  with_reducible refine .ite ?_ ?_
  · with_reducible apply evolves_setLink
  · split
    all_goals first
      | (refine .trans ?_ (by with_reducible apply evolves_resendFx)
         with_reducible apply evolves_setLink)
      | with_reducible exact .refl _

theorem evolves_sendIdle (s : State) (l : Nat) : Evolves s (sendIdle s l) := by
  unfold sendIdle
  with_reducible apply evolves_setLink

theorem evolves_sendNak (s : State) (l : Nat) : Evolves s (sendNak s l) := by
  unfold sendNak
  extract_lets +onlyGivenNames x0
  try clear_value x0
  with_reducible refine .ite ?_ ?_
  · with_reducible exact .refl _
  · with_reducible apply evolves_setLink

theorem evolves_deliverMsg (s : State) (l vc : Nat) (m : LinkMsg) : Evolves s (deliverMsg s l vc m) := by
  unfold deliverMsg
  extract_lets +onlyGivenNames x0
  try clear_value x0
  with_reducible refine .ite ?_ ?_
  · with_reducible apply evolves_setLink
  · with_reducible exact .refl _

theorem evolves_seqRx (s : State) (l vc h : Nat) (payload : Bytes) : Evolves s (seqRx s l vc h payload) := by
  unfold seqRx
  extract_lets +onlyGivenNames x0
  try clear_value x0
  with_reducible refine .ite ?_ ?_
  · with_reducible apply evolves_sendNak
  · extract_lets +onlyGivenNames x1
    have hx1 : Evolves s x1 := by
      unfold x1
      refine .trans ?_ (by with_reducible apply evolves_inc)
      with_reducible apply evolves_takeAck
    try clear_value x1
    extract_lets +onlyGivenNames x2
    try clear_value x2
    extract_lets +onlyGivenNames x3
    try clear_value x3
    extract_lets +onlyGivenNames x4
    try clear_value x4
    extract_lets +onlyGivenNames x5
    have hx5 : Evolves s x5 := by
      unfold x5
      refine .trans ?_ (by with_reducible apply evolves_setLink)
      with_reducible exact hx1
    try clear_value x5
    extract_lets +onlyGivenNames x6
    have hx6 : Evolves s x6 := by
      unfold x6
      split
      all_goals first
        | (with_reducible refine .ite ?_ ?_
           · refine .trans ?_ (by with_reducible apply evolves_deliverMsg)
             with_reducible exact hx5
           · with_reducible exact hx5)
        | with_reducible exact hx5
    try clear_value x6
    refine .trans ?_ (by with_reducible apply evolves_pumpLink)
    refine .trans ?_ (by with_reducible apply evolves_sendIdle)
    with_reducible exact hx6

theorem evolves_sendSync (s : State) (l n : Nat) : Evolves s (sendSync s l n) := by
  unfold sendSync
  extract_lets +onlyGivenNames x0
  try clear_value x0
  extract_lets +onlyGivenNames x1
  try clear_value x1
  split
  all_goals first
    | with_reducible exact .refl _
    | (extract_lets +onlyGivenNames x2
       try clear_value x2
       extract_lets +onlyGivenNames x3
       try clear_value x3
       extract_lets +onlyGivenNames x4
       try clear_value x4
       with_reducible refine .foldl (fun st5 _ => ?_) _ _ _ ?_
       · with_reducible apply evolves_sendMsg
       · with_reducible exact .refl _)

theorem evolves_dropShared (s : State) (r : Nat) : Evolves s (dropShared s r) := by
  unfold dropShared
  extract_lets +onlyGivenNames x0
  try clear_value x0
  extract_lets +onlyGivenNames x1
  try clear_value x1
  extract_lets +onlyGivenNames x2
  try clear_value x2
  extract_lets +onlyGivenNames x3
  try clear_value x3
  extract_lets +onlyGivenNames x4
  have hx4 : Evolves s x4 := by
    unfold x4
    refine .trans ?_ (by with_reducible apply evolves_dropFills)
    refine .upd_all ?_ rfl rfl
    with_reducible exact .refl _
  try clear_value x4
  extract_lets +onlyGivenNames x5
  try clear_value x5
  refine .upd_all ?_ rfl rfl
  with_reducible exact hx4

theorem evolves_finishSync (s : State) (l n r : Nat) (peerAuth : Bool) : Evolves s (finishSync s l n r peerAuth) := by
  unfold finishSync
  extract_lets +onlyGivenNames x0
  try clear_value x0
  extract_lets +onlyGivenNames x1
  have hx1 : Evolves s x1 := by
    unfold x1
    with_reducible apply evolves_dropShared
  try clear_value x1
  extract_lets +onlyGivenNames x2
  have hx2 : Evolves s x2 := by
    unfold x2
    with_reducible refine .ite ?_ ?_
    · refine .trans ?_ (by with_reducible apply evolves_wr)
      with_reducible exact hx1
    · with_reducible exact hx1
  try clear_value x2
  refine .trans ?_ (by with_reducible apply evolves_retryAll)
  refine .trans ?_ (by with_reducible apply evolves_retryRealm)
  refine .trans ?_ (by with_reducible apply evolves_wr)
  refine .trans ?_ (by with_reducible apply evolves_wr)
  with_reducible exact hx2

theorem evolves_failSync (s : State) (l n code : Nat) : Evolves s (failSync s l n code) := by
  unfold failSync
  refine .trans ?_ (by with_reducible apply evolves_notice)
  refine .trans ?_ (by with_reducible apply evolves_wr)
  with_reducible apply evolves_wr

theorem evolves_adoptHusk {s : State} {slot : Nat} {x : Husk} {t : State} (h : adoptHusk s slot x = some t) : Evolves s t := by
  unfold adoptHusk at h
  extract_lets old rank at h
  clear_value old
  cases old
  · dsimp only at h
    split at h
    · injection h with h; subst h; exact .refl _
    · split at h
      · cases h
      · injection h with h; subst h; exact (evolves_setHusk ..).trans (evolves_writeHusk ..)
  · dsimp only at h
    split at h
    · injection h with h; subst h; exact .refl _
    · split at h
      · cases h
      · injection h with h; subst h; exact (evolves_setHusk ..).trans (evolves_writeHusk ..)

theorem evolves_adoptAll {s : State} {r : Nat} {ws : List Bytes} {t : State} (h : adoptAll s r ws = some t) : Evolves s t := by
  induction ws generalizing s with
  | nil => simp only [adoptAll, Option.some.injEq] at h; subst h; exact .refl _
  | cons w ws ih =>
    simp only [adoptAll] at h
    split at h
    · exact ih h
    · split at h
      · next h1 => exact (evolves_adoptHusk h1).trans (ih h)
      · cases h

theorem evolves_evalSync (s : State) (l n : Nat) : Evolves s (evalSync s l n) := by
  unfold evalSync
  extract_lets +onlyGivenNames x0
  try clear_value x0
  extract_lets +onlyGivenNames x1
  try clear_value x1
  split
  all_goals first
    | (with_reducible refine .ite ?_ ?_
       · with_reducible exact .refl _
       · with_reducible refine .ite ?_ ?_
         · refine .trans ?_ (by with_reducible apply evolves_setEvt)
           with_reducible apply evolves_failSync
         · with_reducible refine .ite ?_ ?_
           · with_reducible apply evolves_failSync
           · split
             all_goals first
               | with_reducible apply evolves_failSync
               | (extract_lets +onlyGivenNames x2
                  try clear_value x2
                  with_reducible refine .ite ?_ ?_
                  · refine .trans ?_ (by with_reducible apply evolves_finishSync)
                    with_reducible exact (evolves_adoptAll (by assumption))
                  · extract_lets +onlyGivenNames x3
                    try clear_value x3
                    refine .trans ?_ (by with_reducible apply evolves_sendMsg)
                    refine .trans ?_ (by with_reducible apply evolves_setLink)
                    with_reducible exact (evolves_adoptAll (by assumption))))
    | with_reducible exact .refl _

theorem evolves_syncFx (s : State) (l : Nat) (m : LinkMsg) : Evolves s (syncFx s l m) := by
  unfold syncFx
  extract_lets +onlyGivenNames x0
  try clear_value x0
  extract_lets +onlyGivenNames x1
  try clear_value x1
  extract_lets +onlyGivenNames x2
  try clear_value x2
  extract_lets +onlyGivenNames x3
  have hx3 : Evolves s x3 := by
    unfold x3
    with_reducible apply evolves_setLink
  try clear_value x3
  split
  all_goals first
    | (refine .trans ?_ (by with_reducible apply evolves_evalSync)
       with_reducible exact hx3)
    | with_reducible exact hx3

theorem evolves_linkUp (s : State) (l version epoch : Nat) : Evolves s (linkUp s l version epoch) := by
  unfold linkUp
  extract_lets +onlyGivenNames x0
  try clear_value x0
  extract_lets +onlyGivenNames x1
  have hx1 : Evolves s x1 := by
    unfold x1
    with_reducible apply evolves_setLink
  try clear_value x1
  extract_lets +onlyGivenNames x2
  have hx2 : Evolves s x2 := by
    unfold x2
    refine .trans ?_ (by with_reducible apply evolves_wr)
    refine .trans ?_ (by with_reducible apply evolves_wr)
    with_reducible exact hx1
  try clear_value x2
  extract_lets +onlyGivenNames x3
  have hx3 : Evolves s x3 := by
    unfold x3
    refine .trans ?_ (by with_reducible apply evolves_setEvt)
    refine .trans ?_ (by with_reducible apply evolves_enterLink)
    with_reducible exact hx2
  try clear_value x3
  with_reducible refine .foldl (fun st4 _ => ?_) _ _ _ ?_
  · with_reducible refine .ite ?_ ?_
    · with_reducible apply evolves_sendSync
    · with_reducible exact .refl _
  · with_reducible exact hx3

theorem evolves_notePeer (s : State) (l : Nat) (t : TrainInfo) : Evolves s (notePeer s l t) := by
  unfold notePeer
  extract_lets +onlyGivenNames x0
  try clear_value x0
  extract_lets +onlyGivenNames x1
  have hx1 : Evolves s x1 := by
    unfold x1
    refine .trans ?_ (by with_reducible apply evolves_wr)
    with_reducible apply evolves_wr
  try clear_value x1
  extract_lets +onlyGivenNames x2
  have hx2 : Evolves s x2 := by
    unfold x2
    refine .trans ?_ (by with_reducible apply evolves_wr)
    refine .trans ?_ (by with_reducible apply evolves_wr)
    with_reducible exact hx1
  try clear_value x2
  refine .trans ?_ (by with_reducible apply evolves_wr)
  refine .trans ?_ (by with_reducible apply evolves_wr)
  with_reducible exact hx2

theorem evolves_trainDecide (s : State) (l : Nat) (t : TrainInfo) : Evolves s (trainDecide s l t) := by
  unfold trainDecide
  extract_lets +onlyGivenNames x0
  try clear_value x0
  extract_lets +onlyGivenNames x1
  have hx1 : Evolves s x1 := by
    unfold x1
    with_reducible apply evolves_notePeer
  try clear_value x1
  extract_lets +onlyGivenNames x2
  try clear_value x2
  extract_lets +onlyGivenNames x3
  try clear_value x3
  with_reducible refine .ite ?_ ?_
  · refine .trans ?_ (by with_reducible apply evolves_notice)
    refine .trans ?_ (by with_reducible apply evolves_wr)
    refine .trans ?_ (by with_reducible apply evolves_enterLink)
    with_reducible exact hx1
  · with_reducible refine .ite ?_ ?_
    · with_reducible refine .ite ?_ ?_
      · with_reducible exact hx1
      · refine .trans ?_ (by with_reducible apply evolves_setEvt)
        refine .trans ?_ (by with_reducible apply evolves_notice)
        refine .trans ?_ (by with_reducible apply evolves_wr)
        refine .trans ?_ (by with_reducible apply evolves_enterLink)
        with_reducible exact hx1
    · with_reducible refine .ite ?_ ?_
      · with_reducible exact hx1
      · with_reducible refine .ite ?_ ?_
        · extract_lets +onlyGivenNames x4
          have hx4 : Evolves s x4 := by
            unfold x4
            refine .trans ?_ (by with_reducible apply evolves_enterLink)
            refine .trans ?_ (by with_reducible apply evolves_wr)
            refine .trans ?_ (by with_reducible apply evolves_setLink)
            with_reducible exact hx1
          try clear_value x4
          refine .trans ?_ (by with_reducible apply evolves_chaffPlain)
          refine .trans ?_ (by with_reducible apply evolves_setEvt)
          refine .trans ?_ (by with_reducible apply evolves_wr)
          refine .trans ?_ (by with_reducible apply evolves_wr)
          with_reducible exact hx4
        · refine .trans ?_ (by with_reducible apply evolves_linkUp)
          with_reducible exact hx1

theorem evolves_trainRx (s : State) (l : Nat) (t : TrainInfo) : Evolves s (trainRx s l t) := by
  unfold trainRx
  extract_lets +onlyGivenNames x0
  try clear_value x0
  extract_lets +onlyGivenNames x1
  try clear_value x1
  with_reducible refine .ite ?_ ?_
  · with_reducible apply evolves_trainDecide
  · with_reducible refine .ite ?_ ?_
    · with_reducible refine .ite ?_ ?_
      · with_reducible exact .refl _
      · with_reducible apply evolves_trainDecide
    · with_reducible refine .ite ?_ ?_
      · refine .trans ?_ (by with_reducible apply evolves_trainDecide)
        refine .trans ?_ (by with_reducible apply evolves_startTraining)
        with_reducible apply evolves_endShared
      · with_reducible exact .refl _

theorem evolves_ctlRx (s : State) (l h : Nat) (p : Bytes) : Evolves s (ctlRx s l h p) := by
  unfold ctlRx
  extract_lets +onlyGivenNames x0
  try clear_value x0
  with_reducible refine .ite ?_ ?_
  · with_reducible apply evolves_trainRx
  · with_reducible refine .ite ?_ ?_
    · extract_lets +onlyGivenNames x1
      have hx1 : Evolves s x1 := by
        unfold x1
        refine .trans ?_ (by with_reducible apply evolves_takeCredits)
        with_reducible apply evolves_takeAck
      try clear_value x1
      with_reducible refine .ite ?_ ?_
      · refine .trans ?_ (by with_reducible apply evolves_nakFx)
        with_reducible exact hx1
      · with_reducible exact hx1
    · with_reducible exact .refl _

theorem evolves_flitRx (s : State) (l : Nat) (f : BitVec 512) : Evolves s (flitRx s l f) := by
  unfold flitRx
  extract_lets +onlyGivenNames x0
  try clear_value x0
  extract_lets +onlyGivenNames x1
  try clear_value x1
  extract_lets +onlyGivenNames x2
  try clear_value x2
  with_reducible refine .ite ?_ ?_
  · with_reducible exact .refl _
  · with_reducible refine .ite ?_ ?_
    · extract_lets +onlyGivenNames x3
      have hx3 : Evolves s x3 := by
        unfold x3
        refine .trans ?_ (by with_reducible apply evolves_chaffPlain)
        with_reducible apply evolves_inc
      try clear_value x3
      with_reducible refine .ite ?_ ?_
      · with_reducible exact hx3
      · refine .trans ?_ (by with_reducible apply evolves_sendNak)
        with_reducible exact hx3
    · with_reducible refine .ite ?_ ?_
      · with_reducible apply evolves_ctlRx
      · with_reducible refine .ite ?_ ?_
        · with_reducible apply evolves_seqRx
        · with_reducible exact .refl _

theorem evolves_phyUpFx (s : State) (l : Nat) : Evolves s (phyUpFx s l) := by
  unfold phyUpFx
  extract_lets +onlyGivenNames x0
  try clear_value x0
  extract_lets +onlyGivenNames x1
  have hx1 : Evolves s x1 := by
    unfold x1
    refine .trans ?_ (by with_reducible apply evolves_wr)
    refine .trans ?_ (by with_reducible apply evolves_wr)
    refine .upd_freeCtr ?_ ?_
    · with_reducible exact .refl _
    · exact Nat.le_add_right _ _
  try clear_value x1
  with_reducible refine .ite ?_ ?_
  · with_reducible refine .ite ?_ ?_
    · refine .trans ?_ (by with_reducible apply evolves_enterLink)
      with_reducible exact hx1
    · refine .trans ?_ (by with_reducible apply evolves_startTraining)
      with_reducible exact hx1
  · with_reducible exact hx1

theorem evolves_phyDownFx (s : State) (l : Nat) : Evolves s (phyDownFx s l) := by
  unfold phyDownFx
  extract_lets +onlyGivenNames x0
  try clear_value x0
  extract_lets +onlyGivenNames x1
  have hx1 : Evolves s x1 := by
    unfold x1
    refine .trans ?_ (by with_reducible apply evolves_wr)
    with_reducible apply evolves_wr
  try clear_value x1
  with_reducible refine .ite ?_ ?_
  · with_reducible exact hx1
  · with_reducible refine .ite ?_ ?_
    · refine .trans ?_ (by with_reducible apply evolves_enterLink)
      with_reducible exact hx1
    · refine .trans ?_ (by with_reducible apply evolves_loseLink)
      with_reducible exact hx1

theorem evolves_hbSendFx (s : State) (l : Nat) : Evolves s (hbSendFx s l) := by
  unfold hbSendFx
  extract_lets +onlyGivenNames x0
  try clear_value x0
  with_reducible refine .ite ?_ ?_
  · extract_lets +onlyGivenNames x1
    try clear_value x1
    extract_lets +onlyGivenNames x2
    have hx2 : Evolves s x2 := by
      unfold x2
      with_reducible apply evolves_wr
    try clear_value x2
    with_reducible refine .ite ?_ ?_
    · refine .trans ?_ (by with_reducible apply evolves_wr)
      with_reducible exact hx2
    · with_reducible exact hx2
  · with_reducible apply evolves_sendMsg

theorem evolves_hbMissFx (s : State) (l : Nat) : Evolves s (hbMissFx s l) := by
  unfold hbMissFx
  extract_lets +onlyGivenNames x0
  try clear_value x0
  extract_lets +onlyGivenNames x1
  try clear_value x1
  extract_lets +onlyGivenNames x2
  have hx2 : Evolves s x2 := by
    unfold x2
    refine .trans ?_ (by with_reducible apply evolves_setLink)
    with_reducible apply evolves_inc
  try clear_value x2
  with_reducible refine .ite ?_ ?_
  · refine .trans ?_ (by with_reducible apply evolves_loseLink)
    with_reducible exact hx2
  · with_reducible exact hx2

theorem evolves_shrFx (s : State) (l n v : Nat) : Evolves s (shrFx s l n v) := by
  unfold shrFx
  extract_lets +onlyGivenNames x0
  try clear_value x0
  extract_lets +onlyGivenNames x1
  try clear_value x1
  extract_lets +onlyGivenNames x2
  have hx2 : Evolves s x2 := by
    unfold x2
    with_reducible refine .ite ?_ ?_
    · with_reducible exact .refl _
    · with_reducible apply evolves_wr
  try clear_value x2
  extract_lets +onlyGivenNames x3
  have hx3 : Evolves s x3 := by
    unfold x3
    refine .trans ?_ (by with_reducible apply evolves_wr)
    with_reducible exact hx2
  try clear_value x3
  extract_lets +onlyGivenNames x4
  have hx4 : Evolves s x4 := by
    unfold x4
    with_reducible refine .ite ?_ ?_
    · with_reducible exact hx3
    · refine .trans ?_ (by with_reducible apply evolves_wr)
      with_reducible exact hx3
  try clear_value x4
  extract_lets +onlyGivenNames x5
  try clear_value x5
  extract_lets +onlyGivenNames x6
  try clear_value x6
  extract_lets +onlyGivenNames x7
  have hx7 : Evolves s x7 := by
    unfold x7
    with_reducible refine .ite ?_ ?_
    · refine .trans ?_ (by with_reducible apply evolves_wr)
      with_reducible exact hx4
    · with_reducible exact hx4
  try clear_value x7
  extract_lets +onlyGivenNames x8
  have hx8 : Evolves s x8 := by
    unfold x8
    with_reducible refine .ite ?_ ?_
    · refine .trans ?_ (by with_reducible apply evolves_retryRealm)
      refine .trans ?_ (by with_reducible apply evolves_wr)
      with_reducible exact hx7
    · with_reducible exact hx7
  try clear_value x8
  with_reducible refine .ite ?_ ?_
  · refine .trans ?_ (by with_reducible apply evolves_evalSync)
    refine .trans ?_ (by with_reducible apply evolves_sendSync)
    with_reducible exact hx8
  · with_reducible exact hx8

theorem evolves_fwdCfgFx (s : State) (l src v : Nat) : Evolves s (fwdCfgFx s l src v) := by
  unfold fwdCfgFx
  extract_lets +onlyGivenNames x0
  try clear_value x0
  extract_lets +onlyGivenNames x1
  try clear_value x1
  with_reducible refine .ite ?_ ?_
  · with_reducible apply evolves_wr
  · extract_lets +onlyGivenNames x2
    try clear_value x2
    extract_lets +onlyGivenNames x3
    have hx3 : Evolves s x3 := by
      unfold x3
      with_reducible apply evolves_wr
    try clear_value x3
    with_reducible refine .ite ?_ ?_
    · with_reducible exact hx3
    · with_reducible refine .ite ?_ ?_
      · refine .trans ?_ (by with_reducible apply evolves_writeIgnored)
        with_reducible exact hx3
      · refine .trans ?_ (by with_reducible apply evolves_wr)
        refine .upd_all ?_ rfl rfl
        with_reducible exact hx3

theorem evolves_clmInjectFx (s : State) (l src v : Nat) : Evolves s (clmInjectFx s l src v) := by
  unfold clmInjectFx
  extract_lets +onlyGivenNames x0
  try clear_value x0
  with_reducible refine .ite ?_ ?_
  · with_reducible apply evolves_writeIgnored
  · extract_lets +onlyGivenNames x1
    try clear_value x1
    extract_lets +onlyGivenNames x2
    have hx2 : Evolves s x2 := by
      unfold x2
      refine .trans ?_ (by with_reducible apply evolves_wr)
      with_reducible apply evolves_wr
    try clear_value x2
    refine .trans ?_ (by with_reducible apply evolves_setLink)
    refine .trans ?_ (by with_reducible apply evolves_wr)
    with_reducible exact hx2

end Sys2Proof.Machine
end

