-- ==== Sys2Proof/Laws/CulmMsgs.lean ====
section
/-! SUPPORT. What no operation of Machine/CulmMsgs.lean can do (Laws/Evolves.lean), one lemma for each. -/

namespace Sys2Proof.Machine

theorem evolves_popMsg (s : State) (l vc : Nat) : Evolves s (popMsg s l vc) := by
  unfold popMsg
  extract_lets +onlyGivenNames x0
  try clear_value x0
  split
  all_goals first
    | with_reducible apply evolves_setLink
    | with_reducible exact .refl _

theorem evolves_onMsg {s : State} {l m : Nat} {fx : State → LinkMsg → State} (h : ∀ t g, Evolves t (fx t g)) :
    Evolves s (onMsg s l m fx) := by
  unfold onMsg
  refine .ite ?_ (.refl _)
  split
  · exact .ite ((evolves_popMsg ..).trans (h ..)) (.refl _)
  · exact .refl _

theorem evolves_answerMsg (s : State) (l m : Nat) (g : LinkMsg) (status : Nat) (body : Bytes) :
    Evolves s (answerMsg s l m g status body) := by
  unfold answerMsg
  with_reducible apply evolves_sendMsg

theorem evolves_jobFx (s : State) (l : Nat) (g : LinkMsg) : Evolves s (jobFx s l g) := by
  unfold jobFx
  extract_lets +onlyGivenNames x0
  try clear_value x0
  with_reducible refine .ite ?_ ?_
  · extract_lets +onlyGivenNames x1
    try clear_value x1
    extract_lets +onlyGivenNames x2
    try clear_value x2
    extract_lets +onlyGivenNames x3
    try clear_value x3
    extract_lets +onlyGivenNames x4
    try clear_value x4
    extract_lets +onlyGivenNames x5
    have hx5 : Evolves s x5 := by
      unfold x5
      refine .upd_all ?_ rfl rfl
      with_reducible exact .refl _
    try clear_value x5
    refine .trans ?_ (by with_reducible apply evolves_inc)
    refine .trans ?_ (by with_reducible apply evolves_setLink)
    with_reducible exact hx5
  · refine .trans ?_ (by with_reducible apply evolves_inc)
    with_reducible apply evolves_answerMsg

theorem evolves_abortFx (s : State) (l : Nat) (g : LinkMsg) : Evolves s (abortFx s l g) := by
  unfold abortFx
  split
  all_goals first
    | (extract_lets +onlyGivenNames x0
       try clear_value x0
       extract_lets +onlyGivenNames x1
       have hx1 : Evolves s x1 := by
         unfold x1
         refine .upd_all ?_ rfl rfl
         with_reducible exact .refl _
       try clear_value x1
       refine .trans ?_ (by with_reducible apply evolves_sendDone)
       with_reducible exact hx1)
    | (extract_lets +onlyGivenNames x2
       try clear_value x2
       refine .trans ?_ (by with_reducible apply evolves_endWaiting)
       refine .upd_all ?_ rfl rfl
       with_reducible exact .refl _)

theorem evolves_dropFwd (s : State) (l : Nat) (j : FwdJob) : Evolves s (dropFwd s l j) := by
  unfold dropFwd
  with_reducible apply evolves_setLink

theorem evolves_doneFx (s : State) (l : Nat) (g : LinkMsg) : Evolves s (doneFx s l g) := by
  unfold doneFx
  split
  all_goals first
    | with_reducible exact .refl _
    | (extract_lets +onlyGivenNames x0
       try clear_value x0
       extract_lets +onlyGivenNames x1
       try clear_value x1
       refine .trans ?_ (by with_reducible apply evolves_finishEntry)
       with_reducible apply evolves_dropFwd)

theorem evolves_refusedFx (s : State) (l : Nat) (g : LinkMsg) : Evolves s (refusedFx s l g) := by
  unfold refusedFx
  split
  all_goals first
    | with_reducible exact .refl _
    | (extract_lets +onlyGivenNames x0
       have hx0 : Evolves s x0 := by
         unfold x0
         with_reducible apply evolves_dropFwd
       try clear_value x0
       with_reducible refine .ite ?_ ?_
       · refine .trans ?_ (by with_reducible apply evolves_finishEntry)
         with_reducible exact hx0
       · refine .upd_all ?_ rfl rfl
         with_reducible exact hx0)

theorem evolves_wreadFx (s : State) (l : Nat) (g : LinkMsg) : Evolves s (wreadFx s l g) := by
  unfold wreadFx
  with_reducible refine .ite ?_ ?_
  · with_reducible apply evolves_readReq
  · refine .trans ?_ (by with_reducible apply evolves_inc)
    with_reducible apply evolves_sendMsg

theorem evolves_wwriteFx (s : State) (l : Nat) (g : LinkMsg) : Evolves s (wwriteFx s l g) := by
  unfold wwriteFx
  with_reducible refine .ite ?_ ?_
  · extract_lets +onlyGivenNames x0
    try clear_value x0
    extract_lets +onlyGivenNames x1
    try clear_value x1
    extract_lets +onlyGivenNames x2
    try clear_value x2
    extract_lets +onlyGivenNames x3
    have hx3 : Evolves s x3 := by
      unfold x3
      with_reducible apply evolves_setLink
    try clear_value x3
    with_reducible refine .foldl (fun st4 _ => ?_) _ _ _ ?_
    · with_reducible apply evolves_writeReq
    · with_reducible exact hx3
  · refine .trans ?_ (by with_reducible apply evolves_inc)
    with_reducible apply evolves_sendMsg

theorem evolves_peerReadDone (s : State) (l t skip len : Nat) (d : Option Bytes) :
    Evolves s (peerReadDone s l t skip len d) := by
  unfold peerReadDone
  with_reducible refine .ite ?_ ?_
  · with_reducible exact .refl _
  · split
    all_goals
      with_reducible apply evolves_sendMsg

theorem evolves_peerWriteDone (s : State) (l t : Nat) (err : Bool) : Evolves s (peerWriteDone s l t err) := by
  unfold peerWriteDone
  extract_lets +onlyGivenNames x0
  try clear_value x0
  split
  all_goals first
    | with_reducible exact .refl _
    | (extract_lets +onlyGivenNames x1
       try clear_value x1
       with_reducible refine .ite ?_ ?_
       · refine .trans ?_ (by with_reducible apply evolves_sendMsg)
         with_reducible apply evolves_setLink
       · with_reducible apply evolves_setLink)

theorem evolves_dropAsk (s : State) (l : Nat) (a : WinAsk) : Evolves s (dropAsk s l a) := by
  unfold dropAsk
  with_reducible apply evolves_setLink

theorem evolves_rdataFx (s : State) (l : Nat) (g : LinkMsg) : Evolves s (rdataFx s l g) := by
  unfold rdataFx
  split
  all_goals first
    | with_reducible exact .refl _
    | (extract_lets +onlyGivenNames x0
       have hx0 : Evolves s x0 := by
         unfold x0
         with_reducible apply evolves_dropAsk
       try clear_value x0
       extract_lets +onlyGivenNames x1
       try clear_value x1
       split
       all_goals first
         | (with_reducible refine .ite ?_ ?_
            · refine .trans ?_ (by with_reducible apply evolves_fragArrived)
              with_reducible exact hx0
            · refine .trans ?_ (by with_reducible apply evolves_readFailed)
              with_reducible exact hx0)
         | (with_reducible refine .ite ?_ ?_
            · refine .trans ?_ (by with_reducible apply evolves_tableArrived)
              with_reducible exact hx0
            · refine .trans ?_ (by with_reducible apply evolves_readFailed)
              with_reducible exact hx0)
         | with_reducible exact hx0)

theorem evolves_wackFx (s : State) (l : Nat) (g : LinkMsg) : Evolves s (wackFx s l g) := by
  unfold wackFx
  split
  all_goals first
    | with_reducible exact .refl _
    | (split
       all_goals first
         | (refine .trans ?_ (by with_reducible apply evolves_outAnswer)
            with_reducible apply evolves_dropAsk)
         | with_reducible apply evolves_dropAsk)

theorem evolves_prepareFx (s : State) (l : Nat) (g : LinkMsg) : Evolves s (prepareFx s l g) := by
  unfold prepareFx
  extract_lets +onlyGivenNames x0
  try clear_value x0
  with_reducible refine .ite ?_ ?_
  · with_reducible apply evolves_answerMsg
  · extract_lets +onlyGivenNames x1
    try clear_value x1
    refine .trans ?_ (by with_reducible apply evolves_answerMsg)
    with_reducible apply evolves_setLink

theorem evolves_packFx (s : State) (l : Nat) (g : LinkMsg) : Evolves s (packFx s l g) := by
  unfold packFx
  split
  all_goals first
    | with_reducible exact .refl _
    | (with_reducible refine .ite ?_ ?_
       · with_reducible apply evolves_packArrived
       · with_reducible apply evolves_cancelInstall)

theorem evolves_commitPrep (s : State) (l : Nat) (q : Prepared) : Evolves s (commitPrep s l q) := by
  unfold commitPrep
  extract_lets +onlyGivenNames x0
  try clear_value x0
  extract_lets +onlyGivenNames x1
  have hx1 : Evolves s x1 := by
    unfold x1
    with_reducible apply evolves_setLink
  try clear_value x1
  refine .trans ?_ (by with_reducible apply evolves_seedWrite)
  with_reducible exact hx1

theorem evolves_discardPrep (s : State) (l : Nat) (q : Prepared) : Evolves s (discardPrep s l q) := by
  unfold discardPrep
  extract_lets +onlyGivenNames x0
  try clear_value x0
  refine .trans ?_ (by with_reducible apply evolves_retryRealm)
  refine .trans ?_ (by with_reducible apply evolves_sendMsg)
  with_reducible apply evolves_setLink

theorem evolves_decidePrep (s : State) (l : Nat) (g : LinkMsg) (good : Bool) : Evolves s (decidePrep s l g good) := by
  unfold decidePrep
  split
  all_goals first
    | (with_reducible refine .ite ?_ ?_
       · with_reducible apply evolves_commitPrep
       · with_reducible apply evolves_discardPrep)
    | with_reducible apply evolves_answerMsg

theorem evolves_cackFx (s : State) (l : Nat) (g : LinkMsg) : Evolves s (cackFx s l g) := by
  unfold cackFx
  with_reducible apply evolves_setLink

theorem evolves_revokePeerFx (s : State) (l : Nat) (g : LinkMsg) : Evolves s (revokePeerFx s l g) := by
  unfold revokePeerFx
  extract_lets +onlyGivenNames x0
  try clear_value x0
  extract_lets +onlyGivenNames x1
  try clear_value x1
  split
  all_goals first
    | (extract_lets +onlyGivenNames x2
       have hx2 : Evolves s x2 := by
         unfold x2
         split
         all_goals first
           | with_reducible apply evolves_failSync
           | with_reducible exact .refl _
       try clear_value x2
       refine .trans ?_ (by with_reducible apply evolves_answerMsg)
       with_reducible exact hx2)
    | (extract_lets +onlyGivenNames x3
       try clear_value x3
       extract_lets +onlyGivenNames x4
       try clear_value x4
       refine .trans ?_ (by with_reducible apply evolves_answerMsg)
       refine .trans ?_ (by with_reducible apply evolves_retryRealm)
       refine .upd_all ?_ rfl rfl
       with_reducible exact (evolves_adoptHusk (by assumption)))

theorem evolves_rackFx (s : State) (l : Nat) (g : LinkMsg) : Evolves s (rackFx s l g) := by
  unfold rackFx
  with_reducible apply evolves_modRevoke

theorem evolves_outcomeQFx (s : State) (l : Nat) (g : LinkMsg) : Evolves s (outcomeQFx s l g) := by
  unfold outcomeQFx
  extract_lets +onlyGivenNames x0
  try clear_value x0
  with_reducible apply evolves_answerMsg

theorem evolves_outcomeFx (s : State) (l : Nat) (g : LinkMsg) : Evolves s (outcomeFx s l g) := by
  unfold outcomeFx
  extract_lets +onlyGivenNames x0
  have hx0 : Evolves s x0 := by
    unfold x0
    with_reducible refine .foldl (fun st1 _ => ?_) _ _ _ ?_
    · split
      all_goals first
        | (with_reducible refine .ite ?_ ?_
           · with_reducible apply evolves_commitPrep
           · with_reducible apply evolves_discardPrep)
        | with_reducible exact .refl _
    · with_reducible exact .refl _
  try clear_value x0
  with_reducible refine .ite ?_ ?_
  · extract_lets +onlyGivenNames x2
    try clear_value x2
    extract_lets +onlyGivenNames x3
    have hx3 : Evolves s x3 := by
      unfold x3
      refine .trans ?_ (by with_reducible apply evolves_setLink)
      with_reducible exact hx0
    try clear_value x3
    split
    all_goals first
      | (refine .trans ?_ (by with_reducible apply evolves_finishSync)
         with_reducible exact hx3)
      | with_reducible exact hx3
  · with_reducible exact hx0

theorem evolves_keyPullFx (s : State) (l : Nat) (g : LinkMsg) : Evolves s (keyPullFx s l g) := by
  unfold keyPullFx
  with_reducible refine .ite ?_ ?_
  · with_reducible apply evolves_sendMsg
  · with_reducible apply evolves_readReq

theorem evolves_pullReadDone (s : State) (l t slot : Nat) (d : Option Bytes) :
    Evolves s (pullReadDone s l t slot d) := by
  unfold pullReadDone
  with_reducible refine .ite ?_ ?_
  · with_reducible exact .refl _
  · split
    all_goals
      with_reducible apply evolves_sendMsg

theorem evolves_refuseFill (s : State) (n reason : Nat) : Evolves s (refuseFill s n reason) := by
  unfold refuseFill
  split
  all_goals first
    | with_reducible exact .refl _
    | (extract_lets +onlyGivenNames x0
       try clear_value x0
       extract_lets +onlyGivenNames x1
       have hx1 : Evolves s x1 := by
         unfold x1
         refine .upd_all ?_ rfl rfl
         with_reducible exact .refl _
       try clear_value x1
       split
       all_goals first
         | (refine .trans ?_ (by with_reducible apply evolves_pumpJobs)
            refine .trans ?_ (by with_reducible apply evolves_retryAll)
            refine .trans ?_ (by with_reducible apply evolves_retry)
            refine .trans ?_ (by with_reducible apply evolves_touchWay)
            refine .trans ?_ (by with_reducible apply evolves_setLine)
            with_reducible exact hx1)
         | with_reducible exact hx1)

theorem evolves_pullDataFx (s : State) (l : Nat) (g : LinkMsg) : Evolves s (pullDataFx s l g) := by
  unfold pullDataFx
  extract_lets +onlyGivenNames x0
  try clear_value x0
  split
  all_goals first
    | with_reducible exact .refl _
    | (extract_lets +onlyGivenNames x1
       have hx1 : Evolves s x1 := by
         unfold x1
         with_reducible apply evolves_setLink
       try clear_value x1
       with_reducible refine .ite ?_ ?_
       · refine .trans ?_ (by with_reducible apply evolves_refuseFill)
         with_reducible exact hx1
       · split
         all_goals first
           | with_reducible exact hx1
           | (split
              all_goals first
                | (refine .trans ?_ (by with_reducible apply evolves_seedWrite)
                   with_reducible exact hx1)
                | (refine .trans ?_ (by with_reducible apply evolves_seedRead)
                   with_reducible exact hx1)))

theorem evolves_mirrorFx (s : State) (l : Nat) (g : LinkMsg) : Evolves s (mirrorFx s l g) := by
  unfold mirrorFx
  extract_lets +onlyGivenNames x0
  try clear_value x0
  extract_lets +onlyGivenNames x1
  have hx1 : Evolves s x1 := by
    unfold x1
    refine .trans ?_ (by with_reducible apply evolves_setEvt)
    with_reducible apply evolves_inc
  try clear_value x1
  extract_lets +onlyGivenNames x2
  have hx2 : Evolves s x2 := by
    unfold x2
    with_reducible refine .ite ?_ ?_
    · refine .trans ?_ (by with_reducible apply evolves_wr)
      with_reducible exact hx1
    · with_reducible exact hx1
  try clear_value x2
  refine .trans ?_ (by with_reducible apply evolves_chaff)
  with_reducible exact hx2

end Sys2Proof.Machine
end

