-- ==== Sys2Proof/Laws/Resets.lean ====
section
/-! SUPPORT. What no operation of Machine/Resets.lean can do (Laws/Evolves.lean), one lemma for each. -/

namespace Sys2Proof.Machine

theorem wf_baseRegs (p : Part) : SMap.Wf (baseRegs p) := by
  unfold baseRegs
  extract_lets l
  clear_value l
  suffices h : ∀ m : SMap Nat, SMap.Wf m → SMap.Wf (l.foldl (fun m e => SMap.set m e.1 e.2) m) from h [] trivial
  induction l with
  | nil => exact fun m h => h
  | cons e l ih => exact fun m h => ih _ (SMap.wf_set _ _ h)

theorem wf_resetRegs (s : State) (keep : List Nat) : SMap.Wf (resetRegs s keep) := by
  unfold resetRegs
  suffices h : ∀ m : SMap Nat, SMap.Wf m →
      SMap.Wf (keep.foldl (fun m k => match SMap.get? s.regs k with | some v => SMap.set m k v | none => m) m) from
    h _ (wf_baseRegs _)
  induction keep with
  | nil => exact fun m h => h
  | cons k l ih =>
    intro m h
    refine ih _ ?_
    dsimp only
    split
    · exact SMap.wf_set _ _ h
    · exact h

/-- A state that keeps what a reset keeps can follow. -/
theorem Evolves.reset {s u t : State} (h : Evolves s u) (h1 : t.part = s.part) (h2 : t.pending = s.pending) (h3 : t.fcNow = s.fcNow)
    (h4 : t.freeCtr = u.freeCtr) (h5 : SMap.Wf t.regs) (h6 : t.grn.rows = u.grn.rows) (h7 : t.glm.otp = u.glm.otp) : Evolves s t :=
  ⟨h1, h2, Nat.le_of_eq h3.symm, h4 ▸ h.free, fun _ => h5, fun k => h6 ▸ h.rows k, fun k => h7 ▸ h.otpWf k, h7 ▸ h.otp⟩

theorem evolves_resetFx (s : State) (warm : Bool) (ph : Phase) : Evolves s (resetFx s warm ph) := by
  have hu : Evolves s (stopGlume (stopGranary s)) := (evolves_stopGranary s).trans (evolves_stopGlume _)
  exact .reset hu rfl rfl rfl rfl (wf_resetRegs _ _) rfl rfl

theorem evolves_keepCredits (s t : State) : Evolves t (keepCredits s t) := by
  unfold keepCredits
  refine .upd_all ?_ rfl rfl
  with_reducible exact .refl _

theorem evolves_showFuses (s : State) : Evolves s (showFuses s) := by
  unfold showFuses
  extract_lets +onlyGivenNames x0
  try clear_value x0
  extract_lets +onlyGivenNames x1
  try clear_value x1
  extract_lets +onlyGivenNames x2
  try clear_value x2
  refine .trans ?_ (by with_reducible apply evolves_wr)
  with_reducible apply evolves_wr

theorem evolves_startFx (s : State) : Evolves s (startFx s) := by
  unfold startFx
  extract_lets +onlyGivenNames x0
  have hx0 : Evolves s x0 := by
    unfold x0
    refine .upd_all ?_ rfl rfl
    with_reducible exact .refl _
  try clear_value x0
  with_reducible refine .ite ?_ ?_
  · refine .trans ?_ (by with_reducible apply evolves_lockPages)
    with_reducible exact hx0
  · with_reducible exact hx0

theorem evolves_readKeeper (s : State) : Evolves s (readKeeper s) := by
  unfold readKeeper
  extract_lets +onlyGivenNames x0
  try clear_value x0
  extract_lets +onlyGivenNames x1
  have hx1 : Evolves s x1 := by
    unfold x1
    refine .trans ?_ (by with_reducible apply evolves_wr)
    refine .upd_all ?_ rfl rfl
    with_reducible exact .refl _
  try clear_value x1
  with_reducible refine .ite ?_ ?_
  · extract_lets +onlyGivenNames x2
    try clear_value x2
    extract_lets +onlyGivenNames x3
    have hx3 : Evolves s x3 := by
      unfold x3
      refine .trans ?_ (by with_reducible apply evolves_wr)
      refine .trans ?_ (by with_reducible apply evolves_wr)
      refine .trans ?_ (by with_reducible apply evolves_wr)
      with_reducible exact hx1
    try clear_value x3
    refine .upd_all ?_ rfl rfl
    with_reducible exact hx3
  · with_reducible exact hx1

theorem evolves_startDrain (s : State) (ph : Phase) : Evolves s (startDrain s ph) := by
  unfold startDrain
  refine .trans ?_ (by with_reducible apply evolves_wr)
  refine .upd_all ?_ rfl rfl
  with_reducible exact .refl _

theorem evolves_warmRestart (s : State) : Evolves s (warmRestart s) := by
  unfold warmRestart
  with_reducible refine .ite ?_ ?_
  · refine .trans ?_ (by with_reducible apply evolves_keepCredits)
    refine .trans ?_ (by with_reducible apply evolves_startFx)
    with_reducible apply evolves_resetFx
  · with_reducible apply evolves_startDrain

end Sys2Proof.Machine
end

