-- ==== Sys2Proof/Laws/Sheaf.lean ====
section
/-! SUPPORT. What no operation of Machine/Sheaf.lean can do (Laws/Evolves.lean), one lemma for each. -/

namespace Sys2Proof.Machine

theorem evolves_noteRows (s : State) (row n : Nat) : Evolves s (noteRows s row n) := by
  unfold noteRows
  with_reducible refine .foldl (fun st0 _ => ?_) _ _ _ ?_
  · with_reducible apply evolves_noteFlagged
  · with_reducible exact .refl _

theorem evolves_loadTck (s : State) (f : Prof) : Evolves s (loadTck s f) := by
  unfold loadTck
  extract_lets +onlyGivenNames x0
  try clear_value x0
  extract_lets +onlyGivenNames x1
  try clear_value x1
  with_reducible refine .foldl (fun st2 _ => ?_) _ _ _ ?_
  · with_reducible apply evolves_wr
  · with_reducible exact .refl _

theorem evolves_loadWeights (s : State) (f : Prof) : Evolves s (loadWeights s f) := by
  unfold loadWeights
  with_reducible refine .foldl (fun st0 _ => ?_) _ _ _ ?_
  · extract_lets +onlyGivenNames x1
    try clear_value x1
    refine .trans ?_ (by with_reducible apply evolves_wr)
    with_reducible apply evolves_wr
  · with_reducible exact .refl _

theorem evolves_loadKeys (s : State) (root : Bytes) (r : Nat) (stored : Bool) :
    Evolves s (loadKeys s root r stored) := by
  unfold loadKeys
  extract_lets +onlyGivenNames x0
  try clear_value x0
  extract_lets +onlyGivenNames x1
  extract_lets +onlyGivenNames x2
  extract_lets +onlyGivenNames x3
  try clear_value x3
  extract_lets +onlyGivenNames x4
  have hx4 : Evolves s x4 := by
    unfold x4
    refine .trans ?_ (by with_reducible apply evolves_shareOf)
    with_reducible apply evolves_shareOf
  try clear_value x4
  refine .upd_all ?_ rfl rfl
  with_reducible exact hx4

theorem evolves_loadRoots (s : State) : Evolves s (loadRoots s) := by
  unfold loadRoots
  split
  all_goals first
    | with_reducible exact .refl _
    | (with_reducible refine .foldl (fun st0 _ => ?_) _ _ _ ?_
       · with_reducible refine .ite ?_ ?_
         · split
           all_goals first
             | with_reducible apply evolves_loadKeys
             | with_reducible apply evolves_chaffPlain
         · with_reducible exact .refl _
       · with_reducible exact .refl _)

theorem evolves_loadHusks (s : State) : Evolves s (loadHusks s) := by
  unfold loadHusks
  extract_lets +onlyGivenNames x0
  try clear_value x0
  extract_lets +onlyGivenNames x1
  try clear_value x1
  extract_lets +onlyGivenNames x2
  try clear_value x2
  refine .trans ?_ (by with_reducible apply evolves_showHusks)
  refine .upd_all ?_ rfl rfl
  with_reducible exact .refl _

end Sys2Proof.Machine
end

