-- ==== Sys2Proof/Laws/Boot.lean ====
section
/-! SUPPORT. What no operation of Machine/Boot.lean can do (Laws/Evolves.lean), one lemma for each. -/

namespace Sys2Proof.Machine

theorem evolves_cpNotice (s : State) (code member : Nat) : Evolves s (cpNotice s code member) := by
  unfold cpNotice
  extract_lets +onlyGivenNames x0
  try clear_value x0
  extract_lets +onlyGivenNames x1
  have hx1 : Evolves s x1 := by
    unfold x1
    with_reducible refine .ite ?_ ?_
    · refine .upd_all ?_ rfl rfl
      with_reducible exact .refl _
    · with_reducible exact .refl _
  try clear_value x1
  refine .trans ?_ (by with_reducible apply evolves_notice)
  with_reducible exact hx1

theorem evolves_cpExtend (s : State) (n : Nat) (d : Bytes) : Evolves s (cpExtend s n d) := by
  unfold cpExtend
  with_reducible refine .ite ?_ ?_
  · with_reducible exact .refl _
  · extract_lets +onlyGivenNames x0
    have hx0 : Evolves s x0 := by
      unfold x0
      split
      all_goals first
        | with_reducible apply evolves_countBlocks
        | with_reducible exact .refl _
    try clear_value x0
    extract_lets +onlyGivenNames x1
    try clear_value x1
    extract_lets +onlyGivenNames x2
    have hx2 : Evolves s x2 := by
      unfold x2
      refine .trans ?_ (by with_reducible apply evolves_extendMeas)
      with_reducible exact hx0
    try clear_value x2
    refine .upd_all ?_ rfl rfl
    with_reducible exact hx2

theorem evolves_fwVerify (s : State) (detail : Nat) : Evolves s (fwVerify s detail) := by
  unfold fwVerify
  with_reducible apply evolves_chaffPlain

theorem evolves_setTask (s : State) (rows : List (Nat × Bytes)) (next : CpNext) : Evolves s (setTask s rows next) := by
  unfold setTask
  refine .upd_all ?_ rfl rfl
  with_reducible exact .refl _

theorem evolves_cpRow (s : State) (row : Nat) (d : Bytes) : Evolves s (cpRow s row d) := by
  unfold cpRow
  extract_lets +onlyGivenNames x0
  with_reducible refine .ite ?_ ?_
  · with_reducible apply evolves_submitProg
  · refine .upd_all ?_ rfl rfl
    with_reducible exact .refl _

theorem evolves_wearFx (s : State) (v : Nat) : Evolves s (wearFx s v) := by
  unfold wearFx
  with_reducible refine .ite ?_ ?_
  · with_reducible apply evolves_wr
  · with_reducible exact .refl _

theorem evolves_logCfgFx (s : State) (v : Nat) : Evolves s (logCfgFx s v) := by
  unfold logCfgFx
  extract_lets +onlyGivenNames x0
  try clear_value x0
  extract_lets +onlyGivenNames x1
  have hx1 : Evolves s x1 := by
    unfold x1
    with_reducible refine .ite ?_ ?_
    · with_reducible apply evolves_wr
    · with_reducible exact .refl _
  try clear_value x1
  refine .trans ?_ (by with_reducible apply evolves_wr)
  with_reducible exact hx1

theorem evolves_sntCfgFx (s : State) (off v : Nat) : Evolves s (sntCfgFx s off v) := by
  unfold sntCfgFx
  extract_lets +onlyGivenNames x0
  try clear_value x0
  extract_lets +onlyGivenNames x1
  with_reducible refine .ite ?_ ?_
  · try unfold x1
    refine .trans ?_ (by with_reducible apply evolves_wr)
    try unfold x1
    refine .trans ?_ (by with_reducible apply evolves_wr)
    try unfold x1
    refine .trans ?_ (by with_reducible apply evolves_wr)
    with_reducible apply evolves_storeWord
  · with_reducible exact .refl _

theorem evolves_loadItems (s : State) (l : List (Nat × Bytes)) : Evolves s (loadItems s l) := by
  unfold loadItems
  extract_lets +onlyGivenNames x0
  have hx0 : Evolves s x0 := by
    unfold x0
    split
    all_goals first
      | (refine .trans ?_ (by with_reducible apply evolves_sntCfgFx)
         with_reducible apply evolves_sntCfgFx)
      | with_reducible exact .refl _
  try clear_value x0
  extract_lets +onlyGivenNames x1
  have hx1 : Evolves s x1 := by
    unfold x1
    split
    all_goals first
      | (refine .trans ?_ (by with_reducible apply evolves_sntCfgFx)
         refine .trans ?_ (by with_reducible apply evolves_sntCfgFx)
         refine .trans ?_ (by with_reducible apply evolves_sntCfgFx)
         with_reducible exact hx0)
      | with_reducible exact hx0
  try clear_value x1
  extract_lets +onlyGivenNames x2
  have hx2 : Evolves s x2 := by
    unfold x2
    split
    all_goals first
      | (with_reducible refine .ite ?_ ?_
         · with_reducible refine .foldl (fun st3 _ => ?_) _ _ _ ?_
           · with_reducible apply evolves_setRule
           · with_reducible exact hx1
         · with_reducible exact hx1)
      | with_reducible exact hx1
  try clear_value x2
  extract_lets +onlyGivenNames x4
  have hx4 : Evolves s x4 := by
    unfold x4
    split
    all_goals first
      | (refine .trans ?_ (by with_reducible apply evolves_logCfgFx)
         refine .trans ?_ (by with_reducible apply evolves_wearFx)
         with_reducible exact hx2)
      | with_reducible exact hx2
  try clear_value x4
  split
  all_goals first
    | (with_reducible refine .ite ?_ ?_
       · refine .trans ?_ (by with_reducible apply evolves_wr)
         with_reducible exact hx4
       · with_reducible exact hx4)
    | with_reducible exact hx4

theorem evolves_loadOperator (s : State) (img : Bytes) : Evolves s (loadOperator s img) := by
  unfold loadOperator
  split
  all_goals first
    | (refine .trans ?_ (by with_reducible apply evolves_cpExtend)
       with_reducible apply evolves_loadItems)
    | (refine .trans ?_ (by with_reducible apply evolves_setEvt)
       with_reducible apply evolves_cpNotice)

theorem evolves_loadFactory (s : State) : Evolves s (loadFactory s) := by
  unfold loadFactory
  split
  all_goals first
    | with_reducible exact .refl _
    | (extract_lets +onlyGivenNames x0
       try clear_value x0
       extract_lets +onlyGivenNames x1
       try clear_value x1
       refine .upd_all ?_ rfl rfl
       with_reducible exact .refl _)

theorem evolves_loadProfile (s : State) (f : Prof) : Evolves s (loadProfile s f) := by
  unfold loadProfile
  extract_lets +onlyGivenNames x0
  have hx0 : Evolves s x0 := by
    unfold x0
    refine .trans ?_ (by with_reducible apply evolves_loadWeights)
    with_reducible refine .ite ?_ ?_
    · with_reducible apply evolves_loadTck
    · with_reducible exact .refl _
  try clear_value x0
  extract_lets +onlyGivenNames x1
  have hx1 : Evolves s x1 := by
    unfold x1
    with_reducible refine .ite ?_ ?_
    · refine .trans ?_ (by with_reducible apply evolves_wr)
      refine .trans ?_ (by with_reducible apply evolves_wr)
      with_reducible exact hx0
    · with_reducible exact hx0
  try clear_value x1
  extract_lets +onlyGivenNames x2
  extract_lets +onlyGivenNames x3
  have hx3 : Evolves s x3 := by
    unfold x3
    with_reducible refine .foldl (fun st4 _ => ?_) _ _ _ ?_
    · try unfold x2
      extract_lets +onlyGivenNames x5
      try clear_value x5
      with_reducible refine .ite ?_ ?_
      · with_reducible exact .refl _
      · extract_lets +onlyGivenNames x6
        have hx6 : Evolves st4 x6 := by
          unfold x6
          with_reducible apply evolves_wr
        try clear_value x6
        with_reducible refine .ite ?_ ?_
        · with_reducible exact hx6
        · with_reducible refine .ite ?_ ?_
          · refine .trans ?_ (by with_reducible apply evolves_wr)
            with_reducible exact hx6
          · refine .trans ?_ (by with_reducible apply evolves_wr)
            with_reducible exact hx6
    · with_reducible exact hx1
  try clear_value x3
  refine .upd_all ?_ rfl rfl
  with_reducible exact hx3

theorem evolves_startProfile (s : State) : Evolves s (startProfile s) := by
  unfold startProfile
  extract_lets +onlyGivenNames x0
  try clear_value x0
  extract_lets +onlyGivenNames x1
  try clear_value x1
  extract_lets +onlyGivenNames x2
  try clear_value x2
  split
  all_goals first
    | (extract_lets +onlyGivenNames x3
       have hx3 : Evolves s x3 := by
         unfold x3
         with_reducible apply evolves_loadProfile
       try clear_value x3
       extract_lets +onlyGivenNames x4
       have hx4 : Evolves s x4 := by
         unfold x4
         with_reducible refine .ite ?_ ?_
         · with_reducible exact hx3
         · refine .trans ?_ (by with_reducible apply evolves_cpNotice)
           refine .trans ?_ (by with_reducible apply evolves_wr)
           refine .trans ?_ (by with_reducible apply evolves_wr)
           with_reducible exact hx3
       try clear_value x4
       with_reducible refine .ite ?_ ?_
       · refine .trans ?_ (by with_reducible apply evolves_cpExtend)
         with_reducible exact hx4
       · with_reducible exact hx4)
    | (extract_lets +onlyGivenNames x5
       have hx5 : Evolves s x5 := by
         unfold x5
         with_reducible apply evolves_loadProfile
       try clear_value x5
       with_reducible refine .ite ?_ ?_
       · with_reducible exact hx5
       · refine .trans ?_ (by with_reducible apply evolves_cpNotice)
         refine .trans ?_ (by with_reducible apply evolves_wr)
         with_reducible exact hx5)

theorem evolves_showMicro (s : State) (img : Bytes) (safe : Bool) : Evolves s (showMicro s img safe) := by
  unfold showMicro
  extract_lets +onlyGivenNames x0
  have hx0 : Evolves s x0 := by
    unfold x0
    with_reducible refine .foldl (fun st1 _ => ?_) _ _ _ ?_
    · with_reducible refine .ite ?_ ?_
      · extract_lets +onlyGivenNames x2
        try clear_value x2
        refine .trans ?_ (by with_reducible apply evolves_wr)
        refine .trans ?_ (by with_reducible apply evolves_wr)
        with_reducible apply evolves_wr
      · with_reducible exact .refl _
    · with_reducible exact .refl _
  try clear_value x0
  extract_lets +onlyGivenNames x3
  have hx3 : Evolves s x3 := by
    unfold x3
    with_reducible refine .foldl (fun st4 _ => ?_) _ _ _ ?_
    · with_reducible refine .ite ?_ ?_
      · refine .trans ?_ (by with_reducible apply evolves_wr)
        with_reducible apply evolves_wr
      · with_reducible exact .refl _
    · with_reducible exact hx0
  try clear_value x3
  refine .trans ?_ (by with_reducible apply evolves_wr)
  refine .trans ?_ (by with_reducible apply evolves_wr)
  with_reducible exact hx3

theorem evolves_loadSafe (s : State) : Evolves s (loadSafe s) := by
  unfold loadSafe
  extract_lets +onlyGivenNames x0
  try clear_value x0
  extract_lets +onlyGivenNames x1
  have hx1 : Evolves s x1 := by
    unfold x1
    refine .trans ?_ (by with_reducible apply evolves_showMicro)
    refine .upd_all ?_ rfl rfl
    with_reducible exact .refl _
  try clear_value x1
  refine .trans ?_ (by with_reducible apply evolves_cpExtend)
  refine .trans ?_ (by with_reducible apply evolves_cpNotice)
  with_reducible exact hx1

theorem evolves_loadMicro (s : State) (img : Bytes) : Evolves s (loadMicro s img) := by
  unfold loadMicro
  with_reducible refine .ite ?_ ?_
  · extract_lets +onlyGivenNames x0
    try clear_value x0
    extract_lets +onlyGivenNames x1
    try clear_value x1
    extract_lets +onlyGivenNames x2
    have hx2 : Evolves s x2 := by
      unfold x2
      refine .trans ?_ (by with_reducible apply evolves_showMicro)
      refine .upd_all ?_ rfl rfl
      with_reducible exact .refl _
    try clear_value x2
    refine .trans ?_ (by with_reducible apply evolves_cpExtend)
    with_reducible exact hx2
  · with_reducible apply evolves_loadSafe

theorem evolves_showBoot (s : State) : Evolves s (showBoot s) := by
  unfold showBoot
  extract_lets +onlyGivenNames x0
  try clear_value x0
  extract_lets +onlyGivenNames x1
  try clear_value x1
  extract_lets +onlyGivenNames x2
  try clear_value x2
  extract_lets +onlyGivenNames x3
  have hx3 : Evolves s x3 := by
    unfold x3
    refine .trans ?_ (by with_reducible apply evolves_wr)
    with_reducible apply evolves_wr
  try clear_value x3
  refine .trans ?_ (by with_reducible apply evolves_wr)
  refine .trans ?_ (by with_reducible apply evolves_wr)
  refine .trans ?_ (by with_reducible apply evolves_wr)
  refine .trans ?_ (by with_reducible apply evolves_wr)
  with_reducible exact hx3

theorem evolves_serveStart (s : State) : Evolves s (serveStart s) := by
  unfold serveStart
  extract_lets s1 s2
  have h1 : Evolves s s1 := (evolves_wr ..).trans (evolves_wr ..)
  have h2 : Evolves s s2 := .ite h1 (h1.trans (evolves_setUstate ..))
  refine .trans ?_ (evolves_showBoot ..)
  exact .upd_all (.upd_freeCtr h2 (Nat.le_succ _)) rfl rfl

theorem evolves_serviceMode (s : State) : Evolves s (serviceMode s) := by
  unfold serviceMode
  extract_lets +onlyGivenNames x0
  have hx0 : Evolves s x0 := by
    unfold x0
    refine .trans ?_ (by with_reducible apply evolves_wr)
    with_reducible apply evolves_wr
  try clear_value x0
  refine .trans ?_ (by with_reducible apply evolves_serveStart)
  with_reducible refine .ite ?_ ?_
  · with_reducible exact hx0
  · refine .trans ?_ (by with_reducible apply evolves_loadSafe)
    with_reducible exact hx0

theorem evolves_firmwareStart (s : State) (img : Bytes) (again : Bool) : Evolves s (firmwareStart s img again) := by
  unfold firmwareStart
  extract_lets +onlyGivenNames x0
  have hx0 : Evolves s x0 := by
    unfold x0
    refine .trans ?_ (by with_reducible apply evolves_loadFactory)
    with_reducible apply evolves_loadOperator
  try clear_value x0
  extract_lets +onlyGivenNames x1
  have hx1 : Evolves s x1 := by
    unfold x1
    with_reducible refine .ite ?_ ?_
    · with_reducible exact hx0
    · refine .trans ?_ (by with_reducible apply evolves_startProfile)
      with_reducible exact hx0
  try clear_value x1
  extract_lets +onlyGivenNames x2
  have hx2 : Evolves s x2 := by
    unfold x2
    with_reducible refine .foldl (fun st3 _ => ?_) _ _ _ ?_
    · with_reducible refine .ite ?_ ?_
      · refine .trans ?_ (by with_reducible apply evolves_wr)
        with_reducible apply evolves_wr
      · with_reducible exact .refl _
    · with_reducible exact hx1
  try clear_value x2
  with_reducible refine .ite ?_ ?_
  · refine .trans ?_ (by with_reducible apply evolves_serveStart)
    with_reducible exact hx2
  · extract_lets +onlyGivenNames x4
    have hx4 : Evolves s x4 := by
      unfold x4
      refine .trans ?_ (by with_reducible apply evolves_serveStart)
      with_reducible refine .ite ?_ ?_
      · with_reducible exact hx2
      · refine .trans ?_ (by with_reducible apply evolves_loadHusks)
        refine .trans ?_ (by with_reducible apply evolves_loadRoots)
        refine .trans ?_ (by with_reducible apply evolves_keyLoadFx)
        with_reducible exact hx2
    try clear_value x4
    refine .upd_all ?_ rfl rfl
    with_reducible exact hx4

theorem evolves_runImage (s : State) (bank : Nat) (trial : Bool) : Evolves s (runImage s bank trial) := by
  unfold runImage
  extract_lets +onlyGivenNames x0
  try clear_value x0
  extract_lets +onlyGivenNames x1
  have hx1 : Evolves s x1 := by
    unfold x1
    refine .trans ?_ (by with_reducible apply evolves_wr)
    with_reducible apply evolves_wr
  try clear_value x1
  extract_lets +onlyGivenNames x2
  try clear_value x2
  extract_lets +onlyGivenNames x3
  have hx3 : Evolves s x3 := by
    unfold x3
    refine .trans ?_ (by with_reducible apply evolves_wr)
    refine .upd_all ?_ rfl rfl
    with_reducible exact hx1
  try clear_value x3
  extract_lets +onlyGivenNames x4
  have hx4 : Evolves s x4 := by
    unfold x4
    refine .trans ?_ (by with_reducible apply evolves_cpExtend)
    with_reducible exact hx3
  try clear_value x4
  with_reducible refine .ite ?_ ?_
  · refine .trans ?_ (by with_reducible apply evolves_firmwareStart)
    with_reducible exact hx4
  · refine .trans ?_ (by with_reducible apply evolves_firmwareStart)
    refine .trans ?_ (by with_reducible apply evolves_loadMicro)
    with_reducible exact hx4

theorem evolves_revertTrial (s : State) : Evolves s (revertTrial s) := by
  unfold revertTrial
  extract_lets +onlyGivenNames x0
  try clear_value x0
  refine .trans ?_ (by with_reducible apply evolves_setTask)
  refine .trans ?_ (by with_reducible apply evolves_cpNotice)
  with_reducible apply evolves_setEvt

theorem evolves_bootBank (s : State) (bank : Nat) (trial : Bool) : Evolves s (bootBank s bank trial) := by
  unfold bootBank
  extract_lets +onlyGivenNames x0
  try clear_value x0
  extract_lets +onlyGivenNames x1
  extract_lets +onlyGivenNames x2
  try clear_value x2
  with_reducible refine .ite ?_ ?_
  · refine .trans ?_ (by with_reducible apply evolves_runImage)
    try unfold x1
    with_reducible apply evolves_noteRows
  · extract_lets +onlyGivenNames x3
    have hx3 : Evolves s x3 := by
      unfold x3
      refine .trans ?_ (by with_reducible apply evolves_fwVerify)
      try unfold x1
      with_reducible apply evolves_noteRows
    try clear_value x3
    with_reducible refine .ite ?_ ?_
    · refine .trans ?_ (by with_reducible apply evolves_revertTrial)
      with_reducible exact hx3
    · extract_lets +onlyGivenNames x4
      try clear_value x4
      extract_lets +onlyGivenNames x5
      try clear_value x5
      with_reducible refine .ite ?_ ?_
      · refine .trans ?_ (by with_reducible apply evolves_runImage)
        try unfold x1
        refine .trans ?_ (by with_reducible apply evolves_noteRows)
        with_reducible exact hx3
      · refine .trans ?_ (by with_reducible apply evolves_serviceMode)
        refine .trans ?_ (by with_reducible apply evolves_fwVerify)
        try unfold x1
        refine .trans ?_ (by with_reducible apply evolves_noteRows)
        with_reducible exact hx3

theorem evolves_recoveryMode (s : State) : Evolves s (recoveryMode s) := by
  unfold recoveryMode
  extract_lets +onlyGivenNames x0
  try clear_value x0
  extract_lets +onlyGivenNames x1
  try clear_value x1
  with_reducible refine .ite ?_ ?_
  · refine .trans ?_ (by with_reducible apply evolves_serviceMode)
    with_reducible apply evolves_fwVerify
  · extract_lets +onlyGivenNames x2
    try clear_value x2
    extract_lets +onlyGivenNames x3
    have hx3 : Evolves s x3 := by
      unfold x3
      refine .trans ?_ (by with_reducible apply evolves_wr)
      refine .trans ?_ (by with_reducible apply evolves_wr)
      with_reducible apply evolves_wr
    try clear_value x3
    extract_lets +onlyGivenNames x4
    have hx4 : Evolves s x4 := by
      unfold x4
      refine .trans ?_ (by with_reducible apply evolves_cpExtend)
      refine .trans ?_ (by with_reducible apply evolves_wr)
      with_reducible exact hx3
    try clear_value x4
    with_reducible refine .ite ?_ ?_
    · refine .trans ?_ (by with_reducible apply evolves_firmwareStart)
      with_reducible exact hx4
    · refine .trans ?_ (by with_reducible apply evolves_firmwareStart)
      refine .trans ?_ (by with_reducible apply evolves_loadSafe)
      with_reducible exact hx4

theorem evolves_romFx (s : State) : Evolves s (romFx s) := by
  unfold romFx
  extract_lets +onlyGivenNames t s0 y s1 i
  have h0 : Evolves s s0 := .ite (evolves_scanRemap ..) (.refl _)
  have h1 : Evolves s s1 := .upd_all (.upd_freeCtr h0 (Nat.le_succ _)) rfl rfl
  refine .ite ((h1.trans (evolves_wr ..)).trans (evolves_fwVerify ..)) ?_
  refine .ite (h1.trans (evolves_recoveryMode ..)) ?_
  refine .ite (h1.trans (evolves_bootBank ..)) ?_
  exact .ite (h1.trans (evolves_setTask ..)) (h1.trans (evolves_revertTrial ..))

theorem evolves_makeRoot0 (s : State) : Evolves s (makeRoot0 s) := by
  unfold makeRoot0
  split
  all_goals first
    | with_reducible exact .refl _
    | (extract_lets +onlyGivenNames x0
       extract_lets +onlyGivenNames x1
       extract_lets +onlyGivenNames x2
       try clear_value x2
       refine .trans ?_ (by with_reducible apply evolves_cpRow)
       refine .trans ?_ (by with_reducible apply evolves_cpRow)
       refine .trans ?_ (by with_reducible apply evolves_loadKeys)
       refine .trans ?_ (by with_reducible apply evolves_draw)
       with_reducible apply evolves_draw)

theorem evolves_reportRow (s : State) (row : Nat) : Evolves s (reportRow s row) := by
  unfold reportRow
  with_reducible refine .foldl (fun st0 _ => ?_) _ _ _ ?_
  · extract_lets +onlyGivenNames x1
    try clear_value x1
    with_reducible refine .ite ?_ ?_
    · with_reducible apply evolves_cpNotice
    · with_reducible exact .refl _
  · with_reducible exact .refl _

theorem evolves_enableRow (s : State) : Evolves s (enableRow s) := by
  unfold enableRow
  extract_lets +onlyGivenNames x0
  try clear_value x0
  extract_lets +onlyGivenNames x1
  have hx1 : Evolves s x1 := by
    unfold x1
    with_reducible apply evolves_reportRow
  try clear_value x1
  extract_lets +onlyGivenNames x2
  have hx2 : Evolves s x2 := by
    unfold x2
    with_reducible refine .ite ?_ ?_
    · refine .trans ?_ (by with_reducible apply evolves_makeRoot0)
      with_reducible exact hx1
    · with_reducible exact hx1
  try clear_value x2
  extract_lets +onlyGivenNames x3
  have hx3 : Evolves s x3 := by
    unfold x3
    with_reducible refine .foldl (fun st4 _ => ?_) _ _ _ ?_
    · with_reducible refine .ite ?_ ?_
      · refine .trans ?_ (by with_reducible apply evolves_setUstate)
        with_reducible apply evolves_wr
      · with_reducible exact .refl _
    · with_reducible exact hx2
  try clear_value x3
  refine .upd_all ?_ rfl rfl
  with_reducible exact hx3

theorem evolves_baselineFx (s : State) : Evolves s (baselineFx s) := by
  unfold baselineFx
  extract_lets +onlyGivenNames x0
  try clear_value x0
  with_reducible refine .ite ?_ ?_
  · with_reducible exact .refl _
  · with_reducible refine .ite ?_ ?_
    · extract_lets +onlyGivenNames x1
      have hx1 : Evolves s x1 := by
        unfold x1
        refine .trans ?_ (by with_reducible apply evolves_wr)
        with_reducible apply evolves_reportRow
      try clear_value x1
      refine .upd_all ?_ rfl rfl
      with_reducible exact hx1
    · with_reducible refine .ite ?_ ?_
      · with_reducible exact .refl _
      · with_reducible apply evolves_enableRow

theorem evolves_baselineTimeoutFx (s : State) : Evolves s (baselineTimeoutFx s) := by
  unfold baselineTimeoutFx
  extract_lets +onlyGivenNames x0
  try clear_value x0
  split
  all_goals first
    | (with_reducible refine .ite ?_ ?_
       · extract_lets +onlyGivenNames x1
         have hx1 : Evolves s x1 := by
           unfold x1
           with_reducible refine .foldl (fun st2 _ => ?_) _ _ _ ?_
           · with_reducible apply evolves_cpNotice
           · with_reducible apply evolves_reportRow
         try clear_value x1
         refine .upd_all ?_ rfl rfl
         with_reducible exact hx1
       · with_reducible exact .refl _)
    | with_reducible exact .refl _

end Sys2Proof.Machine
end

