-- ==== Sys2Proof/Laws/Cp.lean ====
section
/-! SUPPORT. What no operation of Machine/Cp.lean can do (Laws/Evolves.lean), one lemma for each. -/

namespace Sys2Proof.Machine

theorem evolves_endCmd (s : State) (code : Nat) (rets : List Nat) : Evolves s (endCmd s code rets) := by
  unfold endCmd
  extract_lets +onlyGivenNames x0
  try clear_value x0
  extract_lets +onlyGivenNames x1
  have hx1 : Evolves s x1 := by
    unfold x1
    with_reducible refine .foldl (fun st2 _ => ?_) _ _ _ ?_
    · with_reducible apply evolves_wr
    · with_reducible exact .refl _
  try clear_value x1
  extract_lets +onlyGivenNames x3
  try clear_value x3
  extract_lets +onlyGivenNames x4
  have hx4 : Evolves s x4 := by
    unfold x4
    refine .upd_all ?_ rfl rfl
    with_reducible exact hx1
  try clear_value x4
  refine .trans ?_ (by with_reducible apply evolves_setEvt)
  refine .trans ?_ (by with_reducible apply evolves_wr)
  refine .trans ?_ (by with_reducible apply evolves_wr)
  refine .trans ?_ (by with_reducible apply evolves_wr)
  with_reducible exact hx4

theorem evolves_hostAsk (s : State) (a n : Nat) : Evolves s (hostAsk s a n) := by
  unfold hostAsk
  extract_lets +onlyGivenNames x0
  try clear_value x0
  extract_lets +onlyGivenNames x1
  try clear_value x1
  extract_lets +onlyGivenNames x2
  try clear_value x2
  extract_lets +onlyGivenNames x3
  have hx3 : Evolves s x3 := by
    unfold x3
    refine .upd_all ?_ rfl rfl
    with_reducible exact .refl _
  try clear_value x3
  with_reducible refine .foldl (fun st4 _ => ?_) _ _ _ ?_
  · with_reducible apply evolves_readReq
  · with_reducible exact hx3

theorem evolves_withHost {s : State} {a n : Nat} {go : State → Bytes → State} (h : ∀ t b, Evolves t (go t b)) :
    Evolves s (withHost s a n go) := by
  unfold withHost
  split
  · exact .ite (h ..) (evolves_hostAsk ..)
  · exact .ite (.refl _) (.ite (evolves_endCmd ..) (h ..))

theorem evolves_cpArrived (s : State) (cmd off : Nat) (d : Option Bytes) : Evolves s (cpArrived s cmd off d) := by
  unfold cpArrived
  split
  all_goals first
    | (with_reducible refine .ite ?_ ?_
       · with_reducible exact .refl _
       · refine .upd_all ?_ rfl rfl
         with_reducible exact .refl _)
    | with_reducible exact .refl _

theorem evolves_hostWrite (s : State) (a : Nat) (d : Bytes) : Evolves s (hostWrite s a d) := by
  unfold hostWrite
  with_reducible refine .foldl (fun st0 _ => ?_) _ _ _ ?_
  · with_reducible apply evolves_writeReq
  · with_reducible exact .refl _

theorem evolves_cpWriteDone (s : State) : Evolves s (cpWriteDone s) := by
  unfold cpWriteDone
  with_reducible refine .ite ?_ ?_
  · with_reducible exact .refl _
  · extract_lets +onlyGivenNames x0
    try clear_value x0
    refine .trans ?_ (by with_reducible apply evolves_endCmd)
    refine .upd_all ?_ rfl rfl
    with_reducible exact .refl _

theorem evolves_installImage (s0 : State) (img : Bytes) : Evolves s0 (installImage s0 img) := by
  unfold installImage
  extract_lets +onlyGivenNames x0
  try clear_value x0
  extract_lets +onlyGivenNames x1
  try clear_value x1
  extract_lets +onlyGivenNames x2
  try clear_value x2
  extract_lets +onlyGivenNames x3
  have hx3 : Evolves s0 x3 := by
    unfold x3
    refine .upd_all ?_ rfl rfl
    with_reducible exact .refl _
  try clear_value x3
  with_reducible refine .ite ?_ ?_
  · refine .trans ?_ (by with_reducible apply evolves_endCmd)
    with_reducible exact hx3
  · with_reducible refine .ite ?_ ?_
    · refine .trans ?_ (by with_reducible apply evolves_endCmd)
      with_reducible exact hx3
    · with_reducible refine .ite ?_ ?_
      · refine .trans ?_ (by with_reducible apply evolves_endCmd)
        with_reducible exact hx3
      · with_reducible refine .ite ?_ ?_
        · refine .trans ?_ (by with_reducible apply evolves_endCmd)
          with_reducible exact hx3
        · with_reducible refine .ite ?_ ?_
          · refine .trans ?_ (by with_reducible apply evolves_endCmd)
            with_reducible exact hx3
          · with_reducible refine .ite ?_ ?_
            · refine .trans ?_ (by with_reducible apply evolves_endCmd)
              with_reducible exact hx3
            · extract_lets +onlyGivenNames x4
              try clear_value x4
              refine .trans ?_ (by with_reducible apply evolves_setTask)
              with_reducible exact hx3

theorem evolves_cpInstall (s : State) : Evolves s (cpInstall s) := by
  unfold cpInstall
  with_reducible refine .ite ?_ ?_
  · with_reducible apply evolves_endCmd
  · refine .trans ?_ (evolves_withHost (fun st0 _ => ?_) ..)
    · with_reducible exact .refl _
    · with_reducible apply evolves_installImage

theorem evolves_verifyFx (s0 : State) (bank : Nat) (dig : Bytes) : Evolves s0 (verifyFx s0 bank dig) := by
  unfold verifyFx
  extract_lets +onlyGivenNames x0
  try clear_value x0
  extract_lets +onlyGivenNames x1
  have hx1 : Evolves s0 x1 := by
    unfold x1
    with_reducible apply evolves_noteRows
  try clear_value x1
  with_reducible refine .ite ?_ ?_
  · refine .trans ?_ (by with_reducible apply evolves_endCmd)
    with_reducible exact hx1
  · extract_lets +onlyGivenNames x2
    try clear_value x2
    extract_lets +onlyGivenNames x3
    try clear_value x3
    refine .trans ?_ (by with_reducible apply evolves_setTask)
    with_reducible exact hx1

theorem evolves_activateFx (s : State) : Evolves s (activateFx s) := by
  unfold activateFx
  with_reducible refine .ite ?_ ?_
  · with_reducible apply evolves_endCmd
  · refine .trans ?_ (by with_reducible apply evolves_warmRestart)
    with_reducible refine .foldl (fun st0 _ => ?_) _ _ _ ?_
    · with_reducible refine .ite ?_ ?_
      · with_reducible apply evolves_sendLeave
      · with_reducible exact .refl _
    · with_reducible exact .refl _

theorem evolves_cpStatus (s : State) : Evolves s (cpStatus s) := by
  unfold cpStatus
  extract_lets +onlyGivenNames x0
  try clear_value x0
  with_reducible apply evolves_endCmd

theorem evolves_switchFx (s : State) : Evolves s (switchFx s) := by
  unfold switchFx
  extract_lets +onlyGivenNames x0
  try clear_value x0
  split
  all_goals first
    | with_reducible apply evolves_endCmd
    | (extract_lets +onlyGivenNames x1
       try clear_value x1
       extract_lets +onlyGivenNames x2
       have hx2 : Evolves s x2 := by
         unfold x2
         refine .upd_all ?_ rfl rfl
         with_reducible exact .refl _
       try clear_value x2
       refine .trans ?_ (by with_reducible apply evolves_wr)
       refine .trans ?_ (by with_reducible apply evolves_wr)
       with_reducible exact hx2)

theorem evolves_storeRecord (s : State) (rec : Bytes) : Evolves s (storeRecord s rec) := by
  unfold storeRecord
  extract_lets +onlyGivenNames x0
  try clear_value x0
  with_reducible refine .ite ?_ ?_
  · with_reducible apply evolves_endCmd
  · extract_lets +onlyGivenNames x1
    try clear_value x1
    with_reducible refine .ite ?_ ?_
    · with_reducible apply evolves_endCmd
    · extract_lets +onlyGivenNames x2
      try clear_value x2
      extract_lets +onlyGivenNames x3
      try clear_value x3
      with_reducible apply evolves_setTask

theorem evolves_storeFx (s : State) : Evolves s (storeFx s) := by
  unfold storeFx
  with_reducible refine .ite ?_ ?_
  · with_reducible apply evolves_endCmd
  · refine .trans ?_ (evolves_withHost (fun st0 _ => ?_) ..)
    · with_reducible exact .refl _
    · with_reducible apply evolves_storeRecord

theorem evolves_storeItems (s : State) (items : Bytes) : Evolves s (storeItems s items) := by
  unfold storeItems
  split
  all_goals first
    | with_reducible apply evolves_endCmd
    | (extract_lets +onlyGivenNames x0
       try clear_value x0
       extract_lets +onlyGivenNames x1
       try clear_value x1
       extract_lets +onlyGivenNames x2
       try clear_value x2
       with_reducible refine .ite ?_ ?_
       · with_reducible apply evolves_endCmd
       · split
         all_goals first
           | with_reducible apply evolves_setTask
           | with_reducible apply evolves_endCmd)

theorem evolves_settingsFx (s : State) : Evolves s (settingsFx s) := by
  unfold settingsFx
  with_reducible refine .ite ?_ ?_
  · with_reducible apply evolves_endCmd
  · refine .trans ?_ (evolves_withHost (fun st0 _ => ?_) ..)
    · with_reducible exact .refl _
    · with_reducible apply evolves_storeItems

theorem evolves_realmMade (s : State) (r : Nat) : Evolves s (realmMade s r) := by
  unfold realmMade
  refine .trans ?_ (by with_reducible apply evolves_endCmd)
  refine .trans ?_ (by with_reducible apply evolves_inc)
  refine .trans ?_ (by with_reducible apply evolves_wr)
  with_reducible apply evolves_adoptRealm

theorem evolves_newRealm (s : State) (dk root nonce : Bytes) (r : Nat) (stored : Bool) :
    Evolves s (newRealm s dk root nonce r stored) := by
  unfold newRealm
  extract_lets +onlyGivenNames x0
  try clear_value x0
  refine .trans ?_ (by with_reducible apply evolves_setTask)
  with_reducible apply evolves_loadKeys

theorem evolves_createFx (s : State) : Evolves s (createFx s) := by
  unfold createFx
  extract_lets +onlyGivenNames x0
  try clear_value x0
  extract_lets +onlyGivenNames x1
  try clear_value x1
  extract_lets +onlyGivenNames x2
  try clear_value x2
  extract_lets +onlyGivenNames x3
  try clear_value x3
  with_reducible refine .ite ?_ ?_
  · with_reducible apply evolves_endCmd
  · with_reducible refine .ite ?_ ?_
    · with_reducible apply evolves_endCmd
    · with_reducible refine .ite ?_ ?_
      · with_reducible apply evolves_endCmd
      · with_reducible refine .ite ?_ ?_
        · with_reducible apply evolves_endCmd
        · split
          all_goals first
            | with_reducible apply evolves_endCmd
            | (with_reducible refine .ite ?_ ?_
               · split
                 all_goals first
                   | (with_reducible refine .ite ?_ ?_
                      · with_reducible apply evolves_endCmd
                      · refine .trans ?_ (by with_reducible apply evolves_realmMade)
                        with_reducible apply evolves_loadKeys)
                   | with_reducible apply evolves_endCmd
               · split
                 all_goals first
                   | exact (.fst (by assumption) (by with_reducible apply evolves_kccDraw))
                   | (extract_lets +onlyGivenNames x4
                      try clear_value x4
                      refine .trans ?_ (by with_reducible apply evolves_newRealm)
                      exact (.fst (by assumption) (by with_reducible apply evolves_kccDraw))))

theorem evolves_eraseRecords (s : State) (r : Nat) : Evolves s (eraseRecords s r) := by
  unfold eraseRecords
  extract_lets +onlyGivenNames x0
  have hx0 : Evolves s x0 := by
    unfold x0
    with_reducible refine .foldl (fun st1 _ => ?_) _ _ _ ?_
    · with_reducible refine .ite ?_ ?_
      · with_reducible exact .refl _
      · with_reducible apply evolves_cpRow
    · with_reducible exact .refl _
  try clear_value x0
  with_reducible refine .foldl (fun st2 _ => ?_) _ _ _ ?_
  · with_reducible refine .foldl (fun st3 _ => ?_) _ _ _ ?_
    · split
      all_goals first
        | (with_reducible refine .ite ?_ ?_
           · with_reducible apply evolves_cpWord
           · with_reducible exact .refl _)
        | with_reducible exact .refl _
    · with_reducible exact .refl _
  · with_reducible exact hx0

theorem evolves_destroyFx (s : State) (fresh : Bool) : Evolves s (destroyFx s fresh) := by
  unfold destroyFx
  extract_lets +onlyGivenNames x0
  try clear_value x0
  extract_lets +onlyGivenNames x1
  try clear_value x1
  with_reducible refine .ite ?_ ?_
  · with_reducible apply evolves_endCmd
  · extract_lets +onlyGivenNames x2
    try clear_value x2
    extract_lets +onlyGivenNames x3
    have hx3 : Evolves s x3 := by
      unfold x3
      with_reducible apply evolves_wr
    try clear_value x3
    extract_lets +onlyGivenNames x4
    try clear_value x4
    extract_lets +onlyGivenNames x5
    try clear_value x5
    extract_lets +onlyGivenNames x6
    try clear_value x6
    extract_lets +onlyGivenNames x7
    have hx7 : Evolves s x7 := by
      unfold x7
      refine .upd_all ?_ rfl rfl
      with_reducible exact hx3
    try clear_value x7
    with_reducible refine .ite ?_ ?_
    · with_reducible exact hx7
    · extract_lets +onlyGivenNames x8
      try clear_value x8
      extract_lets +onlyGivenNames x9
      try clear_value x9
      extract_lets +onlyGivenNames x10
      try clear_value x10
      extract_lets +onlyGivenNames x11
      have hx11 : Evolves s x11 := by
        unfold x11
        refine .trans ?_ (by with_reducible apply evolves_showHusks)
        refine .upd_all ?_ rfl rfl
        with_reducible exact hx7
      try clear_value x11
      refine .trans ?_ (by with_reducible apply evolves_eraseRecords)
      refine .trans ?_ (by with_reducible apply evolves_setTask)
      with_reducible exact hx11

theorem evolves_sealBytes (s : State) (pt : Bytes) : Evolves s (sealBytes s pt) := by
  unfold sealBytes
  extract_lets +onlyGivenNames x0
  try clear_value x0
  extract_lets +onlyGivenNames x1
  try clear_value x1
  split
  all_goals first
    | (refine .trans ?_ (by with_reducible apply evolves_hostWrite)
       refine .trans ?_ (by with_reducible apply evolves_kccBlocks)
       exact (.fst (by assumption) (by with_reducible apply evolves_kccDraw)))
    | exact (.fst (by assumption) (by with_reducible apply evolves_kccDraw))

theorem evolves_sealFx (s0 : State) : Evolves s0 (sealFx s0) := by
  unfold sealFx
  extract_lets +onlyGivenNames x0
  try clear_value x0
  extract_lets +onlyGivenNames x1
  try clear_value x1
  extract_lets +onlyGivenNames x2
  try clear_value x2
  extract_lets +onlyGivenNames x3
  try clear_value x3
  with_reducible refine .ite ?_ ?_
  · with_reducible apply evolves_endCmd
  · with_reducible refine .ite ?_ ?_
    · with_reducible apply evolves_endCmd
    · refine .trans ?_ (evolves_withHost (fun st4 _ => ?_) ..)
      · with_reducible exact .refl _
      · with_reducible apply evolves_sealBytes

theorem evolves_cpExport (s : State) : Evolves s (cpExport s) := by
  unfold cpExport
  extract_lets +onlyGivenNames x0
  try clear_value x0
  extract_lets +onlyGivenNames x1
  try clear_value x1
  extract_lets +onlyGivenNames x2
  try clear_value x2
  with_reducible refine .ite ?_ ?_
  · with_reducible apply evolves_endCmd
  · with_reducible apply evolves_hostWrite

theorem evolves_cmdWork (s : State) (code : Nat) (fresh : Bool) : Evolves s (cmdWork s code fresh) := by
  unfold cmdWork
  with_reducible refine .ite ?_ ?_
  · with_reducible apply evolves_cpInstall
  · with_reducible refine .ite ?_ ?_
    · with_reducible apply evolves_activateFx
    · with_reducible refine .ite ?_ ?_
      · with_reducible apply evolves_cpStatus
      · with_reducible refine .ite ?_ ?_
        · with_reducible apply evolves_switchFx
        · with_reducible refine .ite ?_ ?_
          · with_reducible apply evolves_storeFx
          · with_reducible refine .ite ?_ ?_
            · with_reducible apply evolves_settingsFx
            · with_reducible refine .ite ?_ ?_
              · with_reducible apply evolves_createFx
              · with_reducible refine .ite ?_ ?_
                · with_reducible apply evolves_destroyFx
                · with_reducible refine .ite ?_ ?_
                  · with_reducible apply evolves_sealFx
                  · with_reducible apply evolves_cpExport

theorem evolves_runCmd (s : State) (fresh : Bool) : Evolves s (runCmd s fresh) := by
  unfold runCmd
  extract_lets +onlyGivenNames x0
  try clear_value x0
  extract_lets +onlyGivenNames x1
  try clear_value x1
  extract_lets +onlyGivenNames x2
  try clear_value x2
  extract_lets +onlyGivenNames x3
  try clear_value x3
  split
  all_goals first
    | with_reducible apply evolves_endCmd
    | (with_reducible refine .ite ?_ ?_
       · refine .trans ?_ (by with_reducible apply evolves_endCmd)
         with_reducible apply evolves_chaff
       · with_reducible refine .ite ?_ ?_
         · with_reducible apply evolves_endCmd
         · with_reducible refine .ite ?_ ?_
           · with_reducible apply evolves_endCmd
           · with_reducible refine .ite ?_ ?_
             · with_reducible apply evolves_endCmd
             · with_reducible apply evolves_cmdWork)

theorem evolves_cpServe (s : State) (fresh : Bool) : Evolves s (cpServe s fresh) := by
  unfold cpServe
  with_reducible refine .ite ?_ ?_
  · with_reducible apply evolves_runCmd
  · with_reducible exact .refl _

theorem evolves_confirmedFx (s : State) (svn : Nat) : Evolves s (confirmedFx s svn) := by
  unfold confirmedFx
  extract_lets +onlyGivenNames x0
  have hx0 : Evolves s x0 := by
    unfold x0
    refine .trans ?_ (by with_reducible apply evolves_wr)
    refine .trans ?_ (by with_reducible apply evolves_wr)
    with_reducible apply evolves_showBoot
  try clear_value x0
  extract_lets +onlyGivenNames x1
  have hx1 : Evolves s x1 := by
    unfold x1
    refine .trans ?_ (by with_reducible apply evolves_setEvt)
    with_reducible exact hx0
  try clear_value x1
  with_reducible refine .ite ?_ ?_
  · refine .trans ?_ (by with_reducible apply evolves_arbRaise)
    with_reducible exact hx1
  · with_reducible exact hx1

theorem evolves_taskEnd (s : State) (next : CpNext) (e : Nat) : Evolves s (taskEnd s next e) := by
  unfold taskEnd
  split
  all_goals first
    | (with_reducible refine .ite ?_ ?_
       · with_reducible exact .refl _
       · with_reducible apply evolves_cpNotice)
    | (with_reducible refine .ite ?_ ?_
       · refine .trans ?_ (by with_reducible apply evolves_endCmd)
         with_reducible apply evolves_showBoot
       · with_reducible apply evolves_endCmd)
    | (with_reducible refine .ite ?_ ?_
       · with_reducible apply evolves_verifyFx
       · with_reducible apply evolves_endCmd)
    | (with_reducible refine .ite ?_ ?_
       · with_reducible apply evolves_bootBank
       · with_reducible apply evolves_bootBank)
    | (with_reducible refine .ite ?_ ?_
       · with_reducible apply evolves_confirmedFx
       · with_reducible apply evolves_cpNotice)
    | (with_reducible refine .ite ?_ ?_
       · with_reducible apply evolves_realmMade
       · refine .trans ?_ (by with_reducible apply evolves_endCmd)
         refine .upd_all ?_ rfl rfl
         with_reducible exact .refl _)
    | (with_reducible refine .ite ?_ ?_
       · refine .trans ?_ (by with_reducible apply evolves_endCmd)
         with_reducible apply evolves_wr
       · with_reducible apply evolves_endCmd)

theorem evolves_startConfirm (s : State) : Evolves s (startConfirm s) := by
  unfold startConfirm
  with_reducible refine .ite ?_ ?_
  · extract_lets +onlyGivenNames x0
    try clear_value x0
    extract_lets +onlyGivenNames x1
    try clear_value x1
    extract_lets +onlyGivenNames x2
    have hx2 : Evolves s x2 := by
      unfold x2
      refine .upd_all ?_ rfl rfl
      with_reducible exact .refl _
    try clear_value x2
    refine .trans ?_ (by with_reducible apply evolves_setTask)
    with_reducible exact hx2
  · with_reducible exact .refl _

theorem evolves_cpMove (s : State) : Evolves s (cpMove s) := by
  unfold cpMove
  extract_lets +onlyGivenNames x0
  try clear_value x0
  with_reducible refine .ite ?_ ?_
  · with_reducible exact .refl _
  · split
    all_goals first
      | (refine .trans ?_ (by with_reducible apply evolves_taskEnd)
         with_reducible apply evolves_setTask)
      | (refine .trans ?_ (by with_reducible apply evolves_cpRow)
         with_reducible apply evolves_setTask)
      | (with_reducible refine .ite ?_ ?_
         · with_reducible apply evolves_startConfirm
         · refine .trans ?_ (by with_reducible apply evolves_taskEnd)
           with_reducible apply evolves_setTask)

theorem evolves_cpPump (s : State) : Evolves s (cpPump s) := by
  unfold cpPump
  refine .trans ?_ (by with_reducible apply evolves_cycleStep)
  refine .trans ?_ (by with_reducible apply evolves_cpMove)
  refine .trans ?_ (by with_reducible apply evolves_cpMove)
  refine .trans ?_ (by with_reducible apply evolves_cpMove)
  refine .trans ?_ (by with_reducible apply evolves_cpMove)
  refine .trans ?_ (by with_reducible apply evolves_cpMove)
  with_reducible apply evolves_cpMove

theorem evolves_cpReadDone (s : State) (cmd off : Nat) (d : Option Bytes) : Evolves s (cpReadDone s cmd off d) := by
  unfold cpReadDone
  refine .trans ?_ (by with_reducible apply evolves_cpPump)
  refine .trans ?_ (by with_reducible apply evolves_cpServe)
  with_reducible apply evolves_cpArrived

theorem evolves_cmdFx (s : State) (src v : Nat) : Evolves s (cmdFx s src v) := by
  unfold cmdFx
  extract_lets +onlyGivenNames x0
  try clear_value x0
  extract_lets +onlyGivenNames x1
  have hx1 : Evolves s x1 := by
    unfold x1
    with_reducible apply evolves_wr
  try clear_value x1
  with_reducible refine .ite ?_ ?_
  · with_reducible exact hx1
  · with_reducible refine .ite ?_ ?_
    · refine .trans ?_ (by with_reducible apply evolves_cpNotice)
      with_reducible exact hx1
    · extract_lets +onlyGivenNames x2
      have hx2 : Evolves s x2 := by
        unfold x2
        refine .trans ?_ (by with_reducible apply evolves_wr)
        refine .trans ?_ (by with_reducible apply evolves_wr)
        refine .trans ?_ (by with_reducible apply evolves_wr)
        refine .trans ?_ (by with_reducible apply evolves_wr)
        with_reducible exact hx1
      try clear_value x2
      refine .trans ?_ (by with_reducible apply evolves_cpPump)
      refine .trans ?_ (by with_reducible apply evolves_cpServe)
      refine .trans ?_ (by with_reducible apply evolves_inc)
      with_reducible exact hx2

theorem evolves_cmdRow (s : State) (src id : BitVec 8) (code : Nat) : Evolves s (cmdRow s src id code) := by
  unfold cmdRow
  refine .trans ?_ (evolves_pageWrite (fun st0 => ?_) ..)
  · with_reducible exact .refl _
  · with_reducible apply evolves_cmdFx

theorem evolves_switchLane (s : State) (f : Prof) (l : Nat) : Evolves s (switchLane s f l) := by
  unfold switchLane
  extract_lets +onlyGivenNames x0
  try clear_value x0
  with_reducible refine .ite ?_ ?_
  · with_reducible exact .refl _
  · extract_lets +onlyGivenNames x1
    have hx1 : Evolves s x1 := by
      unfold x1
      with_reducible apply evolves_wr
    try clear_value x1
    extract_lets +onlyGivenNames x2
    try clear_value x2
    extract_lets +onlyGivenNames x3
    try clear_value x3
    extract_lets +onlyGivenNames x4
    try clear_value x4
    extract_lets +onlyGivenNames x5
    try clear_value x5
    extract_lets +onlyGivenNames x6
    have hx6 : Evolves s x6 := by
      unfold x6
      refine .upd_all ?_ rfl rfl
      with_reducible exact hx1
    try clear_value x6
    with_reducible refine .ite ?_ ?_
    · refine .trans ?_ (by with_reducible apply evolves_startDisable)
      with_reducible exact hx6
    · with_reducible refine .ite ?_ ?_
      · with_reducible exact hx6
      · with_reducible exact hx1

theorem evolves_switchKcc (s : State) (f : Prof) : Evolves s (switchKcc s f) := by
  unfold switchKcc
  with_reducible refine .ite ?_ ?_
  · with_reducible exact .refl _
  · extract_lets +onlyGivenNames x0
    try clear_value x0
    extract_lets +onlyGivenNames x1
    try clear_value x1
    extract_lets +onlyGivenNames x2
    have hx2 : Evolves s x2 := by
      unfold x2
      refine .upd_all ?_ rfl rfl
      with_reducible exact .refl _
    try clear_value x2
    with_reducible refine .ite ?_ ?_
    · refine .trans ?_ (by with_reducible apply evolves_startDisable)
      with_reducible exact hx2
    · with_reducible exact hx2

theorem evolves_adoptProfile (s : State) (p : Nat) (f : Prof) : Evolves s (adoptProfile s p f) := by
  unfold adoptProfile
  extract_lets +onlyGivenNames x0
  try clear_value x0
  extract_lets +onlyGivenNames x1
  have hx1 : Evolves s x1 := by
    unfold x1
    refine .trans ?_ (by with_reducible apply evolves_adoptLimits)
    refine .trans ?_ (by with_reducible apply evolves_loadWeights)
    with_reducible apply evolves_loadTck
  try clear_value x1
  extract_lets +onlyGivenNames x2
  try clear_value x2
  extract_lets +onlyGivenNames x3
  have hx3 : Evolves s x3 := by
    unfold x3
    refine .trans ?_ (by with_reducible apply evolves_loadReserve)
    refine .upd_all ?_ rfl rfl
    with_reducible exact hx1
  try clear_value x3
  extract_lets +onlyGivenNames x4
  have hx4 : Evolves s x4 := by
    unfold x4
    refine .trans ?_ (by with_reducible apply evolves_admitStanding)
    with_reducible exact hx3
  try clear_value x4
  extract_lets +onlyGivenNames x5
  try clear_value x5
  extract_lets +onlyGivenNames x6
  have hx6 : Evolves s x6 := by
    unfold x6
    with_reducible refine .foldl (fun st7 _ => ?_) _ _ _ ?_
    · with_reducible apply evolves_switchLane
    · refine .trans ?_ (by with_reducible apply evolves_switchKcc)
      refine .upd_all ?_ rfl rfl
      with_reducible exact hx4
  try clear_value x6
  extract_lets +onlyGivenNames x8
  have hx8 : Evolves s x8 := by
    unfold x8
    refine .trans ?_ (by with_reducible apply evolves_wr)
    refine .trans ?_ (by with_reducible apply evolves_wr)
    refine .trans ?_ (by with_reducible apply evolves_wr)
    refine .trans ?_ (by with_reducible apply evolves_wr)
    with_reducible exact hx6
  try clear_value x8
  refine .trans ?_ (by with_reducible apply evolves_endCmd)
  refine .trans ?_ (by with_reducible apply evolves_setEvt)
  refine .trans ?_ (by with_reducible apply evolves_cpExtend)
  refine .trans ?_ (by with_reducible apply evolves_cycleStep)
  with_reducible exact hx8

theorem evolves_switchApplyFx (s : State) : Evolves s (switchApplyFx s) := by
  unfold switchApplyFx
  split
  all_goals first
    | with_reducible exact .refl _
    | (with_reducible refine .ite ?_ ?_
       · with_reducible exact .refl _
       · split
         all_goals first
           | with_reducible apply evolves_adoptProfile
           | (extract_lets +onlyGivenNames x0
              try clear_value x0
              extract_lets +onlyGivenNames x1
              have hx1 : Evolves s x1 := by
                unfold x1
                refine .trans ?_ (by with_reducible apply evolves_openTick)
                refine .upd_all ?_ rfl rfl
                with_reducible exact .refl _
              try clear_value x1
              refine .trans ?_ (by with_reducible apply evolves_endCmd)
              refine .trans ?_ (by with_reducible apply evolves_wr)
              refine .trans ?_ (by with_reducible apply evolves_wr)
              with_reducible exact hx1))

theorem evolves_confirmFx (s : State) (src v : Nat) : Evolves s (confirmFx s src v) := by
  unfold confirmFx
  with_reducible refine .ite ?_ ?_
  · with_reducible exact .refl _
  · with_reducible refine .ite ?_ ?_
    · refine .trans ?_ (by with_reducible apply evolves_cpPump)
      refine .upd_all ?_ rfl rfl
      with_reducible exact .refl _
    · with_reducible apply evolves_writeIgnored

theorem evolves_wdogFx (s : State) : Evolves s (wdogFx s) := by
  unfold wdogFx
  extract_lets +onlyGivenNames x0
  try clear_value x0
  extract_lets +onlyGivenNames x1
  have hx1 : Evolves s x1 := by
    unfold x1
    refine .trans ?_ (by with_reducible apply evolves_chaffPlain)
    refine .trans ?_ (by with_reducible apply evolves_setEvt)
    with_reducible apply evolves_inc
  try clear_value x1
  with_reducible refine .ite ?_ ?_
  · refine .trans ?_ (by with_reducible apply evolves_warmRestart)
    with_reducible exact hx1
  · extract_lets +onlyGivenNames x2
    have hx2 : Evolves s x2 := by
      unfold x2
      refine .trans ?_ (by with_reducible apply evolves_pumpBank)
      refine .trans ?_ (by with_reducible apply evolves_wr)
      refine .trans ?_ (by with_reducible apply evolves_wr)
      refine .trans ?_ (by with_reducible apply evolves_wr)
      with_reducible exact hx1
    try clear_value x2
    extract_lets +onlyGivenNames x3
    have hx3 : Evolves s x3 := by
      unfold x3
      refine .trans ?_ (by with_reducible apply evolves_wr)
      refine .trans ?_ (by with_reducible apply evolves_wr)
      refine .trans ?_ (by with_reducible apply evolves_wr)
      refine .trans ?_ (by with_reducible apply evolves_wr)
      with_reducible exact hx2
    try clear_value x3
    refine .trans ?_ (by with_reducible apply evolves_setTask)
    refine .upd_all ?_ rfl rfl
    with_reducible exact hx3

end Sys2Proof.Machine
end

