-- ==== Sys2Proof/Laws/Fabric.lean ====
section
/-! SUPPORT. What no operation of Machine/Fabric.lean can do (Laws/Evolves.lean), one lemma for each. -/

namespace Sys2Proof.Machine

theorem evolves_setReads (s : State) (l : List RdTxn) : Evolves s (setReads s l) := by
  unfold setReads
  refine .upd_all ?_ rfl rfl
  with_reducible exact .refl _

theorem evolves_dropRead (s : State) (t : RdTxn) : Evolves s (dropRead s t) := by
  unfold dropRead
  with_reducible apply evolves_setReads

theorem evolves_putRead (s : State) (t : RdTxn) : Evolves s (putRead s t) := by
  unfold putRead
  with_reducible apply evolves_setReads

theorem evolves_dropWrite (s : State) (t : WrTxn) : Evolves s (dropWrite s t) := by
  unfold dropWrite
  refine .upd_all ?_ rfl rfl
  with_reducible exact .refl _

theorem evolves_lateArrival (s : State) (q : Quar) : Evolves s (lateArrival s q) := by
  unfold lateArrival
  extract_lets +onlyGivenNames x0
  try clear_value x0
  refine .upd_all ?_ rfl rfl
  with_reducible exact .refl _

theorem evolves_pumpPort (s : State) (p : Nat) : Evolves s (pumpPort s p) := by
  unfold pumpPort
  with_reducible apply evolves_pump

theorem evolves_probeLat (s : State) (t : RdTxn) : Evolves s (probeLat s t) := by
  unfold probeLat
  extract_lets +onlyGivenNames x0
  try clear_value x0
  split
  all_goals first
    | (with_reducible refine .ite ?_ ?_
       · with_reducible apply evolves_wr
       · with_reducible exact .refl _)
    | with_reducible exact .refl _

theorem evolves_readBad (s : State) (w : Who) (addr beat : Nat) : Evolves s (readBad s w addr beat) := by
  unfold readBad
  split
  all_goals first
    | with_reducible apply evolves_sqBeat
    | (refine .trans ?_ (by with_reducible apply evolves_pumpJobs)
       with_reducible apply evolves_readFailed)
    | with_reducible exact .refl _

theorem evolves_readDone (s : State) (t : RdTxn) (d : Option Bytes) (addr : Nat) :
    Evolves s (readDone s t d addr) := by
  unfold readDone
  split
  all_goals first
    | (refine .trans ?_ (by with_reducible apply evolves_pumpJobs)
       with_reducible apply evolves_fragArrived)
    | (refine .trans ?_ (by with_reducible apply evolves_pumpJobs)
       with_reducible apply evolves_tableArrived)
    | (refine .trans ?_ (by with_reducible apply evolves_pumpJobs)
       with_reducible apply evolves_seedRead)
    | with_reducible apply evolves_peerReadDone
    | with_reducible apply evolves_pullReadDone
    | with_reducible apply evolves_cpReadDone
    | with_reducible exact .refl _

theorem evolves_strike (s : State) (port : Nat) (err poison : Bool) : Evolves s (strike s port err poison).1 := by
  unfold strike
  extract_lets
  split
  · exact evolves_dec ..
  · exact .refl _

theorem evolves_beatFx (s : State) (t : RdTxn) (beat : Nat) (data : Bytes) (err poison : Bool) :
    Evolves s (beatFx s t beat data err poison) := by
  unfold beatFx
  extract_lets +onlyGivenNames x0
  extract_lets +onlyGivenNames x1
  try clear_value x1
  extract_lets +onlyGivenNames x2
  try clear_value x2
  extract_lets +onlyGivenNames x3
  try clear_value x3
  extract_lets +onlyGivenNames x4
  have hx4 : Evolves s x4 := by
    unfold x4
    refine .trans ?_ (by with_reducible apply evolves_putRead)
    with_reducible apply evolves_strike
  try clear_value x4
  extract_lets +onlyGivenNames x5
  have hx5 : Evolves s x5 := by
    unfold x5
    with_reducible refine .ite ?_ ?_
    · refine .trans ?_ (by with_reducible apply evolves_readBad)
      refine .trans ?_ (by with_reducible apply evolves_fabChaff)
      with_reducible exact hx4
    · split
      all_goals first
        | (refine .trans ?_ (by with_reducible apply evolves_sqBeat)
           with_reducible exact hx4)
        | with_reducible exact hx4
  try clear_value x5
  with_reducible refine .ite ?_ ?_
  · with_reducible exact hx5
  · extract_lets +onlyGivenNames x6
    have hx6 : Evolves s x6 := by
      unfold x6
      refine .trans ?_ (by with_reducible apply evolves_pmu)
      refine .trans ?_ (by with_reducible apply evolves_probeLat)
      refine .trans ?_ (by with_reducible apply evolves_dropRead)
      with_reducible exact hx5
    try clear_value x6
    extract_lets +onlyGivenNames x7
    try clear_value x7
    extract_lets +onlyGivenNames x8
    try clear_value x8
    refine .trans ?_ (by with_reducible apply evolves_pumpPort)
    refine .trans ?_ (by with_reducible apply evolves_readDone)
    with_reducible exact hx6

theorem evolves_beatDrain (s : State) (t : RdTxn) (beat : Nat) : Evolves s (beatDrain s t beat) := by
  unfold beatDrain
  extract_lets +onlyGivenNames x0
  try clear_value x0
  with_reducible refine .ite ?_ ?_
  · with_reducible apply evolves_putRead
  · with_reducible apply evolves_dropRead

theorem evolves_writeDone (s : State) (w : Who) (addr status : Nat) : Evolves s (writeDone s w addr status) := by
  unfold writeDone
  extract_lets +onlyGivenNames x0
  try clear_value x0
  split
  all_goals first
    | (refine .trans ?_ (by with_reducible apply evolves_pumpJobs)
       with_reducible apply evolves_outAnswer)
    | (refine .trans ?_ (by with_reducible apply evolves_pumpJobs)
       with_reducible apply evolves_notifyAnswer)
    | (with_reducible refine .foldl (fun st1 _ => ?_) _ _ _ ?_
       · with_reducible apply evolves_complAnswer
       · with_reducible exact .refl _)
    | with_reducible apply evolves_returnAnswer
    | (extract_lets +onlyGivenNames x2
       try clear_value x2
       extract_lets +onlyGivenNames x3
       have hx3 : Evolves s x3 := by
         unfold x3
         with_reducible apply evolves_setVec
       try clear_value x3
       refine .trans ?_ (by with_reducible apply evolves_sendPending)
       with_reducible refine .ite ?_ ?_
       · refine .trans ?_ (by with_reducible apply evolves_setEvt)
         with_reducible exact hx3
       · with_reducible exact hx3)
    | (refine .trans ?_ (by with_reducible apply evolves_pumpJobs)
       with_reducible apply evolves_seedAnswer)
    | with_reducible apply evolves_peerWriteDone
    | (refine .trans ?_ (by with_reducible apply evolves_cpPump)
       refine .trans ?_ (by with_reducible apply evolves_cpWriteDone)
       with_reducible refine .ite ?_ ?_
       · refine .upd_all ?_ rfl rfl
         with_reducible exact .refl _
       · with_reducible exact .refl _)
    | with_reducible exact .refl _

theorem evolves_responseFx (s : State) (t : WrTxn) (err : Bool) : Evolves s (responseFx s t err) := by
  unfold responseFx
  extract_lets +onlyGivenNames x0
  have hx0 : Evolves s x0 := by
    unfold x0
    with_reducible apply evolves_dropWrite
  try clear_value x0
  extract_lets +onlyGivenNames x1
  have hx1 : Evolves s x1 := by
    unfold x1
    with_reducible refine .ite ?_ ?_
    · refine .trans ?_ (by with_reducible apply evolves_fabChaff)
      with_reducible exact hx0
    · with_reducible exact hx0
  try clear_value x1
  refine .trans ?_ (by with_reducible apply evolves_pumpPort)
  refine .trans ?_ (by with_reducible apply evolves_writeDone)
  with_reducible exact hx1

theorem evolves_addCredits (s : State) (p q w : Nat) : Evolves s (addCredits s p q w) := by
  unfold addCredits
  extract_lets +onlyGivenNames x0
  try clear_value x0
  refine .upd_all ?_ rfl rfl
  with_reducible exact .refl _

theorem evolves_quarantine (s : State) (port : Nat) (isWrite : Bool) (tag left : Nat) :
    Evolves s (quarantine s port isWrite tag left) := by
  unfold quarantine
  refine .upd_all ?_ rfl rfl
  with_reducible exact .refl _

theorem evolves_readTimeout (s : State) (t : RdTxn) : Evolves s (readTimeout s t) := by
  unfold readTimeout
  extract_lets +onlyGivenNames x0
  have hx0 : Evolves s x0 := by
    unfold x0
    refine .trans ?_ (by with_reducible apply evolves_quarantine)
    with_reducible apply evolves_dropRead
  try clear_value x0
  extract_lets +onlyGivenNames x1
  have hx1 : Evolves s x1 := by
    unfold x1
    refine .trans ?_ (by with_reducible apply evolves_fabChaff)
    with_reducible exact hx0
  try clear_value x1
  refine .trans ?_ (by with_reducible apply evolves_pumpPort)
  refine .trans ?_ (by with_reducible apply evolves_readDone)
  refine .trans ?_ (by with_reducible apply evolves_readBad)
  with_reducible exact hx1

theorem evolves_writeTimeout (s : State) (t : WrTxn) : Evolves s (writeTimeout s t) := by
  unfold writeTimeout
  extract_lets +onlyGivenNames x0
  have hx0 : Evolves s x0 := by
    unfold x0
    refine .trans ?_ (by with_reducible apply evolves_quarantine)
    with_reducible apply evolves_dropWrite
  try clear_value x0
  refine .trans ?_ (by with_reducible apply evolves_pumpPort)
  refine .trans ?_ (by with_reducible apply evolves_writeDone)
  refine .trans ?_ (by with_reducible apply evolves_fabChaff)
  with_reducible exact hx0

end Sys2Proof.Machine
end

