-- ==== Sys2Proof/Laws/Sentinel.lean ====
section
/-! SUPPORT. What no operation of Machine/Sentinel.lean can do (Laws/Evolves.lean), one lemma for each. -/

namespace Sys2Proof.Machine

theorem evolves_convertFx (s : State) (code : Nat) : Evolves s (convertFx s code) := by
  unfold convertFx
  extract_lets +onlyGivenNames x0
  try clear_value x0
  extract_lets +onlyGivenNames x1
  try clear_value x1
  extract_lets +onlyGivenNames x2
  have hx2 : Evolves s x2 := by
    unfold x2
    refine .trans ?_ (by with_reducible apply evolves_wr)
    refine .trans ?_ (by with_reducible apply evolves_wr)
    with_reducible apply evolves_inc
  try clear_value x2
  extract_lets +onlyGivenNames x3
  have hx3 : Evolves s x3 := by
    unfold x3
    refine .trans ?_ (by with_reducible apply evolves_wr)
    refine .trans ?_ (by with_reducible apply evolves_wr)
    with_reducible exact hx2
  try clear_value x3
  extract_lets +onlyGivenNames x4
  have hx4 : Evolves s x4 := by
    unfold x4
    refine .trans ?_ (by with_reducible apply evolves_wr)
    with_reducible exact hx3
  try clear_value x4
  extract_lets +onlyGivenNames x5
  have hx5 : Evolves s x5 := by
    unfold x5
    with_reducible refine .ite ?_ ?_
    · refine .trans ?_ (by with_reducible apply evolves_setEvt)
      with_reducible exact hx4
    · with_reducible exact hx4
  try clear_value x5
  extract_lets +onlyGivenNames x6
  try clear_value x6
  extract_lets +onlyGivenNames x7
  try clear_value x7
  extract_lets +onlyGivenNames x8
  have hx8 : Evolves s x8 := by
    unfold x8
    refine .upd_all ?_ rfl rfl
    with_reducible exact hx5
  try clear_value x8
  with_reducible refine .ite ?_ ?_
  · refine .trans ?_ (by with_reducible apply evolves_wr)
    refine .trans ?_ (by with_reducible apply evolves_wr)
    with_reducible exact hx8
  · with_reducible exact hx8

theorem evolves_refuseQueued (s : State) : Evolves s (refuseQueued s) := by
  unfold refuseQueued
  with_reducible apply evolves_refuseWhere

theorem evolves_tripFx (s : State) : Evolves s (tripFx s) := by
  unfold tripFx
  extract_lets +onlyGivenNames x0
  have hx0 : Evolves s x0 := by
    unfold x0
    refine .trans ?_ (by with_reducible apply evolves_inc)
    refine .trans ?_ (by with_reducible apply evolves_setEvt)
    with_reducible apply evolves_wr
  try clear_value x0
  extract_lets +onlyGivenNames x1
  have hx1 : Evolves s x1 := by
    unfold x1
    refine .trans ?_ (by with_reducible apply evolves_startFlush)
    refine .trans ?_ (by with_reducible apply evolves_wr)
    with_reducible exact hx0
  try clear_value x1
  refine .trans ?_ (by with_reducible apply evolves_refuseQueued)
  refine .trans ?_ (by with_reducible apply evolves_setGrn; rfl)
  with_reducible exact hx1

theorem evolves_recoverFx (s : State) : Evolves s (recoverFx s) := by
  unfold recoverFx
  extract_lets +onlyGivenNames x0
  have hx0 : Evolves s x0 := by
    unfold x0
    refine .trans ?_ (by with_reducible apply evolves_wr)
    refine .trans ?_ (by with_reducible apply evolves_setEvt)
    with_reducible apply evolves_wr
  try clear_value x0
  refine .trans ?_ (by with_reducible apply evolves_pumpBank)
  refine .trans ?_ (by with_reducible apply evolves_pumpBank)
  refine .upd_all ?_ rfl rfl
  with_reducible exact hx0

theorem evolves_warnFx (s : State) : Evolves s (warnFx s) := by
  unfold warnFx
  extract_lets +onlyGivenNames x0
  try clear_value x0
  with_reducible refine .ite ?_ ?_
  · with_reducible refine .ite ?_ ?_
    · with_reducible apply evolves_wr
    · with_reducible exact .refl _
  · with_reducible refine .ite ?_ ?_
    · refine .trans ?_ (by with_reducible apply evolves_startFlush)
      refine .trans ?_ (by with_reducible apply evolves_inc)
      refine .trans ?_ (by with_reducible apply evolves_setEvt)
      with_reducible apply evolves_wr
    · with_reducible exact .refl _

theorem evolves_pfFx (s : State) : Evolves s (pfFx s) := by
  unfold pfFx
  extract_lets +onlyGivenNames x0
  try clear_value x0
  with_reducible refine .ite ?_ ?_
  · with_reducible refine .ite ?_ ?_
    · with_reducible apply evolves_recoverFx
    · with_reducible exact .refl _
  · with_reducible refine .ite ?_ ?_
    · with_reducible apply evolves_tripFx
    · with_reducible exact .refl _

theorem evolves_countFx (s : State) (mv : Nat) : Evolves s (countFx s mv) := by
  unfold countFx
  extract_lets +onlyGivenNames x0
  try clear_value x0
  extract_lets +onlyGivenNames x1
  try clear_value x1
  extract_lets +onlyGivenNames x2
  try clear_value x2
  extract_lets +onlyGivenNames x3
  try clear_value x3
  refine .upd_all ?_ rfl rfl
  with_reducible exact .refl _

theorem evolves_sampleFx (s : State) (code : Nat) : Evolves s (sampleFx s code) := by
  unfold sampleFx
  extract_lets +onlyGivenNames x0
  have hx0 : Evolves s x0 := by
    unfold x0
    with_reducible apply evolves_convertFx
  try clear_value x0
  with_reducible refine .ite ?_ ?_
  · refine .trans ?_ (by with_reducible apply evolves_pfFx)
    refine .trans ?_ (by with_reducible apply evolves_warnFx)
    refine .trans ?_ (by with_reducible apply evolves_countFx)
    with_reducible exact hx0
  · with_reducible exact hx0

theorem evolves_staleFx (s : State) : Evolves s (staleFx s) := by
  unfold staleFx
  with_reducible refine .ite ?_ ?_
  · with_reducible exact .refl _
  · extract_lets +onlyGivenNames x0
    have hx0 : Evolves s x0 := by
      unfold x0
      refine .trans ?_ (by with_reducible apply evolves_inc)
      refine .trans ?_ (by with_reducible apply evolves_setEvt)
      with_reducible apply evolves_wr
    try clear_value x0
    refine .trans ?_ (by with_reducible apply evolves_startFlush)
    refine .trans ?_ (by with_reducible apply evolves_chaffAny)
    with_reducible exact hx0

theorem evolves_pfDoneFx (s : State) : Evolves s (pfDoneFx s) := by
  unfold pfDoneFx
  extract_lets +onlyGivenNames x0
  extract_lets +onlyGivenNames x1
  have hx1 : Evolves s x1 := by
    unfold x1
    refine .trans ?_ (by with_reducible apply evolves_setEvt)
    refine .trans ?_ (by with_reducible apply evolves_wr)
    refine .trans ?_ (by with_reducible apply evolves_setGrn; rfl)
    with_reducible exact .refl _
  try clear_value x1
  with_reducible refine .ite ?_ ?_
  · refine .trans ?_ (by with_reducible apply evolves_wr)
    refine .upd_all ?_ rfl rfl
    with_reducible exact hx1
  · with_reducible exact hx1

end Sys2Proof.Machine
end

