-- ==== Sys2Proof/Laws/TestAccess.lean ====
section
/-! SUPPORT. What no operation of Machine/TestAccess.lean can do (Laws/Evolves.lean), one lemma for each. -/

namespace Sys2Proof.Machine

theorem evolves_pmuRefuse (s : State) (src off code : Nat) : Evolves s (pmuRefuse s src off code) := by
  unfold pmuRefuse
  refine .trans ?_ (by with_reducible apply evolves_writeIgnored)
  with_reducible apply evolves_wr

theorem evolves_clearStamps (s : State) : Evolves s (clearStamps s) := by
  unfold clearStamps
  extract_lets +onlyGivenNames x0
  try clear_value x0
  extract_lets +onlyGivenNames x1
  have hx1 : Evolves s x1 := by
    unfold x1
    with_reducible refine .foldl (fun st2 _ => ?_) _ _ _ ?_
    · with_reducible apply evolves_wr
    · with_reducible exact .refl _
  try clear_value x1
  extract_lets +onlyGivenNames x3
  have hx3 : Evolves s x3 := by
    unfold x3
    refine .trans ?_ (by with_reducible apply evolves_wr)
    refine .trans ?_ (by with_reducible apply evolves_wr)
    with_reducible exact hx1
  try clear_value x3
  refine .upd_all ?_ rfl rfl
  with_reducible exact hx3

theorem evolves_probeCtlFx (s : State) (src v : Nat) : Evolves s (probeCtlFx s src v) := by
  unfold probeCtlFx
  extract_lets +onlyGivenNames x0
  try clear_value x0
  with_reducible refine .ite ?_ ?_
  · with_reducible apply evolves_pmuRefuse
  · extract_lets +onlyGivenNames x1
    try clear_value x1
    extract_lets +onlyGivenNames x2
    have hx2 : Evolves s x2 := by
      unfold x2
      with_reducible apply evolves_wr
    try clear_value x2
    with_reducible refine .ite ?_ ?_
    · refine .trans ?_ (by with_reducible apply evolves_clearStamps)
      refine .trans ?_ (by with_reducible apply evolves_wr)
      refine .trans ?_ (by with_reducible apply evolves_wr)
      refine .trans ?_ (by with_reducible apply evolves_wr)
      with_reducible exact hx2
    · with_reducible exact hx2

theorem evolves_chaffInjFx (s : State) (src v : Nat) : Evolves s (chaffInjFx s src v) := by
  unfold chaffInjFx
  extract_lets +onlyGivenNames x0
  try clear_value x0
  extract_lets +onlyGivenNames x1
  try clear_value x1
  with_reducible refine .ite ?_ ?_
  · with_reducible apply evolves_pmuRefuse
  · extract_lets +onlyGivenNames x2
    have hx2 : Evolves s x2 := by
      unfold x2
      refine .trans ?_ (by with_reducible apply evolves_wr)
      with_reducible apply evolves_wr
    try clear_value x2
    with_reducible refine .ite ?_ ?_
    · refine .trans ?_ (by with_reducible apply evolves_sendInjected)
      refine .trans ?_ (by with_reducible apply evolves_wr)
      with_reducible exact hx2
    · with_reducible exact hx2

theorem evolves_poisonInjFx (s : State) (src v : Nat) : Evolves s (poisonInjFx s src v) := by
  unfold poisonInjFx
  extract_lets +onlyGivenNames x0
  try clear_value x0
  with_reducible refine .ite ?_ ?_
  · refine .trans ?_ (by with_reducible apply evolves_wr)
    refine .trans ?_ (by with_reducible apply evolves_wr)
    with_reducible apply evolves_wr
  · with_reducible apply evolves_pmuRefuse

theorem evolves_memTestFx (s : State) (src v : Nat) : Evolves s (memTestFx s src v) := by
  unfold memTestFx
  extract_lets +onlyGivenNames x0
  try clear_value x0
  with_reducible refine .ite ?_ ?_
  · with_reducible apply evolves_pmuRefuse
  · with_reducible refine .ite ?_ ?_
    · with_reducible apply evolves_pmuRefuse
    · extract_lets +onlyGivenNames x1
      have hx1 : Evolves s x1 := by
        unfold x1
        refine .trans ?_ (by with_reducible apply evolves_wr)
        with_reducible apply evolves_wr
      try clear_value x1
      with_reducible refine .ite ?_ ?_
      · refine .trans ?_ (by with_reducible apply evolves_wr)
        refine .trans ?_ (by with_reducible apply evolves_wr)
        refine .trans ?_ (by with_reducible apply evolves_wr)
        refine .trans ?_ (by with_reducible apply evolves_wr)
        with_reducible exact hx1
      · with_reducible exact hx1

theorem evolves_memTestDoneFx (s : State) (first fails : Nat) : Evolves s (memTestDoneFx s first fails) := by
  unfold memTestDoneFx
  extract_lets +onlyGivenNames x0
  try clear_value x0
  with_reducible refine .ite ?_ ?_
  · extract_lets +onlyGivenNames x1
    have hx1 : Evolves s x1 := by
      unfold x1
      refine .trans ?_ (by with_reducible apply evolves_wr)
      with_reducible apply evolves_zeroTarget
    try clear_value x1
    extract_lets +onlyGivenNames x2
    have hx2 : Evolves s x2 := by
      unfold x2
      refine .trans ?_ (by with_reducible apply evolves_wr)
      refine .trans ?_ (by with_reducible apply evolves_wr)
      with_reducible exact hx1
    try clear_value x2
    refine .trans ?_ (by with_reducible apply evolves_setEvt)
    refine .trans ?_ (by with_reducible apply evolves_wr)
    with_reducible exact hx2
  · with_reducible exact .refl _

theorem evolves_eccCorrFx (s : State) (u m : Nat) : Evolves s (eccCorrFx s u m) := by
  unfold eccCorrFx
  with_reducible refine .ite ?_ ?_
  · extract_lets +onlyGivenNames x0
    refine .trans ?_ (by with_reducible apply evolves_correctedFx)
    with_reducible apply evolves_freshFree
  · with_reducible refine .ite ?_ ?_
    · refine .trans ?_ (by with_reducible apply evolves_chaffAny)
      refine .trans ?_ (by with_reducible apply evolves_setEvt)
      with_reducible apply evolves_inc
    · with_reducible refine .ite ?_ ?_
      · refine .trans ?_ (by with_reducible apply evolves_chaffAny)
        refine .trans ?_ (by with_reducible apply evolves_setEvt)
        with_reducible apply evolves_inc
      · with_reducible refine .ite ?_ ?_
        · refine .trans ?_ (by with_reducible apply evolves_setEvt)
          with_reducible apply evolves_inc
        · with_reducible refine .ite ?_ ?_
          · with_reducible apply evolves_chaffAny
          · with_reducible exact .refl _

theorem evolves_ctxEccFx (s : State) (g j k : Nat) : Evolves s (ctxEccFx s g j k) := by
  unfold ctxEccFx
  extract_lets +onlyGivenNames x0
  try clear_value x0
  extract_lets +onlyGivenNames x1
  have hx1 : Evolves s x1 := by
    unfold x1
    refine .trans ?_ (by with_reducible apply evolves_chaffPlain)
    refine .trans ?_ (by with_reducible apply evolves_setEvt)
    with_reducible apply evolves_inc
  try clear_value x1
  with_reducible refine .ite ?_ ?_
  · refine .trans ?_ (by with_reducible apply evolves_modStep)
    refine .trans ?_ (by with_reducible apply evolves_failStep)
    with_reducible exact hx1
  · with_reducible exact hx1

theorem evolves_lineEccFx (s : State) (key : Nat) : Evolves s (lineEccFx s key) := by
  unfold lineEccFx
  extract_lets +onlyGivenNames x0
  have hx0 : Evolves s x0 := by
    unfold x0
    with_reducible apply evolves_chaffAny
  try clear_value x0
  split
  all_goals first
    | (extract_lets +onlyGivenNames x1
       try clear_value x1
       extract_lets +onlyGivenNames x2
       have hx2 : Evolves s x2 := by
         unfold x2
         with_reducible refine .foldl (fun st3 _ => ?_) _ _ _ ?_
         · with_reducible apply evolves_failStep
         · with_reducible exact hx0
       try clear_value x2
       split
       all_goals first
         | (with_reducible refine .ite ?_ ?_
            · with_reducible exact hx2
            · with_reducible refine .ite ?_ ?_
              · refine .trans ?_ (by with_reducible apply evolves_retryAll)
                refine .trans ?_ (by with_reducible apply evolves_dropLine)
                with_reducible exact hx2
              · refine .trans ?_ (by with_reducible apply evolves_setLine)
                with_reducible exact hx2)
         | with_reducible exact hx2)
    | with_reducible exact hx0

theorem evolves_eccUncorrFx (s : State) (u m d : Nat) : Evolves s (eccUncorrFx s u m d) := by
  unfold eccUncorrFx
  with_reducible refine .ite ?_ ?_
  · with_reducible apply evolves_ctxEccFx
  · with_reducible refine .ite ?_ ?_
    · with_reducible refine .ite ?_ ?_
      · with_reducible apply evolves_chaffAny
      · with_reducible apply evolves_lineEccFx
    · with_reducible refine .ite ?_ ?_
      · refine .trans ?_ (by with_reducible apply evolves_faultJobs)
        refine .trans ?_ (by with_reducible apply evolves_poisonOut)
        with_reducible apply evolves_chaffAny
      · with_reducible refine .ite ?_ ?_
        · extract_lets +onlyGivenNames x0
          have hx0 : Evolves s x0 := by
            unfold x0
            with_reducible apply evolves_chaffAny
          try clear_value x0
          extract_lets +onlyGivenNames x1
          try clear_value x1
          refine .trans ?_ (by with_reducible apply evolves_faultJobs)
          with_reducible exact hx0
        · with_reducible refine .ite ?_ ?_
          · with_reducible apply evolves_chaffAny
          · with_reducible exact .refl _

end Sys2Proof.Machine
end

