-- ==== Sys2Proof/Laws/Bus.lean ====
section
/-! SUPPORT. What no operation of Machine/Bus.lean can do (Laws/Evolves.lean), one lemma for each. -/

namespace Sys2Proof.Machine

theorem evolves_rangeFx (s : State) (src off v : Nat) : Evolves s (rangeFx s src off v) := by
  unfold rangeFx
  extract_lets +onlyGivenNames x0
  try clear_value x0
  extract_lets +onlyGivenNames x1
  have hx1 : Evolves s x1 := by
    unfold x1
    with_reducible apply evolves_storeWord
  try clear_value x1
  with_reducible refine .ite ?_ ?_
  · with_reducible refine .ite ?_ ?_
    · with_reducible exact .refl _
    · with_reducible refine .ite ?_ ?_
      · with_reducible apply evolves_writeIgnored
      · with_reducible exact hx1
  · with_reducible refine .ite ?_ ?_
    · with_reducible exact hx1
    · with_reducible exact .refl _

theorem evolves_kccStore (s : State) (src off v : Nat) : Evolves s (kccStore s src off v) := by
  unfold kccStore
  with_reducible refine .ite ?_ ?_
  · with_reducible apply evolves_rangeFx
  · with_reducible refine .ite ?_ ?_
    · with_reducible exact .refl _
    · with_reducible apply evolves_storePage

theorem evolves_chfStore (s : State) (src off v : Nat) : Evolves s (chfStore s src off v) := by
  unfold chfStore
  with_reducible refine .ite ?_ ?_
  · with_reducible apply evolves_ruleValFx
  · with_reducible refine .ite ?_ ?_
    · with_reducible apply evolves_releaseFx
    · with_reducible refine .ite ?_ ?_
      · with_reducible refine .ite ?_ ?_
        · with_reducible apply evolves_fecSrcWrite
        · with_reducible exact .refl _
      · with_reducible apply evolves_storePage

theorem evolves_grnStore (s : State) (src off v : Nat) : Evolves s (grnStore s src off v) := by
  unfold grnStore
  with_reducible refine .ite ?_ ?_
  · with_reducible apply evolves_wearFx
  · with_reducible refine .ite ?_ ?_
    · with_reducible apply evolves_logCfgFx
    · with_reducible refine .ite ?_ ?_
      · with_reducible apply evolves_logSeekFx
      · with_reducible refine .ite ?_ ?_
        · with_reducible apply evolves_logClearFx
        · with_reducible refine .ite ?_ ?_
          · with_reducible apply evolves_flushGoFx
          · with_reducible apply evolves_storePage

theorem evolves_glmStore (s : State) (src off v : Nat) : Evolves s (glmStore s src off v) := by
  unfold glmStore
  with_reducible refine .ite ?_ ?_
  · with_reducible apply evolves_lcReqFx
  · with_reducible refine .ite ?_ ?_
    · with_reducible apply evolves_otpProgFx
    · with_reducible refine .ite ?_ ?_
      · with_reducible apply evolves_arbReqFx
      · with_reducible refine .ite ?_ ?_
        · with_reducible apply evolves_keyLoadReq
        · with_reducible refine .ite ?_ ?_
          · with_reducible apply evolves_dbgCtlFx
          · with_reducible refine .ite ?_ ?_
            · with_reducible apply evolves_tokenWrite
            · with_reducible apply evolves_storePage

theorem evolves_tefStore (s : State) (src off v : Nat) : Evolves s (tefStore s src off v) := by
  unfold tefStore
  with_reducible refine .ite ?_ ?_
  · with_reducible apply evolves_cellClrFx
  · with_reducible refine .ite ?_ ?_
    · with_reducible apply evolves_reseedReqFx
    · with_reducible refine .ite ?_ ?_
      · with_reducible apply evolves_rawCtlFx
      · with_reducible apply evolves_storePage

theorem evolves_ctlStore (s : State) (src off v : Nat) : Evolves s (ctlStore s src off v) := by
  unfold ctlStore
  with_reducible refine .ite ?_ ?_
  · with_reducible apply evolves_cmdFx
  · with_reducible refine .ite ?_ ?_
    · with_reducible apply evolves_confirmFx
    · with_reducible refine .ite ?_ ?_
      · with_reducible exact .refl _
      · with_reducible apply evolves_storePage

theorem evolves_pmuStore (s : State) (src off v : Nat) : Evolves s (pmuStore s src off v) := by
  unfold pmuStore
  with_reducible refine .ite ?_ ?_
  · with_reducible apply evolves_probeCtlFx
  · with_reducible refine .ite ?_ ?_
    · with_reducible apply evolves_poisonInjFx
    · with_reducible refine .ite ?_ ?_
      · with_reducible apply evolves_chaffInjFx
      · with_reducible refine .ite ?_ ?_
        · with_reducible apply evolves_memTestFx
        · with_reducible refine .ite ?_ ?_
          · with_reducible apply evolves_pmuRefuse
          · with_reducible apply evolves_storePage

theorem evolves_splStore (s : State) (src l off v : Nat) : Evolves s (splStore s src l off v) := by
  unfold splStore
  with_reducible refine .ite ?_ ?_
  · extract_lets +onlyGivenNames x0
    try clear_value x0
    refine .trans ?_ (by with_reducible apply evolves_wr)
    with_reducible apply evolves_wr
  · with_reducible refine .ite ?_ ?_
    · with_reducible apply evolves_checkCfgFx
    · with_reducible apply evolves_storePage

theorem evolves_clmStore (s : State) (src l off v : Nat) : Evolves s (clmStore s src l off v) := by
  unfold clmStore
  with_reducible refine .ite ?_ ?_
  · with_reducible apply evolves_fenceFx
  · with_reducible refine .ite ?_ ?_
    · with_reducible apply evolves_clmInjectFx
    · with_reducible refine .ite ?_ ?_
      · with_reducible apply evolves_fwdCfgFx
      · with_reducible refine .ite ?_ ?_
        · with_reducible refine .ite ?_ ?_
          · with_reducible exact .refl _
          · with_reducible apply evolves_storeWord
        · with_reducible refine .ite ?_ ?_
          · with_reducible apply evolves_shrFx
          · with_reducible apply evolves_storePage

theorem evolves_pageFx (s : State) (src p off v : Nat) : Evolves s (pageFx s src p off v) := by
  unfold pageFx
  split
  all_goals first
    | with_reducible exact .refl _
    | (with_reducible refine .ite ?_ ?_
       · with_reducible apply evolves_ctlFx
       · with_reducible refine .ite ?_ ?_
         · refine .trans ?_ (by with_reducible apply evolves_noteRise)
           with_reducible apply evolves_storePage
         · with_reducible refine .ite ?_ ?_
           · with_reducible apply evolves_evtForceFx
           · with_reducible refine .ite ?_ ?_
             · with_reducible apply evolves_fecSrcWrite
             · with_reducible refine .ite ?_ ?_
               · with_reducible apply evolves_storePage
               · split
                 all_goals first
                   | with_reducible apply evolves_chfStore
                   | with_reducible apply evolves_grnStore
                   | with_reducible apply evolves_glmStore
                   | with_reducible apply evolves_tefStore
                   | with_reducible apply evolves_kccStore
                   | with_reducible apply evolves_ctlStore
                   | with_reducible apply evolves_pmuStore
                   | (with_reducible refine .ite ?_ ?_
                      · with_reducible apply evolves_sntCfgFx
                      · with_reducible exact .refl _)
                   | with_reducible apply evolves_splStore
                   | (with_reducible refine .ite ?_ ?_
                      · with_reducible apply evolves_measSelFx
                      · with_reducible apply evolves_storePage)
                   | with_reducible apply evolves_clmStore
                   | with_reducible apply evolves_rchStore
                   | (with_reducible refine .ite ?_ ?_
                      · with_reducible apply evolves_overrideFx
                      · with_reducible apply evolves_storePage)
                   | with_reducible apply evolves_storePage)

theorem evolves_pageWord32 (s : State) (src p off v : Nat) : Evolves s (pageWord32 s src p off v) := by
  unfold pageWord32
  refine .trans ?_ (evolves_onPage (fun st0 => ?_) ..)
  · with_reducible exact .refl _
  · with_reducible refine .ite ?_ ?_
    · with_reducible apply evolves_unlockWrite
    · with_reducible refine .ite ?_ ?_
      · refine .trans ?_ (evolves_lockedWrite (fun st1 => ?_) ..)
        · with_reducible exact .refl _
        · with_reducible apply evolves_pageFx
      · refine .trans ?_ (by with_reducible apply evolves_pageFx)
        with_reducible apply evolves_cancelUnlock

theorem evolves_entryFx (s : State) (src : Nat) (k : PageKind) (n off v : Nat) :
    Evolves s (entryFx s src k n off v) := by
  unfold entryFx
  split
  all_goals first
    | with_reducible apply evolves_sqStore
    | with_reducible apply evolves_cqStore
    | with_reducible apply evolves_rtStore
    | (with_reducible refine .ite ?_ ?_
       · with_reducible apply evolves_ptCtlFx
       · with_reducible refine .ite ?_ ?_
         · with_reducible apply evolves_ptMsiFx
         · with_reducible apply evolves_ptStore)
    | (with_reducible refine .ite ?_ ?_
       · with_reducible apply evolves_grantFx
       · with_reducible refine .ite ?_ ?_
         · with_reducible apply evolves_gsPostFx
         · with_reducible exact .refl _)
    | with_reducible apply evolves_ppStore
    | with_reducible exact .refl _

theorem evolves_word32 (s : State) (src a v : Nat) : Evolves s (word32 s src a v) := by
  unfold word32
  split
  all_goals first
    | with_reducible apply evolves_pageWord32
    | (with_reducible refine .ite ?_ ?_
       · with_reducible apply evolves_entryFx
       · with_reducible exact .refl _)
    | with_reducible exact .refl _

theorem evolves_writeFx (s : State) (a : Acc) (v : Nat) : Evolves s (writeFx s a v) := by
  unfold writeFx
  split
  all_goals first
    | with_reducible apply evolves_doorbellFx
    | (with_reducible refine .ite ?_ ?_
       · with_reducible apply evolves_gsPostFx
       · with_reducible apply evolves_word32)
    | (extract_lets +onlyGivenNames x0
       have hx0 : Evolves s x0 := by
         unfold x0
         with_reducible apply evolves_word32
       try clear_value x0
       with_reducible refine .ite ?_ ?_
       · refine .trans ?_ (by with_reducible apply evolves_word32)
         with_reducible exact hx0
       · with_reducible exact hx0)

theorem evolves_readFx (s : State) (src a : Nat) : Evolves s (readFx s src a) := by
  unfold readFx
  split
  all_goals first
    | (with_reducible refine .ite ?_ ?_
       · with_reducible apply evolves_wr
       · with_reducible refine .ite ?_ ?_
         · with_reducible apply evolves_wr
         · with_reducible refine .ite ?_ ?_
           · with_reducible apply evolves_wr
           · with_reducible refine .ite ?_ ?_
             · with_reducible apply evolves_wr
             · with_reducible refine .ite ?_ ?_
               · refine .upd_all ?_ rfl rfl
                 with_reducible exact .refl _
               · with_reducible refine .ite ?_ ?_
                 · with_reducible apply evolves_swpRead
                 · with_reducible refine .ite ?_ ?_
                   · with_reducible apply evolves_advanceCursor
                   · with_reducible exact .refl _)
    | with_reducible exact .refl _

theorem evolves_readsFx (s : State) (a : Acc) : Evolves s (readsFx s a) := by
  unfold readsFx
  extract_lets +onlyGivenNames x0
  have hx0 : Evolves s x0 := by
    unfold x0
    with_reducible apply evolves_readFx
  try clear_value x0
  with_reducible refine .ite ?_ ?_
  · refine .trans ?_ (by with_reducible apply evolves_readFx)
    with_reducible exact hx0
  · with_reducible exact hx0

theorem evolves_countPeek (s : State) (b : Nat) : Evolves s (countPeek s b) := by
  unfold countPeek
  split
  all_goals first
    | (with_reducible refine .ite ?_ ?_
       · with_reducible apply evolves_pmu
       · with_reducible exact .refl _)
    | with_reducible exact .refl _

theorem evolves_tqRead (s : State) (a : Acc) : Evolves s (tqRead s a) := by
  unfold tqRead
  split
  all_goals first
    | with_reducible exact .refl _
    | (with_reducible refine .ite ?_ ?_
       · with_reducible apply evolves_respond
       · with_reducible apply evolves_respond)
    | (with_reducible refine .ite ?_ ?_
       · with_reducible apply evolves_deny
       · split
         all_goals first
           | (refine .trans ?_ (by with_reducible apply evolves_respond)
              with_reducible apply evolves_countPeek)
           | (refine .trans ?_ (by with_reducible apply evolves_respond)
              refine .trans ?_ (by with_reducible apply evolves_readsFx)
              with_reducible apply evolves_countAccess))

end Sys2Proof.Machine
end

