-- ==== Sys2Proof/Laws/State.lean ====
section
/-! SUPPORT. The fields that each primitive update of the state leaves alone, one law for each. -/

namespace Sys2Proof.Machine

section
variable (s : State) (base : Nat) (f : Field) (v : Nat)

@[simp] theorem wr_part : (wr s base f v).part = s.part := rfl
@[simp] theorem wr_phase : (wr s base f v).phase = s.phase := rfl
@[simp] theorem wr_started : (wr s base f v).started = s.started := rfl
@[simp] theorem wr_keeper : (wr s base f v).keeper = s.keeper := rfl
@[simp] theorem wr_strap : (wr s base f v).strap = s.strap := rfl
@[simp] theorem wr_fcNow : (wr s base f v).fcNow = s.fcNow := rfl
@[simp] theorem wr_tickFc : (wr s base f v).tickFc = s.tickFc := rfl
@[simp] theorem wr_probeFc : (wr s base f v).probeFc = s.probeFc := rfl
@[simp] theorem wr_probeEid : (wr s base f v).probeEid = s.probeEid := rfl
@[simp] theorem wr_tp : (wr s base f v).tp = s.tp := rfl
@[simp] theorem wr_unlocks : (wr s base f v).unlocks = s.unlocks := rfl
@[simp] theorem wr_fab : (wr s base f v).fab = s.fab := rfl
@[simp] theorem wr_chaff : (wr s base f v).chaff = s.chaff := rfl
@[simp] theorem wr_rch : (wr s base f v).rch = s.rch := rfl
@[simp] theorem wr_gates : (wr s base f v).gates = s.gates := rfl
@[simp] theorem wr_jobs : (wr s base f v).jobs = s.jobs := rfl
@[simp] theorem wr_plan : (wr s base f v).plan = s.plan := rfl
@[simp] theorem wr_lanes : (wr s base f v).lanes = s.lanes := rfl
@[simp] theorem wr_susp : (wr s base f v).susp = s.susp := rfl
@[simp] theorem wr_kcc : (wr s base f v).kcc = s.kcc := rfl
@[simp] theorem wr_meas : (wr s base f v).meas = s.meas := rfl
@[simp] theorem wr_banks : (wr s base f v).banks = s.banks := rfl
@[simp] theorem wr_accs : (wr s base f v).accs = s.accs := rfl
@[simp] theorem wr_tef : (wr s base f v).tef = s.tef := rfl
@[simp] theorem wr_grn : (wr s base f v).grn = s.grn := rfl
@[simp] theorem wr_snt : (wr s base f v).snt = s.snt := rfl
@[simp] theorem wr_glm : (wr s base f v).glm = s.glm := rfl
@[simp] theorem wr_clm : (wr s base f v).clm = s.clm := rfl
@[simp] theorem wr_cp : (wr s base f v).cp = s.cp := rfl
@[simp] theorem wr_freeCtr : (wr s base f v).freeCtr = s.freeCtr := rfl
@[simp] theorem wr_pending : (wr s base f v).pending = s.pending := rfl
end

section
variable (s : State) (k : Nat) (r : ChaffSrc)

@[simp] theorem setSrc_part : (setSrc s k r).part = s.part := rfl
@[simp] theorem setSrc_phase : (setSrc s k r).phase = s.phase := rfl
@[simp] theorem setSrc_started : (setSrc s k r).started = s.started := rfl
@[simp] theorem setSrc_keeper : (setSrc s k r).keeper = s.keeper := rfl
@[simp] theorem setSrc_strap : (setSrc s k r).strap = s.strap := rfl
@[simp] theorem setSrc_fcNow : (setSrc s k r).fcNow = s.fcNow := rfl
@[simp] theorem setSrc_tickFc : (setSrc s k r).tickFc = s.tickFc := rfl
@[simp] theorem setSrc_probeFc : (setSrc s k r).probeFc = s.probeFc := rfl
@[simp] theorem setSrc_probeEid : (setSrc s k r).probeEid = s.probeEid := rfl
@[simp] theorem setSrc_tp : (setSrc s k r).tp = s.tp := rfl
@[simp] theorem setSrc_regs : (setSrc s k r).regs = s.regs := rfl
@[simp] theorem setSrc_unlocks : (setSrc s k r).unlocks = s.unlocks := rfl
@[simp] theorem setSrc_fab : (setSrc s k r).fab = s.fab := rfl
@[simp] theorem setSrc_rch : (setSrc s k r).rch = s.rch := rfl
@[simp] theorem setSrc_gates : (setSrc s k r).gates = s.gates := rfl
@[simp] theorem setSrc_jobs : (setSrc s k r).jobs = s.jobs := rfl
@[simp] theorem setSrc_plan : (setSrc s k r).plan = s.plan := rfl
@[simp] theorem setSrc_lanes : (setSrc s k r).lanes = s.lanes := rfl
@[simp] theorem setSrc_susp : (setSrc s k r).susp = s.susp := rfl
@[simp] theorem setSrc_kcc : (setSrc s k r).kcc = s.kcc := rfl
@[simp] theorem setSrc_meas : (setSrc s k r).meas = s.meas := rfl
@[simp] theorem setSrc_banks : (setSrc s k r).banks = s.banks := rfl
@[simp] theorem setSrc_accs : (setSrc s k r).accs = s.accs := rfl
@[simp] theorem setSrc_tef : (setSrc s k r).tef = s.tef := rfl
@[simp] theorem setSrc_grn : (setSrc s k r).grn = s.grn := rfl
@[simp] theorem setSrc_snt : (setSrc s k r).snt = s.snt := rfl
@[simp] theorem setSrc_glm : (setSrc s k r).glm = s.glm := rfl
@[simp] theorem setSrc_clm : (setSrc s k r).clm = s.clm := rfl
@[simp] theorem setSrc_cp : (setSrc s k r).cp = s.cp := rfl
@[simp] theorem setSrc_freeCtr : (setSrc s k r).freeCtr = s.freeCtr := rfl
@[simp] theorem setSrc_pending : (setSrc s k r).pending = s.pending := rfl
@[simp] theorem rd_setSrc (base : Nat) (fd : Field) : rd (setSrc s k r) base fd = rd s base fd := rfl
@[simp] theorem flag_setSrc (base : Nat) (fd : Field) : flag (setSrc s k r) base fd = flag s base fd := rfl
end

section
variable (s : State) (q : Nat) (x : SqX)

@[simp] theorem setSqx_part : (setSqx s q x).part = s.part := rfl
@[simp] theorem setSqx_phase : (setSqx s q x).phase = s.phase := rfl
@[simp] theorem setSqx_started : (setSqx s q x).started = s.started := rfl
@[simp] theorem setSqx_keeper : (setSqx s q x).keeper = s.keeper := rfl
@[simp] theorem setSqx_strap : (setSqx s q x).strap = s.strap := rfl
@[simp] theorem setSqx_fcNow : (setSqx s q x).fcNow = s.fcNow := rfl
@[simp] theorem setSqx_tickFc : (setSqx s q x).tickFc = s.tickFc := rfl
@[simp] theorem setSqx_probeFc : (setSqx s q x).probeFc = s.probeFc := rfl
@[simp] theorem setSqx_probeEid : (setSqx s q x).probeEid = s.probeEid := rfl
@[simp] theorem setSqx_tp : (setSqx s q x).tp = s.tp := rfl
@[simp] theorem setSqx_regs : (setSqx s q x).regs = s.regs := rfl
@[simp] theorem setSqx_unlocks : (setSqx s q x).unlocks = s.unlocks := rfl
@[simp] theorem setSqx_fab : (setSqx s q x).fab = s.fab := rfl
@[simp] theorem setSqx_chaff : (setSqx s q x).chaff = s.chaff := rfl
@[simp] theorem setSqx_gates : (setSqx s q x).gates = s.gates := rfl
@[simp] theorem setSqx_jobs : (setSqx s q x).jobs = s.jobs := rfl
@[simp] theorem setSqx_plan : (setSqx s q x).plan = s.plan := rfl
@[simp] theorem setSqx_lanes : (setSqx s q x).lanes = s.lanes := rfl
@[simp] theorem setSqx_susp : (setSqx s q x).susp = s.susp := rfl
@[simp] theorem setSqx_kcc : (setSqx s q x).kcc = s.kcc := rfl
@[simp] theorem setSqx_meas : (setSqx s q x).meas = s.meas := rfl
@[simp] theorem setSqx_banks : (setSqx s q x).banks = s.banks := rfl
@[simp] theorem setSqx_accs : (setSqx s q x).accs = s.accs := rfl
@[simp] theorem setSqx_tef : (setSqx s q x).tef = s.tef := rfl
@[simp] theorem setSqx_grn : (setSqx s q x).grn = s.grn := rfl
@[simp] theorem setSqx_snt : (setSqx s q x).snt = s.snt := rfl
@[simp] theorem setSqx_glm : (setSqx s q x).glm = s.glm := rfl
@[simp] theorem setSqx_clm : (setSqx s q x).clm = s.clm := rfl
@[simp] theorem setSqx_cp : (setSqx s q x).cp = s.cp := rfl
@[simp] theorem setSqx_freeCtr : (setSqx s q x).freeCtr = s.freeCtr := rfl
@[simp] theorem setSqx_pending : (setSqx s q x).pending = s.pending := rfl
@[simp] theorem rd_setSqx (base : Nat) (fd : Field) : rd (setSqx s q x) base fd = rd s base fd := rfl
@[simp] theorem flag_setSqx (base : Nat) (fd : Field) : flag (setSqx s q x) base fd = flag s base fd := rfl
end

section
variable (s : State) (v : Nat) (x : Vec)

@[simp] theorem setVec_part : (setVec s v x).part = s.part := rfl
@[simp] theorem setVec_phase : (setVec s v x).phase = s.phase := rfl
@[simp] theorem setVec_started : (setVec s v x).started = s.started := rfl
@[simp] theorem setVec_keeper : (setVec s v x).keeper = s.keeper := rfl
@[simp] theorem setVec_strap : (setVec s v x).strap = s.strap := rfl
@[simp] theorem setVec_fcNow : (setVec s v x).fcNow = s.fcNow := rfl
@[simp] theorem setVec_tickFc : (setVec s v x).tickFc = s.tickFc := rfl
@[simp] theorem setVec_probeFc : (setVec s v x).probeFc = s.probeFc := rfl
@[simp] theorem setVec_probeEid : (setVec s v x).probeEid = s.probeEid := rfl
@[simp] theorem setVec_tp : (setVec s v x).tp = s.tp := rfl
@[simp] theorem setVec_regs : (setVec s v x).regs = s.regs := rfl
@[simp] theorem setVec_unlocks : (setVec s v x).unlocks = s.unlocks := rfl
@[simp] theorem setVec_fab : (setVec s v x).fab = s.fab := rfl
@[simp] theorem setVec_chaff : (setVec s v x).chaff = s.chaff := rfl
@[simp] theorem setVec_gates : (setVec s v x).gates = s.gates := rfl
@[simp] theorem setVec_jobs : (setVec s v x).jobs = s.jobs := rfl
@[simp] theorem setVec_plan : (setVec s v x).plan = s.plan := rfl
@[simp] theorem setVec_lanes : (setVec s v x).lanes = s.lanes := rfl
@[simp] theorem setVec_susp : (setVec s v x).susp = s.susp := rfl
@[simp] theorem setVec_kcc : (setVec s v x).kcc = s.kcc := rfl
@[simp] theorem setVec_meas : (setVec s v x).meas = s.meas := rfl
@[simp] theorem setVec_banks : (setVec s v x).banks = s.banks := rfl
@[simp] theorem setVec_accs : (setVec s v x).accs = s.accs := rfl
@[simp] theorem setVec_tef : (setVec s v x).tef = s.tef := rfl
@[simp] theorem setVec_grn : (setVec s v x).grn = s.grn := rfl
@[simp] theorem setVec_snt : (setVec s v x).snt = s.snt := rfl
@[simp] theorem setVec_glm : (setVec s v x).glm = s.glm := rfl
@[simp] theorem setVec_clm : (setVec s v x).clm = s.clm := rfl
@[simp] theorem setVec_cp : (setVec s v x).cp = s.cp := rfl
@[simp] theorem setVec_freeCtr : (setVec s v x).freeCtr = s.freeCtr := rfl
@[simp] theorem setVec_pending : (setVec s v x).pending = s.pending := rfl
@[simp] theorem rd_setVec (base : Nat) (fd : Field) : rd (setVec s v x) base fd = rd s base fd := rfl
@[simp] theorem flag_setVec (base : Nat) (fd : Field) : flag (setVec s v x) base fd = flag s base fd := rfl
end

section
variable (s : State) (g : Nat) (x : GateX)

@[simp] theorem setGatex_part : (setGatex s g x).part = s.part := rfl
@[simp] theorem setGatex_phase : (setGatex s g x).phase = s.phase := rfl
@[simp] theorem setGatex_started : (setGatex s g x).started = s.started := rfl
@[simp] theorem setGatex_keeper : (setGatex s g x).keeper = s.keeper := rfl
@[simp] theorem setGatex_strap : (setGatex s g x).strap = s.strap := rfl
@[simp] theorem setGatex_fcNow : (setGatex s g x).fcNow = s.fcNow := rfl
@[simp] theorem setGatex_tickFc : (setGatex s g x).tickFc = s.tickFc := rfl
@[simp] theorem setGatex_probeFc : (setGatex s g x).probeFc = s.probeFc := rfl
@[simp] theorem setGatex_probeEid : (setGatex s g x).probeEid = s.probeEid := rfl
@[simp] theorem setGatex_tp : (setGatex s g x).tp = s.tp := rfl
@[simp] theorem setGatex_regs : (setGatex s g x).regs = s.regs := rfl
@[simp] theorem setGatex_unlocks : (setGatex s g x).unlocks = s.unlocks := rfl
@[simp] theorem setGatex_fab : (setGatex s g x).fab = s.fab := rfl
@[simp] theorem setGatex_chaff : (setGatex s g x).chaff = s.chaff := rfl
@[simp] theorem setGatex_rch : (setGatex s g x).rch = s.rch := rfl
@[simp] theorem setGatex_jobs : (setGatex s g x).jobs = s.jobs := rfl
@[simp] theorem setGatex_plan : (setGatex s g x).plan = s.plan := rfl
@[simp] theorem setGatex_lanes : (setGatex s g x).lanes = s.lanes := rfl
@[simp] theorem setGatex_susp : (setGatex s g x).susp = s.susp := rfl
@[simp] theorem setGatex_kcc : (setGatex s g x).kcc = s.kcc := rfl
@[simp] theorem setGatex_meas : (setGatex s g x).meas = s.meas := rfl
@[simp] theorem setGatex_banks : (setGatex s g x).banks = s.banks := rfl
@[simp] theorem setGatex_accs : (setGatex s g x).accs = s.accs := rfl
@[simp] theorem setGatex_tef : (setGatex s g x).tef = s.tef := rfl
@[simp] theorem setGatex_grn : (setGatex s g x).grn = s.grn := rfl
@[simp] theorem setGatex_snt : (setGatex s g x).snt = s.snt := rfl
@[simp] theorem setGatex_glm : (setGatex s g x).glm = s.glm := rfl
@[simp] theorem setGatex_clm : (setGatex s g x).clm = s.clm := rfl
@[simp] theorem setGatex_cp : (setGatex s g x).cp = s.cp := rfl
@[simp] theorem setGatex_freeCtr : (setGatex s g x).freeCtr = s.freeCtr := rfl
@[simp] theorem setGatex_pending : (setGatex s g x).pending = s.pending := rfl
@[simp] theorem rd_setGatex (base : Nat) (fd : Field) : rd (setGatex s g x) base fd = rd s base fd := rfl
@[simp] theorem flag_setGatex (base : Nat) (fd : Field) : flag (setGatex s g x) base fd = flag s base fd := rfl
end

section
variable (s : State) (j : Nat) (x : Job)

@[simp] theorem setJob_part : (setJob s j x).part = s.part := rfl
@[simp] theorem setJob_phase : (setJob s j x).phase = s.phase := rfl
@[simp] theorem setJob_started : (setJob s j x).started = s.started := rfl
@[simp] theorem setJob_keeper : (setJob s j x).keeper = s.keeper := rfl
@[simp] theorem setJob_strap : (setJob s j x).strap = s.strap := rfl
@[simp] theorem setJob_fcNow : (setJob s j x).fcNow = s.fcNow := rfl
@[simp] theorem setJob_tickFc : (setJob s j x).tickFc = s.tickFc := rfl
@[simp] theorem setJob_probeFc : (setJob s j x).probeFc = s.probeFc := rfl
@[simp] theorem setJob_probeEid : (setJob s j x).probeEid = s.probeEid := rfl
@[simp] theorem setJob_tp : (setJob s j x).tp = s.tp := rfl
@[simp] theorem setJob_regs : (setJob s j x).regs = s.regs := rfl
@[simp] theorem setJob_unlocks : (setJob s j x).unlocks = s.unlocks := rfl
@[simp] theorem setJob_fab : (setJob s j x).fab = s.fab := rfl
@[simp] theorem setJob_chaff : (setJob s j x).chaff = s.chaff := rfl
@[simp] theorem setJob_rch : (setJob s j x).rch = s.rch := rfl
@[simp] theorem setJob_gates : (setJob s j x).gates = s.gates := rfl
@[simp] theorem setJob_plan : (setJob s j x).plan = s.plan := rfl
@[simp] theorem setJob_lanes : (setJob s j x).lanes = s.lanes := rfl
@[simp] theorem setJob_susp : (setJob s j x).susp = s.susp := rfl
@[simp] theorem setJob_kcc : (setJob s j x).kcc = s.kcc := rfl
@[simp] theorem setJob_meas : (setJob s j x).meas = s.meas := rfl
@[simp] theorem setJob_banks : (setJob s j x).banks = s.banks := rfl
@[simp] theorem setJob_accs : (setJob s j x).accs = s.accs := rfl
@[simp] theorem setJob_tef : (setJob s j x).tef = s.tef := rfl
@[simp] theorem setJob_grn : (setJob s j x).grn = s.grn := rfl
@[simp] theorem setJob_snt : (setJob s j x).snt = s.snt := rfl
@[simp] theorem setJob_glm : (setJob s j x).glm = s.glm := rfl
@[simp] theorem setJob_clm : (setJob s j x).clm = s.clm := rfl
@[simp] theorem setJob_cp : (setJob s j x).cp = s.cp := rfl
@[simp] theorem setJob_freeCtr : (setJob s j x).freeCtr = s.freeCtr := rfl
@[simp] theorem setJob_pending : (setJob s j x).pending = s.pending := rfl
@[simp] theorem rd_setJob (base : Nat) (fd : Field) : rd (setJob s j x) base fd = rd s base fd := rfl
@[simp] theorem flag_setJob (base : Nat) (fd : Field) : flag (setJob s j x) base fd = flag s base fd := rfl
end

section
variable (s : State) (l : Nat) (x : Lane)

@[simp] theorem setLane_part : (setLane s l x).part = s.part := rfl
@[simp] theorem setLane_phase : (setLane s l x).phase = s.phase := rfl
@[simp] theorem setLane_started : (setLane s l x).started = s.started := rfl
@[simp] theorem setLane_keeper : (setLane s l x).keeper = s.keeper := rfl
@[simp] theorem setLane_strap : (setLane s l x).strap = s.strap := rfl
@[simp] theorem setLane_fcNow : (setLane s l x).fcNow = s.fcNow := rfl
@[simp] theorem setLane_tickFc : (setLane s l x).tickFc = s.tickFc := rfl
@[simp] theorem setLane_probeFc : (setLane s l x).probeFc = s.probeFc := rfl
@[simp] theorem setLane_probeEid : (setLane s l x).probeEid = s.probeEid := rfl
@[simp] theorem setLane_tp : (setLane s l x).tp = s.tp := rfl
@[simp] theorem setLane_regs : (setLane s l x).regs = s.regs := rfl
@[simp] theorem setLane_unlocks : (setLane s l x).unlocks = s.unlocks := rfl
@[simp] theorem setLane_fab : (setLane s l x).fab = s.fab := rfl
@[simp] theorem setLane_chaff : (setLane s l x).chaff = s.chaff := rfl
@[simp] theorem setLane_rch : (setLane s l x).rch = s.rch := rfl
@[simp] theorem setLane_gates : (setLane s l x).gates = s.gates := rfl
@[simp] theorem setLane_jobs : (setLane s l x).jobs = s.jobs := rfl
@[simp] theorem setLane_plan : (setLane s l x).plan = s.plan := rfl
@[simp] theorem setLane_susp : (setLane s l x).susp = s.susp := rfl
@[simp] theorem setLane_kcc : (setLane s l x).kcc = s.kcc := rfl
@[simp] theorem setLane_meas : (setLane s l x).meas = s.meas := rfl
@[simp] theorem setLane_banks : (setLane s l x).banks = s.banks := rfl
@[simp] theorem setLane_accs : (setLane s l x).accs = s.accs := rfl
@[simp] theorem setLane_tef : (setLane s l x).tef = s.tef := rfl
@[simp] theorem setLane_grn : (setLane s l x).grn = s.grn := rfl
@[simp] theorem setLane_snt : (setLane s l x).snt = s.snt := rfl
@[simp] theorem setLane_glm : (setLane s l x).glm = s.glm := rfl
@[simp] theorem setLane_clm : (setLane s l x).clm = s.clm := rfl
@[simp] theorem setLane_cp : (setLane s l x).cp = s.cp := rfl
@[simp] theorem setLane_freeCtr : (setLane s l x).freeCtr = s.freeCtr := rfl
@[simp] theorem setLane_pending : (setLane s l x).pending = s.pending := rfl
@[simp] theorem rd_setLane (base : Nat) (fd : Field) : rd (setLane s l x) base fd = rd s base fd := rfl
@[simp] theorem flag_setLane (base : Nat) (fd : Field) : flag (setLane s l x) base fd = flag s base fd := rfl
end

section
variable (s : State) (l : List StashLine)

@[simp] theorem setStash_part : (setStash s l).part = s.part := rfl
@[simp] theorem setStash_phase : (setStash s l).phase = s.phase := rfl
@[simp] theorem setStash_started : (setStash s l).started = s.started := rfl
@[simp] theorem setStash_keeper : (setStash s l).keeper = s.keeper := rfl
@[simp] theorem setStash_strap : (setStash s l).strap = s.strap := rfl
@[simp] theorem setStash_fcNow : (setStash s l).fcNow = s.fcNow := rfl
@[simp] theorem setStash_tickFc : (setStash s l).tickFc = s.tickFc := rfl
@[simp] theorem setStash_probeFc : (setStash s l).probeFc = s.probeFc := rfl
@[simp] theorem setStash_probeEid : (setStash s l).probeEid = s.probeEid := rfl
@[simp] theorem setStash_tp : (setStash s l).tp = s.tp := rfl
@[simp] theorem setStash_regs : (setStash s l).regs = s.regs := rfl
@[simp] theorem setStash_unlocks : (setStash s l).unlocks = s.unlocks := rfl
@[simp] theorem setStash_fab : (setStash s l).fab = s.fab := rfl
@[simp] theorem setStash_chaff : (setStash s l).chaff = s.chaff := rfl
@[simp] theorem setStash_gates : (setStash s l).gates = s.gates := rfl
@[simp] theorem setStash_jobs : (setStash s l).jobs = s.jobs := rfl
@[simp] theorem setStash_plan : (setStash s l).plan = s.plan := rfl
@[simp] theorem setStash_lanes : (setStash s l).lanes = s.lanes := rfl
@[simp] theorem setStash_susp : (setStash s l).susp = s.susp := rfl
@[simp] theorem setStash_kcc : (setStash s l).kcc = s.kcc := rfl
@[simp] theorem setStash_meas : (setStash s l).meas = s.meas := rfl
@[simp] theorem setStash_banks : (setStash s l).banks = s.banks := rfl
@[simp] theorem setStash_accs : (setStash s l).accs = s.accs := rfl
@[simp] theorem setStash_tef : (setStash s l).tef = s.tef := rfl
@[simp] theorem setStash_grn : (setStash s l).grn = s.grn := rfl
@[simp] theorem setStash_snt : (setStash s l).snt = s.snt := rfl
@[simp] theorem setStash_glm : (setStash s l).glm = s.glm := rfl
@[simp] theorem setStash_clm : (setStash s l).clm = s.clm := rfl
@[simp] theorem setStash_cp : (setStash s l).cp = s.cp := rfl
@[simp] theorem setStash_freeCtr : (setStash s l).freeCtr = s.freeCtr := rfl
@[simp] theorem setStash_pending : (setStash s l).pending = s.pending := rfl
@[simp] theorem rd_setStash (base : Nat) (fd : Field) : rd (setStash s l) base fd = rd s base fd := rfl
@[simp] theorem flag_setStash (base : Nat) (fd : Field) : flag (setStash s l) base fd = flag s base fd := rfl
end

section
variable (s : State) (j : Nat)

@[simp] theorem freeJob_part : (freeJob s j).part = s.part := rfl
@[simp] theorem freeJob_phase : (freeJob s j).phase = s.phase := rfl
@[simp] theorem freeJob_started : (freeJob s j).started = s.started := rfl
@[simp] theorem freeJob_keeper : (freeJob s j).keeper = s.keeper := rfl
@[simp] theorem freeJob_strap : (freeJob s j).strap = s.strap := rfl
@[simp] theorem freeJob_fcNow : (freeJob s j).fcNow = s.fcNow := rfl
@[simp] theorem freeJob_tickFc : (freeJob s j).tickFc = s.tickFc := rfl
@[simp] theorem freeJob_probeFc : (freeJob s j).probeFc = s.probeFc := rfl
@[simp] theorem freeJob_probeEid : (freeJob s j).probeEid = s.probeEid := rfl
@[simp] theorem freeJob_tp : (freeJob s j).tp = s.tp := rfl
@[simp] theorem freeJob_regs : (freeJob s j).regs = s.regs := rfl
@[simp] theorem freeJob_unlocks : (freeJob s j).unlocks = s.unlocks := rfl
@[simp] theorem freeJob_fab : (freeJob s j).fab = s.fab := rfl
@[simp] theorem freeJob_chaff : (freeJob s j).chaff = s.chaff := rfl
@[simp] theorem freeJob_rch : (freeJob s j).rch = s.rch := rfl
@[simp] theorem freeJob_gates : (freeJob s j).gates = s.gates := rfl
@[simp] theorem freeJob_plan : (freeJob s j).plan = s.plan := rfl
@[simp] theorem freeJob_lanes : (freeJob s j).lanes = s.lanes := rfl
@[simp] theorem freeJob_susp : (freeJob s j).susp = s.susp := rfl
@[simp] theorem freeJob_kcc : (freeJob s j).kcc = s.kcc := rfl
@[simp] theorem freeJob_meas : (freeJob s j).meas = s.meas := rfl
@[simp] theorem freeJob_banks : (freeJob s j).banks = s.banks := rfl
@[simp] theorem freeJob_accs : (freeJob s j).accs = s.accs := rfl
@[simp] theorem freeJob_tef : (freeJob s j).tef = s.tef := rfl
@[simp] theorem freeJob_grn : (freeJob s j).grn = s.grn := rfl
@[simp] theorem freeJob_snt : (freeJob s j).snt = s.snt := rfl
@[simp] theorem freeJob_glm : (freeJob s j).glm = s.glm := rfl
@[simp] theorem freeJob_clm : (freeJob s j).clm = s.clm := rfl
@[simp] theorem freeJob_cp : (freeJob s j).cp = s.cp := rfl
@[simp] theorem freeJob_freeCtr : (freeJob s j).freeCtr = s.freeCtr := rfl
@[simp] theorem freeJob_pending : (freeJob s j).pending = s.pending := rfl
@[simp] theorem rd_freeJob (base : Nat) (fd : Field) : rd (freeJob s j) base fd = rd s base fd := rfl
@[simp] theorem flag_freeJob (base : Nat) (fd : Field) : flag (freeJob s j) base fd = flag s base fd := rfl
end

section
variable (s : State) (l : List Compl)

@[simp] theorem setCompls_part : (setCompls s l).part = s.part := rfl
@[simp] theorem setCompls_phase : (setCompls s l).phase = s.phase := rfl
@[simp] theorem setCompls_started : (setCompls s l).started = s.started := rfl
@[simp] theorem setCompls_keeper : (setCompls s l).keeper = s.keeper := rfl
@[simp] theorem setCompls_strap : (setCompls s l).strap = s.strap := rfl
@[simp] theorem setCompls_fcNow : (setCompls s l).fcNow = s.fcNow := rfl
@[simp] theorem setCompls_tickFc : (setCompls s l).tickFc = s.tickFc := rfl
@[simp] theorem setCompls_probeFc : (setCompls s l).probeFc = s.probeFc := rfl
@[simp] theorem setCompls_probeEid : (setCompls s l).probeEid = s.probeEid := rfl
@[simp] theorem setCompls_tp : (setCompls s l).tp = s.tp := rfl
@[simp] theorem setCompls_regs : (setCompls s l).regs = s.regs := rfl
@[simp] theorem setCompls_unlocks : (setCompls s l).unlocks = s.unlocks := rfl
@[simp] theorem setCompls_fab : (setCompls s l).fab = s.fab := rfl
@[simp] theorem setCompls_chaff : (setCompls s l).chaff = s.chaff := rfl
@[simp] theorem setCompls_gates : (setCompls s l).gates = s.gates := rfl
@[simp] theorem setCompls_jobs : (setCompls s l).jobs = s.jobs := rfl
@[simp] theorem setCompls_plan : (setCompls s l).plan = s.plan := rfl
@[simp] theorem setCompls_lanes : (setCompls s l).lanes = s.lanes := rfl
@[simp] theorem setCompls_susp : (setCompls s l).susp = s.susp := rfl
@[simp] theorem setCompls_kcc : (setCompls s l).kcc = s.kcc := rfl
@[simp] theorem setCompls_meas : (setCompls s l).meas = s.meas := rfl
@[simp] theorem setCompls_banks : (setCompls s l).banks = s.banks := rfl
@[simp] theorem setCompls_accs : (setCompls s l).accs = s.accs := rfl
@[simp] theorem setCompls_tef : (setCompls s l).tef = s.tef := rfl
@[simp] theorem setCompls_grn : (setCompls s l).grn = s.grn := rfl
@[simp] theorem setCompls_snt : (setCompls s l).snt = s.snt := rfl
@[simp] theorem setCompls_glm : (setCompls s l).glm = s.glm := rfl
@[simp] theorem setCompls_clm : (setCompls s l).clm = s.clm := rfl
@[simp] theorem setCompls_cp : (setCompls s l).cp = s.cp := rfl
@[simp] theorem setCompls_freeCtr : (setCompls s l).freeCtr = s.freeCtr := rfl
@[simp] theorem setCompls_pending : (setCompls s l).pending = s.pending := rfl
@[simp] theorem rd_setCompls (base : Nat) (fd : Field) : rd (setCompls s l) base fd = rd s base fd := rfl
@[simp] theorem flag_setCompls (base : Nat) (fd : Field) : flag (setCompls s l) base fd = flag s base fd := rfl
end

section
variable (s : State) (id data err : Nat)

@[simp] theorem respond_part : (respond s id data err).part = s.part := rfl
@[simp] theorem respond_phase : (respond s id data err).phase = s.phase := rfl
@[simp] theorem respond_started : (respond s id data err).started = s.started := rfl
@[simp] theorem respond_keeper : (respond s id data err).keeper = s.keeper := rfl
@[simp] theorem respond_strap : (respond s id data err).strap = s.strap := rfl
@[simp] theorem respond_fcNow : (respond s id data err).fcNow = s.fcNow := rfl
@[simp] theorem respond_tickFc : (respond s id data err).tickFc = s.tickFc := rfl
@[simp] theorem respond_probeFc : (respond s id data err).probeFc = s.probeFc := rfl
@[simp] theorem respond_probeEid : (respond s id data err).probeEid = s.probeEid := rfl
@[simp] theorem respond_regs : (respond s id data err).regs = s.regs := rfl
@[simp] theorem respond_unlocks : (respond s id data err).unlocks = s.unlocks := rfl
@[simp] theorem respond_fab : (respond s id data err).fab = s.fab := rfl
@[simp] theorem respond_chaff : (respond s id data err).chaff = s.chaff := rfl
@[simp] theorem respond_rch : (respond s id data err).rch = s.rch := rfl
@[simp] theorem respond_gates : (respond s id data err).gates = s.gates := rfl
@[simp] theorem respond_jobs : (respond s id data err).jobs = s.jobs := rfl
@[simp] theorem respond_plan : (respond s id data err).plan = s.plan := rfl
@[simp] theorem respond_lanes : (respond s id data err).lanes = s.lanes := rfl
@[simp] theorem respond_susp : (respond s id data err).susp = s.susp := rfl
@[simp] theorem respond_kcc : (respond s id data err).kcc = s.kcc := rfl
@[simp] theorem respond_meas : (respond s id data err).meas = s.meas := rfl
@[simp] theorem respond_banks : (respond s id data err).banks = s.banks := rfl
@[simp] theorem respond_accs : (respond s id data err).accs = s.accs := rfl
@[simp] theorem respond_tef : (respond s id data err).tef = s.tef := rfl
@[simp] theorem respond_grn : (respond s id data err).grn = s.grn := rfl
@[simp] theorem respond_snt : (respond s id data err).snt = s.snt := rfl
@[simp] theorem respond_glm : (respond s id data err).glm = s.glm := rfl
@[simp] theorem respond_clm : (respond s id data err).clm = s.clm := rfl
@[simp] theorem respond_cp : (respond s id data err).cp = s.cp := rfl
@[simp] theorem respond_freeCtr : (respond s id data err).freeCtr = s.freeCtr := rfl
@[simp] theorem respond_pending : (respond s id data err).pending = s.pending := rfl
@[simp] theorem rd_respond (base : Nat) (fd : Field) : rd (respond s id data err) base fd = rd s base fd := rfl
@[simp] theorem flag_respond (base : Nat) (fd : Field) : flag (respond s id data err) base fd = flag s base fd := rfl
end

section
variable (s : State) (l : Nat) (x : Link)

@[simp] theorem setLink_part : (setLink s l x).part = s.part := rfl
@[simp] theorem setLink_phase : (setLink s l x).phase = s.phase := rfl
@[simp] theorem setLink_started : (setLink s l x).started = s.started := rfl
@[simp] theorem setLink_keeper : (setLink s l x).keeper = s.keeper := rfl
@[simp] theorem setLink_strap : (setLink s l x).strap = s.strap := rfl
@[simp] theorem setLink_fcNow : (setLink s l x).fcNow = s.fcNow := rfl
@[simp] theorem setLink_tickFc : (setLink s l x).tickFc = s.tickFc := rfl
@[simp] theorem setLink_probeFc : (setLink s l x).probeFc = s.probeFc := rfl
@[simp] theorem setLink_probeEid : (setLink s l x).probeEid = s.probeEid := rfl
@[simp] theorem setLink_tp : (setLink s l x).tp = s.tp := rfl
@[simp] theorem setLink_regs : (setLink s l x).regs = s.regs := rfl
@[simp] theorem setLink_unlocks : (setLink s l x).unlocks = s.unlocks := rfl
@[simp] theorem setLink_fab : (setLink s l x).fab = s.fab := rfl
@[simp] theorem setLink_chaff : (setLink s l x).chaff = s.chaff := rfl
@[simp] theorem setLink_rch : (setLink s l x).rch = s.rch := rfl
@[simp] theorem setLink_gates : (setLink s l x).gates = s.gates := rfl
@[simp] theorem setLink_jobs : (setLink s l x).jobs = s.jobs := rfl
@[simp] theorem setLink_plan : (setLink s l x).plan = s.plan := rfl
@[simp] theorem setLink_lanes : (setLink s l x).lanes = s.lanes := rfl
@[simp] theorem setLink_susp : (setLink s l x).susp = s.susp := rfl
@[simp] theorem setLink_kcc : (setLink s l x).kcc = s.kcc := rfl
@[simp] theorem setLink_meas : (setLink s l x).meas = s.meas := rfl
@[simp] theorem setLink_banks : (setLink s l x).banks = s.banks := rfl
@[simp] theorem setLink_accs : (setLink s l x).accs = s.accs := rfl
@[simp] theorem setLink_tef : (setLink s l x).tef = s.tef := rfl
@[simp] theorem setLink_grn : (setLink s l x).grn = s.grn := rfl
@[simp] theorem setLink_snt : (setLink s l x).snt = s.snt := rfl
@[simp] theorem setLink_glm : (setLink s l x).glm = s.glm := rfl
@[simp] theorem setLink_cp : (setLink s l x).cp = s.cp := rfl
@[simp] theorem setLink_freeCtr : (setLink s l x).freeCtr = s.freeCtr := rfl
@[simp] theorem setLink_pending : (setLink s l x).pending = s.pending := rfl
@[simp] theorem rd_setLink (base : Nat) (fd : Field) : rd (setLink s l x) base fd = rd s base fd := rfl
@[simp] theorem flag_setLink (base : Nat) (fd : Field) : flag (setLink s l x) base fd = flag s base fd := rfl
end

section
variable (s : State) (e : Nat) (x : Expander)

@[simp] theorem setExp_part : (setExp s e x).part = s.part := rfl
@[simp] theorem setExp_phase : (setExp s e x).phase = s.phase := rfl
@[simp] theorem setExp_started : (setExp s e x).started = s.started := rfl
@[simp] theorem setExp_keeper : (setExp s e x).keeper = s.keeper := rfl
@[simp] theorem setExp_strap : (setExp s e x).strap = s.strap := rfl
@[simp] theorem setExp_fcNow : (setExp s e x).fcNow = s.fcNow := rfl
@[simp] theorem setExp_tickFc : (setExp s e x).tickFc = s.tickFc := rfl
@[simp] theorem setExp_probeFc : (setExp s e x).probeFc = s.probeFc := rfl
@[simp] theorem setExp_probeEid : (setExp s e x).probeEid = s.probeEid := rfl
@[simp] theorem setExp_tp : (setExp s e x).tp = s.tp := rfl
@[simp] theorem setExp_regs : (setExp s e x).regs = s.regs := rfl
@[simp] theorem setExp_unlocks : (setExp s e x).unlocks = s.unlocks := rfl
@[simp] theorem setExp_fab : (setExp s e x).fab = s.fab := rfl
@[simp] theorem setExp_chaff : (setExp s e x).chaff = s.chaff := rfl
@[simp] theorem setExp_rch : (setExp s e x).rch = s.rch := rfl
@[simp] theorem setExp_gates : (setExp s e x).gates = s.gates := rfl
@[simp] theorem setExp_jobs : (setExp s e x).jobs = s.jobs := rfl
@[simp] theorem setExp_plan : (setExp s e x).plan = s.plan := rfl
@[simp] theorem setExp_lanes : (setExp s e x).lanes = s.lanes := rfl
@[simp] theorem setExp_susp : (setExp s e x).susp = s.susp := rfl
@[simp] theorem setExp_kcc : (setExp s e x).kcc = s.kcc := rfl
@[simp] theorem setExp_meas : (setExp s e x).meas = s.meas := rfl
@[simp] theorem setExp_banks : (setExp s e x).banks = s.banks := rfl
@[simp] theorem setExp_accs : (setExp s e x).accs = s.accs := rfl
@[simp] theorem setExp_grn : (setExp s e x).grn = s.grn := rfl
@[simp] theorem setExp_snt : (setExp s e x).snt = s.snt := rfl
@[simp] theorem setExp_glm : (setExp s e x).glm = s.glm := rfl
@[simp] theorem setExp_clm : (setExp s e x).clm = s.clm := rfl
@[simp] theorem setExp_cp : (setExp s e x).cp = s.cp := rfl
@[simp] theorem setExp_freeCtr : (setExp s e x).freeCtr = s.freeCtr := rfl
@[simp] theorem setExp_pending : (setExp s e x).pending = s.pending := rfl
@[simp] theorem rd_setExp (base : Nat) (fd : Field) : rd (setExp s e x) base fd = rd s base fd := rfl
@[simp] theorem flag_setExp (base : Nat) (fd : Field) : flag (setExp s e x) base fd = flag s base fd := rfl
end

section
variable (s : State) (k : Nat) (l : Line)

@[simp] theorem setLine_part : (setLine s k l).part = s.part := rfl
@[simp] theorem setLine_phase : (setLine s k l).phase = s.phase := rfl
@[simp] theorem setLine_started : (setLine s k l).started = s.started := rfl
@[simp] theorem setLine_keeper : (setLine s k l).keeper = s.keeper := rfl
@[simp] theorem setLine_strap : (setLine s k l).strap = s.strap := rfl
@[simp] theorem setLine_fcNow : (setLine s k l).fcNow = s.fcNow := rfl
@[simp] theorem setLine_tickFc : (setLine s k l).tickFc = s.tickFc := rfl
@[simp] theorem setLine_probeFc : (setLine s k l).probeFc = s.probeFc := rfl
@[simp] theorem setLine_probeEid : (setLine s k l).probeEid = s.probeEid := rfl
@[simp] theorem setLine_tp : (setLine s k l).tp = s.tp := rfl
@[simp] theorem setLine_regs : (setLine s k l).regs = s.regs := rfl
@[simp] theorem setLine_unlocks : (setLine s k l).unlocks = s.unlocks := rfl
@[simp] theorem setLine_fab : (setLine s k l).fab = s.fab := rfl
@[simp] theorem setLine_chaff : (setLine s k l).chaff = s.chaff := rfl
@[simp] theorem setLine_rch : (setLine s k l).rch = s.rch := rfl
@[simp] theorem setLine_gates : (setLine s k l).gates = s.gates := rfl
@[simp] theorem setLine_jobs : (setLine s k l).jobs = s.jobs := rfl
@[simp] theorem setLine_plan : (setLine s k l).plan = s.plan := rfl
@[simp] theorem setLine_lanes : (setLine s k l).lanes = s.lanes := rfl
@[simp] theorem setLine_susp : (setLine s k l).susp = s.susp := rfl
@[simp] theorem setLine_meas : (setLine s k l).meas = s.meas := rfl
@[simp] theorem setLine_banks : (setLine s k l).banks = s.banks := rfl
@[simp] theorem setLine_accs : (setLine s k l).accs = s.accs := rfl
@[simp] theorem setLine_tef : (setLine s k l).tef = s.tef := rfl
@[simp] theorem setLine_grn : (setLine s k l).grn = s.grn := rfl
@[simp] theorem setLine_snt : (setLine s k l).snt = s.snt := rfl
@[simp] theorem setLine_glm : (setLine s k l).glm = s.glm := rfl
@[simp] theorem setLine_clm : (setLine s k l).clm = s.clm := rfl
@[simp] theorem setLine_cp : (setLine s k l).cp = s.cp := rfl
@[simp] theorem setLine_freeCtr : (setLine s k l).freeCtr = s.freeCtr := rfl
@[simp] theorem setLine_pending : (setLine s k l).pending = s.pending := rfl
@[simp] theorem rd_setLine (base : Nat) (fd : Field) : rd (setLine s k l) base fd = rd s base fd := rfl
@[simp] theorem flag_setLine (base : Nat) (fd : Field) : flag (setLine s k l) base fd = flag s base fd := rfl
end

section
variable (s : State) (k : Nat)

@[simp] theorem dropLine_part : (dropLine s k).part = s.part := rfl
@[simp] theorem dropLine_phase : (dropLine s k).phase = s.phase := rfl
@[simp] theorem dropLine_started : (dropLine s k).started = s.started := rfl
@[simp] theorem dropLine_keeper : (dropLine s k).keeper = s.keeper := rfl
@[simp] theorem dropLine_strap : (dropLine s k).strap = s.strap := rfl
@[simp] theorem dropLine_fcNow : (dropLine s k).fcNow = s.fcNow := rfl
@[simp] theorem dropLine_tickFc : (dropLine s k).tickFc = s.tickFc := rfl
@[simp] theorem dropLine_probeFc : (dropLine s k).probeFc = s.probeFc := rfl
@[simp] theorem dropLine_probeEid : (dropLine s k).probeEid = s.probeEid := rfl
@[simp] theorem dropLine_tp : (dropLine s k).tp = s.tp := rfl
@[simp] theorem dropLine_regs : (dropLine s k).regs = s.regs := rfl
@[simp] theorem dropLine_unlocks : (dropLine s k).unlocks = s.unlocks := rfl
@[simp] theorem dropLine_fab : (dropLine s k).fab = s.fab := rfl
@[simp] theorem dropLine_chaff : (dropLine s k).chaff = s.chaff := rfl
@[simp] theorem dropLine_rch : (dropLine s k).rch = s.rch := rfl
@[simp] theorem dropLine_gates : (dropLine s k).gates = s.gates := rfl
@[simp] theorem dropLine_jobs : (dropLine s k).jobs = s.jobs := rfl
@[simp] theorem dropLine_plan : (dropLine s k).plan = s.plan := rfl
@[simp] theorem dropLine_lanes : (dropLine s k).lanes = s.lanes := rfl
@[simp] theorem dropLine_susp : (dropLine s k).susp = s.susp := rfl
@[simp] theorem dropLine_meas : (dropLine s k).meas = s.meas := rfl
@[simp] theorem dropLine_banks : (dropLine s k).banks = s.banks := rfl
@[simp] theorem dropLine_accs : (dropLine s k).accs = s.accs := rfl
@[simp] theorem dropLine_tef : (dropLine s k).tef = s.tef := rfl
@[simp] theorem dropLine_grn : (dropLine s k).grn = s.grn := rfl
@[simp] theorem dropLine_snt : (dropLine s k).snt = s.snt := rfl
@[simp] theorem dropLine_glm : (dropLine s k).glm = s.glm := rfl
@[simp] theorem dropLine_clm : (dropLine s k).clm = s.clm := rfl
@[simp] theorem dropLine_cp : (dropLine s k).cp = s.cp := rfl
@[simp] theorem dropLine_freeCtr : (dropLine s k).freeCtr = s.freeCtr := rfl
@[simp] theorem dropLine_pending : (dropLine s k).pending = s.pending := rfl
@[simp] theorem rd_dropLine (base : Nat) (fd : Field) : rd (dropLine s k) base fd = rd s base fd := rfl
@[simp] theorem flag_dropLine (base : Nat) (fd : Field) : flag (dropLine s k) base fd = flag s base fd := rfl
end

section
variable (s : State) (n : Nat) (b : Bank)

@[simp] theorem setBank_part : (setBank s n b).part = s.part := rfl
@[simp] theorem setBank_phase : (setBank s n b).phase = s.phase := rfl
@[simp] theorem setBank_started : (setBank s n b).started = s.started := rfl
@[simp] theorem setBank_keeper : (setBank s n b).keeper = s.keeper := rfl
@[simp] theorem setBank_strap : (setBank s n b).strap = s.strap := rfl
@[simp] theorem setBank_fcNow : (setBank s n b).fcNow = s.fcNow := rfl
@[simp] theorem setBank_tickFc : (setBank s n b).tickFc = s.tickFc := rfl
@[simp] theorem setBank_probeFc : (setBank s n b).probeFc = s.probeFc := rfl
@[simp] theorem setBank_probeEid : (setBank s n b).probeEid = s.probeEid := rfl
@[simp] theorem setBank_tp : (setBank s n b).tp = s.tp := rfl
@[simp] theorem setBank_regs : (setBank s n b).regs = s.regs := rfl
@[simp] theorem setBank_unlocks : (setBank s n b).unlocks = s.unlocks := rfl
@[simp] theorem setBank_fab : (setBank s n b).fab = s.fab := rfl
@[simp] theorem setBank_chaff : (setBank s n b).chaff = s.chaff := rfl
@[simp] theorem setBank_rch : (setBank s n b).rch = s.rch := rfl
@[simp] theorem setBank_gates : (setBank s n b).gates = s.gates := rfl
@[simp] theorem setBank_jobs : (setBank s n b).jobs = s.jobs := rfl
@[simp] theorem setBank_plan : (setBank s n b).plan = s.plan := rfl
@[simp] theorem setBank_lanes : (setBank s n b).lanes = s.lanes := rfl
@[simp] theorem setBank_susp : (setBank s n b).susp = s.susp := rfl
@[simp] theorem setBank_kcc : (setBank s n b).kcc = s.kcc := rfl
@[simp] theorem setBank_meas : (setBank s n b).meas = s.meas := rfl
@[simp] theorem setBank_accs : (setBank s n b).accs = s.accs := rfl
@[simp] theorem setBank_tef : (setBank s n b).tef = s.tef := rfl
@[simp] theorem setBank_grn : (setBank s n b).grn = s.grn := rfl
@[simp] theorem setBank_snt : (setBank s n b).snt = s.snt := rfl
@[simp] theorem setBank_glm : (setBank s n b).glm = s.glm := rfl
@[simp] theorem setBank_clm : (setBank s n b).clm = s.clm := rfl
@[simp] theorem setBank_cp : (setBank s n b).cp = s.cp := rfl
@[simp] theorem setBank_freeCtr : (setBank s n b).freeCtr = s.freeCtr := rfl
@[simp] theorem setBank_pending : (setBank s n b).pending = s.pending := rfl
@[simp] theorem rd_setBank (base : Nat) (fd : Field) : rd (setBank s n b) base fd = rd s base fd := rfl
@[simp] theorem flag_setBank (base : Nat) (fd : Field) : flag (setBank s n b) base fd = flag s base fd := rfl
end

section
variable (s : State) (n : Nat) (r : Row)

@[simp] theorem setRow_part : (setRow s n r).part = s.part := rfl
@[simp] theorem setRow_phase : (setRow s n r).phase = s.phase := rfl
@[simp] theorem setRow_started : (setRow s n r).started = s.started := rfl
@[simp] theorem setRow_keeper : (setRow s n r).keeper = s.keeper := rfl
@[simp] theorem setRow_strap : (setRow s n r).strap = s.strap := rfl
@[simp] theorem setRow_fcNow : (setRow s n r).fcNow = s.fcNow := rfl
@[simp] theorem setRow_tickFc : (setRow s n r).tickFc = s.tickFc := rfl
@[simp] theorem setRow_probeFc : (setRow s n r).probeFc = s.probeFc := rfl
@[simp] theorem setRow_probeEid : (setRow s n r).probeEid = s.probeEid := rfl
@[simp] theorem setRow_tp : (setRow s n r).tp = s.tp := rfl
@[simp] theorem setRow_regs : (setRow s n r).regs = s.regs := rfl
@[simp] theorem setRow_unlocks : (setRow s n r).unlocks = s.unlocks := rfl
@[simp] theorem setRow_fab : (setRow s n r).fab = s.fab := rfl
@[simp] theorem setRow_chaff : (setRow s n r).chaff = s.chaff := rfl
@[simp] theorem setRow_rch : (setRow s n r).rch = s.rch := rfl
@[simp] theorem setRow_gates : (setRow s n r).gates = s.gates := rfl
@[simp] theorem setRow_jobs : (setRow s n r).jobs = s.jobs := rfl
@[simp] theorem setRow_plan : (setRow s n r).plan = s.plan := rfl
@[simp] theorem setRow_lanes : (setRow s n r).lanes = s.lanes := rfl
@[simp] theorem setRow_susp : (setRow s n r).susp = s.susp := rfl
@[simp] theorem setRow_kcc : (setRow s n r).kcc = s.kcc := rfl
@[simp] theorem setRow_meas : (setRow s n r).meas = s.meas := rfl
@[simp] theorem setRow_banks : (setRow s n r).banks = s.banks := rfl
@[simp] theorem setRow_accs : (setRow s n r).accs = s.accs := rfl
@[simp] theorem setRow_tef : (setRow s n r).tef = s.tef := rfl
@[simp] theorem setRow_snt : (setRow s n r).snt = s.snt := rfl
@[simp] theorem setRow_glm : (setRow s n r).glm = s.glm := rfl
@[simp] theorem setRow_clm : (setRow s n r).clm = s.clm := rfl
@[simp] theorem setRow_cp : (setRow s n r).cp = s.cp := rfl
@[simp] theorem setRow_freeCtr : (setRow s n r).freeCtr = s.freeCtr := rfl
@[simp] theorem setRow_pending : (setRow s n r).pending = s.pending := rfl
@[simp] theorem rd_setRow (base : Nat) (fd : Field) : rd (setRow s n r) base fd = rd s base fd := rfl
@[simp] theorem flag_setRow (base : Nat) (fd : Field) : flag (setRow s n r) base fd = flag s base fd := rfl
end

section
variable (s : State) (g : Granary)

@[simp] theorem setGrn_part : (setGrn s g).part = s.part := rfl
@[simp] theorem setGrn_phase : (setGrn s g).phase = s.phase := rfl
@[simp] theorem setGrn_started : (setGrn s g).started = s.started := rfl
@[simp] theorem setGrn_keeper : (setGrn s g).keeper = s.keeper := rfl
@[simp] theorem setGrn_strap : (setGrn s g).strap = s.strap := rfl
@[simp] theorem setGrn_fcNow : (setGrn s g).fcNow = s.fcNow := rfl
@[simp] theorem setGrn_tickFc : (setGrn s g).tickFc = s.tickFc := rfl
@[simp] theorem setGrn_probeFc : (setGrn s g).probeFc = s.probeFc := rfl
@[simp] theorem setGrn_probeEid : (setGrn s g).probeEid = s.probeEid := rfl
@[simp] theorem setGrn_tp : (setGrn s g).tp = s.tp := rfl
@[simp] theorem setGrn_regs : (setGrn s g).regs = s.regs := rfl
@[simp] theorem setGrn_unlocks : (setGrn s g).unlocks = s.unlocks := rfl
@[simp] theorem setGrn_fab : (setGrn s g).fab = s.fab := rfl
@[simp] theorem setGrn_chaff : (setGrn s g).chaff = s.chaff := rfl
@[simp] theorem setGrn_rch : (setGrn s g).rch = s.rch := rfl
@[simp] theorem setGrn_gates : (setGrn s g).gates = s.gates := rfl
@[simp] theorem setGrn_jobs : (setGrn s g).jobs = s.jobs := rfl
@[simp] theorem setGrn_plan : (setGrn s g).plan = s.plan := rfl
@[simp] theorem setGrn_lanes : (setGrn s g).lanes = s.lanes := rfl
@[simp] theorem setGrn_susp : (setGrn s g).susp = s.susp := rfl
@[simp] theorem setGrn_kcc : (setGrn s g).kcc = s.kcc := rfl
@[simp] theorem setGrn_meas : (setGrn s g).meas = s.meas := rfl
@[simp] theorem setGrn_banks : (setGrn s g).banks = s.banks := rfl
@[simp] theorem setGrn_accs : (setGrn s g).accs = s.accs := rfl
@[simp] theorem setGrn_tef : (setGrn s g).tef = s.tef := rfl
@[simp] theorem setGrn_snt : (setGrn s g).snt = s.snt := rfl
@[simp] theorem setGrn_glm : (setGrn s g).glm = s.glm := rfl
@[simp] theorem setGrn_clm : (setGrn s g).clm = s.clm := rfl
@[simp] theorem setGrn_cp : (setGrn s g).cp = s.cp := rfl
@[simp] theorem setGrn_freeCtr : (setGrn s g).freeCtr = s.freeCtr := rfl
@[simp] theorem setGrn_pending : (setGrn s g).pending = s.pending := rfl
@[simp] theorem rd_setGrn (base : Nat) (fd : Field) : rd (setGrn s g) base fd = rd s base fd := rfl
@[simp] theorem flag_setGrn (base : Nat) (fd : Field) : flag (setGrn s g) base fd = flag s base fd := rfl
end

section
variable (s : State) (c : Nat) (x : Cell)

@[simp] theorem setCell_part : (setCell s c x).part = s.part := rfl
@[simp] theorem setCell_phase : (setCell s c x).phase = s.phase := rfl
@[simp] theorem setCell_started : (setCell s c x).started = s.started := rfl
@[simp] theorem setCell_keeper : (setCell s c x).keeper = s.keeper := rfl
@[simp] theorem setCell_strap : (setCell s c x).strap = s.strap := rfl
@[simp] theorem setCell_fcNow : (setCell s c x).fcNow = s.fcNow := rfl
@[simp] theorem setCell_tickFc : (setCell s c x).tickFc = s.tickFc := rfl
@[simp] theorem setCell_probeFc : (setCell s c x).probeFc = s.probeFc := rfl
@[simp] theorem setCell_probeEid : (setCell s c x).probeEid = s.probeEid := rfl
@[simp] theorem setCell_tp : (setCell s c x).tp = s.tp := rfl
@[simp] theorem setCell_regs : (setCell s c x).regs = s.regs := rfl
@[simp] theorem setCell_unlocks : (setCell s c x).unlocks = s.unlocks := rfl
@[simp] theorem setCell_fab : (setCell s c x).fab = s.fab := rfl
@[simp] theorem setCell_chaff : (setCell s c x).chaff = s.chaff := rfl
@[simp] theorem setCell_rch : (setCell s c x).rch = s.rch := rfl
@[simp] theorem setCell_gates : (setCell s c x).gates = s.gates := rfl
@[simp] theorem setCell_jobs : (setCell s c x).jobs = s.jobs := rfl
@[simp] theorem setCell_plan : (setCell s c x).plan = s.plan := rfl
@[simp] theorem setCell_lanes : (setCell s c x).lanes = s.lanes := rfl
@[simp] theorem setCell_susp : (setCell s c x).susp = s.susp := rfl
@[simp] theorem setCell_kcc : (setCell s c x).kcc = s.kcc := rfl
@[simp] theorem setCell_meas : (setCell s c x).meas = s.meas := rfl
@[simp] theorem setCell_banks : (setCell s c x).banks = s.banks := rfl
@[simp] theorem setCell_accs : (setCell s c x).accs = s.accs := rfl
@[simp] theorem setCell_grn : (setCell s c x).grn = s.grn := rfl
@[simp] theorem setCell_snt : (setCell s c x).snt = s.snt := rfl
@[simp] theorem setCell_glm : (setCell s c x).glm = s.glm := rfl
@[simp] theorem setCell_clm : (setCell s c x).clm = s.clm := rfl
@[simp] theorem setCell_cp : (setCell s c x).cp = s.cp := rfl
@[simp] theorem setCell_freeCtr : (setCell s c x).freeCtr = s.freeCtr := rfl
@[simp] theorem setCell_pending : (setCell s c x).pending = s.pending := rfl
@[simp] theorem rd_setCell (base : Nat) (fd : Field) : rd (setCell s c x) base fd = rd s base fd := rfl
@[simp] theorem flag_setCell (base : Nat) (fd : Field) : flag (setCell s c x) base fd = flag s base fd := rfl
end

section
variable (s : State) (w : Nat) (o : OtpWord)

@[simp] theorem setOtp_part : (setOtp s w o).part = s.part := rfl
@[simp] theorem setOtp_phase : (setOtp s w o).phase = s.phase := rfl
@[simp] theorem setOtp_started : (setOtp s w o).started = s.started := rfl
@[simp] theorem setOtp_keeper : (setOtp s w o).keeper = s.keeper := rfl
@[simp] theorem setOtp_strap : (setOtp s w o).strap = s.strap := rfl
@[simp] theorem setOtp_fcNow : (setOtp s w o).fcNow = s.fcNow := rfl
@[simp] theorem setOtp_tickFc : (setOtp s w o).tickFc = s.tickFc := rfl
@[simp] theorem setOtp_probeFc : (setOtp s w o).probeFc = s.probeFc := rfl
@[simp] theorem setOtp_probeEid : (setOtp s w o).probeEid = s.probeEid := rfl
@[simp] theorem setOtp_tp : (setOtp s w o).tp = s.tp := rfl
@[simp] theorem setOtp_regs : (setOtp s w o).regs = s.regs := rfl
@[simp] theorem setOtp_unlocks : (setOtp s w o).unlocks = s.unlocks := rfl
@[simp] theorem setOtp_fab : (setOtp s w o).fab = s.fab := rfl
@[simp] theorem setOtp_chaff : (setOtp s w o).chaff = s.chaff := rfl
@[simp] theorem setOtp_rch : (setOtp s w o).rch = s.rch := rfl
@[simp] theorem setOtp_gates : (setOtp s w o).gates = s.gates := rfl
@[simp] theorem setOtp_jobs : (setOtp s w o).jobs = s.jobs := rfl
@[simp] theorem setOtp_plan : (setOtp s w o).plan = s.plan := rfl
@[simp] theorem setOtp_lanes : (setOtp s w o).lanes = s.lanes := rfl
@[simp] theorem setOtp_susp : (setOtp s w o).susp = s.susp := rfl
@[simp] theorem setOtp_kcc : (setOtp s w o).kcc = s.kcc := rfl
@[simp] theorem setOtp_meas : (setOtp s w o).meas = s.meas := rfl
@[simp] theorem setOtp_banks : (setOtp s w o).banks = s.banks := rfl
@[simp] theorem setOtp_accs : (setOtp s w o).accs = s.accs := rfl
@[simp] theorem setOtp_tef : (setOtp s w o).tef = s.tef := rfl
@[simp] theorem setOtp_grn : (setOtp s w o).grn = s.grn := rfl
@[simp] theorem setOtp_snt : (setOtp s w o).snt = s.snt := rfl
@[simp] theorem setOtp_clm : (setOtp s w o).clm = s.clm := rfl
@[simp] theorem setOtp_cp : (setOtp s w o).cp = s.cp := rfl
@[simp] theorem setOtp_freeCtr : (setOtp s w o).freeCtr = s.freeCtr := rfl
@[simp] theorem setOtp_pending : (setOtp s w o).pending = s.pending := rfl
@[simp] theorem rd_setOtp (base : Nat) (fd : Field) : rd (setOtp s w o) base fd = rd s base fd := rfl
@[simp] theorem flag_setOtp (base : Nat) (fd : Field) : flag (setOtp s w o) base fd = flag s base fd := rfl
end

section
variable (s : State) (b : Burn)

@[simp] theorem addBurn_part : (addBurn s b).part = s.part := rfl
@[simp] theorem addBurn_phase : (addBurn s b).phase = s.phase := rfl
@[simp] theorem addBurn_started : (addBurn s b).started = s.started := rfl
@[simp] theorem addBurn_keeper : (addBurn s b).keeper = s.keeper := rfl
@[simp] theorem addBurn_strap : (addBurn s b).strap = s.strap := rfl
@[simp] theorem addBurn_fcNow : (addBurn s b).fcNow = s.fcNow := rfl
@[simp] theorem addBurn_tickFc : (addBurn s b).tickFc = s.tickFc := rfl
@[simp] theorem addBurn_probeFc : (addBurn s b).probeFc = s.probeFc := rfl
@[simp] theorem addBurn_probeEid : (addBurn s b).probeEid = s.probeEid := rfl
@[simp] theorem addBurn_tp : (addBurn s b).tp = s.tp := rfl
@[simp] theorem addBurn_regs : (addBurn s b).regs = s.regs := rfl
@[simp] theorem addBurn_unlocks : (addBurn s b).unlocks = s.unlocks := rfl
@[simp] theorem addBurn_fab : (addBurn s b).fab = s.fab := rfl
@[simp] theorem addBurn_chaff : (addBurn s b).chaff = s.chaff := rfl
@[simp] theorem addBurn_rch : (addBurn s b).rch = s.rch := rfl
@[simp] theorem addBurn_gates : (addBurn s b).gates = s.gates := rfl
@[simp] theorem addBurn_jobs : (addBurn s b).jobs = s.jobs := rfl
@[simp] theorem addBurn_plan : (addBurn s b).plan = s.plan := rfl
@[simp] theorem addBurn_lanes : (addBurn s b).lanes = s.lanes := rfl
@[simp] theorem addBurn_susp : (addBurn s b).susp = s.susp := rfl
@[simp] theorem addBurn_kcc : (addBurn s b).kcc = s.kcc := rfl
@[simp] theorem addBurn_meas : (addBurn s b).meas = s.meas := rfl
@[simp] theorem addBurn_banks : (addBurn s b).banks = s.banks := rfl
@[simp] theorem addBurn_accs : (addBurn s b).accs = s.accs := rfl
@[simp] theorem addBurn_tef : (addBurn s b).tef = s.tef := rfl
@[simp] theorem addBurn_grn : (addBurn s b).grn = s.grn := rfl
@[simp] theorem addBurn_snt : (addBurn s b).snt = s.snt := rfl
@[simp] theorem addBurn_clm : (addBurn s b).clm = s.clm := rfl
@[simp] theorem addBurn_cp : (addBurn s b).cp = s.cp := rfl
@[simp] theorem addBurn_freeCtr : (addBurn s b).freeCtr = s.freeCtr := rfl
@[simp] theorem addBurn_pending : (addBurn s b).pending = s.pending := rfl
@[simp] theorem rd_addBurn (base : Nat) (fd : Field) : rd (addBurn s b) base fd = rd s base fd := rfl
@[simp] theorem flag_addBurn (base : Nat) (fd : Field) : flag (addBurn s b) base fd = flag s base fd := rfl
end

section
variable (s : State) (rows : List (Nat × Bytes)) (next : CpNext)

@[simp] theorem setTask_part : (setTask s rows next).part = s.part := rfl
@[simp] theorem setTask_phase : (setTask s rows next).phase = s.phase := rfl
@[simp] theorem setTask_started : (setTask s rows next).started = s.started := rfl
@[simp] theorem setTask_keeper : (setTask s rows next).keeper = s.keeper := rfl
@[simp] theorem setTask_strap : (setTask s rows next).strap = s.strap := rfl
@[simp] theorem setTask_fcNow : (setTask s rows next).fcNow = s.fcNow := rfl
@[simp] theorem setTask_tickFc : (setTask s rows next).tickFc = s.tickFc := rfl
@[simp] theorem setTask_probeFc : (setTask s rows next).probeFc = s.probeFc := rfl
@[simp] theorem setTask_probeEid : (setTask s rows next).probeEid = s.probeEid := rfl
@[simp] theorem setTask_tp : (setTask s rows next).tp = s.tp := rfl
@[simp] theorem setTask_regs : (setTask s rows next).regs = s.regs := rfl
@[simp] theorem setTask_unlocks : (setTask s rows next).unlocks = s.unlocks := rfl
@[simp] theorem setTask_fab : (setTask s rows next).fab = s.fab := rfl
@[simp] theorem setTask_chaff : (setTask s rows next).chaff = s.chaff := rfl
@[simp] theorem setTask_rch : (setTask s rows next).rch = s.rch := rfl
@[simp] theorem setTask_gates : (setTask s rows next).gates = s.gates := rfl
@[simp] theorem setTask_jobs : (setTask s rows next).jobs = s.jobs := rfl
@[simp] theorem setTask_plan : (setTask s rows next).plan = s.plan := rfl
@[simp] theorem setTask_lanes : (setTask s rows next).lanes = s.lanes := rfl
@[simp] theorem setTask_susp : (setTask s rows next).susp = s.susp := rfl
@[simp] theorem setTask_kcc : (setTask s rows next).kcc = s.kcc := rfl
@[simp] theorem setTask_meas : (setTask s rows next).meas = s.meas := rfl
@[simp] theorem setTask_banks : (setTask s rows next).banks = s.banks := rfl
@[simp] theorem setTask_accs : (setTask s rows next).accs = s.accs := rfl
@[simp] theorem setTask_tef : (setTask s rows next).tef = s.tef := rfl
@[simp] theorem setTask_grn : (setTask s rows next).grn = s.grn := rfl
@[simp] theorem setTask_snt : (setTask s rows next).snt = s.snt := rfl
@[simp] theorem setTask_glm : (setTask s rows next).glm = s.glm := rfl
@[simp] theorem setTask_clm : (setTask s rows next).clm = s.clm := rfl
@[simp] theorem setTask_freeCtr : (setTask s rows next).freeCtr = s.freeCtr := rfl
@[simp] theorem setTask_pending : (setTask s rows next).pending = s.pending := rfl
@[simp] theorem rd_setTask (base : Nat) (fd : Field) : rd (setTask s rows next) base fd = rd s base fd := rfl
@[simp] theorem flag_setTask (base : Nat) (fd : Field) : flag (setTask s rows next) base fd = flag s base fd := rfl
end

section
variable (s : State) (l : List RdTxn)

@[simp] theorem setReads_part : (setReads s l).part = s.part := rfl
@[simp] theorem setReads_phase : (setReads s l).phase = s.phase := rfl
@[simp] theorem setReads_started : (setReads s l).started = s.started := rfl
@[simp] theorem setReads_keeper : (setReads s l).keeper = s.keeper := rfl
@[simp] theorem setReads_strap : (setReads s l).strap = s.strap := rfl
@[simp] theorem setReads_fcNow : (setReads s l).fcNow = s.fcNow := rfl
@[simp] theorem setReads_tickFc : (setReads s l).tickFc = s.tickFc := rfl
@[simp] theorem setReads_probeFc : (setReads s l).probeFc = s.probeFc := rfl
@[simp] theorem setReads_probeEid : (setReads s l).probeEid = s.probeEid := rfl
@[simp] theorem setReads_tp : (setReads s l).tp = s.tp := rfl
@[simp] theorem setReads_regs : (setReads s l).regs = s.regs := rfl
@[simp] theorem setReads_unlocks : (setReads s l).unlocks = s.unlocks := rfl
@[simp] theorem setReads_chaff : (setReads s l).chaff = s.chaff := rfl
@[simp] theorem setReads_rch : (setReads s l).rch = s.rch := rfl
@[simp] theorem setReads_gates : (setReads s l).gates = s.gates := rfl
@[simp] theorem setReads_jobs : (setReads s l).jobs = s.jobs := rfl
@[simp] theorem setReads_plan : (setReads s l).plan = s.plan := rfl
@[simp] theorem setReads_lanes : (setReads s l).lanes = s.lanes := rfl
@[simp] theorem setReads_susp : (setReads s l).susp = s.susp := rfl
@[simp] theorem setReads_kcc : (setReads s l).kcc = s.kcc := rfl
@[simp] theorem setReads_meas : (setReads s l).meas = s.meas := rfl
@[simp] theorem setReads_banks : (setReads s l).banks = s.banks := rfl
@[simp] theorem setReads_accs : (setReads s l).accs = s.accs := rfl
@[simp] theorem setReads_tef : (setReads s l).tef = s.tef := rfl
@[simp] theorem setReads_grn : (setReads s l).grn = s.grn := rfl
@[simp] theorem setReads_snt : (setReads s l).snt = s.snt := rfl
@[simp] theorem setReads_glm : (setReads s l).glm = s.glm := rfl
@[simp] theorem setReads_clm : (setReads s l).clm = s.clm := rfl
@[simp] theorem setReads_cp : (setReads s l).cp = s.cp := rfl
@[simp] theorem setReads_freeCtr : (setReads s l).freeCtr = s.freeCtr := rfl
@[simp] theorem setReads_pending : (setReads s l).pending = s.pending := rfl
@[simp] theorem rd_setReads (base : Nat) (fd : Field) : rd (setReads s l) base fd = rd s base fd := rfl
@[simp] theorem flag_setReads (base : Nat) (fd : Field) : flag (setReads s l) base fd = flag s base fd := rfl
end

section
variable (s : State) (t : WrTxn)

@[simp] theorem dropWrite_part : (dropWrite s t).part = s.part := rfl
@[simp] theorem dropWrite_phase : (dropWrite s t).phase = s.phase := rfl
@[simp] theorem dropWrite_started : (dropWrite s t).started = s.started := rfl
@[simp] theorem dropWrite_keeper : (dropWrite s t).keeper = s.keeper := rfl
@[simp] theorem dropWrite_strap : (dropWrite s t).strap = s.strap := rfl
@[simp] theorem dropWrite_fcNow : (dropWrite s t).fcNow = s.fcNow := rfl
@[simp] theorem dropWrite_tickFc : (dropWrite s t).tickFc = s.tickFc := rfl
@[simp] theorem dropWrite_probeFc : (dropWrite s t).probeFc = s.probeFc := rfl
@[simp] theorem dropWrite_probeEid : (dropWrite s t).probeEid = s.probeEid := rfl
@[simp] theorem dropWrite_tp : (dropWrite s t).tp = s.tp := rfl
@[simp] theorem dropWrite_regs : (dropWrite s t).regs = s.regs := rfl
@[simp] theorem dropWrite_unlocks : (dropWrite s t).unlocks = s.unlocks := rfl
@[simp] theorem dropWrite_chaff : (dropWrite s t).chaff = s.chaff := rfl
@[simp] theorem dropWrite_rch : (dropWrite s t).rch = s.rch := rfl
@[simp] theorem dropWrite_gates : (dropWrite s t).gates = s.gates := rfl
@[simp] theorem dropWrite_jobs : (dropWrite s t).jobs = s.jobs := rfl
@[simp] theorem dropWrite_plan : (dropWrite s t).plan = s.plan := rfl
@[simp] theorem dropWrite_lanes : (dropWrite s t).lanes = s.lanes := rfl
@[simp] theorem dropWrite_susp : (dropWrite s t).susp = s.susp := rfl
@[simp] theorem dropWrite_kcc : (dropWrite s t).kcc = s.kcc := rfl
@[simp] theorem dropWrite_meas : (dropWrite s t).meas = s.meas := rfl
@[simp] theorem dropWrite_banks : (dropWrite s t).banks = s.banks := rfl
@[simp] theorem dropWrite_accs : (dropWrite s t).accs = s.accs := rfl
@[simp] theorem dropWrite_tef : (dropWrite s t).tef = s.tef := rfl
@[simp] theorem dropWrite_grn : (dropWrite s t).grn = s.grn := rfl
@[simp] theorem dropWrite_snt : (dropWrite s t).snt = s.snt := rfl
@[simp] theorem dropWrite_glm : (dropWrite s t).glm = s.glm := rfl
@[simp] theorem dropWrite_clm : (dropWrite s t).clm = s.clm := rfl
@[simp] theorem dropWrite_cp : (dropWrite s t).cp = s.cp := rfl
@[simp] theorem dropWrite_freeCtr : (dropWrite s t).freeCtr = s.freeCtr := rfl
@[simp] theorem dropWrite_pending : (dropWrite s t).pending = s.pending := rfl
@[simp] theorem rd_dropWrite (base : Nat) (fd : Field) : rd (dropWrite s t) base fd = rd s base fd := rfl
@[simp] theorem flag_dropWrite (base : Nat) (fd : Field) : flag (dropWrite s t) base fd = flag s base fd := rfl
end

section
variable (s : State) (port : Nat) (isWrite : Bool) (tag left : Nat)

@[simp] theorem quarantine_part : (quarantine s port isWrite tag left).part = s.part := rfl
@[simp] theorem quarantine_phase : (quarantine s port isWrite tag left).phase = s.phase := rfl
@[simp] theorem quarantine_started : (quarantine s port isWrite tag left).started = s.started := rfl
@[simp] theorem quarantine_keeper : (quarantine s port isWrite tag left).keeper = s.keeper := rfl
@[simp] theorem quarantine_strap : (quarantine s port isWrite tag left).strap = s.strap := rfl
@[simp] theorem quarantine_fcNow : (quarantine s port isWrite tag left).fcNow = s.fcNow := rfl
@[simp] theorem quarantine_tickFc : (quarantine s port isWrite tag left).tickFc = s.tickFc := rfl
@[simp] theorem quarantine_probeFc : (quarantine s port isWrite tag left).probeFc = s.probeFc := rfl
@[simp] theorem quarantine_probeEid : (quarantine s port isWrite tag left).probeEid = s.probeEid := rfl
@[simp] theorem quarantine_tp : (quarantine s port isWrite tag left).tp = s.tp := rfl
@[simp] theorem quarantine_regs : (quarantine s port isWrite tag left).regs = s.regs := rfl
@[simp] theorem quarantine_unlocks : (quarantine s port isWrite tag left).unlocks = s.unlocks := rfl
@[simp] theorem quarantine_chaff : (quarantine s port isWrite tag left).chaff = s.chaff := rfl
@[simp] theorem quarantine_rch : (quarantine s port isWrite tag left).rch = s.rch := rfl
@[simp] theorem quarantine_gates : (quarantine s port isWrite tag left).gates = s.gates := rfl
@[simp] theorem quarantine_jobs : (quarantine s port isWrite tag left).jobs = s.jobs := rfl
@[simp] theorem quarantine_plan : (quarantine s port isWrite tag left).plan = s.plan := rfl
@[simp] theorem quarantine_lanes : (quarantine s port isWrite tag left).lanes = s.lanes := rfl
@[simp] theorem quarantine_susp : (quarantine s port isWrite tag left).susp = s.susp := rfl
@[simp] theorem quarantine_kcc : (quarantine s port isWrite tag left).kcc = s.kcc := rfl
@[simp] theorem quarantine_meas : (quarantine s port isWrite tag left).meas = s.meas := rfl
@[simp] theorem quarantine_banks : (quarantine s port isWrite tag left).banks = s.banks := rfl
@[simp] theorem quarantine_accs : (quarantine s port isWrite tag left).accs = s.accs := rfl
@[simp] theorem quarantine_tef : (quarantine s port isWrite tag left).tef = s.tef := rfl
@[simp] theorem quarantine_grn : (quarantine s port isWrite tag left).grn = s.grn := rfl
@[simp] theorem quarantine_snt : (quarantine s port isWrite tag left).snt = s.snt := rfl
@[simp] theorem quarantine_glm : (quarantine s port isWrite tag left).glm = s.glm := rfl
@[simp] theorem quarantine_clm : (quarantine s port isWrite tag left).clm = s.clm := rfl
@[simp] theorem quarantine_cp : (quarantine s port isWrite tag left).cp = s.cp := rfl
@[simp] theorem quarantine_freeCtr : (quarantine s port isWrite tag left).freeCtr = s.freeCtr := rfl
@[simp] theorem quarantine_pending : (quarantine s port isWrite tag left).pending = s.pending := rfl
@[simp] theorem rd_quarantine (base : Nat) (fd : Field) : rd (quarantine s port isWrite tag left) base fd = rd s base fd := rfl
@[simp] theorem flag_quarantine (base : Nat) (fd : Field) : flag (quarantine s port isWrite tag left) base fd = flag s base fd := rfl
end

end Sys2Proof.Machine
end

