-- ==== Sys2Proof/Laws/Fields.lean ====
section
/-! SUPPORT. Register fields: a read after a write, and what the shared operations over registers leave alone. -/

namespace Sys2Proof.Machine

/-- A field reads as what was written to it, modulo its width. -/
@[simp] theorem rd_wr_same (s : State) (base : Nat) (f : Field) (v : Nat) : rd (wr s base f v) base f = v % 2 ^ f.w := by
  simp [rd, wr]

/-- A write leaves every field with another key alone. -/
theorem rd_wr_ne {s : State} {base base' v : Nat} {f g : Field} (h : fkey base' g ≠ fkey base f) :
    rd (wr s base f v) base' g = rd s base' g := by
  simp [rd, wr, SMap.get?_set_ne _ _ h]

theorem flag_wr_ne {s : State} {base base' v : Nat} {f g : Field} (h : fkey base' g ≠ fkey base f) :
    flag (wr s base f v) base' g = flag s base' g := by
  simp [flag, rd_wr_ne h]

@[simp] theorem get?_wr_same (s : State) (base : Nat) (f : Field) (v : Nat) :
    SMap.get? (wr s base f v).regs (fkey base f) = some (v % 2 ^ f.w) := by
  simp [wr]

theorem get?_wr_ne {s : State} {base v k : Nat} {f : Field} (h : k ≠ fkey base f) :
    SMap.get? (wr s base f v).regs k = SMap.get? s.regs k := by
  simp [wr, SMap.get?_set_ne _ _ h]

/-- States with the same registers read alike. -/
theorem rd_congr {s t : State} (h : t.regs = s.regs) (base : Nat) (f : Field) : rd t base f = rd s base f := by
  simp [rd, h]

theorem rd_of_get? {s t : State} {base : Nat} {f : Field}
    (h : SMap.get? t.regs (fkey base f) = SMap.get? s.regs (fkey base f)) : rd t base f = rd s base f := by
  simp [rd, h]

theorem rd_inc_ne {s : State} {base base' : Nat} {f g : Field} (h : fkey base' g ≠ fkey base f) :
    rd (inc s base f) base' g = rd s base' g := rd_wr_ne h

theorem get?_inc_ne {s : State} {base k : Nat} {f : Field} (h : k ≠ fkey base f) :
    SMap.get? (inc s base f).regs k = SMap.get? s.regs k := get?_wr_ne h

/-! ### Events -/

/-- A change of events touches CHF.EVT beside the register it changes. -/
theorem get?_noteRise {s t : State} {p k : Nat} (h : k ≠ fkey (pg pCHF) HDR.EVT.BITS) :
    SMap.get? (noteRise s t p).regs k = SMap.get? t.regs k := by
  unfold noteRise
  split
  · exact get?_wr_ne h
  · rfl

/-- Setting an event touches the unit's EVT and CHF.EVT alone. -/
theorem get?_setEvt {s : State} {p b k : Nat} (h1 : k ≠ fkey (pg p) HDR.EVT.BITS) (h2 : k ≠ fkey (pg pCHF) HDR.EVT.BITS) :
    SMap.get? (setEvt s p b).regs k = SMap.get? s.regs k := by
  unfold setEvt
  rw [get?_noteRise h2, get?_wr_ne h1]

theorem rd_setEvt {s : State} {p b base : Nat} {f : Field} (h1 : fkey base f ≠ fkey (pg p) HDR.EVT.BITS)
    (h2 : fkey base f ≠ fkey (pg pCHF) HDR.EVT.BITS) : rd (setEvt s p b) base f = rd s base f :=
  rd_of_get? (get?_setEvt h1 h2)

/-! ### PMU counts -/

theorem get?_pmuAdd {s : State} {n m k : Nat} (hn : n < 16) (h : k ∉ countKeys) :
    SMap.get? (pmuAdd s n m).regs k = SMap.get? s.regs k := by
  simp only [countKeys, List.mem_append, List.mem_map, List.mem_range, List.mem_cons, List.not_mem_nil, or_false, not_or, not_exists,
    not_and] at h
  obtain ⟨h1, h2, h3, h4⟩ := h
  have h1 : k ≠ fkey (pg pPMU) (PMU.CNT.COUNT.at n) := fun e => h1 n hn e.symm
  unfold pmuAdd
  dsimp only
  split
  · exact get?_wr_ne h1
  · split
    · exact get?_wr_ne h1
    · rw [get?_setEvt h3 h4, get?_wr_ne h2, get?_wr_ne h1]

theorem get?_pmu {s : State} {ev u m k : Nat} (h : k ∉ countKeys) : SMap.get? (pmu s ev u m).regs k = SMap.get? s.regs k := by
  unfold pmu
  split
  · have : ∀ (l : List Nat) (t : State), (∀ n ∈ l, n < 16) → SMap.get? (l.foldl (fun st n =>
        if flag st (pg pPMU) (PMU.CNT_CFG.EN.at n) && rd st (pg pPMU) (PMU.CNT_CFG.EVENT.at n) == ev
          && (rd st (pg pPMU) (PMU.CNT_CFG.UNIT.at n) == 0xFF || rd st (pg pPMU) (PMU.CNT_CFG.UNIT.at n) == u)
        then pmuAdd st n m else st) t).regs k = SMap.get? t.regs k := by
      intro l
      induction l with
      | nil => exact fun _ _ => rfl
      | cons n l ih =>
        intro t hl
        rw [List.foldl_cons, ih _ fun x hx => hl x (List.mem_cons_of_mem _ hx)]
        split
        · exact get?_pmuAdd (hl n (by simp)) h
        · rfl
    exact this _ _ fun n hn => List.mem_range.1 hn
  · rfl

theorem rd_pmu {s : State} {ev u m base : Nat} {f : Field} (h : fkey base f ∉ countKeys) : rd (pmu s ev u m) base f = rd s base f :=
  rd_of_get? (get?_pmu h)

theorem get?_countAccess {s : State} {a : Acc} {k : Nat} (h : k ∉ countKeys) :
    SMap.get? (countAccess s a).regs k = SMap.get? s.regs k := by
  unfold countAccess
  split
  · exact get?_pmu h
  · rfl

theorem rd_countAccess {s : State} {a : Acc} {base : Nat} {f : Field} (h : fkey base f ∉ countKeys) :
    rd (countAccess s a) base f = rd s base f := rd_of_get? (get?_countAccess h)

/-! ### Messages change no register -/

@[simp] theorem chaff_regs (s : State) (m : ChaffMsg) : (chaff s m).regs = s.regs := by
  unfold chaff
  dsimp only
  split
  · rfl
  · split <;> rfl

@[simp] theorem chaffPlain_regs (s : State) (u i k d : Nat) : (chaffPlain s u i k d).regs = s.regs := chaff_regs ..
@[simp] theorem chaffAny_regs (s : State) (u i k : Nat) : (chaffAny s u i k).regs = s.regs := chaff_regs ..
@[simp] theorem notice_regs (s : State) (u i r : Nat) : (notice s u i r).regs = s.regs := chaff_regs ..
@[simp] theorem writeIgnored_regs (s : State) (u i p a r : Nat) : (writeIgnored s u i p a r).regs = s.regs := chaff_regs ..

end Sys2Proof.Machine
end

