-- ==== Sys2Proof/Laws/Only.lean ====
section
/-! SUPPORT. Operations that change nothing but registers, or nothing but registers and the chaff collector, one lemma for each. -/

namespace Sys2Proof.Machine

/-- Nothing but registers differs. -/
def OnlyRegs (s t : State) : Prop := t = { s with regs := t.regs }

/-- Nothing but registers and the chaff collector differs. -/
def OnlyRc (s t : State) : Prop := t = { s with regs := t.regs, chaff := t.chaff }

namespace OnlyRegs

theorem refl (s : State) : OnlyRegs s s := rfl

theorem trans {s t u : State} (h : OnlyRegs s t) (k : OnlyRegs t u) : OnlyRegs s u := by
  unfold OnlyRegs at *
  rw [k, h]

theorem ite {s a b : State} {c : Prop} [Decidable c] (ha : OnlyRegs s a) (hb : OnlyRegs s b) : OnlyRegs s (if c then a else b) := by
  split
  · exact ha
  · exact hb

theorem foldl {α : Type} {f : State → α → State} (hf : ∀ s a, OnlyRegs s (f s a)) (l : List α) (s t : State) (h : OnlyRegs s t) :
    OnlyRegs s (l.foldl f t) := by
  induction l generalizing t with
  | nil => exact h
  | cons a l ih => exact ih _ (h.trans (hf t a))

theorem rc {s t : State} (h : OnlyRegs s t) : OnlyRc s t := by
  unfold OnlyRegs at h
  unfold OnlyRc
  rw [h]

end OnlyRegs

namespace OnlyRc

theorem refl (s : State) : OnlyRc s s := rfl

theorem trans {s t u : State} (h : OnlyRc s t) (k : OnlyRc t u) : OnlyRc s u := by
  unfold OnlyRc at *
  rw [k, h]

theorem upd {s t : State} (h : OnlyRc s t) {regs : SMap Nat} {chaff : Chaff} : OnlyRc s { t with regs := regs, chaff := chaff } :=
  h.trans rfl

theorem ite {s a b : State} {c : Prop} [Decidable c] (ha : OnlyRc s a) (hb : OnlyRc s b) : OnlyRc s (if c then a else b) := by
  split
  · exact ha
  · exact hb

theorem foldl {α : Type} {f : State → α → State} (hf : ∀ s a, OnlyRc s (f s a)) (l : List α) (s t : State) (h : OnlyRc s t) :
    OnlyRc s (l.foldl f t) := by
  induction l generalizing t with
  | nil => exact h
  | cons a l ih => exact ih _ (h.trans (hf t a))

end OnlyRc

theorem onlyRegs_wr (s : State) (base : Nat) (f : Field) (v : Nat) : OnlyRegs s (wr s base f v) := rfl

theorem onlyRc_wr (s : State) (base : Nat) (f : Field) (v : Nat) : OnlyRc s (wr s base f v) := rfl

theorem onlyRc_setSrc (s : State) (k : Nat) (r : ChaffSrc) : OnlyRc s (setSrc s k r) := rfl

theorem onlyRegs_incBy (s : State) (base : Nat) (f : Field) (n : Nat) : OnlyRegs s (incBy s base f n) := by
  unfold incBy
  with_reducible apply onlyRegs_wr

theorem onlyRegs_inc (s : State) (base : Nat) (f : Field) : OnlyRegs s (inc s base f) := by
  unfold inc
  with_reducible apply onlyRegs_incBy

theorem onlyRegs_dec (s : State) (base : Nat) (f : Field) : OnlyRegs s (dec s base f) := by
  unfold dec
  with_reducible apply onlyRegs_wr

theorem onlyRegs_noteRise (s t : State) (p : Nat) : OnlyRegs t (noteRise s t p) := by
  unfold noteRise
  with_reducible refine .ite ?_ ?_
  · with_reducible apply onlyRegs_wr
  · with_reducible exact .refl _

theorem onlyRegs_setEvt (s : State) (p b : Nat) : OnlyRegs s (setEvt s p b) := by
  unfold setEvt
  refine .trans ?_ (by with_reducible apply onlyRegs_noteRise)
  with_reducible apply onlyRegs_wr

theorem onlyRegs_setUstate (s : State) (p v : Nat) : OnlyRegs s (setUstate s p v) := by
  unfold setUstate
  with_reducible apply onlyRegs_wr

theorem onlyRegs_pmuAdd (s : State) (n m : Nat) : OnlyRegs s (pmuAdd s n m) := by
  unfold pmuAdd
  extract_lets +onlyGivenNames x0
  try clear_value x0
  extract_lets +onlyGivenNames x1
  have hx1 : OnlyRegs s x1 := by
    unfold x1
    with_reducible apply onlyRegs_wr
  try clear_value x1
  with_reducible refine .ite ?_ ?_
  · with_reducible exact hx1
  · with_reducible refine .ite ?_ ?_
    · with_reducible exact hx1
    · refine .trans ?_ (by with_reducible apply onlyRegs_setEvt)
      refine .trans ?_ (by with_reducible apply onlyRegs_wr)
      with_reducible exact hx1

theorem onlyRegs_pmu (s : State) (ev unitNo m : Nat) : OnlyRegs s (pmu s ev unitNo m) := by
  unfold pmu
  with_reducible refine .ite ?_ ?_
  · with_reducible refine .foldl (fun st0 _ => ?_) _ _ _ ?_
    · with_reducible refine .ite ?_ ?_
      · with_reducible apply onlyRegs_pmuAdd
      · with_reducible exact .refl _
    · with_reducible exact .refl _
  · with_reducible exact .refl _

theorem onlyRegs_stampKc (s : State) (k : Nat) : OnlyRegs s (stampKc s k) := by
  unfold stampKc
  with_reducible refine .ite ?_ ?_
  · with_reducible apply onlyRegs_wr
  · with_reducible exact .refl _

theorem onlyRegs_probeStamp (s : State) (eid k : Nat) : OnlyRegs s (probeStamp s eid k) := by
  unfold probeStamp
  with_reducible refine .ite ?_ ?_
  · with_reducible apply onlyRegs_stampKc
  · with_reducible exact .refl _

theorem onlyRegs_idleLane (s : State) (n l : Nat) : OnlyRegs s (idleLane s n l) := by
  unfold idleLane
  extract_lets +onlyGivenNames x0
  have hx0 : OnlyRegs s x0 := by
    unfold x0
    with_reducible apply onlyRegs_pmu
  try clear_value x0
  with_reducible refine .ite ?_ ?_
  · refine .trans ?_ (by with_reducible apply onlyRegs_incBy)
    with_reducible exact hx0
  · with_reducible exact hx0

theorem onlyRegs_countLines (s : State) (q first n : Nat) : OnlyRegs s (countLines s q first n) := by
  unfold countLines
  extract_lets +onlyGivenNames x0
  try clear_value x0
  refine .trans ?_ (by with_reducible apply onlyRegs_pmu)
  with_reducible apply onlyRegs_incBy

theorem onlyRegs_countMisses (s : State) (n : Nat) : OnlyRegs s (countMisses s n) := by
  unfold countMisses
  refine .trans ?_ (by with_reducible apply onlyRegs_pmu)
  with_reducible apply onlyRegs_incBy

theorem onlyRegs_advance (s : State) (q units : Nat) : OnlyRegs s (advance s q units) := by
  unfold advance
  with_reducible apply onlyRegs_wr

theorem onlyRegs_storeField (s : State) (base a v : Nat) (rwl p0 : Bool) (f : Field) :
    OnlyRegs s (storeField s base a v rwl p0 f) := by
  unfold storeField
  split
  all_goals first
    | with_reducible exact .refl _
    | (extract_lets +onlyGivenNames x0
       try clear_value x0
       extract_lets +onlyGivenNames x1
       try clear_value x1
       with_reducible refine .ite ?_ ?_
       · with_reducible exact .refl _
       · split
         all_goals first
           | with_reducible apply onlyRegs_wr
           | (with_reducible refine .ite ?_ ?_
              · with_reducible apply onlyRegs_wr
              · with_reducible exact .refl _)
           | with_reducible exact .refl _)

theorem onlyRegs_storeWord (s : State) (base a v : Nat) (rwl p0 : Bool) (fs : List Field) :
    OnlyRegs s (storeWord s base a v rwl p0 fs) := by
  unfold storeWord
  with_reducible refine .foldl (fun st0 _ => ?_) _ _ _ ?_
  · with_reducible apply onlyRegs_storeField
  · with_reducible exact .refl _

theorem onlyRegs_storePage (s : State) (src p off v : Nat) : OnlyRegs s (storePage s src p off v) := by
  unfold storePage
  split
  all_goals first
    | with_reducible apply onlyRegs_storeWord
    | with_reducible exact .refl _

theorem onlyRegs_countAccess (s : State) (a : Acc) : OnlyRegs s (countAccess s a) := by
  unfold countAccess
  split
  all_goals first
    | with_reducible apply onlyRegs_pmu
    | with_reducible exact .refl _

theorem onlyRegs_fecClear (s : State) (b : Nat) : OnlyRegs s (fecClear s b) := by
  unfold fecClear
  with_reducible refine .foldl (fun st0 _ => ?_) _ _ _ ?_
  · with_reducible apply onlyRegs_wr
  · with_reducible exact .refl _

theorem onlyRegs_fecSrcWrite (s : State) (b v : Nat) : OnlyRegs s (fecSrcWrite s b v) := by
  unfold fecSrcWrite
  with_reducible refine .ite ?_ ?_
  · with_reducible apply onlyRegs_fecClear
  · with_reducible exact .refl _

theorem onlyRegs_ptMsiFx (s : State) (p v : Nat) : OnlyRegs s (ptMsiFx s p v) := by
  unfold ptMsiFx
  with_reducible refine .ite ?_ ?_
  · with_reducible exact .refl _
  · refine .trans ?_ (by with_reducible apply onlyRegs_wr)
    refine .trans ?_ (by with_reducible apply onlyRegs_wr)
    with_reducible apply onlyRegs_wr

theorem onlyRegs_ptStore (s : State) (src p off v : Nat) : OnlyRegs s (ptStore s src p off v) := by
  unfold ptStore
  with_reducible refine .ite ?_ ?_
  · with_reducible exact .refl _
  · with_reducible apply onlyRegs_storeWord

theorem onlyRegs_setLinkState (s : State) (l v : Nat) : OnlyRegs s (setLinkState s l v) := by
  unfold setLinkState
  refine .trans ?_ (by with_reducible apply onlyRegs_wr)
  with_reducible apply onlyRegs_wr

theorem onlyRegs_kccBlocks (s : State) (i n : Nat) : OnlyRegs s (kccBlocks s i n) := by
  unfold kccBlocks
  split
  all_goals first
    | (refine .trans ?_ (by with_reducible apply onlyRegs_pmu)
       with_reducible apply onlyRegs_incBy)
    | with_reducible exact .refl _

theorem onlyRegs_countHit (s : State) (l : Lookup) : OnlyRegs s (countHit s l) := by
  unfold countHit
  split
  all_goals first
    | with_reducible exact .refl _
    | with_reducible apply onlyRegs_inc

theorem onlyRegs_countPrestate (s : State) (g kind n : Nat) : OnlyRegs s (countPrestate s g kind n) := by
  unfold countPrestate
  extract_lets +onlyGivenNames x0
  try clear_value x0
  extract_lets +onlyGivenNames x1
  try clear_value x1
  refine .trans ?_ (by with_reducible apply onlyRegs_pmu)
  refine .trans ?_ (by with_reducible apply onlyRegs_inc)
  with_reducible apply onlyRegs_incBy

theorem onlyRegs_setBankState (s : State) (n v : Nat) : OnlyRegs s (setBankState s n v) := by
  unfold setBankState
  with_reducible apply onlyRegs_wr

theorem onlyRegs_setBankRealm (s : State) (n v : Nat) : OnlyRegs s (setBankRealm s n v) := by
  unfold setBankRealm
  with_reducible apply onlyRegs_wr

theorem onlyRegs_setBankOp (s : State) (n op : Nat) (x : Bool) : OnlyRegs s (setBankOp s n op x) := by
  unfold setBankOp
  refine .trans ?_ (by with_reducible apply onlyRegs_wr)
  with_reducible apply onlyRegs_wr

theorem onlyRegs_noOwner (s : State) (n : Nat) : OnlyRegs s (noOwner s n) := by
  unfold noOwner
  with_reducible apply onlyRegs_wr

theorem onlyRegs_countAbort (s : State) (n : Nat) : OnlyRegs s (countAbort s n) := by
  unfold countAbort
  refine .trans ?_ (by with_reducible apply onlyRegs_setEvt)
  with_reducible apply onlyRegs_inc

theorem onlyRegs_setGateState (s : State) (g v : Nat) : OnlyRegs s (setGateState s g v) := by
  unfold setGateState
  with_reducible apply onlyRegs_wr

theorem onlyRegs_noteNoCtx (s : State) (gs : List Grant) (l cls : Nat) : OnlyRegs s (noteNoCtx s gs l cls) := by
  unfold noteNoCtx
  extract_lets +onlyGivenNames x0
  have hx0 : OnlyRegs s x0 := by
    unfold x0
    with_reducible apply onlyRegs_setEvt
  try clear_value x0
  with_reducible refine .ite ?_ ?_
  · refine .trans ?_ (by with_reducible apply onlyRegs_setEvt)
    with_reducible exact hx0
  · with_reducible exact hx0

theorem onlyRegs_noteLaneWaits (s : State) (gs : List Grant) : OnlyRegs s (noteLaneWaits s gs) := by
  unfold noteLaneWaits
  with_reducible refine .foldl (fun st0 _ => ?_) _ _ _ ?_
  · split
    all_goals first
      | (with_reducible refine .ite ?_ ?_
         · with_reducible refine .foldl (fun st1 _ => ?_) _ _ _ ?_
           · with_reducible apply onlyRegs_noteNoCtx
           · with_reducible exact .refl _
         · with_reducible exact .refl _)
      | with_reducible exact .refl _
  · with_reducible exact .refl _

theorem onlyRegs_countBlocks (s : State) (g op n : Nat) : OnlyRegs s (countBlocks s g op n) := by
  unfold countBlocks
  extract_lets +onlyGivenNames x0
  try clear_value x0
  extract_lets +onlyGivenNames x1
  have hx1 : OnlyRegs s x1 := by
    unfold x1
    with_reducible refine .ite ?_ ?_
    · with_reducible apply onlyRegs_incBy
    · with_reducible refine .ite ?_ ?_
      · with_reducible apply onlyRegs_incBy
      · with_reducible apply onlyRegs_incBy
  try clear_value x1
  refine .trans ?_ (by with_reducible apply onlyRegs_pmu)
  with_reducible exact hx1

theorem onlyRegs_countAux (s : State) (a op n : Nat) : OnlyRegs s (countAux s a op n) := by
  unfold countAux
  split
  all_goals first
    | (with_reducible refine .ite ?_ ?_
       · with_reducible apply onlyRegs_incBy
       · with_reducible apply onlyRegs_incBy)
    | with_reducible exact .refl _

theorem onlyRegs_sqDrainDoneFx (s : State) (q : Nat) : OnlyRegs s (sqDrainDoneFx s q) := by
  unfold sqDrainDoneFx
  extract_lets +onlyGivenNames x0
  have hx0 : OnlyRegs s x0 := by
    unfold x0
    with_reducible apply onlyRegs_wr
  try clear_value x0
  with_reducible refine .ite ?_ ?_
  · refine .trans ?_ (by with_reducible apply onlyRegs_setUstate)
    with_reducible exact hx0
  · with_reducible exact hx0

theorem onlyRegs_stampIssue (s : State) (j : Nat) (x : Job) (k : Nat) (t : StepRun) :
    OnlyRegs s (stampIssue s j x k t) := by
  unfold stampIssue
  with_reducible refine .ite ?_ ?_
  · with_reducible apply onlyRegs_probeStamp
  · with_reducible exact .refl _

theorem onlyRegs_stampResult (s : State) (x : Job) : OnlyRegs s (stampResult s x) := by
  unfold stampResult
  with_reducible refine .ite ?_ ?_
  · refine .trans ?_ (by with_reducible apply onlyRegs_probeStamp)
    with_reducible apply onlyRegs_wr
  · with_reducible exact .refl _

theorem onlyRegs_measSelFx (s : State) (g v : Nat) : OnlyRegs s (measSelFx s g v) := by
  unfold measSelFx
  extract_lets +onlyGivenNames x0
  try clear_value x0
  extract_lets +onlyGivenNames x1
  try clear_value x1
  extract_lets +onlyGivenNames x2
  try clear_value x2
  extract_lets +onlyGivenNames x3
  try clear_value x3
  extract_lets +onlyGivenNames x4
  have hx4 : OnlyRegs s x4 := by
    unfold x4
    refine .trans ?_ (by with_reducible apply onlyRegs_wr)
    refine .trans ?_ (by with_reducible apply onlyRegs_wr)
    with_reducible apply onlyRegs_wr
  try clear_value x4
  with_reducible refine .foldl (fun st5 _ => ?_) _ _ _ ?_
  · with_reducible apply onlyRegs_wr
  · with_reducible exact hx4

theorem onlyRegs_setBusy (s : State) (b : Nat) (v : Bool) : OnlyRegs s (setBusy s b v) := by
  unfold setBusy
  with_reducible apply onlyRegs_wr

theorem onlyRegs_showSpares (s : State) : OnlyRegs s (showSpares s) := by
  unfold showSpares
  extract_lets +onlyGivenNames x0
  try clear_value x0
  refine .trans ?_ (by with_reducible apply onlyRegs_wr)
  with_reducible apply onlyRegs_wr

theorem onlyRegs_rebuildFx (s : State) (c : Option Ckpt) (l : Option LogItem) : OnlyRegs s (rebuildFx s c l) := by
  unfold rebuildFx
  extract_lets +onlyGivenNames x0
  try clear_value x0
  extract_lets +onlyGivenNames x1
  try clear_value x1
  extract_lets +onlyGivenNames x2
  try clear_value x2
  extract_lets +onlyGivenNames x3
  try clear_value x3
  extract_lets +onlyGivenNames x4
  try clear_value x4
  extract_lets +onlyGivenNames x5
  try clear_value x5
  extract_lets +onlyGivenNames x6
  try clear_value x6
  extract_lets +onlyGivenNames x7
  try clear_value x7
  refine .trans ?_ (by with_reducible apply onlyRegs_wr)
  refine .trans ?_ (by with_reducible apply onlyRegs_wr)
  with_reducible apply onlyRegs_wr

theorem onlyRegs_showHusks (s : State) : OnlyRegs s (showHusks s) := by
  unfold showHusks
  extract_lets +onlyGivenNames x0
  try clear_value x0
  extract_lets +onlyGivenNames x1
  have hx1 : OnlyRegs s x1 := by
    unfold x1
    with_reducible apply onlyRegs_wr
  try clear_value x1
  with_reducible refine .ite ?_ ?_
  · refine .trans ?_ (by with_reducible apply onlyRegs_setEvt)
    with_reducible exact hx1
  · with_reducible exact hx1

theorem onlyRegs_reseedReqFx (s : State) (v : Nat) : OnlyRegs s (reseedReqFx s v) := by
  unfold reseedReqFx
  extract_lets +onlyGivenNames x0
  try clear_value x0
  with_reducible apply onlyRegs_wr

theorem onlyRegs_cellClrFx (s : State) (v : Nat) : OnlyRegs s (cellClrFx s v) := by
  unfold cellClrFx
  with_reducible refine .ite ?_ ?_
  · with_reducible refine .foldl (fun st0 _ => ?_) _ _ _ ?_
    · with_reducible refine .ite ?_ ?_
      · with_reducible apply onlyRegs_wr
      · with_reducible exact .refl _
    · with_reducible exact .refl _
  · with_reducible exact .refl _

theorem onlyRegs_setStage (s : State) (n : Nat) : OnlyRegs s (setStage s n) := by
  unfold setStage
  with_reducible apply onlyRegs_wr

theorem onlyRegs_capture (s : State) (m : ChaffMsg) : OnlyRegs s (capture s m) := by
  unfold capture
  with_reducible refine .ite ?_ ?_
  · with_reducible exact .refl _
  · split
    all_goals first
      | with_reducible exact .refl _
      | (with_reducible refine .ite ?_ ?_
         · refine .trans ?_ (by with_reducible apply onlyRegs_wr)
           with_reducible apply onlyRegs_wr
         · extract_lets +onlyGivenNames x0
           try clear_value x0
           extract_lets +onlyGivenNames x1
           have hx1 : OnlyRegs s x1 := by
             unfold x1
             refine .trans ?_ (by with_reducible apply onlyRegs_wr)
             with_reducible apply onlyRegs_wr
           try clear_value x1
           extract_lets +onlyGivenNames x2
           have hx2 : OnlyRegs s x2 := by
             unfold x2
             refine .trans ?_ (by with_reducible apply onlyRegs_wr)
             refine .trans ?_ (by with_reducible apply onlyRegs_wr)
             refine .trans ?_ (by with_reducible apply onlyRegs_wr)
             with_reducible exact hx1
           try clear_value x2
           extract_lets +onlyGivenNames x3
           have hx3 : OnlyRegs s x3 := by
             unfold x3
             refine .trans ?_ (by with_reducible apply onlyRegs_wr)
             refine .trans ?_ (by with_reducible apply onlyRegs_wr)
             with_reducible exact hx2
           try clear_value x3
           refine .trans ?_ (by with_reducible apply onlyRegs_setEvt)
           refine .trans ?_ (by with_reducible apply onlyRegs_wr)
           with_reducible exact hx3)

theorem onlyRegs_lockPages (s : State) : OnlyRegs s (lockPages s) := by
  unfold lockPages
  with_reducible refine .foldl (fun st0 _ => ?_) _ _ _ ?_
  · with_reducible refine .ite ?_ ?_
    · with_reducible apply onlyRegs_setUstate
    · with_reducible exact .refl _
  · with_reducible exact .refl _

theorem onlyRegs_notePeer (s : State) (l : Nat) (t : TrainInfo) : OnlyRegs s (notePeer s l t) := by
  unfold notePeer
  extract_lets +onlyGivenNames x0
  try clear_value x0
  extract_lets +onlyGivenNames x1
  have hx1 : OnlyRegs s x1 := by
    unfold x1
    refine .trans ?_ (by with_reducible apply onlyRegs_wr)
    with_reducible apply onlyRegs_wr
  try clear_value x1
  extract_lets +onlyGivenNames x2
  have hx2 : OnlyRegs s x2 := by
    unfold x2
    refine .trans ?_ (by with_reducible apply onlyRegs_wr)
    refine .trans ?_ (by with_reducible apply onlyRegs_wr)
    with_reducible exact hx1
  try clear_value x2
  refine .trans ?_ (by with_reducible apply onlyRegs_wr)
  refine .trans ?_ (by with_reducible apply onlyRegs_wr)
  with_reducible exact hx2

theorem onlyRegs_showFuses (s : State) : OnlyRegs s (showFuses s) := by
  unfold showFuses
  extract_lets +onlyGivenNames x0
  try clear_value x0
  extract_lets +onlyGivenNames x1
  try clear_value x1
  extract_lets +onlyGivenNames x2
  try clear_value x2
  refine .trans ?_ (by with_reducible apply onlyRegs_wr)
  with_reducible apply onlyRegs_wr

theorem onlyRegs_loadTck (s : State) (f : Prof) : OnlyRegs s (loadTck s f) := by
  unfold loadTck
  extract_lets +onlyGivenNames x0
  try clear_value x0
  extract_lets +onlyGivenNames x1
  try clear_value x1
  with_reducible refine .foldl (fun st2 _ => ?_) _ _ _ ?_
  · with_reducible apply onlyRegs_wr
  · with_reducible exact .refl _

theorem onlyRegs_loadWeights (s : State) (f : Prof) : OnlyRegs s (loadWeights s f) := by
  unfold loadWeights
  with_reducible refine .foldl (fun st0 _ => ?_) _ _ _ ?_
  · extract_lets +onlyGivenNames x1
    try clear_value x1
    refine .trans ?_ (by with_reducible apply onlyRegs_wr)
    with_reducible apply onlyRegs_wr
  · with_reducible exact .refl _

theorem onlyRegs_wearFx (s : State) (v : Nat) : OnlyRegs s (wearFx s v) := by
  unfold wearFx
  with_reducible refine .ite ?_ ?_
  · with_reducible apply onlyRegs_wr
  · with_reducible exact .refl _

theorem onlyRegs_logCfgFx (s : State) (v : Nat) : OnlyRegs s (logCfgFx s v) := by
  unfold logCfgFx
  extract_lets +onlyGivenNames x0
  try clear_value x0
  extract_lets +onlyGivenNames x1
  have hx1 : OnlyRegs s x1 := by
    unfold x1
    with_reducible refine .ite ?_ ?_
    · with_reducible apply onlyRegs_wr
    · with_reducible exact .refl _
  try clear_value x1
  refine .trans ?_ (by with_reducible apply onlyRegs_wr)
  with_reducible exact hx1

theorem onlyRegs_sntCfgFx (s : State) (off v : Nat) : OnlyRegs s (sntCfgFx s off v) := by
  unfold sntCfgFx
  extract_lets +onlyGivenNames x0
  try clear_value x0
  extract_lets +onlyGivenNames x1
  with_reducible refine .ite ?_ ?_
  · try unfold x1
    refine .trans ?_ (by with_reducible apply onlyRegs_wr)
    try unfold x1
    refine .trans ?_ (by with_reducible apply onlyRegs_wr)
    try unfold x1
    refine .trans ?_ (by with_reducible apply onlyRegs_wr)
    with_reducible apply onlyRegs_storeWord
  · with_reducible exact .refl _

theorem onlyRegs_showMicro (s : State) (img : Bytes) (safe : Bool) : OnlyRegs s (showMicro s img safe) := by
  unfold showMicro
  extract_lets +onlyGivenNames x0
  have hx0 : OnlyRegs s x0 := by
    unfold x0
    with_reducible refine .foldl (fun st1 _ => ?_) _ _ _ ?_
    · with_reducible refine .ite ?_ ?_
      · extract_lets +onlyGivenNames x2
        try clear_value x2
        refine .trans ?_ (by with_reducible apply onlyRegs_wr)
        refine .trans ?_ (by with_reducible apply onlyRegs_wr)
        with_reducible apply onlyRegs_wr
      · with_reducible exact .refl _
    · with_reducible exact .refl _
  try clear_value x0
  extract_lets +onlyGivenNames x3
  have hx3 : OnlyRegs s x3 := by
    unfold x3
    with_reducible refine .foldl (fun st4 _ => ?_) _ _ _ ?_
    · with_reducible refine .ite ?_ ?_
      · refine .trans ?_ (by with_reducible apply onlyRegs_wr)
        with_reducible apply onlyRegs_wr
      · with_reducible exact .refl _
    · with_reducible exact hx0
  try clear_value x3
  refine .trans ?_ (by with_reducible apply onlyRegs_wr)
  refine .trans ?_ (by with_reducible apply onlyRegs_wr)
  with_reducible exact hx3

theorem onlyRegs_showBoot (s : State) : OnlyRegs s (showBoot s) := by
  unfold showBoot
  extract_lets +onlyGivenNames x0
  try clear_value x0
  extract_lets +onlyGivenNames x1
  try clear_value x1
  extract_lets +onlyGivenNames x2
  try clear_value x2
  extract_lets +onlyGivenNames x3
  have hx3 : OnlyRegs s x3 := by
    unfold x3
    refine .trans ?_ (by with_reducible apply onlyRegs_wr)
    with_reducible apply onlyRegs_wr
  try clear_value x3
  refine .trans ?_ (by with_reducible apply onlyRegs_wr)
  refine .trans ?_ (by with_reducible apply onlyRegs_wr)
  refine .trans ?_ (by with_reducible apply onlyRegs_wr)
  refine .trans ?_ (by with_reducible apply onlyRegs_wr)
  with_reducible exact hx3

theorem onlyRegs_probeLat (s : State) (t : RdTxn) : OnlyRegs s (probeLat s t) := by
  unfold probeLat
  extract_lets +onlyGivenNames x0
  try clear_value x0
  split
  all_goals first
    | (with_reducible refine .ite ?_ ?_
       · with_reducible apply onlyRegs_wr
       · with_reducible exact .refl _)
    | with_reducible exact .refl _

theorem onlyRegs_countPeek (s : State) (b : Nat) : OnlyRegs s (countPeek s b) := by
  unfold countPeek
  split
  all_goals first
    | (with_reducible refine .ite ?_ ?_
       · with_reducible apply onlyRegs_pmu
       · with_reducible exact .refl _)
    | with_reducible exact .refl _

theorem onlyRc_incBy (s : State) (base : Nat) (f : Field) (n : Nat) : OnlyRc s (incBy s base f n) :=
  OnlyRegs.rc (onlyRegs_incBy ..)

theorem onlyRc_inc (s : State) (base : Nat) (f : Field) : OnlyRc s (inc s base f) :=
  OnlyRegs.rc (onlyRegs_inc ..)

theorem onlyRc_dec (s : State) (base : Nat) (f : Field) : OnlyRc s (dec s base f) :=
  OnlyRegs.rc (onlyRegs_dec ..)

theorem onlyRc_noteRise (s t : State) (p : Nat) : OnlyRc t (noteRise s t p) :=
  OnlyRegs.rc (onlyRegs_noteRise ..)

theorem onlyRc_setEvt (s : State) (p b : Nat) : OnlyRc s (setEvt s p b) :=
  OnlyRegs.rc (onlyRegs_setEvt ..)

theorem onlyRc_setUstate (s : State) (p v : Nat) : OnlyRc s (setUstate s p v) :=
  OnlyRegs.rc (onlyRegs_setUstate ..)

theorem onlyRc_pmuAdd (s : State) (n m : Nat) : OnlyRc s (pmuAdd s n m) :=
  OnlyRegs.rc (onlyRegs_pmuAdd ..)

theorem onlyRc_pmu (s : State) (ev unitNo m : Nat) : OnlyRc s (pmu s ev unitNo m) :=
  OnlyRegs.rc (onlyRegs_pmu ..)

theorem onlyRc_stampKc (s : State) (k : Nat) : OnlyRc s (stampKc s k) :=
  OnlyRegs.rc (onlyRegs_stampKc ..)

theorem onlyRc_probeStamp (s : State) (eid k : Nat) : OnlyRc s (probeStamp s eid k) :=
  OnlyRegs.rc (onlyRegs_probeStamp ..)

theorem onlyRc_chaff (s : State) (m : ChaffMsg) : OnlyRc s (chaff s m) := by
  unfold chaff
  extract_lets +onlyGivenNames x0
  try clear_value x0
  extract_lets +onlyGivenNames x1
  try clear_value x1
  with_reducible refine .ite ?_ ?_
  · extract_lets +onlyGivenNames x2
    have hx2 : OnlyRc s x2 := by
      unfold x2
      with_reducible apply onlyRc_setSrc
    try clear_value x2
    refine .upd ?_
    with_reducible exact hx2
  · split
    all_goals
      with_reducible apply onlyRc_setSrc

theorem onlyRc_chaffPlain (s : State) (unit member kind detail : Nat) :
    OnlyRc s (chaffPlain s unit member kind detail) := by
  unfold chaffPlain
  with_reducible apply onlyRc_chaff

theorem onlyRc_notice (s : State) (unit member reason : Nat) : OnlyRc s (notice s unit member reason) := by
  unfold notice
  with_reducible apply onlyRc_chaffPlain

theorem onlyRc_chaffAny (s : State) (unit member kind : Nat) : OnlyRc s (chaffAny s unit member kind) := by
  unfold chaffAny
  with_reducible apply onlyRc_chaffPlain

theorem onlyRc_fabChaff (s : State) (kind access port mq addr : Nat) :
    OnlyRc s (fabChaff s kind access port mq addr) := by
  unfold fabChaff
  with_reducible apply onlyRc_chaff

theorem onlyRc_writeIgnored (s : State) (unit member src addr reason : Nat) :
    OnlyRc s (writeIgnored s unit member src addr reason) := by
  unfold writeIgnored
  with_reducible apply onlyRc_chaff

theorem onlyRc_idleLane (s : State) (n l : Nat) : OnlyRc s (idleLane s n l) :=
  OnlyRegs.rc (onlyRegs_idleLane ..)

theorem onlyRc_countLines (s : State) (q first n : Nat) : OnlyRc s (countLines s q first n) :=
  OnlyRegs.rc (onlyRegs_countLines ..)

theorem onlyRc_countMisses (s : State) (n : Nat) : OnlyRc s (countMisses s n) :=
  OnlyRegs.rc (onlyRegs_countMisses ..)

theorem onlyRc_advance (s : State) (q units : Nat) : OnlyRc s (advance s q units) :=
  OnlyRegs.rc (onlyRegs_advance ..)

theorem onlyRc_storeField (s : State) (base a v : Nat) (rwl p0 : Bool) (f : Field) :
    OnlyRc s (storeField s base a v rwl p0 f) :=
  OnlyRegs.rc (onlyRegs_storeField ..)

theorem onlyRc_storeWord (s : State) (base a v : Nat) (rwl p0 : Bool) (fs : List Field) :
    OnlyRc s (storeWord s base a v rwl p0 fs) :=
  OnlyRegs.rc (onlyRegs_storeWord ..)

theorem onlyRc_storePage (s : State) (src p off v : Nat) : OnlyRc s (storePage s src p off v) :=
  OnlyRegs.rc (onlyRegs_storePage ..)

theorem onlyRc_countAccess (s : State) (a : Acc) : OnlyRc s (countAccess s a) :=
  OnlyRegs.rc (onlyRegs_countAccess ..)

theorem onlyRc_evtForceFx (s : State) (src p v : Nat) : OnlyRc s (evtForceFx s src p v) := by
  unfold evtForceFx
  split
  all_goals first
    | (with_reducible refine .ite ?_ ?_
       · refine .trans ?_ (by with_reducible apply onlyRc_noteRise)
         with_reducible apply onlyRc_wr
       · with_reducible apply onlyRc_writeIgnored)
    | with_reducible exact .refl _

theorem onlyRc_fecClear (s : State) (b : Nat) : OnlyRc s (fecClear s b) :=
  OnlyRegs.rc (onlyRegs_fecClear ..)

theorem onlyRc_fecSrcWrite (s : State) (b v : Nat) : OnlyRc s (fecSrcWrite s b v) :=
  OnlyRegs.rc (onlyRegs_fecSrcWrite ..)

theorem onlyRc_dbMapFx (s : State) (src p k v : Nat) : OnlyRc s (dbMapFx s src p k v) := by
  unfold dbMapFx
  extract_lets +onlyGivenNames x0
  try clear_value x0
  extract_lets +onlyGivenNames x1
  try clear_value x1
  extract_lets +onlyGivenNames x2
  try clear_value x2
  extract_lets +onlyGivenNames x3
  try clear_value x3
  extract_lets +onlyGivenNames x4
  try clear_value x4
  extract_lets +onlyGivenNames x5
  try clear_value x5
  with_reducible refine .ite ?_ ?_
  · with_reducible apply onlyRc_writeIgnored
  · refine .trans ?_ (by with_reducible apply onlyRc_wr)
    with_reducible apply onlyRc_wr

theorem onlyRc_ptCtlFx (s : State) (src p v : Nat) : OnlyRc s (ptCtlFx s src p v) := by
  unfold ptCtlFx
  with_reducible refine .ite ?_ ?_
  · with_reducible exact .refl _
  · extract_lets +onlyGivenNames x0
    have hx0 : OnlyRc s x0 := by
      unfold x0
      with_reducible apply onlyRc_wr
    try clear_value x0
    extract_lets +onlyGivenNames x1
    try clear_value x1
    extract_lets +onlyGivenNames x2
    try clear_value x2
    with_reducible refine .ite ?_ ?_
    · with_reducible refine .ite ?_ ?_
      · refine .trans ?_ (by with_reducible apply onlyRc_chaff)
        with_reducible exact hx0
      · with_reducible exact hx0
    · extract_lets +onlyGivenNames x3
      have hx3 : OnlyRc s x3 := by
        unfold x3
        with_reducible refine .ite ?_ ?_
        · with_reducible exact hx0
        · refine .trans ?_ (by with_reducible apply onlyRc_wr)
          with_reducible exact hx0
      try clear_value x3
      with_reducible refine .ite ?_ ?_
      · with_reducible refine .ite ?_ ?_
        · with_reducible exact hx3
        · with_reducible refine .ite ?_ ?_
          · refine .trans ?_ (by with_reducible apply onlyRc_wr)
            with_reducible exact hx3
          · refine .trans ?_ (by with_reducible apply onlyRc_notice)
            with_reducible exact hx3
      · with_reducible refine .ite ?_ ?_
        · refine .trans ?_ (by with_reducible apply onlyRc_wr)
          with_reducible exact hx3
        · with_reducible exact hx3

theorem onlyRc_ptMsiFx (s : State) (p v : Nat) : OnlyRc s (ptMsiFx s p v) :=
  OnlyRegs.rc (onlyRegs_ptMsiFx ..)

theorem onlyRc_ptStore (s : State) (src p off v : Nat) : OnlyRc s (ptStore s src p off v) :=
  OnlyRegs.rc (onlyRegs_ptStore ..)

theorem onlyRc_rtStore (s : State) (src r off v : Nat) : OnlyRc s (rtStore s src r off v) := by
  unfold rtStore
  with_reducible refine .ite ?_ ?_
  · extract_lets +onlyGivenNames x0
    have hx0 : OnlyRc s x0 := by
      unfold x0
      with_reducible apply onlyRc_storeWord
    try clear_value x0
    with_reducible refine .ite ?_ ?_
    · with_reducible refine .ite ?_ ?_
      · with_reducible exact .refl _
      · with_reducible refine .ite ?_ ?_
        · with_reducible apply onlyRc_notice
        · with_reducible exact hx0
    · with_reducible refine .ite ?_ ?_
      · with_reducible exact hx0
      · with_reducible exact .refl _
  · with_reducible refine .ite ?_ ?_
    · refine .trans ?_ (by with_reducible apply onlyRc_wr)
      with_reducible apply onlyRc_wr
    · with_reducible apply onlyRc_storeWord

theorem onlyRc_ppStore (s : State) (src p off v : Nat) : OnlyRc s (ppStore s src p off v) := by
  unfold ppStore
  with_reducible refine .ite ?_ ?_
  · with_reducible apply onlyRc_storeWord
  · with_reducible apply onlyRc_dbMapFx

theorem onlyRc_setLinkState (s : State) (l v : Nat) : OnlyRc s (setLinkState s l v) :=
  OnlyRegs.rc (onlyRegs_setLinkState ..)

theorem onlyRc_expChaff (s : State) (e kind reason : Nat) : OnlyRc s (expChaff s e kind reason) := by
  unfold expChaff
  with_reducible apply onlyRc_chaffPlain

theorem onlyRc_countCall (s : State) (e : Nat) : OnlyRc s (countCall s e) := by
  unfold countCall
  extract_lets +onlyGivenNames x0
  try clear_value x0
  extract_lets +onlyGivenNames x1
  have hx1 : OnlyRc s x1 := by
    unfold x1
    with_reducible apply onlyRc_wr
  try clear_value x1
  with_reducible refine .ite ?_ ?_
  · refine .trans ?_ (by with_reducible apply onlyRc_expChaff)
    refine .trans ?_ (by with_reducible apply onlyRc_setEvt)
    refine .trans ?_ (by with_reducible apply onlyRc_wr)
    with_reducible exact hx1
  · with_reducible refine .ite ?_ ?_
    · refine .trans ?_ (by with_reducible apply onlyRc_expChaff)
      refine .trans ?_ (by with_reducible apply onlyRc_setEvt)
      refine .trans ?_ (by with_reducible apply onlyRc_wr)
      with_reducible exact hx1
    · with_reducible exact hx1

theorem onlyRc_kccBlocks (s : State) (i n : Nat) : OnlyRc s (kccBlocks s i n) :=
  OnlyRegs.rc (onlyRegs_kccBlocks ..)

theorem onlyRc_countHit (s : State) (l : Lookup) : OnlyRc s (countHit s l) :=
  OnlyRegs.rc (onlyRegs_countHit ..)

theorem onlyRc_countPrestate (s : State) (g kind n : Nat) : OnlyRc s (countPrestate s g kind n) :=
  OnlyRegs.rc (onlyRegs_countPrestate ..)

theorem onlyRc_setBankState (s : State) (n v : Nat) : OnlyRc s (setBankState s n v) :=
  OnlyRegs.rc (onlyRegs_setBankState ..)

theorem onlyRc_setBankRealm (s : State) (n v : Nat) : OnlyRc s (setBankRealm s n v) :=
  OnlyRegs.rc (onlyRegs_setBankRealm ..)

theorem onlyRc_setBankOp (s : State) (n op : Nat) (x : Bool) : OnlyRc s (setBankOp s n op x) :=
  OnlyRegs.rc (onlyRegs_setBankOp ..)

theorem onlyRc_noOwner (s : State) (n : Nat) : OnlyRc s (noOwner s n) :=
  OnlyRegs.rc (onlyRegs_noOwner ..)

theorem onlyRc_countAbort (s : State) (n : Nat) : OnlyRc s (countAbort s n) :=
  OnlyRegs.rc (onlyRegs_countAbort ..)

theorem onlyRc_setGateState (s : State) (g v : Nat) : OnlyRc s (setGateState s g v) :=
  OnlyRegs.rc (onlyRegs_setGateState ..)

theorem onlyRc_gateIgnore (s : State) (g : Nat) (note : Bool) (src : Nat) : OnlyRc s (gateIgnore s g note src) := by
  unfold gateIgnore
  extract_lets +onlyGivenNames x0
  have hx0 : OnlyRc s x0 := by
    unfold x0
    with_reducible apply onlyRc_inc
  try clear_value x0
  with_reducible refine .ite ?_ ?_
  · refine .trans ?_ (by with_reducible apply onlyRc_writeIgnored)
    with_reducible exact hx0
  · with_reducible exact hx0

theorem onlyRc_noteNoCtx (s : State) (gs : List Grant) (l cls : Nat) : OnlyRc s (noteNoCtx s gs l cls) :=
  OnlyRegs.rc (onlyRegs_noteNoCtx ..)

theorem onlyRc_dropSensor (s : State) (i : Nat) : OnlyRc s (dropSensor s i) := by
  unfold dropSensor
  extract_lets +onlyGivenNames x0
  try clear_value x0
  extract_lets +onlyGivenNames x1
  have hx1 : OnlyRc s x1 := by
    unfold x1
    with_reducible apply onlyRc_wr
  try clear_value x1
  refine .trans ?_ (by with_reducible apply onlyRc_chaffAny)
  refine .trans ?_ (by with_reducible apply onlyRc_setEvt)
  refine .trans ?_ (by with_reducible apply onlyRc_wr)
  refine .trans ?_ (by with_reducible apply onlyRc_wr)
  with_reducible exact hx1

theorem onlyRc_readSensors (s : State) (rs : List SensorReading) : OnlyRc s (readSensors s rs) := by
  unfold readSensors
  extract_lets +onlyGivenNames x0
  try clear_value x0
  extract_lets +onlyGivenNames x1
  extract_lets +onlyGivenNames x2
  have hx2 : OnlyRc s x2 := by
    unfold x2
    with_reducible refine .foldl (fun st3 _ => ?_) _ _ _ ?_
    · split
      all_goals first
        | with_reducible apply onlyRc_wr
        | with_reducible exact .refl _
    · with_reducible exact .refl _
  try clear_value x2
  extract_lets +onlyGivenNames x4
  have hx4 : OnlyRc s x4 := by
    unfold x4
    with_reducible refine .foldl (fun st5 _ => ?_) _ _ _ ?_
    · with_reducible refine .ite ?_ ?_
      · with_reducible apply onlyRc_dropSensor
      · with_reducible exact .refl _
    · with_reducible exact hx2
  try clear_value x4
  extract_lets +onlyGivenNames x6
  try clear_value x6
  extract_lets +onlyGivenNames x7
  try clear_value x7
  extract_lets +onlyGivenNames x8
  have hx8 : OnlyRc s x8 := by
    unfold x8
    with_reducible refine .foldl (fun st9 _ => ?_) _ _ _ ?_
    · split
      all_goals first
        | (with_reducible refine .ite ?_ ?_
           · with_reducible apply onlyRc_dropSensor
           · with_reducible exact .refl _)
        | with_reducible exact .refl _
    · with_reducible exact hx4
  try clear_value x8
  with_reducible refine .foldl (fun st10 _ => ?_) _ _ _ ?_
  · with_reducible apply onlyRc_wr
  · with_reducible exact hx8

theorem onlyRc_noteLaneWaits (s : State) (gs : List Grant) : OnlyRc s (noteLaneWaits s gs) :=
  OnlyRegs.rc (onlyRegs_noteLaneWaits ..)

theorem onlyRc_countBlocks (s : State) (g op n : Nat) : OnlyRc s (countBlocks s g op n) :=
  OnlyRegs.rc (onlyRegs_countBlocks ..)

theorem onlyRc_countAux (s : State) (a op n : Nat) : OnlyRc s (countAux s a op n) :=
  OnlyRegs.rc (onlyRegs_countAux ..)

theorem onlyRc_overrideFx (s : State) (src v : Nat) : OnlyRc s (overrideFx s src v) := by
  unfold overrideFx
  extract_lets +onlyGivenNames x0
  try clear_value x0
  extract_lets +onlyGivenNames x1
  try clear_value x1
  with_reducible refine .ite ?_ ?_
  · with_reducible apply onlyRc_wr
  · with_reducible refine .ite ?_ ?_
    · with_reducible apply onlyRc_writeIgnored
    · with_reducible apply onlyRc_wr

theorem onlyRc_sqDrainDoneFx (s : State) (q : Nat) : OnlyRc s (sqDrainDoneFx s q) :=
  OnlyRegs.rc (onlyRegs_sqDrainDoneFx ..)

theorem onlyRc_stwSizeFx (s : State) (src n v : Nat) : OnlyRc s (stwSizeFx s src n v) := by
  unfold stwSizeFx
  extract_lets +onlyGivenNames x0
  try clear_value x0
  extract_lets +onlyGivenNames x1
  try clear_value x1
  extract_lets +onlyGivenNames x2
  try clear_value x2
  extract_lets +onlyGivenNames x3
  try clear_value x3
  extract_lets +onlyGivenNames x4
  try clear_value x4
  extract_lets +onlyGivenNames x5
  extract_lets +onlyGivenNames x6
  have hx6 : OnlyRc s x6 := by
    unfold x6
    with_reducible apply onlyRc_wr
  try clear_value x6
  with_reducible refine .ite ?_ ?_
  · try unfold x5
    with_reducible apply onlyRc_writeIgnored
  · with_reducible refine .ite ?_ ?_
    · try unfold x5
      refine .trans ?_ (by with_reducible apply onlyRc_writeIgnored)
      with_reducible exact hx6
    · with_reducible refine .ite ?_ ?_
      · try unfold x5
        refine .trans ?_ (by with_reducible apply onlyRc_writeIgnored)
        with_reducible exact hx6
      · refine .trans ?_ (by with_reducible apply onlyRc_wr)
        with_reducible exact hx6

theorem onlyRc_stampIssue (s : State) (j : Nat) (x : Job) (k : Nat) (t : StepRun) :
    OnlyRc s (stampIssue s j x k t) :=
  OnlyRegs.rc (onlyRegs_stampIssue ..)

theorem onlyRc_stampResult (s : State) (x : Job) : OnlyRc s (stampResult s x) :=
  OnlyRegs.rc (onlyRegs_stampResult ..)

theorem onlyRc_grantFx (s : State) (g v src : Nat) : OnlyRc s (grantFx s g v src) := by
  unfold grantFx
  extract_lets +onlyGivenNames x0
  try clear_value x0
  with_reducible refine .ite ?_ ?_
  · with_reducible apply onlyRc_writeIgnored
  · extract_lets +onlyGivenNames x1
    have hx1 : OnlyRc s x1 := by
      unfold x1
      refine .trans ?_ (by with_reducible apply onlyRc_wr)
      refine .trans ?_ (by with_reducible apply onlyRc_wr)
      refine .trans ?_ (by with_reducible apply onlyRc_wr)
      with_reducible apply onlyRc_wr
    try clear_value x1
    with_reducible refine .ite ?_ ?_
    · with_reducible refine .ite ?_ ?_
      · refine .trans ?_ (by with_reducible apply onlyRc_setGateState)
        with_reducible exact hx1
      · with_reducible exact hx1
    · refine .trans ?_ (by with_reducible apply onlyRc_setGateState)
      with_reducible exact hx1

theorem onlyRc_measSelFx (s : State) (g v : Nat) : OnlyRc s (measSelFx s g v) :=
  OnlyRegs.rc (onlyRegs_measSelFx ..)

theorem onlyRc_srgCheckFail (s : State) (n op : Nat) : OnlyRc s (srgCheckFail s n op) := by
  unfold srgCheckFail
  refine .trans ?_ (by with_reducible apply onlyRc_chaffPlain)
  refine .trans ?_ (by with_reducible apply onlyRc_setEvt)
  with_reducible apply onlyRc_inc

theorem onlyRc_noteFlagged (s : State) (n unit : Nat) : OnlyRc s (noteFlagged s n unit) := by
  unfold noteFlagged
  extract_lets +onlyGivenNames x0
  try clear_value x0
  with_reducible refine .ite ?_ ?_
  · with_reducible exact .refl _
  · refine .trans ?_ (by with_reducible apply onlyRc_chaff)
    with_reducible apply onlyRc_incBy

theorem onlyRc_setBusy (s : State) (b : Nat) (v : Bool) : OnlyRc s (setBusy s b v) :=
  OnlyRegs.rc (onlyRegs_setBusy ..)

theorem onlyRc_showSpares (s : State) : OnlyRc s (showSpares s) :=
  OnlyRegs.rc (onlyRegs_showSpares ..)

theorem onlyRc_sparesOut (s : State) (n : Nat) : OnlyRc s (sparesOut s n) := by
  unfold sparesOut
  extract_lets +onlyGivenNames x0
  have hx0 : OnlyRc s x0 := by
    unfold x0
    with_reducible apply onlyRc_wr
  try clear_value x0
  refine .trans ?_ (by with_reducible apply onlyRc_chaffAny)
  refine .trans ?_ (by with_reducible apply onlyRc_setEvt)
  with_reducible exact hx0

theorem onlyRc_rebuildFx (s : State) (c : Option Ckpt) (l : Option LogItem) : OnlyRc s (rebuildFx s c l) :=
  OnlyRegs.rc (onlyRegs_rebuildFx ..)

theorem onlyRc_showHusks (s : State) : OnlyRc s (showHusks s) :=
  OnlyRegs.rc (onlyRegs_showHusks ..)

theorem onlyRc_checkPool (s : State) : OnlyRc s (checkPool s) := by
  unfold checkPool
  extract_lets +onlyGivenNames x0
  try clear_value x0
  extract_lets +onlyGivenNames x1
  try clear_value x1
  extract_lets +onlyGivenNames x2
  have hx2 : OnlyRc s x2 := by
    unfold x2
    with_reducible apply onlyRc_wr
  try clear_value x2
  with_reducible refine .ite ?_ ?_
  · refine .trans ?_ (by with_reducible apply onlyRc_chaffPlain)
    refine .trans ?_ (by with_reducible apply onlyRc_setEvt)
    with_reducible exact hx2
  · with_reducible exact hx2

theorem onlyRc_healthFail (s : State) (c test : Nat) : OnlyRc s (healthFail s c test) := by
  unfold healthFail
  extract_lets +onlyGivenNames x0
  try clear_value x0
  extract_lets +onlyGivenNames x1
  have hx1 : OnlyRc s x1 := by
    unfold x1
    refine .trans ?_ (by with_reducible apply onlyRc_setEvt)
    with_reducible apply onlyRc_inc
  try clear_value x1
  with_reducible refine .ite ?_ ?_
  · with_reducible exact hx1
  · refine .trans ?_ (by with_reducible apply onlyRc_chaffPlain)
    with_reducible exact hx1

theorem onlyRc_reseedReqFx (s : State) (v : Nat) : OnlyRc s (reseedReqFx s v) :=
  OnlyRegs.rc (onlyRegs_reseedReqFx ..)

theorem onlyRc_cellClrFx (s : State) (v : Nat) : OnlyRc s (cellClrFx s v) :=
  OnlyRegs.rc (onlyRegs_cellClrFx ..)

theorem onlyRc_katCores (s : State) (g kat : Nat) : OnlyRc s (katCores s g kat) := by
  unfold katCores
  extract_lets +onlyGivenNames x0
  try clear_value x0
  extract_lets +onlyGivenNames x1
  have hx1 : OnlyRc s x1 := by
    unfold x1
    refine .trans ?_ (by with_reducible apply onlyRc_wr)
    refine .trans ?_ (by with_reducible apply onlyRc_wr)
    with_reducible apply onlyRc_wr
  try clear_value x1
  with_reducible refine .foldl (fun st2 _ => ?_) _ _ _ ?_
  · with_reducible refine .ite ?_ ?_
    · refine .trans ?_ (by with_reducible apply onlyRc_chaffAny)
      with_reducible apply onlyRc_setEvt
    · with_reducible exact .refl _
  · with_reducible exact hx1

theorem onlyRc_glmRefuse (s : State) (src off reason : Nat) : OnlyRc s (glmRefuse s src off reason) := by
  unfold glmRefuse
  refine .trans ?_ (by with_reducible apply onlyRc_writeIgnored)
  with_reducible apply onlyRc_wr

theorem onlyRc_setStage (s : State) (n : Nat) : OnlyRc s (setStage s n) :=
  OnlyRegs.rc (onlyRegs_setStage ..)

theorem onlyRc_sendInjected (s : State) : OnlyRc s (sendInjected s) := by
  unfold sendInjected
  extract_lets +onlyGivenNames x0
  try clear_value x0
  extract_lets +onlyGivenNames x1
  try clear_value x1
  with_reducible refine .ite ?_ ?_
  · refine .trans ?_ (by with_reducible apply onlyRc_chaffPlain)
    refine .trans ?_ (by with_reducible apply onlyRc_inc)
    with_reducible apply onlyRc_wr
  · with_reducible exact .refl _

theorem onlyRc_returnChaff (s : State) (k : Nat) : OnlyRc s (returnChaff s k) := by
  unfold returnChaff
  extract_lets +onlyGivenNames x0
  try clear_value x0
  extract_lets +onlyGivenNames x1
  have hx1 : OnlyRc s x1 := by
    unfold x1
    with_reducible apply onlyRc_setSrc
  try clear_value x1
  split
  all_goals first
    | (refine .trans ?_ (by with_reducible apply onlyRc_sendInjected)
       refine .trans ?_ (by with_reducible apply onlyRc_chaff)
       with_reducible exact hx1)
    | (refine .trans ?_ (by with_reducible apply onlyRc_sendInjected)
       with_reducible exact hx1)

theorem onlyRc_capture (s : State) (m : ChaffMsg) : OnlyRc s (capture s m) :=
  OnlyRegs.rc (onlyRegs_capture ..)

theorem onlyRc_lockPages (s : State) : OnlyRc s (lockPages s) :=
  OnlyRegs.rc (onlyRegs_lockPages ..)

theorem onlyRc_releaseFx (s : State) (v : Nat) : OnlyRc s (releaseFx s v) := by
  unfold releaseFx
  extract_lets +onlyGivenNames x0
  try clear_value x0
  with_reducible refine .ite ?_ ?_
  · with_reducible exact .refl _
  · extract_lets +onlyGivenNames x1
    try clear_value x1
    extract_lets +onlyGivenNames x2
    have hx2 : OnlyRc s x2 := by
      unfold x2
      with_reducible apply onlyRc_wr
    try clear_value x2
    with_reducible refine .ite ?_ ?_
    · refine .trans ?_ (by with_reducible apply onlyRc_notice)
      with_reducible exact hx2
    · extract_lets +onlyGivenNames x3
      try clear_value x3
      extract_lets +onlyGivenNames x4
      have hx4 : OnlyRc s x4 := by
        unfold x4
        refine .trans ?_ (by with_reducible apply onlyRc_setSrc)
        with_reducible exact hx2
      try clear_value x4
      extract_lets +onlyGivenNames x5
      try clear_value x5
      extract_lets +onlyGivenNames x6
      try clear_value x6
      extract_lets +onlyGivenNames x7
      have hx7 : OnlyRc s x7 := by
        unfold x7
        refine .upd ?_
        with_reducible exact hx4
      try clear_value x7
      extract_lets +onlyGivenNames x8
      have hx8 : OnlyRc s x8 := by
        unfold x8
        split
        all_goals first
          | (refine .trans ?_ (by with_reducible apply onlyRc_setUstate)
             with_reducible exact hx7)
          | with_reducible exact hx7
      try clear_value x8
      refine .trans ?_ (by with_reducible apply onlyRc_setEvt)
      with_reducible exact hx8

theorem onlyRc_failSync (s : State) (l n code : Nat) : OnlyRc s (failSync s l n code) := by
  unfold failSync
  refine .trans ?_ (by with_reducible apply onlyRc_notice)
  refine .trans ?_ (by with_reducible apply onlyRc_wr)
  with_reducible apply onlyRc_wr

theorem onlyRc_notePeer (s : State) (l : Nat) (t : TrainInfo) : OnlyRc s (notePeer s l t) :=
  OnlyRegs.rc (onlyRegs_notePeer ..)

theorem onlyRc_mirrorFx (s : State) (l : Nat) (g : LinkMsg) : OnlyRc s (mirrorFx s l g) := by
  unfold mirrorFx
  extract_lets +onlyGivenNames x0
  try clear_value x0
  extract_lets +onlyGivenNames x1
  have hx1 : OnlyRc s x1 := by
    unfold x1
    refine .trans ?_ (by with_reducible apply onlyRc_setEvt)
    with_reducible apply onlyRc_inc
  try clear_value x1
  extract_lets +onlyGivenNames x2
  have hx2 : OnlyRc s x2 := by
    unfold x2
    with_reducible refine .ite ?_ ?_
    · refine .trans ?_ (by with_reducible apply onlyRc_wr)
      with_reducible exact hx1
    · with_reducible exact hx1
  try clear_value x2
  refine .trans ?_ (by with_reducible apply onlyRc_chaff)
  with_reducible exact hx2

theorem onlyRc_showFuses (s : State) : OnlyRc s (showFuses s) :=
  OnlyRegs.rc (onlyRegs_showFuses ..)

theorem onlyRc_noteRows (s : State) (row n : Nat) : OnlyRc s (noteRows s row n) := by
  unfold noteRows
  with_reducible refine .foldl (fun st0 _ => ?_) _ _ _ ?_
  · with_reducible apply onlyRc_noteFlagged
  · with_reducible exact .refl _

theorem onlyRc_loadTck (s : State) (f : Prof) : OnlyRc s (loadTck s f) :=
  OnlyRegs.rc (onlyRegs_loadTck ..)

theorem onlyRc_loadWeights (s : State) (f : Prof) : OnlyRc s (loadWeights s f) :=
  OnlyRegs.rc (onlyRegs_loadWeights ..)

theorem onlyRc_fwVerify (s : State) (detail : Nat) : OnlyRc s (fwVerify s detail) := by
  unfold fwVerify
  with_reducible apply onlyRc_chaffPlain

theorem onlyRc_wearFx (s : State) (v : Nat) : OnlyRc s (wearFx s v) :=
  OnlyRegs.rc (onlyRegs_wearFx ..)

theorem onlyRc_logCfgFx (s : State) (v : Nat) : OnlyRc s (logCfgFx s v) :=
  OnlyRegs.rc (onlyRegs_logCfgFx ..)

theorem onlyRc_sntCfgFx (s : State) (off v : Nat) : OnlyRc s (sntCfgFx s off v) :=
  OnlyRegs.rc (onlyRegs_sntCfgFx ..)

theorem onlyRc_showMicro (s : State) (img : Bytes) (safe : Bool) : OnlyRc s (showMicro s img safe) :=
  OnlyRegs.rc (onlyRegs_showMicro ..)

theorem onlyRc_showBoot (s : State) : OnlyRc s (showBoot s) :=
  OnlyRegs.rc (onlyRegs_showBoot ..)

theorem onlyRc_probeLat (s : State) (t : RdTxn) : OnlyRc s (probeLat s t) :=
  OnlyRegs.rc (onlyRegs_probeLat ..)

theorem onlyRc_pmuRefuse (s : State) (src off code : Nat) : OnlyRc s (pmuRefuse s src off code) := by
  unfold pmuRefuse
  refine .trans ?_ (by with_reducible apply onlyRc_writeIgnored)
  with_reducible apply onlyRc_wr

theorem onlyRc_chaffInjFx (s : State) (src v : Nat) : OnlyRc s (chaffInjFx s src v) := by
  unfold chaffInjFx
  extract_lets +onlyGivenNames x0
  try clear_value x0
  extract_lets +onlyGivenNames x1
  try clear_value x1
  with_reducible refine .ite ?_ ?_
  · with_reducible apply onlyRc_pmuRefuse
  · extract_lets +onlyGivenNames x2
    have hx2 : OnlyRc s x2 := by
      unfold x2
      refine .trans ?_ (by with_reducible apply onlyRc_wr)
      with_reducible apply onlyRc_wr
    try clear_value x2
    with_reducible refine .ite ?_ ?_
    · refine .trans ?_ (by with_reducible apply onlyRc_sendInjected)
      refine .trans ?_ (by with_reducible apply onlyRc_wr)
      with_reducible exact hx2
    · with_reducible exact hx2

theorem onlyRc_poisonInjFx (s : State) (src v : Nat) : OnlyRc s (poisonInjFx s src v) := by
  unfold poisonInjFx
  extract_lets +onlyGivenNames x0
  try clear_value x0
  with_reducible refine .ite ?_ ?_
  · refine .trans ?_ (by with_reducible apply onlyRc_wr)
    refine .trans ?_ (by with_reducible apply onlyRc_wr)
    with_reducible apply onlyRc_wr
  · with_reducible apply onlyRc_pmuRefuse

theorem onlyRc_memTestFx (s : State) (src v : Nat) : OnlyRc s (memTestFx s src v) := by
  unfold memTestFx
  extract_lets +onlyGivenNames x0
  try clear_value x0
  with_reducible refine .ite ?_ ?_
  · with_reducible apply onlyRc_pmuRefuse
  · with_reducible refine .ite ?_ ?_
    · with_reducible apply onlyRc_pmuRefuse
    · extract_lets +onlyGivenNames x1
      have hx1 : OnlyRc s x1 := by
        unfold x1
        refine .trans ?_ (by with_reducible apply onlyRc_wr)
        with_reducible apply onlyRc_wr
      try clear_value x1
      with_reducible refine .ite ?_ ?_
      · refine .trans ?_ (by with_reducible apply onlyRc_wr)
        refine .trans ?_ (by with_reducible apply onlyRc_wr)
        refine .trans ?_ (by with_reducible apply onlyRc_wr)
        refine .trans ?_ (by with_reducible apply onlyRc_wr)
        with_reducible exact hx1
      · with_reducible exact hx1

theorem onlyRc_rangeFx (s : State) (src off v : Nat) : OnlyRc s (rangeFx s src off v) := by
  unfold rangeFx
  extract_lets +onlyGivenNames x0
  try clear_value x0
  extract_lets +onlyGivenNames x1
  have hx1 : OnlyRc s x1 := by
    unfold x1
    with_reducible apply onlyRc_storeWord
  try clear_value x1
  with_reducible refine .ite ?_ ?_
  · with_reducible refine .ite ?_ ?_
    · with_reducible exact .refl _
    · with_reducible refine .ite ?_ ?_
      · with_reducible apply onlyRc_writeIgnored
      · with_reducible exact hx1
  · with_reducible refine .ite ?_ ?_
    · with_reducible exact hx1
    · with_reducible exact .refl _

theorem onlyRc_kccStore (s : State) (src off v : Nat) : OnlyRc s (kccStore s src off v) := by
  unfold kccStore
  with_reducible refine .ite ?_ ?_
  · with_reducible apply onlyRc_rangeFx
  · with_reducible refine .ite ?_ ?_
    · with_reducible exact .refl _
    · with_reducible apply onlyRc_storePage

theorem onlyRc_countPeek (s : State) (b : Nat) : OnlyRc s (countPeek s b) :=
  OnlyRegs.rc (onlyRegs_countPeek ..)

end Sys2Proof.Machine
end

