-- ==== Sys2Proof/Laws/Steps.lean ====
section
/-! SUPPORT. The steps of a chain: what looking a step up answers after a change of it, and what forming a result does. -/

namespace Sys2Proof.Machine

theorem getElem?_listSet {α : Type} (l : List α) (k i : Nat) (b : α) :
    (listSet l k b)[i]? = if i = k ∧ k < l.length then some b else l[i]? := by
  induction l generalizing k i with
  | nil => simp [listSet]
  | cons a l ih =>
    cases k with
    | zero => cases i <;> simp [listSet]
    | succ k => cases i <;> simp [listSet, ih]

theorem job?_setJob_same (s : State) (j : Nat) (x : Job) : job? (setJob s j x) j = some x := by
  simp [job?, setJob]

theorem job?_setJob_ne (s : State) {i j : Nat} (x : Job) (h : i ≠ j) : job? (setJob s j x) i = job? s i := by
  simp [job?, setJob, SMap.get?_set_ne _ _ h]

theorem job?_modJob_ne (s : State) {i j : Nat} (f : Job → Job) (h : i ≠ j) : job? (modJob s j f) i = job? s i := by
  unfold modJob
  split
  · exact job?_setJob_ne s _ h
  · rfl

theorem job?_modJob_same {s : State} {j : Nat} {x : Job} (f : Job → Job) (h : job? s j = some x) :
    job? (modJob s j f) j = some (f x) := by
  simp only [modJob, h, job?_setJob_same]

/-- A change of a step that is there. -/
theorem step?_modStep_same {s : State} {j k : Nat} {t : StepRun} (f : StepRun → StepRun) (h : step? s j k = some t) :
    step? (modStep s j k f) j k = some (f t) := by
  unfold step? at h
  split at h
  · rename_i x hx
    unfold modStep step?
    rw [job?_modJob_same _ hx]
    simp only [h]
    rw [getElem?_listSet]
    have hk : k < x.steps.length := by
      rcases Nat.lt_or_ge k x.steps.length with hk | hk
      · exact hk
      · rw [List.getElem?_eq_none hk] at h
        cases h
    simp [hk]
  · cases h

theorem step?_modStep_ne {s : State} {j k i : Nat} (f : StepRun → StepRun) (h : i ≠ k) :
    step? (modStep s j k f) j i = step? s j i := by
  unfold modStep step?
  cases hx : job? s j with
  | none => simp [modJob, hx]
  | some x =>
    rw [job?_modJob_same _ hx]
    dsimp only
    split
    · rw [getElem?_listSet]
      simp [h]
    · rfl

theorem otherSteps_modStep (s : State) (j k : Nat) (f : StepRun → StepRun) : OtherSteps s (modStep s j k f) j k :=
  ⟨fun _ h => job?_modJob_ne s _ h, fun _ h => step?_modStep_ne f h⟩

/-- The descriptor part of a chain is not in its steps. -/
theorem job?_modStep_same {s : State} {j k : Nat} {x : Job} (f : StepRun → StepRun) (h : job? s j = some x) :
    ∃ y, job? (modStep s j k f) j = some y ∧ y = { x with steps := y.steps } := by
  unfold modStep
  exact ⟨_, job?_modJob_same _ h, rfl⟩

theorem probeStamp_other {s : State} {eid k : Nat} (h : s.probeEid ≠ some eid) : probeStamp s eid k = s := by
  simp [probeStamp, h]

/-- The operation of a step that can form its result is applied to its input. -/
theorem formOp_canForm {s : State} {j k op : Nat} {x : Job} {t : StepRun} {inp : Bytes} (fx : State → Job → StepRun → Bytes → State)
    (h : CanForm s j k op x t inp) : formOp s j k op fx = fx s x t inp := by
  obtain ⟨h1, hx, ht, h2, h3, h4, h5, h6, h7, h8, h10, h11, h12, h13, h14⟩ := h
  have hs : stepRuns s j k = true := by simp [stepRuns, hx, ht, h2, h3, h4]
  have ha : stampIssue s j x k t = s := by
    unfold stampIssue
    split
    · exact probeStamp_other h14
    · rfl
  have hb : stampResult s x = s := by simp [stampResult, h14]
  have he : (!isArith op && (opParam op (x.param k) (x.desc k).verifyOnly (x.desc k).outC x.realm (some inp.length) != 0)) = false := by
    rcases h8 with h8 | h8 <;> simp [h8]
  unfold formOp
  simp only [hx, ht, h1, hs, h5, h6, h7, he, ha]
  simp [h10, h11, h12, h13, hb]

/-! ### What goes out on ports and links leaves chains alone -/

/-- Nothing but registers, the fabric ports and stash lines differs. -/
def OnlyFab (s t : State) : Prop := t = { s with regs := t.regs, fab := t.fab, rch := { s.rch with stash := t.rch.stash } }

/-- Nothing but registers and the links differs. -/
def OnlyClm (s t : State) : Prop := t = { s with regs := t.regs, clm := t.clm }

theorem OnlyFab.trans {s t u : State} (h : OnlyFab s t) (k : OnlyFab t u) : OnlyFab s u := by
  unfold OnlyFab at *
  rw [k, h]

theorem OnlyClm.trans {s t u : State} (h : OnlyClm s t) (k : OnlyClm t u) : OnlyClm s u := by
  unfold OnlyClm at *
  rw [k, h]

theorem OnlyRegs.fab {s t : State} (h : OnlyRegs s t) : OnlyFab s t := by
  unfold OnlyRegs at h
  unfold OnlyFab
  rw [h]

theorem OnlyRegs.clm {s t : State} (h : OnlyRegs s t) : OnlyClm s t := by
  unfold OnlyRegs at h
  unfold OnlyClm
  rw [h]

theorem onlyFab_set (s : State) (f : Fabric) : OnlyFab s { s with fab := f } := rfl

theorem onlyFab_stashPoke (s : State) (a : Nat) (b : Byte) : OnlyFab s (stashPoke s a b) := rfl

theorem onlyFab_stashOwn (s : State) (cells : List (Nat × Byte)) : OnlyFab s (stashOwn s cells) := by
  have h : ∀ (l : List (Nat × Byte)) (t : State), OnlyFab t (l.foldl (fun st c => stashPoke st c.1 c.2) t) := by
    intro l
    induction l with
    | nil => exact fun t => rfl
    | cons c l ih => exact fun t => (onlyFab_stashPoke t c.1 c.2).trans (ih _)
  unfold stashOwn
  split
  · rfl
  · exact h cells s

theorem onlyFab_present1 (s : State) (p : Nat) (r : FabReq) : OnlyFab s (present1 s p r) := by
  unfold present1
  split
  · exact (onlyFab_set s _).trans (onlyRegs_pmu ..).fab
  · exact ((onlyFab_set s _).trans (onlyFab_stashOwn ..)).trans (onlyRegs_pmu ..).fab

theorem onlyFab_pump (n : Nat) (s : State) (p : Nat) : OnlyFab s (pump n s p) := by
  induction n generalizing s with
  | zero => rfl
  | succ n ih =>
    simp only [pump]
    split
    · split
      · exact ((onlyFab_set s _).trans (onlyFab_present1 ..)).trans (ih _)
      · rfl
    · rfl

theorem onlyFab_request (s : State) (r : FabReq) : OnlyFab s (request s r) := by
  unfold request
  exact (onlyFab_set s _).trans (onlyFab_pump ..)

theorem onlyFab_writeReq (s : State) (p a mq : Nat) (prio na poison : Bool) (who : Who) (bs : Bytes) :
    OnlyFab s (writeReq s p a mq prio na poison who bs) := onlyFab_request ..

theorem onlyFab_readReq (s : State) (p a n mq : Nat) (prio na : Bool) (who : Who) :
    OnlyFab s (readReq s p a n mq prio na who) := onlyFab_request ..

theorem onlyClm_setLink (s : State) (l : Nat) (x : Link) : OnlyClm s (setLink s l x) := rfl

theorem onlyClm_presentFlit (s : State) (l seq : Nat) (f : TxFlit) : OnlyClm s (presentFlit s l seq f) := by
  unfold presentFlit
  extract_lets b x bytes mode hit n s1 s2
  have h : OnlyClm s s2 := by
    unfold s2
    split
    · exact (OnlyRegs.trans (onlyRegs_wr ..) (onlyRegs_wr ..)).clm
    · exact (onlyRegs_wr ..).clm
  clear_value s2
  split
  · split
    · exact h
    · split
      · exact h.trans (onlyClm_setLink ..)
      · split
        · split
          · exact h.trans (onlyClm_setLink ..)
          · exact h.trans (onlyClm_setLink ..)
        · exact h.trans (onlyClm_setLink ..)
  · exact onlyClm_setLink ..

theorem onlyClm_pumpLink (n : Nat) (s : State) (l : Nat) : OnlyClm s (pumpLink n s l) := by
  induction n generalizing s with
  | zero => rfl
  | succ n ih =>
    simp only [pumpLink]
    split
    · rfl
    · split
      · rfl
      · exact .trans (.trans (.trans (onlyClm_setLink ..) (onlyRegs_inc ..).clm) (onlyClm_presentFlit ..)) (ih _)

theorem onlyClm_sendMsg (s : State) (l m : Nat) (msg : LinkMsg) : OnlyClm s (sendMsg s l m msg) := by
  unfold sendMsg
  exact .trans (onlyClm_setLink ..) (onlyClm_pumpLink ..)

theorem onlyClm_newTx (s : State) (l : Nat) : OnlyClm s (newTx s l).2 := rfl

theorem onlyClm_askWrite (s : State) (p : PeerRef) (who : Who) (a : Nat) (b : Bytes) : OnlyClm s (askWrite s p who a b) := by
  unfold askWrite
  split
  · rfl
  · exact .trans (.trans (onlyClm_newTx ..) (onlyClm_setLink ..)) (onlyClm_sendMsg ..)

/-- Nothing but registers, ports, links and stash lines differs. -/
def OnlyOut (s t : State) : Prop :=
  t = { s with regs := t.regs, fab := t.fab, clm := t.clm, rch := { s.rch with stash := t.rch.stash } }

theorem OnlyOut.trans {s t u : State} (h : OnlyOut s t) (k : OnlyOut t u) : OnlyOut s u := by
  unfold OnlyOut at *
  rw [k, h]

theorem onlyOut_jobWrite (s : State) (x : Job) (port a : Nat) (na : Bool) (who : Who) (b : Bytes) :
    OnlyOut s (jobWrite s x port a na who b) := by
  unfold jobWrite
  split
  · have h := onlyFab_writeReq s port a x.port false na false who b
    unfold OnlyFab at h
    unfold OnlyOut
    rw [h]
  · rename_i p _
    have h := onlyClm_askWrite s p who a b
    unfold OnlyClm at h
    unfold OnlyOut
    rw [h]

theorem onlyOut_foldl {α : Type} {f : State → α → State} (hf : ∀ s a, OnlyOut s (f s a)) (l : List α) (s : State) :
    OnlyOut s (l.foldl f s) := by
  induction l generalizing s with
  | nil => rfl
  | cons a l ih => exact (hf s a).trans (ih _)

theorem OnlyOut.job? {s t : State} (h : OnlyOut s t) (j : Nat) : Machine.job? t j = Machine.job? s j := by
  unfold OnlyOut at h
  rw [h]
  rfl

theorem OnlyOut.step? {s t : State} (h : OnlyOut s t) (j k : Nat) : Machine.step? t j k = Machine.step? s j k := by
  unfold OnlyOut at h
  rw [h]
  rfl

/-- Handing out an output changes of the step only the count of its writes. -/
theorem step?_writeOut {s : State} {j k : Nat} {t : StepRun} (b : Bytes) (h : Machine.step? s j k = some t) :
    ∃ n, Machine.step? (writeOut s j k b) j k = some { t with outLeft := n } := by
  unfold writeOut
  split
  · rename_i x u hx hu
    rw [h] at hu
    cases hu
    rw [(onlyOut_foldl (fun s w => onlyOut_jobWrite s x _ _ _ _ _) _ _).step?, step?_modStep_same _ h]
    exact ⟨_, rfl⟩
  · exact ⟨t.outLeft, h⟩

theorem otherSteps_writeOut (s : State) (j k : Nat) (b : Bytes) : OtherSteps s (writeOut s j k b) j k := by
  unfold writeOut
  split
  · rename_i x u hx hu
    constructor
    · intro i hi
      rw [(onlyOut_foldl (fun s w => onlyOut_jobWrite s x _ _ _ _ _) _ _).job?]
      exact job?_modJob_ne s _ hi
    · intro i hi
      rw [(onlyOut_foldl (fun s w => onlyOut_jobWrite s x _ _ _ _ _) _ _).step?]
      exact step?_modStep_ne _ hi
  · exact ⟨fun _ _ => rfl, fun _ _ => rfl⟩

theorem OtherSteps.trans {s t u : State} {j k : Nat} (h : OtherSteps s t j k) (g : OtherSteps t u j k) : OtherSteps s u j k :=
  ⟨fun i hi => (g.1 i hi).trans (h.1 i hi), fun i hi => (g.2 i hi).trans (h.2 i hi)⟩

theorem OtherSteps.refl (s : State) (j k : Nat) : OtherSteps s s j k := ⟨fun _ _ => rfl, fun _ _ => rfl⟩

/-! ### Forming a result -/

theorem StepOnly.refl (s : State) : StepOnly s s := rfl

theorem StepOnly.trans {s t u : State} (h : StepOnly s t) (k : StepOnly t u) : StepOnly s u := by
  unfold StepOnly at *
  rw [k, h]

theorem OnlyOut.step {s t : State} (h : OnlyOut s t) : StepOnly s t := by
  unfold OnlyOut at h
  unfold StepOnly
  rw [h]

theorem stepOnly_modStep (s : State) (j k : Nat) (f : StepRun → StepRun) : StepOnly s (modStep s j k f) := by
  unfold modStep modJob
  split <;> rfl

theorem stepOnly_writeOut (s : State) (j k : Nat) (b : Bytes) : StepOnly s (writeOut s j k b) := by
  unfold writeOut
  split
  · exact (stepOnly_modStep ..).trans (onlyOut_foldl (fun s w => onlyOut_jobWrite s _ _ _ _ _ _) _ _).step
  · exact .refl _

theorem stepOnly_handOut (s : State) (j k : Nat) : StepOnly s (handOut s j k) := by
  unfold handOut
  split
  · split
    · dsimp only
      split
      · exact (stepOnly_writeOut ..).trans (stepOnly_modStep ..)
      · exact stepOnly_writeOut ..
    · exact .refl _
  · exact .refl _

theorem stepOnly_formStep (s : State) (j k : Nat) (r : OpRes) (hold : Bool) (checks : Nat) : StepOnly s (formStep s j k r hold checks) := by
  unfold formStep
  split
  · exact .refl _
  · dsimp only
    split
    · split
      · exact stepOnly_modStep ..
      · exact (stepOnly_modStep ..).trans (stepOnly_handOut ..)
    · split
      · exact stepOnly_modStep ..
      · split
        · exact (stepOnly_modStep ..).trans (stepOnly_writeOut ..)
        · split
          · exact stepOnly_modStep ..
          · exact (stepOnly_modStep ..).trans (stepOnly_writeOut ..)

/-- A formed output that is handed out stands in its step; only a range too short for it fails the step. -/
theorem step?_handOut {s : State} {j k : Nat} {x : Job} {t : StepRun} (hx : Machine.job? s j = some x) (h : Machine.step? s j k = some t) :
    ∃ n b, Machine.step? (handOut s j k) j k = some { t with outLeft := n, bad := b } ∧
      (outToFrags (x.desc k).outC = false ∨ t.out.length ≤ rangeCap t.dst → b = t.bad) := by
  unfold handOut
  simp only [hx, h]
  obtain ⟨n, hn⟩ := step?_writeOut t.out h
  split
  · rename_i hf
    split
    · rename_i hl
      refine ⟨n, _, step?_modStep_same _ hn, ?_⟩
      rintro (h1 | h1)
      · rw [hf] at h1; cases h1
      · omega
    · exact ⟨n, t.bad, hn, fun _ => rfl⟩
  · exact ⟨t.outLeft, t.bad, h, fun _ => rfl⟩

theorem otherSteps_handOut (s : State) (j k : Nat) : OtherSteps s (handOut s j k) j k := by
  unfold handOut
  split
  · split
    · dsimp only
      split
      · exact (otherSteps_writeOut ..).trans (otherSteps_modStep ..)
      · exact otherSteps_writeOut ..
    · exact .refl ..
  · exact .refl ..

/-- A good result stands in its step. -/
theorem formed_formStep {s : State} {j k : Nat} {x : Job} {t : StepRun} {r : OpRes} {hold : Bool} {checks : Nat}
    (hx : Machine.job? s j = some x) (h : Machine.step? s j k = some t) (hb : t.bad = none) (hr : r.v.status = 0) :
    Formed s (formStep s j k r hold checks) j k x t r.out hold (t.checks + checks) := by
  unfold formStep
  simp only [hx, hr, if_true]
  have h1 := step?_modStep_same
    (fun t => { t with out := r.out, st := .formed, held := hold, checks := t.checks + checks, committed := true, judged := true }) h
  have ho := otherSteps_modStep s j k
    (fun t => { t with out := r.out, st := .formed, held := hold, checks := t.checks + checks, committed := true, judged := true })
  obtain ⟨y, hy, hxy⟩ := job?_modStep_same (k := k)
    (fun t => { t with out := r.out, st := .formed, held := hold, checks := t.checks + checks, committed := true, judged := true }) hx
  have hd : y.desc k = x.desc k := by rw [hxy]; rfl
  cases hold with
  | true => exact ⟨⟨_, h1, rfl, rfl, rfl, rfl, fun _ => hb⟩, ho⟩
  | false =>
    obtain ⟨n, b, hn, hbb⟩ := step?_handOut hy h1
    refine ⟨⟨_, hn, rfl, rfl, rfl, rfl, ?_⟩, ho.trans (otherSteps_handOut ..)⟩
    intro hc
    rw [hd] at hbb
    refine (hbb ?_).trans hb
    simpa using hc

/-- A failed result leaves its failure and no output. -/
theorem formedBad_formStep {s : State} {j k : Nat} {x : Job} {t : StepRun} {r : OpRes} {hold : Bool} {checks : Nat}
    (hx : Machine.job? s j = some x) (h : Machine.step? s j k = some t) (hr : r.v.status ≠ 0) :
    FormedBad s (formStep s j k r hold checks) j k r.v := by
  unfold formStep
  simp only [hx, hr, if_false]
  have h1 := step?_modStep_same (fun t => { t with out := [], bad := some r.v, st := .formed, held := hold, checks := t.checks + checks, judged := true }) h
  have ho := otherSteps_modStep s j k (fun t => { t with out := [], bad := some r.v, st := .formed, held := hold, checks := t.checks + checks, judged := true })
  have done : ∀ b, FormedBad s (writeOut (modStep s j k fun t =>
      { t with out := [], bad := some r.v, st := .formed, held := hold, checks := t.checks + checks, judged := true }) j k b) j k r.v := by
    intro b
    obtain ⟨n, hn⟩ := step?_writeOut b h1
    exact ⟨⟨_, hn, rfl, rfl, rfl⟩, ho.trans (otherSteps_writeOut ..)⟩
  split
  · exact ⟨⟨_, h1, rfl, rfl, rfl⟩, ho⟩
  · split
    · exact done _
    · split
      · exact ⟨⟨_, h1, rfl, rfl, rfl⟩, ho⟩
      · exact done _

end Sys2Proof.Machine
end

