-- ==== Sys2Proof/WellFormed.lean ====
section
/-! DEFINITION. Which commands are well formed: the byte strings that a transfer brings have the lengths the transfer has. -/

namespace Sys2Proof

/-- Bytes in the raw capture buffer (R347). -/
def captureBytes : Nat := 65536

/-- Whether a command's operands are well formed. -/
def Instr.wf : Instr → Bool
  | .captureDone d => d.length == captureBytes
  | _ => true

end Sys2Proof
end

