-- ==== Sys2Proof/Tests/Slice0.lean ====
section
/-! SUPPORT. Small tests of single commands on small states, and for each statement a state and operands that meet what its clauses
assume. Expected values come from the rules named. -/

open Sys2Proof Sys2Proof.Machine

namespace Sys2Proof.Tests

set_option maxRecDepth 20000

/-! ### States and inputs -/

/-- A running block from reset. -/
def up : State := { State.reset with phase := .run }

/-- Registers set one after another. -/
def setR (s : State) (l : List (Nat × Field × Nat)) : State := l.foldl (fun t x => wr t x.1 x.2.1 x.2.2) s

/-- Unit pages in a state. -/
def inState (s : State) (st : Nat) (ps : List Nat) : State := setR s (ps.map fun p => (pg p, HDR.STAT.STATE, st))

/-- A block in a life-cycle state. -/
def inLc (s : State) (n : Nat) : State :=
  { s with glm := { s.glm with otp := (List.range n).map fun i => (i, { data := 0xFFFF, whole := true }) } }

/-- Whether a command answers a next state. -/
def goesOn (c : Instr) (s : State) : Bool := match exec c s with | .next _ => true | _ => false

/-- The state a command answers, or the same where it stops. -/
def after (c : Instr) (s : State) : State := match exec c s with | .next t => t | _ => s

def lockedUp : State := setR up [(pg pCHF, CHF.LOCK_STAT.LOCKED, 1)]
def withUnlock (s : State) (p off : Nat) : State := setR { s with unlocks := [(p, (0, s.fcNow))] } [(pg p, HDR.UNLOCK.TARGET, off)]
def aMsg (u m k : Nat) : ChaffMsg := { unit := u, member := m, kind := k, access := 0, port := 0, addr := 0, detail := 0 }
def onBus (s : State) (m : ChaffMsg) : State := { s with chaff := { s.chaff with bus := [m] } }
def aWrite (who : Who) : WrTxn :=
  { port := 0, tag := 5, addr := 0x1000, beats := 1, full := true, mqPort := 0, prio := false, na := false, poison := false, who, cells := [] }
def aRead (who : Who) : RdTxn :=
  { port := 0, tag := 5, addr := 0x1000, beats := 2, crit := 0, mqPort := 0, prio := false, na := false, who, since := 0, got := [] }
def writing (s : State) (w : WrTxn) : State := { s with fab := { s.fab with writes := [w] } }
def reading (s : State) (r : RdTxn) : State := { s with fab := { s.fab with reads := [r] } }
def aQuar : Quar := { port := 1, isWrite := true, tag := 7, left := 1 }

/-! ### Well-formedness -/

/-- A raw capture holds 64 KiB, no more and no less (R347). -/
theorem test_wf_capture : Instr.wf (.captureDone []) = false ∧ Instr.wf (.captureDone (List.replicate 65535 0)) = false ∧
    Instr.wf (.captureDone (List.replicate 65536 0)) = true := by
  refine ⟨rfl, ?_, ?_⟩ <;> simp only [Instr.wf, captureBytes, List.length_replicate] <;> decide

/-- An ill-formed capture is refused (R347). -/
theorem test_refused_capture : exec (.captureDone [0]) up = .refused .illFormed := rfl

/-! ### The whole machine -/

theorem witness_StepRunsFrontCommand : State.reset.pending = [] := rfl
theorem witness_CommandsKeepQueueAndPart : goesOn .supplyLoss State.reset = true := by decide
theorem witness_OnlyBrokenInputsStop :
    exec (.creditReturn 0 3 0) { up with fab := { up.fab with reqCr := [(0, 253)] } } = .fault .creditOverflow := rfl
theorem witness_StepsKeepCanonicalTables :
    Canonical { State.reset with regs := [(1, 1), (2, 5)] } ∧ step { State.reset with regs := [(1, 1), (2, 5)] } =
      .next { after .porstNAssert State.reset with fcNow := 1, regs := [(1, 1), (2, 5)] } := by
  refine ⟨?_, rfl⟩; simp [Canonical, RowsOk, SMap.Wf, SMap.above, State.reset, State.cold, freshGranary, freshGlume]
theorem witness_OtpBitsNeverCleared : goesOn .porstNAssert (inLc up 2) = true ∧ otpWord (inLc up 2) 1 = 0xFFFF := by decide
/-- No segment, some, and every one set; an accepted request; the end of a data burn; and of a segment burn. -/
theorem witness_LifeCycleCountsAndNeverGoesBack :
    (∀ c ∈ [0, 3, 6], (∀ i, i < c → 12 ≤ popCount 16 (otpWord (inLc up c) i)) ∧ (c < 6 → popCount 16 (otpWord (inLc up c) c) < 12)) ∧
    (let s := withUnlock (inState (inLc up 2) 2 [pGLM]) pGLM 0x48
     CanWrite s 0 pGLM 0x48 ∧ unlocked s pGLM 0 0x48 = true ∧ glumeUp s = true ∧ s.glm.trans = none ∧
      flag s (pg pGLM) GLM.DBG_STAT.TOKEN = false ∧ lcReason s 3 = 0) := by decide

/-! ### Resets and the fabric ports -/

theorem witness_ResetsAndStarts :
    up.phase ≠ .cold ∧ up.grn.cur = [] ∧ up.glm.burns = [] ∧ { up with phase := .drain }.fab.reads = [] ∧ { up with phase := .drain }.fab.writes = [] ∧
    locked { up with phase := .warm } = false ∧ State.reset.phase = .cold ∧ (State.reset.keeper || !State.reset.started) = true ∧
    ({ State.reset with started := true }.keeper || !{ State.reset with started := true }.started) = false ∧
    locked { lockedUp with phase := .warm } = true ∧ pagePresent lockedUp 0x60 = true ∧ pagePresent lockedUp 0 = true := by decide
theorem witness_FabricPortsAct :
    credOf up.fab.reqCr 3 + 3 ≤ 255 ∧ 255 < credOf [(3, 253)] 3 + 3 ∧ (∀ r ∈ up.fab.waiting, r.portOf ≠ 3) ∧
    (∀ ph ∈ [Phase.run, .drain, .restart], let s := { reading up (aRead .cp) with phase := ph }
      s.phase ≠ .cold ∧ s.phase ≠ .warm ∧ findRead s 0 5 = some (aRead .cp) ∧ (1 : Nat) < (aRead .cp).beats ∧ SMap.get? (aRead .cp).got 1 = none ∧
        rd s (pg pPMU) PMU.POISON_INJ.COUNT = 0 ∧ (SMap.set (aRead .cp).got 1 (beatBytes 0)).length < (aRead .cp).beats) ∧
    (aRead .cp).beats ≤ 2 ∧ (SMap.get? { aRead .cp with got := [(1, [])] }.got 1).isSome = true ∧
    (∀ n ∈ [1, 2], let q : Quar := { port := 0, isWrite := false, tag := 5, left := n }
      let s := { up with fab := { up.fab with quar := [q] } }
      findRead s 0 5 = none ∧ findQuar s 0 false 5 = some q ∧ s.fab.waiting = []) ∧
    findRead up 0 5 = none ∧ findQuar up 0 false 5 = none ∧ findWrite up 0 5 = none ∧ findQuar up 0 true 5 = none ∧
    (∀ ph ∈ [Phase.run, .drain], let s := { writing up (aWrite (.msi 3)) with phase := ph }
      findWrite s 0 5 = some (aWrite (.msi 3)) ∧ (vec s 3).pending = false ∧ s.fab.waiting = []) ∧
    (let s := { up with fab := { up.fab with quar := [aQuar] } }
     findWrite s 1 7 = none ∧ findQuar s 1 true 7 = some aQuar ∧ aQuar.left ≤ 1) := by decide
theorem witness_DeniedAndDrainedAccesses :
    permitted up { src := 255, id := 0, wide := false, addr := 0 } false = false ∧
    permitted up { src := 3, id := 0, wide := true, addr := 8 } true = false ∧ portAccepted { State.reset with part := { fullPart with variant := .aqsE } } 200 = false ∧
    portAccepted State.reset 0 = true := by decide
theorem witness_HeaderWritesTakeEffect : CanWrite up 0 pSYS 0x14 ∧ CanWrite up 0 0x60 0x10 ∧ enabled up pPMU = false := by decide
theorem witness_ReadsShowReloadAndConsume :
    (∀ a ∈ [pg pHLD + 0x48, pg pHLD + 0x4C, pg pSNT + 0x5C, pg pSNT + 0x60, pg pCTL + 0xA8],
      permitted up { src := 0, id := 0, wide := false, addr := a } false = true ∧ a < 0x400000) ∧
    (let s := setR up [(pg pGLM, GLM.DBG_STAT.TOKEN, 1)]
     permitted { s with glm := { s.glm with level := 3 } } { src := 254, id := 0, wide := false, addr := 0x400000 + wordOfs 0x2040 % 0x400000 } false = true ∧
     flag s (pg pGLM) GLM.DBG_STAT.COUNT_PEEK = false) ∧
    (∀ a ∈ [pg pTEF + 0x80, pg pGRN + 0x88], permitted up { src := 0, id := 0, wide := true, addr := a } false = true) ∧
    (expRec up 11).fifo.length < 8 ∧
    (let s := { up with tef := { up.tef with exps := [(11, { expRec up 11 with fifo := zeros 16 })] } }
     permitted s { src := 0, id := 0, wide := true, addr := pg pTEF + 0x80 } false = true ∧ 8 ≤ (expRec s 11).fifo.length) ∧
    (let r : LogRec := { bytes := natLe 4 4096 ++ zeros 28, flushed := false, started := false }
     let s := inState { up with grn := { up.grn with staged := [r], cursors := [(0, { key := 98304 + 4096, seq := 4096 })] } } 2 [pGRN]
     enabled s pGRN = true ∧ (cursorItem s 0).isSome = true ∧ cursorItem up 0 = none ∧ enabled up pGRN = false) := by decide

/-! ### Units, the collector and test access -/

theorem witness_EnablesAreChecked :
    (∀ p ∈ [pSYS, pGLM, pCTL, 0x60], CanWrite up 0 p 8) ∧ ustate up pSYS = 0 ∧
    (let s := inState up 1 [pRCH]
     ustate s pRCH = 1 ∧ s.cp.cycle = [] ∧ s.chaff.retiring = [] ∧ pageKind pRCH = some (.rch, 0) ∧ present s .rch 0 = true ∧
      enableReason s pRCH 0 ≠ 0 ∧ enableReason s pRCH 0 < 2 ^ 16 ∧ ustate s pGLM ≠ 2) ∧
    (let s := setR (inState (inState up 1 [pSYS]) 2 [pGLM]) [(pg pSYS, HDR.CTL.EN, 1)]
     ustate s pGLM = 2 ∧ lcState s < 4 ∧ ustate s pCHF ≠ 2 ∧ enableReason s pSYS 0 = 0 ∧ flag s (pg pSYS) HDR.CTL.EN = true) ∧
    (let s := setR (inState (inState up 1 [pEMR 0]) 2 [pGLM, pSYS, pCHF, pGRN, pTCK]) [(pg (pEMR 0), HDR.CTL.EN, 1)]
     enableReason s (pEMR 0) 1 = 0 ∧ enableReason s (pEMR 0) 0xFFFFF = 0x1110 ∧ present s .emr 0 = true ∧ s.jobs = [] ∧ s.kcc.lookups = []) := by decide
theorem witness_DisablesWaitForEmpty :
    CanWrite up 0 pRCH 8 ∧ ustate up pRCH ≠ 2 ∧
    (let s := inState up 2 [pCHF, pGRN]
     ustate s pCHF = 2 ∧ pGRN < 0x61 ∧ pagePresent s pGRN = true ∧ pGRN ∉ [pCHF, pSYS, pCTL, pGLM] ∧ ustate s pGRN ≠ 0 ∧ ustate s pGRN = 2) ∧
    (let s := inState up 3 [pGRN, 0x30]
     ustate s pGRN = 3 ∧ unitEmpty s .grn 0 = true ∧ pageKind 0x30 = some (.spk, 0) ∧ present s .spk 0 = true ∧ unitEmpty s .spk 0 = true) := by decide
theorem witness_EventsCapturesUnlocks :
    CanWrite up 0 pSYS 0x18 ∧ testPermit up = true ∧ testPermit lockedUp = false ∧ rd up (pg pSYS) HDR.EVT.BITS < 2 ^ 32 ∧
    placeOf 0x28 = .page 0 0x28 ∧ fecAt 0x28 = some (pg 0) ∧ CanWrite up 0 0 0x28 ∧ CanWrite up 0 pGLM 0x40 ∧ hasUnlock pGLM = true ∧
    SMap.get? (withUnlock up pGLM 0x48).unlocks pGLM ≠ none ∧ SMap.get? up.unlocks pGLM = none := by decide
theorem witness_FaultsAreTold :
    sourcePresent up (srcKey 9 0) = true ∧ sourcePresent up (srcKey 0x11 3) = true ∧ sourcePresent (inState up 2 [pSPK 15]) (srcKey 0x12 15) = true ∧
    sourcePresent up (srcKey 2 0) = true ∧ sourcePresent up (srcKey 8 0) = true ∧ up.jobs = [] := by decide
/-- A counted kind below its limit and one that reaches it, a kind that classifies at once, and one that locks. -/
theorem witness_MessagesClassifyAndLock :
    (∀ m ∈ [aMsg 1 0 0x307, aMsg 9 0 0x201, aMsg 4 0 0xC03], nextMsg (onBus up m) = some (m, m.urgent)) ∧
    (let k := ruleOf up 0x201
     k.n ≠ 0 ∧ k.entry < k.ceil ∧ (aMsg 9 0 0x201).events < k.n ∧ (srcOf up (aMsg 9 0 0x201).src).cls = 0 ∧
      (classify (onBus up (aMsg 9 0 0x201)) (aMsg 9 0 0x201)).cls = 0) ∧
    locked (onBus up (aMsg 4 0 0xC03)) = false ∧ (srcOf up (aMsg 4 0 0xC03).src).cls < 3 ∧ (aMsg 4 0 0xC03).src < 2 ^ 16 ∧ locked lockedUp = true := by decide
theorem witness_ReleasesAndRules :
    (let s := inState (withUnlock up pCHF 0x78) 4 [pHLD]
     let t := { s with chaff := { s.chaff with srcs := [(0x900, { freshSrc with cls := 2 })] } }
     CanWrite t 0 pCHF 0x78 ∧ unlocked t pCHF 0 0x78 = true ∧ locked t = false ∧ releaseReason t 0x900 = 0 ∧ unitPage 9 0 = some pHLD ∧
      releaseReason t 0x100 ≠ 0 ∧ (srcOf t 0x1000).cls ≠ 2 ∧ 2 ≤ SMap.getD { t.chaff with releases := [(0x900, 2)] }.releases 0x900 0) ∧
    (let s := setR up [(pg pCHF, CHF.RULE_SEL.KIND, 0x201)]
     let r := ruleDef (rd s (pg pCHF) CHF.RULE_SEL.KIND)
     CanWrite s 0 pCHF 0x68 ∧ ustate s pCHF = 0 ∧ r.n ≠ 0 ∧ 1 ≤ r.n ∧ r.n < 256 ∧ ustate (inState s 2 [pCHF]) pCHF ≠ 0) := by decide
theorem witness_TestAccessActsAndEnds :
    (let s := inState up 2 [pPMU]
     SMap.get? s.unlocks pPMU = none ∧ CanWrite s 0 pPMU 0x50 ∧ ustate s pPMU = 2 ∧ CanWrite s 0 pPMU 0x8C ∧ injReason s 0x8201_0900 = 0 ∧
      0 < (srcOf s 0x900).credits ∧ (srcOf { s with chaff := { s.chaff with srcs := [(0x900, { freshSrc with credits := 0 })] } } 0x900).credits = 0 ∧
      CanWrite lockedUp 0 pPMU 0x8C ∧ CanWrite s 0 pPMU 0x88 ∧ CanWrite s 0 pPMU 0x94 ∧ memPermit s = true ∧
      flag s (pg pPMU) PMU.MEMTEST.GO = false ∧ memTestable s 3 0 = true ∧ enabled s pPMU = true ∧ rd s (pg pPMU) PMU.CYCLES.COUNT < 2 ^ 48) ∧
    flag (setR up [(pg pPMU, PMU.MEMTEST.GO, 1), (pg pPMU, PMU.MEMTEST.TARGET, 9)]) (pg pPMU) PMU.MEMTEST.GO = true := by decide

/-! ### Rings -/

/-- An enabled Rachis with an active completion ring 2 and submission ring 5 of 64 units on it, both of port 0. -/
def rings : State :=
  setR (inState up 2 [pRCH]) [(rtB 0, RT.STATE.STATE, 1), (ptB 0, PT.LIMITS.MAX_SQ, 4), (ptB 0, PT.LIMITS.MAX_CQ, 4), (cqB 2, CQ.CFG.LOG2_DEPTH, 8),
    (cqB 2, CQ.STAT.STATE, 1), (sqB 5, SQ.CFG.LOG2_DEPTH, 6), (sqB 5, SQ.CFG.CQ, 2), (sqB 5, SQ.BASE_LO.BASE, 16)]

/-- Ring 5 in a state, with what it holds beside its registers. -/
def ringIn (st : Nat) (x : SqX) : State := setR { rings with rch := { rings.rch with sqs := [(5, x)] } } [(sqB 5, SQ.STAT.STATE, st)]

/-- A header of one unit and one LATENCY step, and its line in the stash at the ring's first unit. -/
def aHeader (h0 : Nat) : Bytes := natLe 8 h0 ++ natLe 8 0 ++ zeros 48
def stashed (s : State) (d : Bytes) : State :=
  setR { s with rch := { s.rch with stash := [{ addr := 0x10000, data := d }] } } [(pg pRCH, RCH.CTL.STASH_EN, 1), (sqB 5, SQ.STAT.SCAN_PENDING, 1)]

def anEnt (st : EntSt) : RingEnt := { eid := 1, index := 0, units := 1, skip := false, st, express := false }
def aCompl : Compl :=
  { express := false, cid := 0, sq := 5, cq := 2, covers := [1], status := 0, index := 0, tag := 9, step := 0, detail := 0, result := [], posted := false, left := 0,
    failed := false, jobs := [] }

theorem witness_RingsStartAndDrain :
    CanWriteEntry rings 0 .sq 5 0xC ∧ sqState rings 5 = 0 ∧ sqChecks rings 5 = 0 ∧ sqChecks (inState rings 0 [pRCH]) 5 ≠ 0 ∧
    enabled (inState rings 0 [pRCH]) pRCH = false ∧ enabled rings pRCH = true ∧ sqDepth rings 5 ≤ rd (setR rings [(sqB 5, SQ.START.INDEX, 64)]) (sqB 5) SQ.START.INDEX ∧
    (let s := setR (ringIn 2 { freshSq with span := 1, ents := [anEnt .live] }) [(sqB 5, SQ.STAT.CURSOR, 1)]
     sqState s 5 = 2 ∧ cqState s (sqCq s 5) = 1 ∧ cqState (setR s [(cqB 2, CQ.STAT.STATE, 2)]) (sqCq s 5) ≠ 1 ∧
      (∀ e ∈ (sqx s 5).ents, e.st ≠ .stuck ∧ e.st ≠ .gift) ∧ (sqx s 5).ents ≠ [] ∧ sqDepth s 5 = 64 ∧ (sqx s 5).haltDone = false ∧
      ∀ i ∈ [1, 63, 0], (rd (setR s [(sqB 5, SQ.START.RESUME_INDEX, i)]) (sqB 5) SQ.START.RESUME_INDEX = i) ∧
        ((i + 64 - rd s (sqB 5) SQ.STAT.CURSOR) % 64 < (rd s (sqB 5) SQ.POS.OLDEST + 64 - rd s (sqB 5) SQ.STAT.CURSOR) % 64 ↔ i ≠ 0)) ∧
    (∀ st ∈ [1, 2, 0, 3], CanWriteEntry (ringIn st freshSq) 0 .sq 5 0xC ∧ sqState (ringIn st freshSq) 5 = st ∧ (sqx (ringIn st freshSq) 5).ents = []) ∧
    sqDrained (ringIn 3 freshSq) 5 = true ∧ (∀ r ∈ liveSqs (ringIn 3 freshSq), r = 5) ∧ ustate (inState (ringIn 3 freshSq) 3 [pRCH]) pRCH = 3 ∧
    (sqx (ringIn 3 { freshSq with ents := [anEnt .live] }) 5).ents ≠ [] := by decide
theorem witness_CompletionRingsAndDoorbells_rings :
    (let s := setR rings [(cqB 2, CQ.STAT.STATE, 0)]
     CanWriteEntry s 0 .cq 2 0xC ∧ cqState s 2 = 0 ∧ cqChecks s 2 = 0 ∧ cqChecks (inState s 0 [pRCH]) 2 ≠ 0 ∧
      rd (setR s [(cqB 2, CQ.CFG.LOG2_DEPTH, 17)]) (cqB 2) CQ.CFG.LOG2_DEPTH = 17 ∧ rd (setR s [(cqB 2, CQ.CFG.LOG2_DEPTH, 5)]) (cqB 2) CQ.CFG.LOG2_DEPTH = 5) ∧
    cqState rings 2 ≠ 0 ∧ sqsOfCq rings 2 = [] ∧ sqsOfCq (ringIn 1 freshSq) 2 ≠ [] ∧
    CanWriteEntry rings 0 .pp 0 (0x800 + 4 * 511) ∧ sqPort rings 5 = 0 ∧ 5 < rings.part.rings ∧
    (let s := setR (ringIn 1 freshSq) [(ppB 0, PP.DB_MAP.VALID.at 511, 1), (ppB 0, PP.DB_MAP.SQ.at 511, 5)]
     flag s (ppB 0) (PP.DB_MAP.VALID.at 511) = true ∧ sqState s 5 ≠ 0) := by decide
theorem witness_CompletionRingsAndDoorbells_ports :
    (∀ st ∈ [1, 2, 0, 3], let s := setR (ringIn st freshSq) [(ppB 0, PP.DB_MAP.SQ.at 511, 5), (ppB 0, PP.DB_MAP.VALID.at 511, 1)]
     portAccepted s 0 = true ∧ flag s (ppB 0) (PP.DB_MAP.VALID.at 511) = true ∧ portEn s 0 = true ∧
      sqPort s (rd s (ppB 0) (PP.DB_MAP.SQ.at 511)) = 0 ∧ takesBells s = true ∧ sqState s 5 = st ∧ flag s (ppB 0) (PP.DB_MAP.VALID.at 0) = false ∧
      sqPort (setR s [(sqB 5, SQ.CFG.PORT, 3)]) 5 ≠ 0 ∧ takesBells (inState s 0 [pRCH]) = false) ∧
    portEn rings 3 = false ∧ portAccepted rings 3 = true ∧
    CanWriteEntry rings 0 .pt 3 0 ∧ flag rings (ptB 3) PT.CTL.EN = false ∧ realmActive rings 0 = true ∧ realmActive rings 1 = false ∧
    CanWriteEntry (setR rings [(ptB 3, PT.CTL.EN, 1)]) 1 .pt 3 0 ∧
    (let s := setR (ringIn 1 freshSq) [(sqB 5, SQ.CFG.PORT, 3), (ptB 3, PT.CTL.EN, 1)]
     flag s (ptB 3) PT.CTL.EN = true ∧ sqsOfPort s 3 ≠ []) ∧ CanWriteEntry rings 0 .pt 3 8 := by decide
theorem witness_VectorsWindowsAndStash_windows :
    CanWrite up 0 pRCH 0x90 ∧ (vec up 0).pending = false ∧ (vec { up with rch := { up.rch with vecs := [(0, { freshVec with pending := true })] } } 0).pending = true ∧
    (vec { up with rch := { up.rch with vecs := [(0, { freshVec with pending := true })] } } 0).inflight = false ∧
    (∀ k ∈ [0, 15], CanWrite rings 0 pRCH (0x108 + 16 * k) ∧ flag rings (pg pRCH) (RCH.STW_SIZE.EN.at k) = false ∧
      sqInside rings (stwBase rings k) 36 = false ∧ stwBase rings k % 2 ^ 36 = 0 ∧ sqInside (ringIn 1 freshSq) (stwBase rings k) 36 = true ∧
      (let s := setR rings [(pg pRCH, RCH.STW_BASE_LO.BASE.at k, 1), (pg pRCH, RCH.STW_SIZE.EN.at k, 1)]
       stwBase s k % 2 ^ 17 ≠ 0 ∧ sqInside s (stwBase s k) 17 = false ∧ flag s (pg pRCH) (RCH.STW_SIZE.EN.at k) = true)) ∧
    SMap.get? rings.unlocks pRCH = none := by decide
theorem witness_VectorsWindowsAndStash_stash :
    stashOn (setR up [(pg pRCH, RCH.CTL.STASH_EN, 0)]) = false ∧
    (let s := stashed (ringIn 1 freshSq) (zeros 64)
     stashOn s = true ∧ sqOfLine s 0x10000 = some 5 ∧ sqOfLine s 0x11000 = none ∧ sqPort s 5 = 0 ∧ s.rch.stash.length < s.part.stashLines ∧
      stashLine s 0x10000 = some (zeros 64) ∧ stashLine s 0x10040 = none ∧ sqPort (setR s [(sqB 5, SQ.CFG.PORT, 3)]) 5 = 3 ∧
      s.part.stashLines ≤ (List.replicate 16384 (0 : Nat)).length) := by
  refine ⟨by decide, by decide, by decide, by decide, by decide, by decide, by decide, by decide, by decide, ?_⟩
  rw [List.length_replicate]; decide
theorem witness_VisitsReadTheRing_begin :
    (let s := setR (ringIn 1 freshSq) [(sqB 5, SQ.STAT.SCAN_PENDING, 1)]
     s.phase = .run ∧ scanning s = true ∧ grantSlot s = some (5, 3) ∧ sqState s 5 = 1 ∧ (sqx s 5).span < sqDepth s 5 ∧ getUnit s 5 0 = none) ∧
    (∀ h ∈ [aHeader 0, aHeader 0x1101, aHeader 0x1103], let s := stashed (ringIn 1 freshSq) h
      grantSlot s = some (5, 3) ∧ getUnit s 5 0 = some h ∧ getUnit s 5 1 = none ∧ flag s (sqB 5) SQ.CFG.EXPRESS = false ∧ locked s = false ∧
      (sqx s 5).batches = [] ∧ rd s (ptB 0) PT.CTL.CLASS_MIN = 0) ∧
    (let k : Park := { visit := 0, tag := none, lines := [(0, aHeader 0x1101)], missing := [], need := 0, ready := true, stamp := 0, failed := false, failAddr := 0 }
     let s := setR (ringIn 1 { freshSq with park := some k }) [(sqB 5, SQ.STAT.SCAN_PENDING, 1)]
     grantSlot s = some (5, 1) ∧ (sqx s 5).park.isSome = true ∧ getUnit s 5 0 = some (aHeader 0x1101)) := by decide
/-- What an entry at index 0, or 60, of a ring of 64 free units, or of 2, may be: halts 1, 7, 2, 3, 6, 5, 4; a link entry; good. -/
theorem witness_VisitsReadTheRing_headers :
    (let f := fun (h : Bytes) (cur free : Nat) =>
       let h0 := leNat (slice h 0 8)
       let h1 := leNat (slice h 8 8)
       let units := bitsAt h0 1 4 + 1
       let steps := bitsAt h0 8 4
       if bitAt h0 0 = false then 0 else if 64 < cur + units then 1 else if free < units then 7
       else if steps = 0 then (if cur + units = 64 then 8 else 2)
       else if ¬(h0 &&& 0xFFFE00E0 = 0 ∧ h1 &&& 0xFC00F80000800000 = 0) then 3 else if 62 < bitsAt h1 37 6 then 6
       else if 960 < bitsAt h1 48 10 then 5 else if 64 * units < 16 * (1 + steps + bitsAt h1 37 6) + bitsAt h1 48 10 then 4 else 9
     let h := fun (a b : Nat) => natLe 8 a ++ natLe 8 b ++ zeros 48
     f (h 0x1101 0) 0 64 = 9 ∧ f (h 0x1100 0) 0 64 = 0 ∧ f (h 0x111F 0) 60 64 = 1 ∧ f (h 0x1109 0) 0 2 = 7 ∧ f (h 0x1001 0) 0 64 = 2 ∧ f (h 0x1001 0) 63 64 = 8 ∧
      f (h 0x1121 0) 0 64 = 3 ∧ f (h 0x1101 (63 * 2 ^ 37)) 0 64 = 6 ∧ f (h 0x1101 (961 * 2 ^ 48)) 0 64 = 5 ∧ f (h 0x1101 (33 * 2 ^ 48)) 0 64 = 4) := by decide
theorem witness_CompletionsAndReturnsGoOut :
    (let s := { ringIn 1 freshSq with rch := { (ringIn 1 freshSq).rch with compls := [aCompl] } }
     (dueCompls s).map (·.cid) = [0] ∧ (dueCompl s).map (·.cid) = some 0 ∧ cqState s 2 = 1 ∧ cqDepth s 2 ≤ 2 ^ 16 ∧
      cqState (setR s [(cqB 2, CQ.STAT.STATE, 2)]) 2 ≠ 1 ∧ aCompl.jobs = [] ∧ s.jobs = []) ∧
    ((complRun 0 [aCompl, { aCompl with cid := 1 }]).map (·.cid) = [0, 1] ∧ (complRun 1 [aCompl, { aCompl with cid := 1 }]).map (·.cid) = [0]) ∧
    (∀ st ∈ [EntSt.answered, EntSt.retry, EntSt.live], let es := [anEnt st, { anEnt st with eid := 2, index := 1 }]
      (sqx (ringIn 1 { freshSq with ents := es }) 5).ents = es ∧ ((dueRun 0 none es).length = 2 ↔ st ≠ .live)) := by decide
/-! ### Chains -/

/-- An entry of one LATENCY step whose parameter block and input are inline. -/
def entry (op inC outC len : Nat) (param input : Bytes) : Bytes :=
  let u := (param.length + 15) / 16
  natLe 8 0x1101 ++ natLe 8 ((param.length + input.length) * 2 ^ 48) ++ natLe 8 (op + inC * 2 ^ 8 + outC * 2 ^ 14 + u * 2 ^ 32) ++
    natLe 8 (u + len * 2 ^ 32) ++ param ++ input

/-- The step of such an entry as it runs, with all the work it can need. -/
def running1 (b : Bytes) : StepRun := { freshStep (descAt b 0) with st := .run, work := 1000000 }
def aJob (b : Bytes) (t : StepRun) : Job :=
  { eid := 1, sq := 5, index := 0, units := 1, bytes := b, cls := 1, port := 0, realm := 0, age := 0, phase := .run, steps := [t], bins := 0,
    result := [], bad := none, aborting := false, peer := none, cid := none }

/-- Enabled Tick, lane 0, Emmer group 0 and spike 0, and the job on spikelet 0. -/
def units : State := inState (ringIn 1 { freshSq with span := 1, ents := [anEnt .live] }) 2 [pHLD, pTCK, pSPL 0, pEMR 0, pSPK 0]
def onSpike (x : Job) : State := { units with jobs := [(0, x)] }
def withStep (b : Bytes) (t : StepRun) : State := onSpike (aJob b t)
def aKey : KeyCtx := { slot := 0, kind := 1, alg := 1, share0 := zeros 16, share1 := zeros 16, pre := zeros 128 }
def inLane (s : State) : State :=
  { s with lanes := [(0, { freshLane with ctxs := [{ slot := 0, job := 0, step := 0, express := false, last := 0, msg := msgState s 0 0 }] })] }
/-- A place in a group's context store. -/
def aEctx : EmrCtx := { slot := 0, op := 0x20, chain := [], bits := 0, outer := [] }

/-- CanForm as a computation. -/
def isOk (o : Option (Except Nat Bytes)) (b : Bytes) : Bool := match o with | some (.ok c) => c == b | _ => false
def canForm (s : State) (j k op : Nat) (x : Job) (t : StepRun) (inp : Bytes) : Bool :=
  isOk (inputOf x k t) inp && decide (mayForm s x = true ∧ job? s j = some x ∧ step? s j k = some t ∧ x.phase = .run ∧ t.st = .run ∧ t.bad = none ∧
    (x.desc k).op = op ∧ lookPending s j x.eid k = false ∧
    (isArith op = true ∨ opParam op (x.param k) (x.desc k).verifyOnly (x.desc k).outC x.realm (some inp.length) = 0) ∧
    dstReady t = true ∧ keyReady s x k t = true ∧ unitReady s j k op x t = true ∧
    workDone s j x k t = true ∧ s.probeEid ≠ some x.eid)
theorem isOk_eq (o : Option (Except Nat Bytes)) (b : Bytes) (h : isOk o b = true) : o = some (.ok b) := by
  unfold isOk at h
  split at h
  · rw [eq_of_beq h]
  · cases h
theorem canForm_of (s : State) (j k op : Nat) (x : Job) (t : StepRun) (inp : Bytes) (h : canForm s j k op x t inp = true) :
    CanForm s j k op x t inp := by
  unfold canForm at h
  obtain ⟨h1, h2⟩ := Bool.and_eq_true_iff.mp h
  obtain ⟨a1, a2, a3, a4, a5, a6, a7, a8, a9, a10, a11, a12, a13, a14⟩ := of_decide_eq_true h2
  exact ⟨a1, a2, a3, a4, a5, a6, a7, a8, isOk_eq _ _ h1, a9, a10, a11, a12, a13, a14⟩

/-- Realm 0 with its keys, 16 slots, and a KCC whose expander 8 is live. -/
def aRealm (stored : Bool) : RealmKeys := { wk0 := zeros 32, wk1 := zeros 32, dk0 := zeros 32, dk1 := zeros 32, sub1 := 0, sub2 := 0, stored }
def keyed (stored : Bool) (s : State) : State :=
  setR (inState { s with kcc := { s.kcc with keys := [(0, aRealm stored)] } } 2 [pKCC])
    [(rtB 0, RT.SLOT_COUNT.SLOT_COUNT, 16), (pg pKCC, KCC.SB_SLOTS.COUNT, 16), (pg pTEF, TEF.EXP.STATE.at 8, 2)]

def moveB : Bytes := entry 0x61 inINLINE outINLINE 16 [] (zeros 16)
theorem witness_DataMovementForms :
    (let b := entry 0 inNONE outNONE 0 [] []
     canForm (withStep b (running1 b)) 0 0 0 (aJob b (running1 b)) (running1 b) []) ∧
    canForm (withStep moveB (running1 moveB)) 0 0 0x61 (aJob moveB (running1 moveB)) (running1 moveB) (zeros 16) ∧
    (let b := entry 0x62 inNONE outBIN 0 (natLe 8 7 ++ natLe 4 24 ++ zeros 4) []
     let x := aJob b (running1 b)
     canForm (withStep b (running1 b)) 0 0 0x62 x (running1 b) [] ∧ 8 ≤ (x.param 0).length) ∧
    (let b := entry 0x63 inINLINE outNONE 16 ([1, 0, 1, 0] ++ zeros 12) (zeros 32)
     let x := aJob b (running1 b)
     canForm (withStep b (running1 b)) 0 0 0x63 x (running1 b) (zeros 16) ∧ (input2Of x 0 (running1 b)).isSome = true) ∧
    (let b := entry 0x54 inNONE outNONE 0 (zeros 16) []
     let t := { running1 b with key := .ready aKey }
     canForm (withStep b t) 0 0 0x54 (aJob b t) t [] = true) := by decide
/-- Each mode on a block it takes: one block, or a unit of 512 bytes for XTS, or a wrapped key. -/
def aesCase (op flags tag iv du n : Nat) : Prop :=
  let b := entry op inINLINE outFRAGS n (zeros 4 ++ [byteOf flags, 0, byteOf tag, byteOf iv] ++ natLe 4 du ++ zeros 36) (zeros n)
  let t := { running1 b with key := .ready aKey, place := some 0 }
  canForm (inLane (withStep b t)) 0 0 op (aJob b t) t (zeros n) = true ∧ t.key = .ready aKey ∧ t.place = some 0
theorem witness_AesStepsForm :
    aesCase 0x10 0 0 0 0 16 ∧ aesCase 0x11 0 0 16 0 16 ∧ aesCase 0x12 0 0 16 0 17 ∧ aesCase 0x13 0 0 0 512 512 ∧ aesCase 0x14 0 16 12 0 16 ∧
    aesCase 0x15 0 16 12 0 16 ∧ aesCase 0x16 0 16 12 0 16 ∧ aesCase 0x17 0 16 12 0 16 ∧ aesCase 0x18 0 16 0 0 16 ∧ aesCase 0x19 0 0 0 0 16 ∧
    aesCase 0x1A 0 0 0 0 9 := by unfold aesCase; decide
theorem witness_CounterModeAddsKeystream : (zeros 24).length ∈ [16, 24, 32] ∧ (List.replicate 16 (255 : Byte)).length = 16 ∧ zeros 1 ≠ [] := by decide
theorem witness_SealedTextOpensAgain : ∀ n ∈ [16, 24, 32], (zeros n).length ∈ [16, 24, 32] := by decide
def digestCase (op flags n : Nat) : Prop :=
  let b := entry op inINLINE outINLINE n (zeros 4 ++ [byteOf flags] ++ zeros 75) (zeros n)
  let t := { running1 b with key := .ready aKey, place := some 0, ectx := some aEctx }
  canForm (withStep b t) 0 0 op (aJob b t) t (zeros n) = true
theorem witness_DigestsAndMeasurements :
    (∀ op ∈ [0x20, 0x21, 0x22, 0x23, 0x24, 0x25, 0x26, 0x29, 0x2A, 0x2B], digestCase op 0 0 ∧ digestCase op 1 70) ∧
    (∀ op ∈ [0x27, 0x28], digestCase op 0 3) ∧
    (let b := entry 0x2F inINLINE outNONE 48 ([63] ++ zeros 15) (zeros 48)
     let t := { running1 b with place := some 0, ectx := some aEctx }
     let s := fun (m : Meas) => { withStep b t with meas := [(63, m)] }
     canForm (s freshMeas) 0 0 0x2F (aJob b t) t (zeros 48) = true ∧ (measReg (s freshMeas) 63).broken = false ∧ lockHolder (s freshMeas) 63 = some (0, 0) ∧
      (let u := { s { freshMeas with lock := some (1, 0) } with jobs := [(0, aJob b t), (1, { aJob b t with eid := 2 })] }
       canForm u 0 0 0x2F (aJob b t) t (zeros 48) = true ∧ lockHolder u 63 = some (1, 0)) ∧ (measReg (s { freshMeas with broken := true }) 63).broken = true) ∧
    CanWrite up 0 (pEMR 3) 0x48 ∧ ((List.range 4).find? fun i => present up .emr i) = some 0 := by unfold digestCase; decide
/-- A product of 64-bit operands in bank 0, and a bank that runs it. -/
def macB : Bytes := entry 0x30 inINLINE outINLINE 32 ([64, 0, 0, 0, 0x3F] ++ zeros 11) (zeros 32)
def macT : StepRun := { running1 macB with place := some 0 }
def banked (s : State) (st : Nat) : State := setR (inState s 2 [pSRG 0]) [(bankPg 0, SRG.BANK0.STATE, st)]
theorem witness_ArithmeticFormsOrParity :
    canForm (banked (withStep macB macT) bkRUNNING) 0 0 0x30 (aJob macB macT) macT (zeros 32) ∧ macT.place = some 0 ∧ present up .emr 3 = true ∧
    stepOnGroup (withStep macB macT) 0 false = none ∧
    (∀ f ∈ [0, 2], let b := entry 0x3B inNONE outFRAGS 0 ([0, 0, 0x21, f] ++ zeros 12) []
     let t := { running1 b with place := some 0, aux := 52 }
     let s := keyed true (banked (withStep b t) bkRUNNING)
     canForm { s with banks := [(0, { freshBank with rnd := zeros 96 })] } 0 0 0x3B (aJob b t) t [] ∧ realmKeys s 0 = some (aRealm true)) ∧
    (let b := entry 0x20 inINLINE outINLINE 0 (zeros 80) []
     let t := { running1 b with place := some 0, ectx := some aEctx }
     stepOnGroup (withStep b t) 0 false = some (0, 0) ∧ step? (withStep b t) 0 0 = some t ∧ t.bad = none ∧ t.st ≠ .ended) := by decide
/-- A generate without and with reseed and a reseed, asked for a seed or not. -/
theorem witness_RandomStepsForm :
    (∀ op ∈ [0x40, 0x41], ∀ tok ∈ [none, some 1, some 2], ∀ f ∈ [0, 1],
      let b := entry op inNONE (if op = 0x40 then outINLINE else outNONE) 0 (if op = 0x40 then [16, 0, 0, 0, f] ++ zeros 11 else []) []
      let t := { running1 b with tok }
      let s := withStep b t
      let u := inState s 2 [pTEF]
      canForm s 0 0 op (aJob b t) t [] ∧ enabled s pTEF = false ∧ canForm u 0 0 op (aJob b t) t [] ∧
        enabled u pTEF = true ∧ flag u (pg pTEF) TEF.STAT.POOL_LOW = false ∧ flag (setR u [(pg pTEF, TEF.STAT.POOL_LOW, 1)]) (pg pTEF) TEF.STAT.POOL_LOW = true ∧
        expLive u 11 = false ∧ expLive (setR u [(pg pTEF, TEF.EXP.STATE.at 11, 2)]) 11 = true) := by decide
/-! ### Dispatch, ends of steps, contexts, gates and banks -/

/-- An entry of two steps: a pattern to a bin, and from it to the inline result. -/
def binB : Bytes :=
  natLe 8 0x11201 ++ natLe 8 (16 * 2 ^ 48) ++ natLe 8 (0x62 + inNONE * 2 ^ 8 + outBIN * 2 ^ 14 + 2 ^ 32) ++ natLe 8 0 ++
    natLe 8 (0x61 + inBIN * 2 ^ 8 + outINLINE * 2 ^ 14) ++ natLe 8 (16 * 2 ^ 32) ++ zeros 8 ++ natLe 8 16
def moveI : Bytes := natLe 8 0x11101 ++ moveB.drop 8
def aDq (b : Bytes) : DqEnt := { sq := 5, eid := 1, index := 0, units := 2, bytes := b, cls := 1, peer := none, stay := false }
def queued (b : Bytes) : State := inState { units with rch := { units.rch with dq := [aDq b] } } 2 [pSYS, pTCK, pCHF]
theorem witness_ChainsRunAndEnd :
    (∀ b ∈ [moveI, binB], let s := queued b
      let x := jobOf { s with rch := { s.rch with stamp := s.rch.stamp + 1 } } (aDq b)
      nextForward s = none ∧ nextEntry s (mayForward s) = some (aDq b, 1) ∧ validate s 0 x.port x.realm x.units x.bytes = none ∧
        (∀ k, k < x.steps.length → keyedOp (x.desc k).op (realmStored s x.realm) = false) ∧ s.kcc.lookups = [] ∧ s.kcc.refusals = []) ∧
    chainBins moveI = 0 ∧ chainBins binB ≠ 0 ∧ binsFree { queued binB with jobs := [(16, { aJob moveB macT with bins := 4096 })] } < chainBins binB ∧
    (let x := { aJob binB (freshStep (descAt binB 0)) with phase := .bins, steps := [freshStep (descAt binB 0), freshStep (descAt binB 1)] }
     nextBins (onSpike x) = some 0 ∧ job? (onSpike x) 0 = some x ∧ (∀ u ∈ x.steps, u.bad = none) ∧
      lookPending { onSpike x with kcc := { up.kcc with lookups := [{ job := 0, eid := 1, step := 0, realm := 0, k := 0, op := 0x10, wait := .unit }] } } 0 1 0 = true) ∧
    nextBins up = none ∧ (∀ k ∈ [0, 1], lateLookup binB k = false) ∧ enabled (queued moveI) pTCK = true ∧ enabled (inState (queued moveI) 0 [pTCK]) pTCK = false ∧
    ustate (inState (queued moveI) 0 [pTCK]) pTCK ≠ 4 ∧
    (∀ v ∈ [none, some { status := 0x12, detail := 0x10, loc := 0 }], let t := { running1 moveB with st := .formed, bad := v }
      let s := withStep moveB t
      let x := aJob moveB t
      step? s 0 0 = some t ∧ t.held = false ∧ t.checks = 0 ∧ x.peer = none ∧ x.cid = none ∧ (sqx s x.sq).batches = [] ∧ armedGate s 0 = none ∧
        (match t.key with | .ready _ => false | _ => true) = true ∧ t.outLeft = 0 ∧ firstBad x = (v.map fun w => (w, 0)) ∧ enabled s pTCK = true ∧
        enabled (inState s 0 [pTCK]) pTCK = false ∧ (x.desc 0).outC = outINLINE ∧ givesPair x 0 = false) ∧
    resultBad 16 1 = 0 ∧ resultBad 100 1 ≠ 0 ∧
    (let b := entry 0x20 inINLINE outINLINE 0 ([0, 0, 0, 0, 1] ++ zeros 75) []
     let t := { running1 b with st := .formed }
     let x := aJob b t
     step? (withStep b t) 0 0 = some t ∧ givesPair x 0 = true ∧ t.bad = none ∧ t.out ≠ pairMatch ∧ resultBad t.out.length x.units = 0) := by
  decide
def ctxStep : StepRun := { running1 (entry 0x14 inINLINE outINLINE 16 (zeros 48) (zeros 16)) with key := .ready aKey, place := some 0 }
def ctxB : Bytes := entry 0x14 inINLINE outINLINE 16 (zeros 48) (zeros 16)
theorem witness_HeldTextAndChecks :
    (∀ c ∈ [0, 1], ∀ v ∈ [none, some { status := 2, detail := 0, loc := 0 }], let t := { ctxStep with st := .formed, held := true, checks := c, bad := v }
      step? (withStep ctxB t) 0 0 = some t ∧ t.place = some 0 ∧ isAes ((aJob ctxB t).desc 0).op = true ∧ (lane (withStep ctxB t) 0).injEnc = false ∧
        (lane (withStep ctxB t) 0).injDec = false) ∧
    CanWrite up 0 (pSPL 7) 0x44 ∧ testPermit up = true ∧ CanWrite lockedUp 0 (pSPL 0) 0x44 ∧ testPermit lockedUp = false := by decide
/-- A lane whose places are all held, by messages of one other job of this realm. -/
def fullLane (s : State) : State :=
  let held : List LaneCtx := (List.range laneSlots).map fun n => { slot := n, job := 16, step := n, express := false, last := n, msg := msgState s 0 0 }
  { s with lanes := [(0, { freshLane with ctxs := held })], jobs := s.jobs ++ [(16, { aJob ctxB ctxStep with eid := 2 })] }
theorem witness_ContextsMoveAndErrOut :
    (let s := inState (inLane (withStep ctxB ctxStep)) 3 [pSPL 0]
     let u : Suspended := { job := 9, step := 0, realm := 0, lane := 0, msg := msgState s 0 0 }
     step? s 0 0 = some ctxStep ∧ holdsCtx s 0 0 0 = true ∧ ustate s (pSPL 0) = 3 ∧ suspFree s (jobRealm s 0) = true ∧ ctxStep.bad = none ∧
      suspFree { s with susp := [u], plan := { s.plan with effSusp := [(0, 1)] } } 0 = false ∧ stepRuns s 0 0 = true) ∧
    (let m := withStep ctxB ctxStep
     let s := { m with susp := [{ job := 0, step := 0, realm := 0, lane := 0, msg := msgState m 0 0 }] }
     holdsCtx s 0 0 0 = false ∧ isSuspended s 0 0 = true ∧ laneLive s 0 = true ∧ stepRuns s 0 0 = true ∧ freeSlots s 0 false ≠ [] ∧
      wantsLane s 0 0 = true ∧ liveLanes s ≠ [] ∧
      (let f := fullLane s
       freeSlots f 0 (jobCls f 0 == 0) = [] ∧ (evictCtx f f.plan.running 0 (jobCls f 0)).isSome = true ∧ holdsCtx f 0 0 0 = false ∧ isSuspended f 0 0 = true ∧
         (let g := { f with susp := f.susp ++ [{ job := 9, step := 0, realm := 0, lane := 0, msg := msgState m 0 0 }], plan := { f.plan with effSusp := [(0, 2)] } }
          freeSlots g 0 (jobCls g 0 == 0) = [] ∧ evictCtx g g.plan.running 0 (jobCls g 0) = none ∧ isSuspended g 0 0 = true))) ∧
    (let t := { ctxStep with place := none, starve := 65535 }
     let s := inState (withStep ctxB t) 0 [pHLD]
     wantsLane s 0 0 = true ∧ liveLanes s = [] ∧ rd s (pg (pSPL (starvedLane s 0 0))) SPL.MASK_CFG.STARVE_LIMIT ≤ t.starve) ∧
    (∀ h ∈ [true, false], let t := { ctxStep with held := h }
     let s := withStep ctxB t
     job? s 0 = some (aJob ctxB t) ∧ (isSuspended s 0 0 || t.held || (t.st == .run && holdsBins (aJob ctxB t).bytes 0)) = h ∧ s.fab.waiting = []) := by decide
/-- A GATE step on gate 0, which realm 0 and port 0 are granted. -/
def gateB : Bytes := entry 0x60 inNONE outBIN 0 (natLe 8 0x1000 ++ natLe 4 64 ++ natLe 4 7 ++ zeros 16) []
def granted (s : State) (st : Nat) (x : GateX) : State :=
  setR { s with gates := [(0, x)] } [(gsB 0, GS.GRANT.EN, 1), (gsB 0, GS.STAT.STATE, st), (gsB 0, GS.STAT.TOKEN, 7)]
theorem witness_GatesAndPosts :
    (let t := running1 gateB
     let s := granted (withStep gateB t) gFREE freshGate
     job? s 0 = some (aJob gateB t) ∧ step? s 0 0 = some t ∧ ((aJob gateB t).desc 0).op = 0x60 ∧ t.gate = .none ∧ gateRefused s 0 0 = false ∧
      gateState s 0 = gFREE ∧ (gateBlk ((aJob gateB t).param 0)).notify = 0 ∧ gateRefused s 4095 0 = true ∧
      gateState (granted s gARMED freshGate) 0 = gARMED) ∧
    (let p : Post := { token := 7, result := 0, len := 64 }
     let t := { running1 gateB with gate := .released p }
     (gateOut (aJob gateB t) 0 t p).isSome = true ∧ enabled (withStep gateB t) (pSPK 0) = true ∧
      workDone (withStep gateB t) 0 (aJob gateB t) 0 t = true) ∧
    (let t := { running1 gateB with gate := .armed }
     let s := granted (withStep gateB t) gARMED { freshGate with armed := some (0, 0), ticksLeft := 0 }
     (gatex s 0).armed = some (0, 0) ∧ gateState s 0 = gARMED ∧ (gatex s 0).ticksLeft = 0 ∧ step? s 0 0 = some t ∧ t.bad = none ∧
      permitted s { src := 0, id := 0, wide := true, addr := gsB 0 } true = true ∧ rd s (gsB 0) GS.STAT.TOKEN = 7 ∧ CanWriteEntry s 0 .gs 0 0) ∧
    (gatex (granted up gFREE { freshGate with dead := some 7 }) 0).dead = some 7 ∧
    (∀ st ∈ [gOFF, gFREE, gPOSTED, gARMED], CanWriteEntry (granted up st freshGate) 0 .gs 0 0xC ∧ gateState (granted up st freshGate) 0 = st) := by decide
theorem witness_BanksBindWipeAndFail :
    (∀ st ∈ [bkEMPTY, bkIDLE], let t := { macT with place := none }
      let s := setR (banked (withStep macB t) st) [(bankPg 0, SRG.BANK0.REALM, if st = bkIDLE then 5 else 0), (bankPg 1, SRG.BANK1.STATE, bkRUNNING)]
      isArith ((aJob macB t).desc 0).op = true ∧ aheadBinds s 0 0 1 (t.asked.getD 0) = false ∧ bankFor s 0x30 0 false = some 0 ∧ bankState s 0 = st ∧
        (bankRealm s 0 = 0 ↔ st = bkEMPTY) ∧ arithDraw 0x30 (arBlk ((aJob macB t).param 0)) = 0) ∧
    (let s := withStep macB { macT with place := none }
     bankFor s 0x30 0 false = none ∧ usableArrays s 0x30 = []) ∧
    (let s := banked up bkWIPING
     bankState s 0 = bkWIPING ∧ (bank s 0).owner = none ∧ present s .srg 15 = true ∧ bankState s 31 ≠ bkWIPING) ∧
    (let s := { banked (withStep macB macT) bkLOADING with banks := [(0, { freshBank with owner := some (0, 1, 0) })] }
     bankState s 0 = bkLOADING ∧ (bank s 0).owner = some (0, 1, 0) ∧ job? s 0 = some (aJob macB macT) ∧ srcDone macT.src2 = true ∧
      isOk (inputOf (aJob macB macT) 0 macT) (zeros 32) = true ∧ privLen 0x30 (arBlk ((aJob macB macT).param 0)) = none) ∧
    privLen 0x38 (arBlk (zeros 16)) = some 32 ∧ (srcBytes macT.src2).length ≠ 32 := by decide

/-- An X25519 with its scalar in SRC2, sealed or not, on bank 0. -/
def dhB (f : Nat) : Bytes := entry 0x38 inINLINE outINLINE 32 ([0, 0, 0x10, byteOf f] ++ zeros 12) (zeros 32)
def dhT (f : Nat) (scalar : Bytes) : StepRun :=
  { running1 (dhB f) with place := some 0, src2 := { noSrc with pieces := [(0, scalar)] } }
def dhLoading (f : Nat) (scalar : Bytes) : State :=
  let s := keyed true (banked (withStep (dhB f) (dhT f scalar)) bkLOADING)
  setR { s with banks := [(0, { freshBank with owner := some (0, 1, 0) })] } [(pg pTEF, TEF.EXP.STATE.at 0, 2)]
def sealedScalar : Bytes := sealOperand (zeros 32) 0 0x38 0 (zeros 8) (zeros 32)
theorem witness_BanksDrawAndWait :
    (∀ e ∈ [0, 2], let t := { dhT 0 [] with place := none }
      let s := setR (banked (withStep (dhB 0) t) bkEMPTY) [(bankPg 1, SRG.BANK1.STATE, bkRUNNING), (pg pTEF, TEF.EXP.STATE.at 10, e)]
      bankFor s 0x38 0 false = some 0 ∧ aheadBinds s 0 0 1 (t.asked.getD 0) = false ∧ arithDraw 0x38 (arBlk ((aJob (dhB 0) t).param 0)) ≠ 0 ∧
        bankState s 0 ≠ bkIDLE ∧ lookPending s 0 1 0 = false ∧ expLive s 10 = decide (e = 2)) ∧
    (∀ tok ∈ [none, some 1], let t := { macT with place := none, tok }
      let s := setR (banked (withStep macB t) bkRUNNING) [(bankPg 1, SRG.BANK1.STATE, bkRUNNING)]
      step? s 0 0 = some t ∧ bankFor s 0x30 0 false = none ∧ usableArrays s 0x30 = [0]) ∧
    (let s := { banked (withStep macB macT) bkWIPING with banks := [(0, { freshBank with owner := some (0, 1, 0) })] }
     bankState s 0 = bkWIPING ∧ (bank s 0).owner = some (0, (aJob macB macT).eid, 0) ∧ job? s 0 = some (aJob macB macT) ∧ enabled s (pSRG 0) = true ∧
       stepRuns s 0 0 = true ∧ arithDraw 0x30 (arBlk ((aJob macB macT).param 0)) = 0) ∧
    (∀ n ∈ [31, 32], let t := dhT 0 (zeros n)
     let s := dhLoading 0 (zeros n)
     bankState s 0 = bkLOADING ∧ (bank s 0).owner = some (0, 1, 0) ∧ step? s 0 0 = some t ∧ t.st = .run ∧ t.bad = none ∧ srcDone t.src2 = true ∧
       isOk (inputOf (aJob (dhB 0) t) 0 t) (zeros 32) = true ∧ (srcBytes t.src2).length = n ∧
       opParam 0x38 ((aJob (dhB 0) t).param 0) ((aJob (dhB 0) t).desc 0).verifyOnly ((aJob (dhB 0) t).desc 0).outC 0 (some 32) = 0 ∧
       privLen 0x38 (arBlk ((aJob (dhB 0) t).param 0)) = some 32 ∧ bitAt (arBlk ((aJob (dhB 0) t).param 0)).flags 0 = false) ∧
    (let t := dhT 1 sealedScalar
     let s := setR (inState (dhLoading 1 []) 2 [pSPL 0]) [(pg pTEF, TEF.EXP.STATE.at 0, 2)]
     bitAt (arBlk ((aJob (dhB 1) t).param 0)).flags 0 = true ∧ enabled s pKCC = true ∧ fillLanes s ≠ [] ∧ realmKeys s 0 = some (aRealm true) ∧
       opParam 0x38 ((aJob (dhB 1) t).param 0) ((aJob (dhB 1) t).desc 0).verifyOnly ((aJob (dhB 1) t).desc 0).outC 0 (some 32) = 0 ∧
       openOperand (aRealm true).wk 0 0x38 0 32 (zeros 76) = none) := by decide
set_option exponentiation.threshold 3000 in
/-- A sealed scalar opens. -/
theorem witness_BanksOpenSealed : (openOperand (aRealm true).wk 0 0x38 0 32 sealedScalar).isSome = true ∧ srcBytes (dhT 1 sealedScalar).src2 = sealedScalar := by decide

/-! ### Keys -/

def aLine (flags : Nat) : Line :=
  { blankLine 0 0 with kind := 1, alg := 1, flags, st := .valid, pins := 1, share0 := zeros 16, share1 := zeros 16, pre := zeros 128 }
def withLine (s : State) (flags : Nat) : State := { s with kcc := { s.kcc with lines := [(0, aLine flags)] } }
/-- A key block of an AES-128 key for slot 0, and the key-management steps on it. -/
def keyB (op : Nat) : Bytes := entry op (if op = 0x51 then inINLINE else inNONE) (if op = 0x52 ∨ op = 0x56 then outFRAGS else outNONE)
  (if op = 0x51 then 256 else 0) (zeros 4 ++ [1, 0] ++ zeros 42) (if op = 0x51 then zeros 256 else [])
def keyT (op : Nat) : StepRun := { running1 (keyB op) with key := .ready aKey }
theorem witness_KeyReadsForm :
    canForm (keyed false (withStep (keyB 0x50) (keyT 0x50))) 0 0 0x50 (aJob (keyB 0x50) (keyT 0x50)) (keyT 0x50) [] ∧
    realmStored (keyed false up) 0 = false ∧
    (∀ op ∈ [0x56, 0x52], ∀ f ∈ [0, 2], let s := withLine (keyed true (withStep (keyB op) (keyT op))) f
      canForm s 0 0 op (aJob (keyB op) (keyT op)) (keyT op) [] ∧ pinnedLine s aKey 0 = some (0, aLine f) ∧ realmKeys s 0 = some (aRealm true) ∧
        s.kcc.lookups = [] ∧ (kccDraw s 8).2.isSome = true ∧ kccExp (setR s [(pg pTEF, TEF.EXP.STATE.at 8, 1)]) = none) := by decide
/-- Each operation on a slot that may be changed, and on a FINAL one. -/
theorem witness_KeyChangesStartOrAreRefused :
    (∀ op ∈ [0x50, 0x51, 0x55, 0x53], let t := { keyT op with key := if op = 0x53 then .none else .ready aKey }
      let x := aJob (keyB op) t
      let s := keyed true (withStep (keyB op) t)
      canForm s 0 0 op x t (if op = 0x51 then zeros 256 else []) ∧ t.tok = none ∧ enabled s pKCC = true ∧ slotReason s x 0 = 0 ∧
        slotReason { s with kcc := { s.kcc with husks := [(0, { realm := 0, gen := 1, final := true })] } } x 0 ≠ 0 ∧
        slotBusy s 0 (stepSlot s x 0) = false ∧ slotShared s 0 (stepSlot s x 0) = false ∧ huskFull s 0 (stepSlot s x 0) = false ∧ cpRuns s = false) ∧
    realmStored (keyed true up) 0 = true ∧
    (∀ op ∈ [0x50, 0x55], ∀ f ∈ [0, 1], let b := entry op inNONE outNONE 0 (zeros 4 ++ [1, byteOf f] ++ zeros 42) []
     let t := { running1 b with key := .ready aKey }
     let x := aJob b t
     let s := setR (inState (keyed true (withStep b t)) 2 [pSPL 0]) [(pg pTEF, TEF.EXP.STATE.at 0, 2)]
     canForm s 0 0 op x t [] ∧ fillLanes s ≠ [] ∧ slotReason s x 0 = 0 ∧ slotBusy s 0 (stepSlot s x 0) = false ∧
       (match takeWay s 0 (stepSlot s x 0) with
        | none => false
        | some (_, s1) => match installDraw s1 x 0 with
          | (_, none) => false
          | (s2, some (_, mat)) => match installEntry s x 0 [] (zeros (kindLen 1)), installEntry s2 x 0 [] mat with
            | .ok en, .ok _ => bitAt en.flags 0 == (f == 1) && en.limit == 0 && (f == 0 || (coherent s 0 && (peerSet s 0).isEmpty))
            | _, _ => false) = true) := by decide
theorem witness_RevokesFillsAndRefusalsEnd :
    (let v : Revoking := { job := 0, step := 0, realm := 0, slot := 3, husk := { realm := 0, gen := 1, final := false }, asked := true, recorded := false, acks := [] }
     let s := keyed true { up with kcc := { up.kcc with revokes := [v] }, cp := { up.cp with up := true } }
     enabled s pKCC = true ∧ (s.kcc.revokes.find? fun r => r.slot == 3) = some v ∧ cpBusy s 4 = false ∧ cpRuns s = true ∧ SMap.get? s.cp.fails 4 = none ∧
      SMap.get? { s with cp := { s.cp with fails := [(4, 0x0510)] } }.cp.fails 4 ≠ none ∧
      slotShared s v.realm 3 = false ∧ s.jobs = [] ∧ s.kcc.lookups = [] ∧
      cpBusy { s with grn := { s.grn with queue := [{ use := .cp 4, row := 0, mask := 0, data := [], level := 5, attempts := 0, held := none }] } } 4 = true) ∧
    (let f : Fill := { line := 0, derived := true, entry := none, bad := false }
     let s := setR (inState (keyed false { up with part := { fullPart with variant := .aqsE } }) 2 [pSPL 0])
       [(rngB 0, KCC.RANGE_FIRST.EN.at 0, 1), (rngB 0, KCC.RANGE_ATTR.KIND.at 0, 1)]
     let t := { s with kcc := { s.kcc with fills := [(0, f)], lines := [(0, blankLine 0 0)] } }
     SMap.get? t.kcc.fills 0 = some f ∧ lineAt t f.line = some (blankLine 0 0) ∧ enLanes t ≠ [] ∧ fillLanes (setR t [(pg pTEF, TEF.EXP.STATE.at 0, 2)]) ≠ [] ∧ t.jobs = [] ∧ t.kcc.lookups = [] ∧
      (match fillResult t f (blankLine 0 0) with | .ok e => e.limit == 0 | .error _ => false) = true) ∧
    (let r : Refusal40 := { job := 0, eid := 1, step := 0, realm := 0, reason := 0x0812 }
     let t := freshStep (descAt (keyB 0x50) 0)
     let s := onSpike { aJob (keyB 0x50) t with phase := .bins }
     let u := { s with kcc := { s.kcc with refusals := [r] } }
     u.kcc.refusals[0]? = some r ∧ (∀ p ∈ u.jobs, p.2.phase ∈ [.bins, .fin]) ∧ u.probeEid ≠ some r.eid ∧ (step? u r.job r.step).isSome = true) := by decide

/-! ### Ticks, plans and Teff -/

theorem witness_TicksStartAfresh :
    up.phase ≠ .cold ∧ up.jobs = [] ∧ gateState (granted up gARMED { freshGate with armed := some (0, 0), ticksLeft := 3 }) 0 = gARMED ∧
    up.plan.swOrder = none ∧
    (let s := setR { up with cp := { up.cp with up := true }, plan := { up.plan with swOrder := some 3, swSeen := true } } [(pg pCTL, HDR.CTL.EN, 1)]
     s.plan.swOrder ≠ none ∧ s.plan.swSeen = true ∧ cpServes s = true ∧ s.jobs = []) := by decide
/-- Profile 3 in the Granary, and a cost table. -/
def profB : Bytes :=
  [0x50, 0x52, 0x46, 0x31] ++ natLe 4 1 ++ [1, 0, 3, 0] ++ natLe 4 48000 ++ [10, 255, 0, 0, 8, 8, 16, 0, 0, 0, 0, 3, 0, 85, 100, 110, 4, 2, 64, 0, 0]
def profiled (s : State) : State :=
  { s with plan := { s.plan with costs := List.replicate 64 0 },
           grn := { s.grn with rows := (List.range 64).map fun i =>
             (profRow 3 0 + i, { data := if i = 0 then profB ++ zeros 27 else if i = 63 then zeros 60 ++ natLe 4 0xD739A3D7 else zeros 64, flagged := 0 }) } }
theorem witness_PlansCapsAndSwitches :
    (let s := inState up 2 [pTCK]
     enabled s pTCK = true ∧ s.plan.booked = false ∧ s.plan.switchTick = false ∧ s.plan.swOrder = none ∧ CanWrite s 0 pTCK 0x44 ∧
      SMap.get? s.unlocks pTCK = none ∧ s.jobs = [] ∧ { s with plan := { s.plan with swOrder := some 3 } }.plan.swOrder ≠ none ∧
      { s with plan := { s.plan with switchTick := true } }.plan.booked = false) ∧
    (let s := setR up [(pg pTCK, TCK.POWER_CAP.PROFILE_MW, 48000)]
     s.part.capRange.1 ≤ 48000 ∧ 48000 ≤ rd s (pg pTCK) TCK.POWER_CAP.PROFILE_MW ∧ ¬ 48001 ≤ rd s (pg pTCK) TCK.POWER_CAP.PROFILE_MW ∧
       floorBad s 48000 s.cp.splEn = false) ∧
    (let s := setR { up with cp := { up.cp with up := true }, plan := { up.plan with swDue := true, swOrder := some 3 } } [(pg pCTL, HDR.CTL.EN, 1)]
     cpServes s = true ∧ s.plan.swDue = true ∧ s.plan.swOrder = some 3 ∧ s.cp.cycle = [] ∧ s.jobs = [] ∧
      (match pickProf s 3 with | .error e => e == 0x021A | .ok _ => false) = true ∧
      (match pickProf (profiled s) 3 with | .ok f => f.cap == 48000 | .error _ => false) = true) := by decide +kernel
def aliveTef : State := setR (inState up 2 [pTEF]) [(pg pTEF, TEF.CELL_EN.MASK, 0xFFFF), (pg pTEF, TEF.HT_CFG.RCT_CUTOFF, 121), (pg pTEF, TEF.HT_CFG.APT_CUTOFF, 830)]
set_option exponentiation.threshold 2000 in
/-- A stuck cell fails both tests; a cell that alternates passes both. -/
theorem witness_WindowsBecomeSeeds :
    enabled aliveTef pTEF = true ∧ cellOn aliveTef 0 = true ∧ cellOn aliveTef 15 = true ∧
    (let x := cell aliveTef 0
     ((samplesOf 0).foldl (rctStep (rd aliveTef (pg pTEF) TEF.HT_CFG.RCT_CUTOFF)) (x.lastBit, x.run, false)).2.2 = true ∧
      830 ≤ ((samplesOf 0).filter (· == (samplesOf 0).headD 0)).length) ∧
    (let l := samplesOf (BitVec.replicate 128 0x55#8)
     (l.foldl (rctStep 121) (0, 0, false)).2.2 = false ∧ (l.filter (· == l.headD 0)).length < 830) ∧
    cellDropped aliveTef 0 = false ∧ flag aliveTef (pg pTEF) TEF.STAT.RAW = false ∧
    4 ≤ healthyCount (setR aliveTef [(pg pTEF, TEF.CELL_STAT.HEALTHY, 0xF)]) ∧
    (let s := { aliveTef with tef := { aliveTef.tef with windows := [zeros 128] } }
     seedTarget s = some 8 ∧ expState s 8 = 1 ∧ (expRec s 8).ent = none ∧
      (let all := fun (n : Nat) => setR s ((List.range 12).map fun e => (pg pTEF, TEF.EXP.STATE.at e, n))
       seedTarget (all 5) = none ∧ seedTarget (setR (all 5) [(pg pTEF, TEF.EXP.STATE.at 10, 1)]) = some 10 ∧ seedTarget (all 2) = some 0 ∧
        (let r := fun (kat : Bool) => { setR (all 5) [(pg pTEF, TEF.EXP.STATE.at 10, 1)] with
           tef := { s.tef with exps := [(10, { freshExp with kat, ent := some (zeros 48) })] } }
         seedTarget (r false) = some 10 ∧ (expRec (r false) 10).ent = some (zeros 48) ∧ needsKat (r false) 10 = true ∧ needsKat (r true) 10 = false ∧
           (∀ i < 12, i ≠ 10 → expState (r false) i = 0 ∨ expState (r false) i = 5)))) := by decide
theorem witness_TeffWritesAct :
    CanWrite aliveTef 0 pTEF 0x90 ∧ testPermit aliveTef = true ∧ testPermit (setR aliveTef [(pg pCHF, CHF.LOCK_STAT.LOCKED, 1)]) = false ∧
    flag (setR aliveTef [(pg pTEF, TEF.STAT.RAW, 1), (pg pTEF, TEF.RAW_CTL.CAPTURE, 1)]) (pg pTEF) TEF.STAT.RAW = true ∧ CanWrite up 0 pTEF 0x58 ∧
    CanWrite up 0 pTEF 0x48 ∧ ustate up pTEF = 0 ∧ ustate aliveTef pTEF ≠ 0 := by decide

/-! ### The Granary, the log and the sentinel -/

def recB : Bytes := natLe 4 4096 ++ zeros 28
def aRec : LogRec := { bytes := recB, flushed := false, started := false }
def grnOf (g : Granary) : State := inState { up with grn := g } 2 [pGRN]
def aProg (use : ProgUse) (n : Nat) : Prog := { use, row := 40000, mask := 255, data := zeros 64, level := 5, attempts := n, held := none }
theorem witness_ProgramsClockAndScan_programs :
    (∀ n ∈ [0, 6], ∀ u ∈ [ProgUse.cp 3, .refresh, .checkpoint true, .log 0 [4096]],
      let s := grnOf { freshGranary with cur := [(0, aProg u n)], staged := [aRec] }
      SMap.get? s.grn.cur 0 = some (aProg u n) ∧ Quiet s ∧ s.grn.queue = [] ∧ s.grn.clearing ≠ 2 ∧ flag s (pg pGRN) GRN.STAT.PF_REFUSE = false) ∧
    0 < rd up (pg pGRN) GRN.WEAR_CFG.RETRY_WARN := by decide
theorem witness_ProgramsClockAndScan_clock :
    (let s := setR (grnOf freshGranary) [(pg pGRN, GRN.OP_SECONDS.SECONDS, 32), (pg pGRN, GRN.STAT.SCAN, 0)]
     grnUp s = true ∧ s.grn.ckptAt + 32 ≤ opSeconds s ∧ progReason s (.checkpoint false) (clockRow s.grn.ckptSlot) = 0 ∧ s.grn.queue = [] ∧
      SMap.get? s.grn.cur (bankOf (clockRow s.grn.ckptSlot)) = none) ∧
    (let s := setR (grnOf freshGranary) [(pg pGRN, GRN.OP_SECONDS.SECONDS, 31), (pg pGRN, GRN.STAT.SCAN, 1), (pg pSYS, SYS.STAT.SUPPLY_LOSS, 1)]
     opSeconds s < s.grn.ckptAt + 32 ∧ flag s (pg pGRN) GRN.STAT.SCAN = true ∧ flag s (pg pSYS) SYS.STAT.SUPPLY_LOSS = true ∧ s.grn.rows = [] ∧
      flag (setR s [(pg pSYS, SYS.STAT.SUPPLY_LOSS, 0)]) (pg pSYS) SYS.STAT.SUPPLY_LOSS = false ∧ s.phase ≠ .cold) := by decide
/-- A scan after a supply loss of a medium with one checkpoint and one record, and of one with neither. -/
theorem witness_ProgramsClockAndScan_rebuild :
    let r : Bytes := recB.take 28 ++ natLe 4 (crc32c (recB.take 28))
    let s := setR (grnOf { freshGranary with rows := [(logRow 0, { data := r ++ List.replicate 32 0xFF, flagged := 0 }),
      (clockRow 0, { data := ckptBytes up false ++ List.replicate 48 0xFF, flagged := 0 })] }) [(pg pGRN, GRN.STAT.SCAN, 1), (pg pSYS, SYS.STAT.SUPPLY_LOSS, 1)]
    (newestCkpt s).isSome = true ∧ (newestRec (scanRemap s)).isSome = true ∧ flag s (pg pSYS) SYS.STAT.SUPPLY_LOSS = true ∧
      flag s (pg pGRN) GRN.STAT.SCAN = true := by decide
theorem witness_FlushesCoverAndEnd :
    (let s := setR (grnOf { freshGranary with staged := [aRec] }) [(pg pGRN, GRN.STAT.SCAN, 0), (pg pGRN, GRN.LOG_CFG.HIGH, 1), (pg pGRN, GRN.LOG_CFG.AGE, 60)]
     grnUp s = true ∧ s.grn.flush = none ∧ rd s (pg pGRN) GRN.LOG_CFG.HIGH ≤ (unflushed s).length ∧
      (unflushed s).length < rd (setR s [(pg pGRN, GRN.LOG_CFG.HIGH, 2)]) (pg pGRN) GRN.LOG_CFG.HIGH ∧ unflushed s = [aRec] ∧
      opSeconds s < leNat (slice aRec.bytes 4 4) + rd s (pg pGRN) GRN.LOG_CFG.AGE ∧
      leNat (slice aRec.bytes 4 4) + rd s (pg pGRN) GRN.LOG_CFG.AGE ≤ opSeconds (setR s [(pg pGRN, GRN.OP_SECONDS.SECONDS, 60)]) ∧
      CanWrite s 0 pGRN 0x94 ∧ enabled s pGRN = true) ∧
    (let f : Flush := { kind := 1, covers := [4096], rowFc := 0 }
     let s := setR (grnOf { freshGranary with staged := [aRec], flush := some f }) [(pg pGRN, GRN.STAT.SCAN, 0)]
     (unflushed s).filter (fun x => f.covers.contains (recSeq x)) = [aRec] ∧ s.grn.clearing = 0 ∧ s.grn.queue = [] ∧ s.grn.cur = [] ∧
      logRo s = false ∧ flag s (pg pGRN) GRN.STAT.PF_REFUSE = false ∧ flag s (pg pGRN) GRN.STAT.EXEC_BANK0 = false ∧ aRec.bytes.length = 32 ∧ s.grn.head % 2 = 0 ∧
      logBusy s = false ∧ (∀ r ∈ unflushed { s with grn := { s.grn with staged := [] } }, recSeq r ∉ f.covers)) := by decide
theorem witness_LogIsSoughtAndCleared :
    (let s := withUnlock (grnOf freshGranary) pGRN 0x90
     CanWrite s 0 pGRN 0x68 ∧ enabled s pGRN = true ∧ CanWrite s 0 pGRN 0x90 ∧ unlocked s pGRN 0 0x90 = true ∧ lcState s < 3 ∧ s.grn.clearing = 0 ∧
      3 ≤ lcState (inLc s 3)) ∧
    (let s := setR (grnOf { freshGranary with clearing := 1 }) [(pg pGRN, GRN.STAT.SCAN, 0)]
     grnUp s = true ∧ s.grn.flush = none ∧ s.grn.queue = [] ∧ flag s (pg pGRN) GRN.STAT.PF_REFUSE = false ∧ s.grn.clearing = 1 ∧
      (∀ n ∈ [40960, 65535, 106496, 131071], logErasable s n = true) ∧ logErasable s 40959 = false ∧
      logErasable (setR s [(pg pGRN, GRN.PART_STAT.READ_ONLY, 8)]) 40960 = false ∧ s.grn.remap = []) := by decide
theorem witness_LogClearRewinds (n : Nat) (h : partOf n = 3 ∨ partOf n = 7) :
    logErasable (setR (grnOf { freshGranary with clearing := 1 }) [(pg pGRN, GRN.STAT.SCAN, 0)]) n = true := by
  have hb : ∀ b, bankRo (setR (grnOf { freshGranary with clearing := 1 }) [(pg pGRN, GRN.STAT.SCAN, 0)]) b = false := by
    intro b
    unfold bankRo
    split <;> decide
  have hp : ∀ p ∈ [3, 7], bitAt (rd (setR (grnOf { freshGranary with clearing := 1 }) [(pg pGRN, GRN.STAT.SCAN, 0)]) (pg pGRN) GRN.PART_STAT.READ_ONLY) p = false := by
    decide
  rcases h with h | h <;> simp [logErasable, hb, partRo, h, hp]
/-- Codes below, within and above the calibrated range, with a sentinel that is DISABLED and one that is ENABLED. -/
theorem witness_SamplesAreConverted :
    (∀ st ∈ [0, 2], let s := setR (inState up st [pSNT]) [(pg pSNT, SNT.WARN.WARN_EN, 0), (pg pSNT, SNT.OFFSET.OFFSET, 0xFFFF)]
      s.phase = .run ∧ flag s (pg pSNT) SNT.STAT.PF = false ∧ flag s (pg pSNT) SNT.STAT.WARN = false ∧ flag s (pg pSNT) SNT.WARN.WARN_EN = false ∧
        s.grn.flush = none ∧ s.grn.queue = [] ∧ mvRaw s 0 = -1 ∧ mvRaw s 100 = 136 ∧ mvRaw s 40000 = 54930 ∧ mvRaw s 65535 = 89997) := by decide
theorem witness_SupplyIsWatched :
    (let s := setR (inState up 2 [pSNT]) [(pg pSNT, SNT.TRIP.TRIP_MV, 40000), (pg pSNT, SNT.TRIP.TRIP_COUNT, 2), (pg pSNT, SNT.WARN.WARN_EN, 0)]
     ustate up pSNT ≠ 2 ∧ ustate s pSNT = 2 ∧ flag s (pg pSNT) SNT.STAT.PF = false ∧ flag s (pg pSNT) SNT.STAT.WARN = false ∧
      flag s (pg pSNT) SNT.WARN.WARN_EN = false ∧ mvOf s 0 < rd s (pg pSNT) SNT.TRIP.TRIP_MV ∧ s.grn.flush = none ∧ s.grn.queue = [] ∧
      s.snt.below + 1 < rd s (pg pSNT) SNT.TRIP.TRIP_COUNT ∧ rd s (pg pSNT) SNT.TRIP.TRIP_COUNT ≤ 1 + 1 ∧ flag s (pg pSNT) SNT.STAT.STALE = false) ∧
    (let s := setR (grnOf { freshGranary with pfStage := 2 }) [(pg pGRN, GRN.STAT.SCAN, 0), (pg pSNT, SNT.STAT.PF, 1)]
     grnUp s = true ∧ pfDone s = true ∧ flag s (pg pSNT) SNT.STAT.PF = true ∧ flag (setR s [(pg pSNT, SNT.STAT.PF, 0)]) (pg pSNT) SNT.STAT.PF = false) := by
  decide

/-! ### Glume -/

def glm2 : State := inState up 2 [pGLM]
def withOtp (s : State) (l : List (Nat × Nat)) : State :=
  { s with glm := { s.glm with otp := l.map fun p => (p.1, { data := p.2, whole := true }) } }
theorem witness_LifeCycleMoves :
    (let s := setR (inLc up 1) [(pg pGLM, GLM.STAT.STARTUP, 1)]
     flag s (pg pGLM) GLM.STAT.STARTUP = true ∧ s.glm.trans = none ∧ wipeBits s < 12 ∧ segFixes s = [] ∧ arbFix s = [] ∧ integrityReasons s = [] ∧ integrityReasons (withOtp s [(1, 0xFFFF)]) ≠ [] ∧
      integrityReasons (withOtp s [(0, 0), (1, 0xFFFF)]) = [0x0623] ∧ locked s = false ∧
      12 ≤ wipeBits (withOtp s [(0, 0xFFFF), (6, 0xFFFF)]) ∧ lcState (withOtp s [(0, 0xFFFF), (6, 0xFFFF)]) < 4) ∧
    (let s := withUnlock glm2 pGLM 0x48
     let t := withUnlock (inState (withOtp up [(32, 5)]) 2 [pGLM]) pGLM 0x48
     CanWrite s 0 pGLM 0x48 ∧ unlocked s pGLM 0 0x48 = true ∧ glumeUp s = true ∧ s.glm.trans = none ∧ flag s (pg pGLM) GLM.DBG_STAT.TOKEN = false ∧
      lcReason s 1 = 0x0614 ∧ lcReason s 2 ≠ 0 ∧ lcReason t 1 = 0 ∧ lcReason (inLc s 4) 5 = 0) := by decide
theorem witness_BurnsAndKeyLoad :
    (let s := withUnlock glm2 pGLM 0x58
     glumeUp s = true ∧ locked s = false ∧ CanWrite s 0 pGLM 0x58 ∧ unlocked s pGLM 0 0x58 = true ∧ otpAccepts s 32 5 = true ∧ otpAccepts s 6 1 = false) ∧
    (let s := withUnlock glm2 pGLM 0x64
     CanWrite s 0 pGLM 0x64 ∧ unlocked s pGLM 0 0x64 = true ∧ arbValue s < 128 ∧ CanWrite s 0 pGLM 0x68 ∧ lcState (inLc s 2) = 2 ∧ lcState s ≠ 2) ∧
    (let b : Burn := { use := .arb 3, words := arbWords 0 3 }
     let s := { glm2 with glm := { glm2.glm with burns := [b] } }
     s.glm.burns = [b] ∧ flag s (pg pGLM) GLM.DBG_STAT.TOKEN = false) := by decide
/-- A token of level 3 for state 2, with the private key 1 and the nonce 1 of its signature. -/
def tokenB : Bytes :=
  [0x47, 0x4C, 0x44, 0x54, 1, 3, 0, 4] ++ zeros 24 ++ natLe 4 86400 ++ zeros 12 ++ (4 :: natBe 48 p384.gx ++ natBe 48 p384.gy) ++ zeros 15 ++
    natBe 48 p384.gx ++ natBe 48 0x3FF5D3943D5111395223BD4671B3E7D619817964593E4EC9413EEBB33ACAF9A9BCDED69B00F927B4691B24A4548C2914
def debugPart : State :=
  withOtp glm2 ([(0, 0xFFFF), (1, 0xFFFF)] ++ (List.range 24).map fun i =>
    (68 + i, 0x1dd5e1afb0969cd83edacd4c19820fc9a05bb4f440a2f442388caffb48d02f21e50d135a70067686edf9b71224264f8c / 2 ^ (16 * i) % 65536))
def aToken (n : Option Bytes) : TokenRun := { bytes := tokenB, nonce := n }
theorem witness_DebugGrants :
    (let s := setR glm2 [(pg pGLM, GLM.DBG_STAT.NONCE_VALID, 1)]
     CanWrite s 254 pGLM 0x80 ∧ glumeUp s = true ∧ grantOver s = false ∧ flag s (pg pGLM) GLM.DBG_CP.HALTED = false ∧ s.glm.refusedFc = none ∧ s.glm.verify = none ∧
      powerCycles s ≠ 0xFFFFFF ∧ flag s (pg pGLM) GLM.DBG_STAT.NONCE_VALID = true ∧ 3 ≤ dbgLevel s ∧ dbgLevel (inLc s 2) < 3) ∧
    (let s := setR glm2 [(pg pGLM, GLM.DBG_STAT.TOKEN, 1), (pg pGLM, GLM.DBG_EXPIRY.SECONDS, 10)]
     CanWrite s 0 pGLM 0x80 ∧ flag s (pg pGLM) GLM.DBG_STAT.TOKEN = true ∧ opSeconds s < rd s (pg pGLM) GLM.DBG_EXPIRY.SECONDS ∧
      rd s (pg pGLM) GLM.DBG_EXPIRY.SECONDS ≤ opSeconds (setR s [(pg pGRN, GRN.OP_SECONDS.SECONDS, 10)])) ∧
    tokenReason debugPart (aToken none) = 0x061D := by decide

/-! ### The control processor -/

/-- The control processor's firmware runs and is free. -/
def served (s : State) : State := setR { s with cp := { s.cp with up := true } } [(pg pCTL, HDR.CTL.EN, 1)]
def withArgs (s : State) (a b c : Nat) : State :=
  setR s [(pg pCTL, CTL.ARG.VALUE.at 0, a), (pg pCTL, CTL.ARG.VALUE.at 1, b), (pg pCTL, CTL.ARG.VALUE.at 2, c)]
theorem canCommand_of (s : State) (p : Nat) (h : s.cp.fails = []) (w : CanWrite s p pCTL 0x40)
    (d : (cpServes s && cpIdle s && !cpWrites s && s.plan.swOrder.isNone && !s.cp.confirmDue && s.cp.cycle.isEmpty) = true)
    (e : flag s (pg pCTL) CTL.CMD_STAT.BUSY = false ∧ locked s = false ∧ lcState s ≠ 5 ∧
      flag s (pg pCTL) CTL.STAT.SERVICE = false ∧ flag s (pg pCTL) CTL.STAT.RECOVERY = false ∧ s.cp.host = none) : CanCommand s p := by
  simp only [Bool.and_eq_true, Bool.not_eq_true', Option.isNone_iff_eq_none, List.isEmpty_iff] at d
  obtain ⟨⟨⟨⟨⟨a, b⟩, c⟩, f⟩, g⟩, k⟩ := d
  exact ⟨w, ⟨a, b, c, f, by rw [h]; trivial, by rw [h]; rfl, g, k⟩, e⟩

/-- A command under way whose last host read, of `n` bytes from its buffer's start, is out; `rest` has come. -/
def hostRead1 (n : Nat) : RdTxn := { aRead (.cpRead 1 0 0 n) with beats := 1, got := [] }
def hostIn1 (rest : Bytes) : HostIn := { cmd := 1, got := if rest.isEmpty then [] else [(64, rest)], left := 1, bad := false }
def hostLast (code src n : Nat) (rest : Bytes) (s : State) : State :=
  setR (reading { s with cp := { s.cp with host := some (hostIn1 rest) } } (hostRead1 n))
    [(pg pCTL, CTL.CMD_STAT.BUSY, 1), (pg pCTL, CTL.CMD_STAT.LAST_CODE, code), (pg pCTL, CTL.CMD_STAT.PORT, src)]
def beatOf (b : Bytes) : BitVec 512 := BitVec.ofNat 512 (leNat (b.take 64))
theorem hostLast_of (s : State) (code src n : Nat) (rest b bytes : Bytes) (h : s.cp.fails = [])
    (d : (cpServes s && cpIdle s && !cpWrites s && s.plan.swOrder.isNone && !s.cp.confirmDue && s.cp.cycle.isEmpty) = true)
    (e : s.phase = .run ∧ flag s (pg pCTL) CTL.CMD_STAT.BUSY = true ∧ rd s (pg pCTL) CTL.CMD_STAT.LAST_CODE = code ∧
      rd s (pg pCTL) CTL.CMD_STAT.PORT = src ∧ locked s = false ∧ lcState s ≠ 5 ∧ flag s (pg pCTL) CTL.STAT.SERVICE = false ∧
      flag s (pg pCTL) CTL.STAT.RECOVERY = false ∧ rd s (pg pPMU) PMU.POISON_INJ.COUNT = 0)
    (f : findRead s (BitVec.ofNat 4 (hostRead1 n).port).toNat (BitVec.ofNat 9 (hostRead1 n).tag).toNat = some (hostRead1 n) ∧ s.cp.host = some (hostIn1 rest) ∧
      SMap.getD (SMap.set [] 0 (beatBytes (beatOf b))) 0 [] ≠ [] ∧
      bytes = (SMap.set (hostIn1 rest).got 0 (slice ((List.range 1).flatMap fun i => SMap.getD (SMap.set [] 0 (beatBytes (beatOf b))) i []) 0 n)).flatMap (·.2)) :
    LastHostBeat s (BitVec.ofNat 4 (hostRead1 n).port) (BitVec.ofNat 9 (hostRead1 n).tag) 0 (beatOf b) code src bytes := by
  simp only [Bool.and_eq_true, Bool.not_eq_true', Option.isNone_iff_eq_none, List.isEmpty_iff] at d
  obtain ⟨⟨⟨⟨⟨d1, d2⟩, d3⟩, d4⟩, d5⟩, d6⟩ := d
  obtain ⟨e1, e2, e3, e4, e5, e6, e7, e8, e9⟩ := e
  obtain ⟨f1, f2, f3, f4⟩ := f
  refine ⟨e1, ⟨d1, d2, d3, d4, by rw [h]; trivial, by rw [h]; rfl, d5, d6⟩, e2, e3, e4, e5, e6, e7, e8, e9,
    hostRead1 n, hostIn1 rest, 0, 0, n, f1, rfl, f2, rfl, rfl, by simp [hostRead1], rfl, rfl, ?_, f4⟩
  intro i hi
  obtain rfl : i = 0 := by simp only [hostRead1] at hi; omega
  exact f3

/-- What a good image is depends on the ROM's keys, which are free: the clause of a good image and that of a good boot are not met here. -/
theorem witness_FirmwareCommandsAct :
    CanCommand (served up) 0 ∧ CanCommand (served up) 1 ∧ argAt (served up) 1 ≤ 2 ^ 21 ∧ sheafForm [] = false ∧ liveSqs (served up) = [] ∧
    (served up).fab.reads = [] ∧ (served up).fab.writes = [] ∧ CanCommand (served (ringIn 1 freshSq)) 0 ∧ liveSqs (served (ringIn 1 freshSq)) ≠ [] ∧
    SMap.get? (served up).unlocks pCTL = none ∧
    sheafFits up (zeros 36 ++ [7]) = false ∧ sheafFits up (zeros 22 ++ [0, 1, 0, 1] ++ zeros 10 ++ [7]) = true := by
  refine ⟨canCommand_of _ _ rfl ?_ ?_ ?_, canCommand_of _ _ rfl ?_ ?_ ?_, ?_, ?_, ?_, ?_, ?_, canCommand_of _ _ rfl ?_ ?_ ?_, ?_⟩ <;> decide

theorem witness_FirmwareCommandsAct_image :
    (let s := hostLast 1 0 64 [] (served (withArgs up 0 64 0))
     LastHostBeat s 0 5 0 (beatOf (zeros 64)) 1 0 (zeros 64) ∧ argAt s 1 ≠ 0 ∧ argAt s 1 ≤ 2 ^ 21) ∧ sheafForm (zeros 64) = false ∧
    (let s := served (withArgs up 0 64 0)
     0 < argAt s 1 ∧ argAt s 1 ≤ 2 ^ 21 ∧ argAt (served up) 1 = 0) := by
  refine ⟨⟨hostLast_of _ 1 0 64 [] (zeros 64) _ rfl ?_ ?_ ?_, ?_⟩, ?_⟩ <;> decide +kernel

/-- A record of profile 3, with its checksum. -/
def profRec : Bytes := profB ++ zeros 4055 ++ natLe 4 0xD739A3D7
def items1 : Bytes := [1, 0, 2, 0, 7, 7, 0, 0]
theorem witness_SettingsCommandsAct :
    (let s := served (withArgs up 3 0 0)
     CanCommand s 0 ∧ argAt s 0 = 3 ∧ (match pickProf s 3 with | .error e => decide (e < 2 ^ 16) | .ok _ => false) = true ∧
      recordOk (zeros 4096) 3 = false ∧ recordOk (profRec.take 4096) 3 = true ∧
      (let t := { s with plan := { s.plan with costs := List.replicate 64 0 } }
       CanCommand t 0 ∧ profReason t (profOf (profRec.take 4096)) = 0 ∧ 4096 ≤ profRec.length ∧ progReason t (.cp 0) (profRow 3 (nextRecord t 3).1) = 0) ∧ 3 < argAt (served (withArgs up 4 0 0)) 0) ∧
    (let s := served (withArgs up 0 8 0)
     CanCommand s 0 ∧ argAt s 1 = 8 ∧ parseItems (8 / 4 + 2) (zeros 3) = none ∧ parseItems 4 items1 = some [(1, [7, 7])] ∧
      parseItems 4 ([1, 0x80] ++ items1.drop 2) = some [(0x8001, [7, 7])] ∧ 1 < lcState (inLc s 2) ∧
      (match settingsRows s 1 (sheafFmt (rowsBytes s (bankRow (rd s (pg pSYS) SYS.BOOT.BANK)) 64)) [(1, [7, 7])] with
        | some (r :: _) => progReason s (.cp 0) r.1 == 0 | _ => false) = true) := by
  refine ⟨⟨canCommand_of _ _ rfl ?_ ?_ ?_, ?_, ?_, ?_, ?_, ⟨canCommand_of _ _ rfl ?_ ?_ ?_, ?_⟩, ?_⟩, canCommand_of _ _ rfl ?_ ?_ ?_, ?_⟩ <;> decide +kernel

theorem witness_SettingsCommandsAct_bytes :
    (let s := hostLast 0x11 0 64 ((profRec.take 4096).drop 64) (served (withArgs { up with plan := { up.plan with costs := List.replicate 64 0 } } 3 0 0))
     LastHostBeat s 0 5 0 (beatOf profRec) 0x11 0 (profRec.take 4096) ∧ argAt s 0 = 3 ∧ profReason s (profOf (profRec.take 4096)) = 0 ∧
       progReason s (.cp 0) (profRow 3 (nextRecord s 3).1) = 0) ∧
    (let s := hostLast 0x20 0 8 [] (served (withArgs up 0 8 0))
     LastHostBeat s 0 5 0 (beatOf items1) 0x20 0 items1 ∧ argAt s 1 = 8) := by
  refine ⟨⟨hostLast_of _ 0x11 0 64 ((profRec.take 4096).drop 64) profRec _ rfl ?_ ?_ ?_, ?_⟩, hostLast_of _ 0x20 0 8 [] items1 _ rfl ?_ ?_ ?_, ?_⟩ <;> decide +kernel

theorem witness_RealmCommandsAct :
    (let s := { keyed true (served (withArgs up 5 0 0)) with kcc := { (keyed true up).kcc with devKey := some (zeros 32, zeros 32) } }
     let t := setR s [(rtB 5, RT.STATE.STATE, 1)]
     CanCommand s 0 ∧ argAt s 0 = 5 ∧ rd s (rtB 5) RT.STATE.STATE = 0 ∧ blockBad s 5 = false ∧ rangesBad s 5 = false ∧ (devKeyOf s).isSome = true ∧
      rootThere s 5 = false ∧ (kccExp s).isSome = true ∧ progReason s (.cp 0) (rootRow 0 5) = 0 ∧ rd t (rtB 5) RT.STATE.STATE = 1 ∧ t.kcc.lines = [] ∧
      readRow t (rootRow 0 5) = erasedRow ∧ readRow t (rootRow 1 5) = erasedRow ∧ huskPlaces t = [] ∧ t.kcc.keys = [(0, aRealm true)] ∧
      (let ln := { aLine 0 with realm := 5 }; ln.pins ≠ 0 ∧ { t with kcc := { t.kcc with lines := [(0, ln)] } }.kcc.lines = [(0, ln)])) ∧
    (let s := keyed true (served (withArgs (setR up [(rtB 0, RT.STATE.STATE, 1)]) 0x310000 0 16))
     CanCommand s 0 ∧ argAt s 0 % 1024 = 0 ∧ argAt s 2 = 16 ∧ 0x31 ≤ argAt s 0 / 65536 % 256 ∧ realmKeys s 0 = some (aRealm true) ∧
      realmActive s 0 = true ∧ (kccExp s).isSome = true ∧ argAt (served (withArgs up 0 0 5121)) 2 = 5121) ∧
    (let s := served (withArgs up 4096 1 0)
     CanCommand s 0 ∧ allRecs s = [] ∧
      (let t := { s with grn := { s.grn with staged := [aRec] } }
       CanCommand t 0 ∧ argAt t 0 < 2 ^ 32 ∧ (seekRec t (argAt t 0)).isSome = true ∧ 1 ≤ argAt t 1)) := by
  refine ⟨⟨canCommand_of _ _ rfl ?_ ?_ ?_, ?_⟩, ⟨canCommand_of _ _ rfl ?_ ?_ ?_, ?_⟩, canCommand_of _ _ rfl ?_ ?_ ?_, ?_, canCommand_of _ _ rfl ?_ ?_ ?_, ?_⟩ <;> decide +kernel

/-- Row `r` of the baseline, in a block that fits no optional unit with a row there. -/
def atRow (r : Nat) : State := let s := served up; { s with cp := { s.cp with row := r } }
/-- The two clauses about what the ROM finds rest on free values, its RAM test and its keys, and are met up to those. -/
theorem witness_ControlProcessorRuns :
    (let s := { glm2 with cp := { glm2.cp with rom := true } }
     glumeUp s = true ∧ s.cp.rom = true ∧ flag s (pg pGLM) GLM.DBG_CP.HALTED = false ∧ ustate s pCTL ≠ 4 ∧ cpBusy s 0 = false ∧ (bootItem s).trial = 0 ∧
      flag (setR s [(pg pGRN, GRN.STAT.SCAN, 0)]) (pg pGRN) GRN.STAT.SCAN = false ∧ flag s (pg pCTL) CTL.CMD_STAT.BUSY = false ∧ Quiet s) ∧
    (∀ r ∈ [1, 8, 9], let s := atRow r
      cpRuns s = true ∧ locked s = false ∧ s.cp.row = r ∧ rowsSettled s r = true ∧ rowWait s r = none ∧ s.phase = .run) ∧
    rowWait (atRow 3) 3 = some 1 ∧
    (let s := setR (served (setR up [(pg pCTL, CTL.FW_STAT.READY, 1), (pg pCTL, CTL.STAT.TRIAL, 1)])) []
     CanWrite s 0 pCTL 0x90 ∧ flag s (pg pCTL) CTL.FW_STAT.READY = true ∧ trialOpen s = true ∧ cpRunFc s ≤ 60 * fcPerSecond s ∧
      60 * fcPerSecond s < cpRunFc { s with fcNow := 60 * fcPerSecond s + 1 } ∧ (CanCommand s 0) ∧
      (match bootRows s { bootItem s with active := s.cp.trialBank, trial := 0 } with | r :: _ => progReason s (.cp 0) r.1 == 0 | [] => false) = true) ∧
    trialOpen (served up) = false ∧ flag (served up) (pg pCTL) CTL.STAT.TRIAL = false ∧
    (let s := setR (served up) [(pg pCTL, CTL.CMD_STAT.BUSY, 1), (pg pCTL, CTL.CMD_STAT.LAST_CODE, 3)]
     cpRuns s = true ∧ flag s (pg pCTL) CTL.CMD_STAT.BUSY = true ∧ rd s (pg pCTL) CTL.CMD_STAT.LAST_CODE = 3 ∧ CanCommand (served up) 0) := by
  refine ⟨?_, ?_, ?_, ⟨?_, ?_, ?_, ?_, ?_, canCommand_of _ _ rfl ?_ ?_ ?_, ?_⟩, ?_, ?_, ?_, ?_, ?_, canCommand_of _ _ rfl ?_ ?_ ?_⟩ <;> decide +kernel

theorem witness_RealmCommandsAct_bytes :
    let s := hostLast 0x38 0 16 [] (keyed true (served (withArgs (setR up [(rtB 0, RT.STATE.STATE, 1)]) 0x310000 0 16)))
    LastHostBeat s 0 5 0 (beatOf (zeros 64)) 0x38 0 (zeros 16) ∧ argAt s 2 = 16 ∧ 0x31 ≤ argAt s 0 / 65536 % 256 ∧ realmKeys s 0 = some (aRealm true) ∧
      realmActive s 0 = true ∧ (kccExp s).isSome = true := by
  refine ⟨hostLast_of _ 0x38 0 16 [] (zeros 64) _ rfl ?_ ?_ ?_, ?_⟩ <;> decide +kernel

/-! ### Culm links -/

/-- Link 0 in a state, with what it holds beside its registers; realm 0 is shared on it, and its keys are here. -/
def linkIn (st : Nat) (x : Link) : State :=
  setR (inState { keyed true { units with clm := [(0, x)] } with jobs := [] } 2 [pCLM 0])
    [(pg (pCLM 0), CLM.LINK_STAT.STATE, st), (pg (pCLM 0), CLM.LINK_STAT.PHY_UP, 1), (pg (pCLM 0), CLM.SHR.EN.at 0, 1),
     (pg (pCLM 0), CLM.SHR.COHERENT.at 0, 1), (pg (pCLM 0), CLM.LINK_CFG.ACCEPT_JOBS, 1), (pg (pCLM 0), CLM.HB_CFG.MISS, 2)]
/-- A message waiting on link 0, in a state. -/
def msgIn (s : State) (m : Nat) (g : LinkMsg) : State :=
  { s with clm := SMap.set s.clm 0 { link s 0 with inbox := [(msgVc m, g)] } }
theorem arrived_in (s : State) (m : Nat) (g : LinkMsg) (h : linkRuns s 0 = true ∧ linkState s 0 = lkUP) (e : g.mtype = mcode m)
    (k : ∃ x, s.clm = [(0, x)]) : Arrived (msgIn s m g) 0 m g := by
  have c : (linkState s 0 == lkUP) = true := by simp [h.2]
  refine ⟨h.1, ?_, ?_, e⟩
  · show (linkState s 0 == lkUP || _) = true
    rw [c]; rfl
  · obtain ⟨x, hx⟩ := k
    simp [frontMsg, msgIn, link, SMap.getD, hx, SMap.set, SMap.get?]

theorem msgIn_keeps (s : State) (m : Nat) (g : LinkMsg) :
    linkState (msgIn s m g) 0 = linkState s 0 ∧ (∀ r, shrEntry (msgIn s m g) 0 r = shrEntry s 0 r) ∧ (∀ r, realmKeys (msgIn s m g) r = realmKeys s r) ∧
    (∀ r, realmBase (msgIn s m g) r = realmBase s r) ∧ ∀ r, realmCount (msgIn s m g) r = realmCount s r :=
  ⟨rfl, fun _ => rfl, fun _ => rfl, fun _ => rfl, fun _ => rfl⟩

theorem length_natLe (n v : Nat) : (natLe n v).length = n := by
  induction n generalizing v with | zero => rfl | succ n ih => simp [natLe, ih]
theorem natLe_leNat (b : Bytes) : natLe b.length (leNat b) = b := by
  induction b with
  | nil => rfl
  | cons x b ih =>
    have h1 : byteOf (x.toNat + 256 * leNat b) = x := by apply BitVec.eq_of_toNat_eq; simp only [byteOf, BitVec.toNat_ofNat]; have := x.isLt; omega
    have h2 : (x.toNat + 256 * leNat b) / 256 = leNat b := by omega
    simp only [List.length_cons, leNat, natLe, h1, h2, ih]
theorem leNat_natLe (n v : Nat) (h : v < 256 ^ n) : leNat (natLe n v) = v := by
  induction n generalizing v with
  | zero => simp [natLe, leNat] at *; omega
  | succ n ih =>
    have : v / 256 < 256 ^ n := by rw [Nat.div_lt_iff_lt_mul (by omega)]; rwa [Nat.pow_succ] at h
    simp only [natLe, leNat, ih _ this, byteOf, BitVec.toNat_ofNat]; omega
theorem leNat_lt (b : Bytes) : leNat b < 256 ^ b.length := by
  induction b with
  | nil => simp [leNat]
  | cons x b ih => simp only [leNat, List.length_cons, Nat.pow_succ]; have := x.isLt; omega
theorem crc32c_lt (b : Bytes) : crc32c b < 2 ^ 32 := by
  have bit : ∀ c : Nat, c < 2 ^ 32 → (if c % 2 = 1 then (c / 2) ^^^ 0x82F63B78 else c / 2) < 2 ^ 32 := by
    intro c h; split
    · exact Nat.xor_lt_two_pow (by omega) (by omega)
    · omega
  have bits : ∀ (l : List Nat) (c : Nat), c < 2 ^ 32 → l.foldl (fun c _ => if c % 2 = 1 then (c / 2) ^^^ 0x82F63B78 else c / 2) c < 2 ^ 32 := by
    intro l; induction l with
    | nil => intro c h; exact h
    | cons a l ih => intro c h; exact ih _ (bit c h)
  have all : ∀ (l : Bytes) (c : Nat), c < 2 ^ 32 → crcLsb32 0x82F63B78 c l < 2 ^ 32 := by
    intro l; induction l with
    | nil => intro c h; exact h
    | cons a l ih =>
      intro c h
      exact ih _ (bits _ _ (Nat.xor_lt_two_pow h (by have := a.isLt; omega)))
  exact Nat.xor_lt_two_pow (all b _ (by omega)) (by omega)

/-- 60 bytes with their CRC. -/
def flitOf (b : Bytes) : BitVec 512 := BitVec.ofNat 512 (leNat (b ++ natLe 4 (crc32c b)))
set_option exponentiation.threshold 600 in
theorem flitOf_bytes (b : Bytes) (h : b.length = 60) : beatBytes (flitOf b) = b ++ natLe 4 (crc32c b) := by
  have hl : (b ++ natLe 4 (crc32c b)).length = 64 := by simp [h, length_natLe]
  have lt : leNat (b ++ natLe 4 (crc32c b)) < 2 ^ 512 := by have := leNat_lt (b ++ natLe 4 (crc32c b)); rw [hl] at this; exact Nat.lt_of_lt_of_eq this (by decide)
  have := natLe_leNat (b ++ natLe 4 (crc32c b))
  rw [hl] at this
  simp only [beatBytes, flitOf, BitVec.toNat_ofNat, Nat.mod_eq_of_lt lt, this]
theorem flitOf_crc (b : Bytes) (h : b.length = 60) :
    leNat (slice (beatBytes (flitOf b)) 60 4) = crc32c ((beatBytes (flitOf b)).take 60) := by
  rw [flitOf_bytes b h]
  have e : slice (b ++ natLe 4 (crc32c b)) 60 4 = natLe 4 (crc32c b) := by
    have d : (b ++ natLe 4 (crc32c b)).drop 60 = natLe 4 (crc32c b) := by rw [← h]; exact List.drop_left ..
    have k : (natLe 4 (crc32c b)).take 4 = natLe 4 (crc32c b) := List.take_of_length_le (Nat.le_of_eq (length_natLe 4 _))
    simp only [slice, d, k, length_natLe]; exact List.append_nil _
  rw [e, leNat_natLe _ _ (crc32c_lt b)]
  simp [← h]

/-- A flit of VC2 that is a whole message of type HB; a TRAIN flit of node 1 with protocol versions 1 to `mx`. -/
def hbFlit : Bytes := [14, 0, 0, 0, byteOf (mcode mHB)] ++ zeros 55
def trainFlit (mx : BitVec 8) : Bytes := [3, 0, 0, 0, 3] ++ zeros 8 ++ [9] ++ zeros 7 ++ [1, 1, mx] ++ zeros 36
def heldFlit : TxFlit := { vc := 2, first := true, last := true, payload := zeros 56 }
set_option exponentiation.threshold 600 in
theorem witness_FlitsAndCreditsArrive :
    (let p := beatBytes (flitOf hbFlit)
     leNat (slice p 60 4) = crc32c (p.take 60) ∧ leNat (p.take 4) = 14 ∧ msgOfBytes (slice p 4 56) = { bareMsg mHB 0 0 with body := zeros 32 }) ∧
    leNat (slice (beatBytes 1) 60 4) ≠ crc32c ((beatBytes 1).take 60) ∧
    (∀ st ∈ [lkUP, lkDOWN, lkLOST, lkLOCKED], linkRuns (linkIn st freshLink) 0 = true ∧ linkState (linkIn st freshLink) 0 = st) ∧
    (let s := linkIn lkUP { freshLink with replay := [(4095, heldFlit)] }
     linkLive s 0 = true ∧ carries s 0 2 = true ∧ 14 / 256 % 4096 = (link s 0).expSeq ∧ 14 / 256 % 4096 ≠ (link (linkIn lkUP { freshLink with expSeq := 1 }) 0).expSeq ∧
      (link s 0).replay.findIdx? (fun p => p.1 == 4095) = some 0 ∧ 4095 ≠ (link s 0).nextSeq ∧ (link s 0).resends < 8 ∧ (link s 0).txq = []) := by
  refine ⟨⟨flitOf_crc _ rfl, ?_, ?_⟩, ?_⟩
  · rw [flitOf_bytes _ rfl]; rfl
  · rw [flitOf_bytes _ rfl]
    simp only [msgOfBytes, bareMsg]
    congr 1
    have : mcode mHB < 256 := (Config.mtype mHB).isLt
    show (byteOf (mcode mHB)).toNat + 256 * 0 = mcode mHB
    simp only [byteOf, BitVec.toNat_ofNat]; omega
  · decide
set_option exponentiation.threshold 600 in
theorem witness_LinksLiveAndTalk_links :
    present up .clm 0 = true ∧ rd up (pg (pCLM 0)) CLM.LINK_STAT.PHY_UP = 0 ∧
    (∀ mx ∈ [1, 9], let p := beatBytes (flitOf (trainFlit mx))
      leNat (slice p 60 4) = crc32c (p.take 60)) ∧
    (let s := setR (linkIn lkTRAINING freshLink) [(pg (pCLM 0), CLM.SHR.EN.at 0, 0), (pg (pCLM 0), CLM.PROTO.MIN, 2), (pg (pCLM 0), CLM.PROTO.MAX, 3)]
     ∀ mx ∈ [1, 9], let p := trainFlit mx
       let i := trainOf (slice p 4 56)
       linkState s 0 = lkTRAINING ∧ leNat (slice p 0 1) % 4 = 3 ∧ leNat (slice p 4 1) = 3 ∧ peerClash s 0 i = false ∧ i.fenced = false ∧ i.locked = false ∧
         (∀ k < 16, flag s (pg (pCLM 0)) (CLM.SHR.EN.at k) = false) ∧
         (max (rd s (pg (pCLM 0)) CLM.PROTO.MIN) i.mn ≤ min (rd s (pg (pCLM 0)) CLM.PROTO.MAX) i.mx ↔ mx = 9)) ∧
    (let s := linkIn lkUP freshLink
     let b := pg (pCLM 0)
     flag s b CLM.LINK_STAT.PHY_UP = true ∧ linkLive s 0 = true ∧ rd s b CLM.INJECT.MODE ≠ 4 ∧ (link s 0).missed + 1 < rd s b CLM.HB_CFG.MISS ∧
      rd s b CLM.HB_CFG.MISS ≤ (link (linkIn lkUP { freshLink with missed := 1 }) 0).missed + 1 ∧ linkState (linkIn lkLOST freshLink) 0 = lkLOST ∧
      (∀ n ∈ [0, 2], let t := setR s [(b, CLM.INJECT.MODE, 4), (b, CLM.INJECT.COUNT, n)]; linkLive t 0 = true ∧ rd t b CLM.INJECT.MODE = 4 ∧ rd t b CLM.INJECT.COUNT = n)) := by
  refine ⟨rfl, by decide, ?_, by decide⟩
  intro mx _
  exact flitOf_crc _ rfl
theorem witness_LinkRegistersAct :
    (let s := withUnlock (linkIn lkDOWN freshLink) (pCLM 0) 0x60
     CanWrite s 0 (pCLM 0) 0x60 ∧ unlocked s (pCLM 0) 0 0x60 = true ∧ flag s (pg (pCLM 0)) CLM.FENCE.FENCE = false ∧ linkLive s 0 = false ∧
      linkState s 0 ≠ lkLOCKED ∧ s.kcc.lookups = [] ∧ s.jobs = [] ∧ CanWrite s 0 (pCLM 0) 0x80 ∧ CanWrite s 0 (pCLM 0) 0xBC ∧ linkState s 0 ≠ lkUP ∧
      flag s (pg (pCLM 0)) (CLM.SHR.EN.at 0) = true ∧ flag s (pg (pCLM 0)) (CLM.SHR.EN.at 15) = false) ∧
    (let s := setR (withUnlock (linkIn lkFENCED freshLink) (pCLM 0) 0x60) [(pg (pCLM 0), CLM.FENCE.FENCE, 1)]
     CanWrite s 0 (pCLM 0) 0x60 ∧ unlocked s (pCLM 0) 0 0x60 = true ∧ flag s (pg (pCLM 0)) CLM.FENCE.FENCE = true ∧ linkState s 0 = lkFENCED) ∧
    (let s := linkIn lkUP freshLink
     let t := setR s [(fwdB 0 0 0, CLM.FWD_CFG.EN, 1), (fwdB 0 0 0, CLM.FWD_CFG.SQ, 7), (pg (pCLM 0), CLM.FWD_SEL.ENTRY, 1)]
     CanWrite s 0 (pCLM 0) 0x6C ∧ flag s (fwdB 0 (rd s (pg (pCLM 0)) CLM.FWD_SEL.ENTRY) 0) CLM.FWD_CFG.EN = false ∧
      flag t (fwdB 0 0 0) CLM.FWD_CFG.EN = true ∧ rd t (fwdB 0 0 0) CLM.FWD_CFG.SQ = 7 ∧ flag t (fwdB 0 (rd t (pg (pCLM 0)) CLM.FWD_SEL.ENTRY) 0) CLM.FWD_CFG.EN = false ∧
      CanWrite s 0 (pCLM 0) 0x64 ∧ testPermit s = true ∧ testPermit (inLc s 2) = false ∧ (link s 0).swap = none ∧
      ∀ k < 4, ∀ i < 16, flag s (fwdB k i 0) CLM.FWD_CFG.EN = false) := by decide

/-- A ring entry that was forwarded, the window access and the step it stands for, and a window for it. -/
def fwd1 : FwdJob := { tx := 3, fwd := 0, ent := { sq := 5, eid := 1, index := 0, units := 1, bytes := [], cls := 1, peer := none, stay := false } }
def askOf (w : Who) : WinAsk := { tx := 3, jobTag := 0, who := w, addr := 0x1000, len := 16 }
def windowed (s : State) : State :=
  setR s [(fwdB 0 0 0, CLM.WIN_SIZE.LOG2, 12), (fwdB 0 0 0, CLM.WIN_SIZE.READ, 1), (fwdB 0 0 0, CLM.WIN_SIZE.WRITE, 1)]
theorem windowed_up : linkRuns (windowed (linkIn lkUP freshLink)) 0 = true ∧ linkState (windowed (linkIn lkUP freshLink)) 0 = lkUP := by decide
theorem windowed_clm : ∃ x, (windowed (linkIn lkUP freshLink)).clm = [(0, x)] := ⟨freshLink, by decide⟩
def onJob (s : State) (b : Bytes) : State := { s with jobs := [(0, aJob b (running1 b))] }
theorem witness_ForwardedJobsGoRound :
    (let g := fun (r : Nat) => bareMsg mJOB 5 r
     let s := fun (r : Nat) => msgIn (linkIn lkUP freshLink) mJOB (g r)
     Arrived (s 0) 0 mJOB (g 0) ∧ Arrived (s 1) 0 mJOB (g 1) ∧ jobAccepted (s 0) 0 (g 0) = true ∧ jobAccepted (s 1) 0 (g 1) = false) ∧
    (let g := bareMsg mABORT 5 0
     let d := { fwd1.ent with peer := some { link := 0, tag := 5, realm := 0 } }
     let s := linkIn lkUP { freshLink with runs := [5] }
     let t := { s with rch := { s.rch with dq := [d] } }
     Arrived (msgIn s mABORT g) 0 mABORT g ∧ s.rch.dq = [] ∧ Arrived (msgIn t mABORT g) 0 mABORT g ∧ t.rch.dq.find? (fun d => isPeer 0 5 d.peer) = some d ∧
      5 ∈ (link t 0).runs ∧ s.jobs = [] ∧
      (let y := { aJob macB { macT with work := 0 } with peer := some { link := 0, tag := 5, realm := 0 } }
       let u := banked { s with jobs := [(0, y)] } bkLOADING
       Arrived (msgIn u mABORT g) 0 mABORT g ∧ isPeer 0 5 y.peer = true ∧ y.phase = .run ∧ bankWaits (msgIn u mABORT g) y = true ∧
         committedJob (msgIn u mABORT g) y = false)) ∧
    (let s := fun (m : Nat) => msgIn (linkIn lkUP { freshLink with jobs := [fwd1] }) m (bareMsg m 3 0)
     Arrived (s mDONE) 0 mDONE (bareMsg mDONE 3 0) ∧ Arrived (s mREFUSED) 0 mREFUSED (bareMsg mREFUSED 3 0) ∧
      fwdJob (s mDONE) 0 (bareMsg mDONE 3 0) = some fwd1 ∧ fwdJob (s mREFUSED) 0 (bareMsg mREFUSED 3 0) = some fwd1 ∧
      sqState (s mREFUSED) fwd1.ent.sq ≠ 3) ∧
    (∀ m n, (let g := { bareMsg m 5 0 with len := n }
      Arrived (msgIn (windowed (linkIn lkUP freshLink)) m g) 0 m g)) ∧
    (∀ w, ∀ n ∈ [1, 1024, 0, 1025], serveOk (windowed (linkIn lkUP freshLink)) 0 { bareMsg mWREAD 5 0 with len := n } w = decide (1 ≤ n ∧ n ≤ 1024)) ∧
    (let b := entry 0x00 inINLINE outNONE 16 [] (zeros 16)
     let s := fun (w : Who) => linkIn lkUP { freshLink with asks := [askOf w] }
     (let a := .frag 0 1 0 0 0 0 16 0
      let g := bareMsg mRDATA 3 0
      let t := msgIn (onJob (s a) b) mRDATA g
      Arrived (msgIn (s a) mRDATA g) 0 mRDATA g ∧ winAsk (msgIn (s a) mRDATA g) 0 g = some (askOf a) ∧ txnLive (s a) 0 1 0 = false ∧
        Arrived t 0 mRDATA g ∧ winAsk t 0 g = some (askOf a) ∧ step? t 0 0 = some (running1 b) ∧ txnLive t 0 1 0 = true ∧ dataLive t 0 1 0 = true) ∧
     (let a := .out 0 1 0 0
      let g := bareMsg mWACK 3 0
      let t := msgIn (onJob (s a) b) mWACK g
      Arrived t 0 mWACK g ∧ winAsk t 0 g = some (askOf a) ∧ job? t 0 = some (aJob b (running1 b)) ∧ (aJob b (running1 b)).eid = 1 ∧
        (aJob b (running1 b)).phase ≠ .fin ∧ step? t 0 0 = some (running1 b))) := by
  refine ⟨⟨arrived_in _ _ _ (by decide) rfl ⟨_, rfl⟩, arrived_in _ _ _ (by decide) rfl ⟨_, rfl⟩, rfl, rfl⟩,
    ⟨arrived_in _ _ _ (by decide) rfl ⟨_, rfl⟩, rfl, arrived_in _ _ _ (by decide) rfl ⟨_, rfl⟩, by decide, by decide, rfl,
      arrived_in _ _ _ (by decide) rfl ⟨{ freshLink with runs := [5] }, by decide⟩, rfl, rfl, by decide +kernel⟩,
    ⟨arrived_in _ _ _ (by decide) rfl ⟨_, rfl⟩, arrived_in _ _ _ (by decide) rfl ⟨_, rfl⟩, by decide⟩,
    fun m n => arrived_in _ _ _ windowed_up rfl windowed_clm, by decide +kernel,
    ⟨arrived_in _ _ _ (by decide) rfl ⟨_, rfl⟩, by decide +kernel, by decide +kernel,
      arrived_in _ _ _ (by decide) rfl ⟨_, rfl⟩,
      by decide +kernel⟩,
    arrived_in _ _ _ (by decide) rfl ⟨_, rfl⟩, by decide +kernel⟩

/-- A pending install of a peer, an outcome of this side, and a pull. -/
def prep1 : Prepared := { tx := 3, realm := 0, slot := 2, entry := zeros 256, lost := false }
def out1 : PrepOut := { tx := 3, slot := 2, tok := 4, done := none }
def wr1 : SeedWr := { use := .install 0 0 0 (blankLine 0 2), entry := zeros 256, answered := false, acks := 2 }
theorem witness_SharedKeysAreSettled :
    (∀ m r, (let g := { bareMsg m 3 r with addr := 2, body := zeros 3, len := 3 }
      let s := msgIn (linkIn lkUP { freshLink with preps := [prep1], outs := [out1], pulls := [(3, 7)] }) m g
      Arrived s 0 m g ∧ (link s 0).preps.length < 64 ∧ (link s 0).preps.find? (fun q => q.tx == g.tag % 4096) = some prep1 ∧ s.kcc.lookups = [] ∧ s.jobs = [] ∧
        (link s 0).outs.find? (fun o => o.tx == g.tag % 4096 && o.done.isNone) = some out1 ∧ g.status = 0 ∧
        (link s 0).pulls.find? (fun p => p.1 == g.tag % 4096) = some (3, 7) ∧ realmStored s 0 = true ∧ g.addr < rd s (pg pKCC) KCC.SB_SLOTS.COUNT ∧
        (shrEntry s 0 0).isSome = true ∧ shrEntry s 0 1 = none ∧ g.body.length = 3)) ∧
    (∀ m, (let g := bareMsg m 3 0
      Arrived (msgIn (linkIn lkUP freshLink) m g) 0 m g ∧ (freshLink.preps.find? fun q => q.tx == g.tag % 4096) = none)) ∧
    (let b := entry 0x50 inNONE outNONE 0 [] []
     let t := { running1 b with tok := some 14 }
     let s := linkIn lkUP { freshLink with outs := [out1] }
     let u := { s with jobs := [(0, aJob b t)], kcc := { s.kcc with writes := [(4, wr1)] } }
     let g := bareMsg mPACK 3 0
     Arrived (msgIn u mPACK g) 0 mPACK g ∧ SMap.get? u.kcc.writes 4 = some wr1 ∧ awaitsWrite u 0 0 4 = true ∧ wr1.acks ≠ 1) ∧
    (let g := { bareMsg mREVOKE 3 0 with addr := 2, len := 4, body := [5, 0, 0, 0] }
     let s := msgIn (linkIn lkUP freshLink) mREVOKE g
     Arrived s 0 mREVOKE g ∧ (adoptHusk s 2 { realm := 0, gen := 5, final := false }).isSome = true) ∧
    (let g := { bareMsg mOUTCOMEQ 3 0 with len := 2, body := [3, 0] }
     Arrived (msgIn (linkIn lkUP freshLink) mOUTCOMEQ g) 0 mOUTCOMEQ g ∧ g.body.length = 2) ∧
    (let g := { bareMsg mOUTCOME 3 0 with len := 3, body := [3, 0, 1] }
     let s := msgIn (linkIn lkUP { freshLink with preps := [{ prep1 with lost := true }] }) mOUTCOME g
     Arrived s 0 mOUTCOME g ∧ (link s 0).preps.find? (fun q => q.tx == leNat (g.body.take 2) % 4096 && q.lost) = some { prep1 with lost := true } ∧
      g.realm ∉ (link s 0).syncOk ∧ bitAt (leNat (g.body.drop 2)) 0 = true) ∧
    (∀ st, (let f : Fill := { line := 1, derived := false, entry := none, bad := false }
     let g := { bareMsg mPULLDATA 3 0 with status := st }
     let s := linkIn lkUP { freshLink with pulls := [(3, 7)] }
     let t := msgIn { s with kcc := { s.kcc with fills := [(7, f)], lines := [(1, blankLine 0 0)] } } mPULLDATA g
     Arrived t 0 mPULLDATA g ∧ SMap.get? t.kcc.fills 7 = some f ∧ lineAt t f.line = some (blankLine 0 0) ∧ t.kcc.lookups = [] ∧ t.jobs = [])) := by
  refine ⟨fun m r => ⟨arrived_in _ _ _ (by decide) rfl ⟨_, rfl⟩, Nat.lt_of_lt_of_eq (show 1 < 64 by decide) rfl, rfl, rfl, rfl, rfl, rfl, rfl, rfl, show 2 < 16 by decide, rfl, rfl, rfl⟩,
    fun m => ⟨arrived_in _ _ _ (by decide) rfl ⟨_, rfl⟩, rfl⟩, ⟨arrived_in _ _ _ (by decide) rfl ⟨_, rfl⟩, rfl, rfl, by decide⟩,
    ⟨arrived_in _ _ _ (by decide) rfl ⟨_, rfl⟩, rfl⟩, ⟨arrived_in _ _ _ (by decide) rfl ⟨_, rfl⟩, rfl⟩, ⟨arrived_in _ _ _ (by decide) rfl ⟨_, rfl⟩, rfl, by decide, rfl⟩,
    fun st => ⟨arrived_in _ _ _ (by decide) rfl ⟨_, rfl⟩, rfl, rfl, rfl, rfl⟩⟩

theorem witness_LinksLiveAndTalk_messages :
    (∀ m, (let g := bareMsg m 0 0
      Arrived (msgIn (linkIn lkUP freshLink) m g) 0 m g)) ∧
    (∀ n, (let g := { bareMsg mREALMSYNC 0 0 with status := 1, len := n, body := syncCheck (aRealm true) 0 }
     let s := msgIn (linkIn lkUP freshLink) mREALMSYNC g
     Arrived s 0 mREALMSYNC g ∧ linkState s 0 = lkUP ∧ shrEntry s 0 g.realm = some 0 ∧ realmKeys s g.realm = some (aRealm true) ∧
      SMap.get? (link s 0).syncs g.realm = none ∧ g.status = bit (aRealm true).stored ∧ s.kcc.lookups = [] ∧ s.jobs = [] ∧ (link s 0).preps = [] ∧
      g.addr = realmBase s g.realm ∧ realmCount s g.realm = 16)) := by
  have e1 : linkState (linkIn lkUP freshLink) 0 = lkUP := by decide
  have e2 : shrEntry (linkIn lkUP freshLink) 0 0 = some 0 := by decide
  have e3 : realmKeys (linkIn lkUP freshLink) 0 = some (aRealm true) := by decide
  have e4 : 0 = realmBase (linkIn lkUP freshLink) 0 := by decide
  have e5 : realmCount (linkIn lkUP freshLink) 0 = 16 := by decide
  refine ⟨fun m => arrived_in _ _ _ (by decide) rfl ⟨_, rfl⟩, fun n => ⟨arrived_in (linkIn lkUP freshLink) mREALMSYNC _ (by decide) rfl ⟨_, rfl⟩,
    (msgIn_keeps _ _ _).1.trans e1, ((msgIn_keeps _ _ _).2.1 0).trans e2, ((msgIn_keeps _ _ _).2.2.1 0).trans e3, rfl, rfl, rfl, rfl, rfl,
    e4.trans ((msgIn_keeps _ _ _).2.2.2.1 0).symm, ((msgIn_keeps _ _ _).2.2.2.2 0).trans e5⟩⟩

/-! ### Worked examples of the spec and of the standards it names -/

/-- The CRC-32C of the ASCII bytes "123456789" (R389). -/
theorem test_crc32c : crc32c [0x31, 0x32, 0x33, 0x34, 0x35, 0x36, 0x37, 0x38, 0x39] = 0xE3069283 := by decide
/-- The express ECB entry of the example after R79, and its one step (the example after R113). -/
theorem test_entry_layout :
    (let b : Bytes := [0x01, 0x01, 0x01, 0x00, 0x17, 0x5A, 0, 0, 0x42, 0, 0, 0, 0, 0, 0x10, 0, 0x10, 0x81, 0, 0, 0, 0, 0, 0, 0, 0, 0, 0, 0x10, 0, 0, 0] ++ zeros 32
     let d := descAt b 0
     d.op = 0x10 ∧ d.inC = inINLINE ∧ d.outC = outINLINE ∧ d.pUnits = 0 ∧ d.len = 16 ∧ d.rzBad = false ∧ leNat (b.take 8) = 0x00005A1700010101) := by decide
/-- The set of KCC slot 0x00101321 of realm 37, hashed and not (the example of the KCC's index). -/
theorem test_kcc_set : kccSet up 0x101321 37 = 769 ∧ kccSet (setR up [(pg pKCC, KCC.CFG.HASH, 0)]) 0x101321 37 = 801 := by decide
/-- The derating of the example with a hottest sensor of 101.5 degrees that read 99 degrees 16 ticks before. -/
theorem test_derate : derateOf (setR up [(pg pTCK, TCK.THERM_CFG.THROTTLE_C, 100), (pg pTCK, TCK.THERM_CFG.FLOORT_C, 105), (pg pTCK, TCK.LIMITS.FLOOR_FRAC, 64)]) 822 = 151 := by
  decide
set_option exponentiation.threshold 4000 in
/-- The cipher example of FIPS 197, C.1. -/
theorem test_aes128 : aesEnc ((List.range 16).map byteOf) ((List.range 16).map fun i => byteOf (17 * i)) = natBe 16 0x69c4e0d86a7b0430d8cdb78070b4c55a := by decide
/-- SHA-256 of "abc" (FIPS 180-4). -/
theorem test_sha256 : sha256 [0x61, 0x62, 0x63] = natBe 32 0xba7816bf8f01cfea414140de5dae2223b00361a396177a9cb410ff61f20015ad := by decide

end Sys2Proof.Tests
end

/-! ### Every command: what may follow it -/

namespace Sys2Proof.Machine

/-- Whatever next state `o` answers can follow `s`; a fault and a refusal answer none. -/
def Leads (s : State) (o : Out) : Prop := ∀ t, o = .next t → Evolves s t

namespace Leads

variable {s t : State}

theorem next (h : Evolves s t) : Leads s (.next t) := fun _ e => Host.Outcome.next.inj e ▸ h

theorem fault (f : Fault) : Leads s (.fault f) := fun _ e => nomatch e

theorem refused (r : Refusal) : Leads s (.refused r) := fun _ e => nomatch e

/-- An effect that comes only under a guard; without it nothing changes. -/
theorem guard {c : Prop} [Decidable c] (h : Evolves s t) : Leads s (.next (if c then t else s)) := .next (.ite h (.refl s))

/-- An effect after which the EXPRESS requests that have come to stand are admitted (R166). -/
theorem admitNew (h : Evolves s t) : Leads s (.next (admitNew t)) := .next (h.trans (evolves_admitNew t))

/-- A guarded effect after which the EXPRESS requests that have come to stand are admitted (R166). -/
theorem guardAdmitNew {c : Prop} [Decidable c] (h : Evolves s t) : Leads s (.next (if c then Machine.admitNew t else s)) :=
  .guard (h.trans (evolves_admitNew t))

theorem onMsg {l m : Nat} {fx : State → LinkMsg → State} (h : ∀ u g, Evolves u (fx u g)) : Leads s (.next (onMsg s l m fx)) :=
  .next (evolves_onMsg h)

theorem formOp {j k op : Nat} {fx : State → Job → StepRun → Bytes → State} (h : ∀ u x t b, Evolves u (fx u x t b)) :
    Leads s (.next (formOp s j k op fx)) := .next (evolves_formOp h)

theorem pageWrite {src id p off : Nat} {fx : State → State} (h : ∀ u, Evolves u (fx u)) :
    Leads s (.next (pageWrite s src id p off fx)) := .next (evolves_pageWrite h)

theorem pageLocked {src id p off : Nat} {fx : State → State} (h : ∀ u, Evolves u (fx u)) :
    Leads s (.next (pageLocked s src id p off fx)) := .next (evolves_pageLocked h)

theorem entryWrite {src id : Nat} {k : PageKind} {n off : Nat} {wide : Bool} {fx : State → State} (h : ∀ u, Evolves u (fx u)) :
    Leads s (.next (entryWrite s src id k n off wide fx)) := .next (evolves_entryWrite h)

end Leads

/-! ### Commands with branches of their own -/

theorem leads_porstNDeassert {strap : BitVec 2} (s : State) : Leads s (execPorstNDeassert strap s) := by
  refine .guard (.trans (.trans (.trans (.trans (.trans ?_ (evolves_readKeeper _)) (evolves_showFuses _)) (evolves_wr ..))
    (evolves_wr ..)) (evolves_startFx _))
  exact .upd_all (.refl s) rfl rfl

theorem leads_srstNAssert (s : State) : Leads s (execSrstNAssert s) := by
  unfold execSrstNAssert
  split
  · exact .next (evolves_startDrain ..)
  · exact .next (.upd_all (.refl s) rfl rfl)
  · exact .next (.refl s)

theorem leads_rstDrainDone (s : State) : Leads s (execRstDrainDone s) := by
  refine .guard ?_
  split
  · exact evolves_resetFx ..
  · exact (evolves_resetFx ..).trans (evolves_startFx _)
  · exact .refl s

theorem leads_srstNDeassert (s : State) : Leads s (execSrstNDeassert s) := by
  unfold execSrstNDeassert
  split
  · exact .next (evolves_startFx s)
  · exact .next (.upd_all (.refl s) rfl rfl)
  · exact .next (.refl s)

theorem leads_supplyLoss (s : State) : Leads s (execSupplyLoss s) := by
  have hu : Evolves s (stopGlume (stopGranary s)) := (evolves_stopGranary s).trans (evolves_stopGlume _)
  exact .next (.reset hu rfl rfl rfl rfl (wf_baseRegs _) rfl rfl)

theorem leads_readBeat {port : BitVec 4} {tag : BitVec 9} {beat : BitVec 6} {data : BitVec 512} {err poison : Bool} (s : State) :
    Leads s (execReadBeat port tag beat data err poison s) := by
  unfold execReadBeat
  split
  · exact .next (.refl s)
  · split
    · split
      · exact .fault _
      · split
        · exact .next (evolves_beatFx ..)
        · exact .next (evolves_beatDrain ..)
    · exact .next ((evolves_lateArrival ..).trans (evolves_pumpPort ..))
    · exact .next (.refl s)

theorem leads_writeResponse {port : BitVec 4} {tag : BitVec 8} {err : Bool} (s : State) : Leads s (execWriteResponse port tag err s) := by
  unfold execWriteResponse
  split
  · exact .next (.refl s)
  · split
    · exact .next (.ite (evolves_responseFx ..) (evolves_dropWrite ..))
    · exact .next ((evolves_lateArrival ..).trans (evolves_pumpPort ..))
    · exact .next (.refl s)

theorem leads_creditReturn {port : BitVec 4} {req wd : BitVec 2} (s : State) : Leads s (execCreditReturn port req wd s) := by
  unfold execCreditReturn
  extract_lets p q w
  split
  · exact .next (.refl s)
  · split
    · exact .fault _
    · exact .next ((evolves_addCredits ..).trans (evolves_pumpPort ..))

theorem leads_fabricTimeout {port : BitVec 4} {isWrite : Bool} {tag : BitVec 9} (s : State) :
    Leads s (execFabricTimeout port isWrite tag s) := by
  unfold execFabricTimeout
  split
  · exact .next (.refl s)
  · split
    · split
      · exact .next (.ite (evolves_writeTimeout ..) ((evolves_dropWrite ..).trans (evolves_quarantine ..)))
      · exact .next (.refl s)
    · split
      · exact .next (.ite (evolves_readTimeout ..) ((evolves_dropRead ..).trans (evolves_quarantine ..)))
      · exact .next (.refl s)

theorem leads_fecClear {src id : BitVec 8} {addr : BitVec 25} (s : State) : Leads s (execFecClear src id addr s) := by
  unfold execFecClear
  split
  · refine .pageWrite fun u => ?_
    split
    · exact evolves_fecClear ..
    · exact .refl u
  · exact .next (.refl s)

theorem leads_unlockExpire {page : BitVec 8} (s : State) : Leads s (execUnlockExpire page s) := by
  unfold execUnlockExpire
  split
  · exact .guard (evolves_lapse ..)
  · exact .next (.refl s)

theorem leads_entryDispatch (s : State) : Leads s (execEntryDispatch s) := by
  refine .guard ?_
  split
  · exact evolves_sendJob ..
  · refine .ite (.refl s) ?_
    split
    · exact (evolves_dispatch ..).trans (evolves_admitNew _)
    · exact .refl s

theorem leads_binsReserved (s : State) : Leads s (execBinsReserved s) := by
  refine .guard ?_
  split
  · split
    · exact ((evolves_reserveBins ..).trans (evolves_pumpJob ..)).trans (evolves_admitNew _)
    · exact .refl s
  · exact .refl s

theorem leads_completionWrite (s : State) : Leads s (execCompletionWrite s) := by
  refine .guard ?_
  split
  · exact .ite (evolves_presentCompl ..) (evolves_discardCompl ..)
  · exact .refl s

theorem leads_captureDone {data : List (BitVec 8)} (s : State) : Leads s (execCaptureDone data s) := by
  unfold execCaptureDone
  split
  · exact .next (evolves_captureDoneFx ..)
  · exact .refused _

/-! ### All commands -/

/-- No command can do what `Evolves` rules out: commands that share an operation stand together, each with what the operation's law says. -/
theorem leads_exec (c : Instr) (s : State) : Leads s (exec c s) := by
  cases c with
  -- Pins, the supply, the fabric ports.
  | porstNAssert => exact .next (.ite (.refl s) (evolves_resetFx ..))
  | porstNDeassert => exact leads_porstNDeassert s
  | srstNAssert => exact leads_srstNAssert s
  | rstDrainDone => exact leads_rstDrainDone s
  | srstNDeassert => exact leads_srstNDeassert s
  | supplyLoss => exact leads_supplyLoss s
  | readBeat => exact leads_readBeat s
  | writeResponse => exact leads_writeResponse s
  | creditReturn => exact leads_creditReturn s
  | fabricTimeout => exact leads_fabricTimeout s
  -- Reads and writes of any offset.
  | regWrite => exact .next (evolves_tqWrite fun _ => evolves_writeFx ..)
  | peekRead | rcRegisterRead | swpDataRead | noticeRead | logDataRead => exact .next (evolves_tqRead ..)
  | doorbell => exact .next (evolves_tqWrite fun _ => evolves_doorbellFx ..)
  | unlock => exact .next (evolves_tqWrite fun _ => evolves_pageWord32 ..)
  | fecClear => exact leads_fecClear s
  -- Writes of one register of a unit's page.
  | unitEnable | unitDisable => exact .pageWrite fun _ => evolves_ctlFx ..
  | evtForce => exact .pageWrite fun _ => evolves_evtForceFx ..
  | vecCtlWrite => exact .pageWrite fun _ => evolves_vecCtlFx ..
  | stwSizeWrite => exact .pageWrite fun _ => evolves_stwSizeFx ..
  | splInjectWrite => exact .pageWrite fun _ => evolves_checkCfgFx ..
  | measSelWrite => exact .pageWrite fun _ => evolves_measSelFx ..
  | overrideMwWrite => exact .pageWrite fun _ => evolves_overrideFx ..
  | reseedReqWrite => exact .pageWrite fun _ => evolves_reseedReqFx ..
  | cellClrWrite => exact .pageWrite fun _ => evolves_cellClrFx ..
  | rawEnter | rawExit | capture => exact .pageWrite fun _ => evolves_rawCtlFx ..
  | ruleValWrite => exact .pageWrite fun _ => evolves_ruleValFx ..
  | flush => exact .pageWrite fun _ => evolves_flushGoFx ..
  | logSeek => exact .pageWrite fun _ => evolves_logSeekFx ..
  | keyLoad => exact .pageWrite fun _ => evolves_keyLoadReq ..
  | challenge | submit | endGrant | halt => exact .pageWrite fun _ => evolves_dbgCtlFx ..
  | fwConfirm => exact .pageWrite fun _ => evolves_confirmFx ..
  | yield => exact .pageWrite fun _ => evolves_shrFx ..
  | fwdCfgWrite => exact .pageWrite fun _ => evolves_fwdCfgFx ..
  | clmInjectWrite => exact .pageWrite fun _ => evolves_clmInjectFx ..
  | probeCtlWrite => exact .pageWrite fun _ => evolves_probeCtlFx ..
  | chaffInj => exact .pageWrite fun _ => evolves_chaffInjFx ..
  | poisonInjWrite => exact .pageWrite fun _ => evolves_poisonInjFx ..
  | memtest => exact .pageWrite fun _ => evolves_memTestFx ..
  | release => exact .pageLocked fun _ => evolves_releaseFx ..
  | logClear => exact .pageLocked fun _ => evolves_logClearFx ..
  | lcReq => exact .pageLocked fun _ => evolves_lcReqFx ..
  | otpProg => exact .pageLocked fun _ => evolves_otpProgFx ..
  | arbReq => exact .pageLocked fun _ => evolves_arbReqFx ..
  | clmFenceWrite => exact .pageLocked fun _ => evolves_fenceFx ..
  | fwInstall | fwActivate | fwStatus | profileSwitch | profileStore | settingsWrite | realmCreate | realmDestroy | sealOperand
  | logExport => exact .next (evolves_cmdRow ..)
  -- Writes of a word of a table entry.
  | ppDbMapWrite => exact .entryWrite fun _ => evolves_dbMapFx ..
  | ptCtlWrite => exact .entryWrite fun _ => evolves_ptCtlFx ..
  | ptMsiWrite => exact .entryWrite fun _ => evolves_ptMsiFx ..
  | sqEnable | sqDisable | sqResume => exact .entryWrite fun _ => evolves_sqCtlFx ..
  | cqEnable | cqDisable => exact .entryWrite fun _ => evolves_cqCtlFx ..
  | gsPost => exact .entryWrite fun _ => (evolves_gsPostFx ..).trans (evolves_admitNew _)
  | gsGrantWrite => exact .entryWrite fun _ => evolves_grantFx ..
  -- Rings, stash and completions.
  | stashCopy => exact .guard (evolves_stashCopyFx ..)
  | stashInval => exact .guard (evolves_stashDrop ..)
  | sqDrainDone => exact .guard (evolves_sqDrainDoneFx ..)
  | scanVisit => exact .next (evolves_scanFx s)
  | entryDispatch => exact leads_entryDispatch s
  | binsReserved => exact leads_binsReserved s
  | completionWrite => exact leads_completionWrite s
  | sqReturn => exact .guard (evolves_returnDue ..)
  -- Steps of a chain.
  | nop | move | fill | hmacPrestate => exact .formOp fun _ _ _ _ => evolves_formStep ..
  | compare => exact .formOp fun _ _ _ _ => evolves_compareFx ..
  | measureExtend => exact .formOp fun _ _ _ _ => evolves_extendFx ..
  | rngGenerate | rngReseed => exact .formOp fun _ _ _ _ => evolves_rngFx ..
  | keyDeriveInstall => exact .formOp fun _ _ _ _ => .ite (evolves_installFx ..) (evolves_formStep ..)
  | keyUnwrapInstall | keyGenerateInstall => exact .formOp fun _ _ _ _ => evolves_installFx ..
  | keyWrapExport => exact .formOp fun _ _ _ _ => evolves_exportFx ..
  | keyRevoke => exact .formOp fun _ _ _ _ => evolves_revokeFx ..
  | keyStatus => exact .formOp fun _ _ _ _ => evolves_statusFx ..
  | gate => exact .admitNew (evolves_gateFx ..)
  | ecb | cbc | ctr | xts | gcm | gmac | ccm | gcmSiv | cmac | kw | kwp => exact .next (evolves_aesRow ..)
  | sha256 | sha224 | sha384 | sha512 | sha3x256 | sha3x384 | sha3x512 | shake128 | shake256 | hmacSha256 | hmacSha384
  | hmacSha512 => exact .next (evolves_digestRow ..)
  | srgMac | modexp | rsaCrt | ecdsaSign | ecdsaVerify | ecdh | eddsaSign | eddsaVerify | x25519 | mlkemEncaps | mlkemDecaps
  | mlkemKeygen | mldsaSign | mldsaVerify | nttRaw => exact .admitNew (evolves_arithRow ..)
  | stepEnd => exact .guardAdmitNew (evolves_endStep ..)
  | heldRelease => exact .next (evolves_heldFx ..)
  | inverseCheckDone => exact .next (evolves_checkFx ..)
  | suspendMove => exact .guard (evolves_suspendMoveFx ..)
  | starveLimitExpire => exact .guard (evolves_starveExpireFx ..)
  | holdEccUncorr => exact .guard (evolves_holdEccFx ..)
  | coreParityError => exact .guard (evolves_parityFx ..)
  | measBroken => exact .guard (evolves_measBrokenFx ..)
  -- Keys, banks and entropy.
  | kccFillDone => exact .guardAdmitNew ((evolves_endFill ..).trans (evolves_pumpJobs _))
  | keyRefused => exact .guardAdmitNew ((evolves_answerRefusal ..).trans (evolves_pumpJobs _))
  | revokeCommit => exact .guard (evolves_revokeCommitFx ..)
  | bankBind => exact .guard (evolves_bindStep ..)
  | bankLoaded => exact .guardAdmitNew (evolves_bankLoadedFx ..)
  | bankWipeDone => exact .guard (evolves_wipeDone ..)
  | bankEccError => exact .guard (evolves_bankEcc ..)
  | healthWindowEnd => exact .guard (evolves_windowFx ..)
  | seedFormed => exact .guard (evolves_seedFx ..)
  | captureDone => exact leads_captureDone s
  -- Ticks, times and counts.
  | tickBoundary => exact .next (.ite (.refl s) (evolves_tickFx s))
  | planBuild => exact .guard (evolves_planFx ..)
  | gateTimeout => exact .guard (evolves_gateTimeoutFx ..)
  | profileSwitchApply => exact .guard (evolves_switchApplyFx s)
  | opSecondsAdvance => exact .next (.ite (.refl s) (evolves_wr ..))
  | pmuCyclesWrap => exact .guard (evolves_passFc ..)
  | memtestDone => exact .guard (evolves_memTestDoneFx ..)
  -- Units, faults and the collector.
  | unitEnableDone => exact .guard (evolves_enableDone ..)
  | unitDisableDone => exact .guard (evolves_disableDone ..)
  | unlockExpire => exact leads_unlockExpire s
  | clkRatio | chfSelfCheck | booksImbalance => exact .guard (evolves_chaffAny ..)
  | chaffClassify => exact .guard (evolves_chaffNext ..)
  | zeroizeDone => exact .next (.ite (.refl s) (.ite (evolves_zeroizeFx s) (evolves_wipeDoneLc s)))
  | eccCorrected => exact .guard (evolves_eccCorrFx ..)
  | memoryEccUncorr => exact .guard (evolves_eccUncorrFx ..)
  -- The Granary, the sentinel and Glume.
  | programAttemptDone => exact .guard (((evolves_attemptFx ..).trans (evolves_glumePump _)).trans (evolves_cpPump _))
  | logFlush => exact .guard (evolves_logFlushFx s)
  | flushAgeExpire => exact .guard (evolves_ageFx s)
  | flushDone => exact .guard (evolves_flushDoneFx s)
  | clockCheckpoint => exact .guard (evolves_checkpoint ..)
  | granaryScanDone => exact .guard (evolves_scanDoneFx s)
  | logClearDone => exact .guard (evolves_logClearDoneFx s)
  | sntSample => exact .guard (evolves_sampleFx ..)
  | sntStale => exact .guard (evolves_staleFx s)
  | pfFlushDone => exact .guard (evolves_pfDoneFx s)
  | glumeStartupDone => exact .guard (evolves_glumeStart s)
  | lcTransitionDone => exact .guard (evolves_lcDone s)
  | otpBurnDone => exact .guard (evolves_burnDone ..)
  | tokenVerifyDone => exact .guard (evolves_tokenDone s)
  | grantExpire => exact .guard (evolves_endGrantFx s)
  -- The control processor.
  | bootRomStart => exact .guard ((((evolves_romFx s).trans (evolves_cpPump _)).trans (evolves_cpServe ..)).trans (evolves_cpPump _))
  | cpBaselineRow => exact .guard (evolves_baselineFx s)
  | baselineWaitTimeout => exact .guard (evolves_baselineTimeoutFx s)
  | confirmWindowExpire => exact .guard ((evolves_chaffAny ..).trans (evolves_warmRestart _))
  | wdogExpire => exact .guard (evolves_wdogFx s)
  | wdogKick => exact .guard (((evolves_cpPump s).trans (evolves_cpServe ..)).trans (evolves_cpPump _))
  -- Links: flits, the physical layer and heartbeats.
  | flitReceive | train => exact .guard (evolves_flitRx ..)
  | replayTimeout => exact .guard (evolves_resendFx ..)
  | nak => exact .guard (evolves_nakFx ..)
  | credit | idle => exact .guard (evolves_takeCredits ..)
  | linkPhyUp => exact .guard (evolves_phyUpFx ..)
  | linkPhyDown => exact .guard (evolves_phyDownFx ..)
  | hbSend => exact .guard (evolves_hbSendFx ..)
  | hbMiss => exact .guard (evolves_hbMissFx ..)
  | lostRetrain => exact .guard (.ite (evolves_startTraining ..) (evolves_enterLink ..))
  -- Links: messages.
  | job => exact .onMsg fun _ _ => evolves_jobFx ..
  | abort => exact .onMsg fun _ _ => evolves_abortFx ..
  | wread => exact .onMsg fun _ _ => evolves_wreadFx ..
  | wwrite => exact .onMsg fun _ _ => evolves_wwriteFx ..
  | rdata => exact .onMsg fun _ _ => evolves_rdataFx ..
  | wack => exact .onMsg fun _ _ => evolves_wackFx ..
  | done => exact .onMsg fun _ _ => evolves_doneFx ..
  | refused => exact .onMsg fun _ _ => evolves_refusedFx ..
  | prepare => exact .guard (evolves_onMsg fun _ _ => evolves_prepareFx ..)
  | pack => exact .onMsg fun _ _ => evolves_packFx ..
  | commit | cancel => exact .onMsg fun _ _ => evolves_decidePrep ..
  | cack => exact .onMsg fun _ _ => evolves_cackFx ..
  | revoke => exact .onMsg fun _ _ => evolves_revokePeerFx ..
  | rack => exact .onMsg fun _ _ => evolves_rackFx ..
  | outcomeQ => exact .onMsg fun _ _ => evolves_outcomeQFx ..
  | outcome => exact .onMsg fun _ _ => evolves_outcomeFx ..
  | keyPull => exact .onMsg fun _ _ => evolves_keyPullFx ..
  | pullData => exact .onMsg fun _ _ => evolves_pullDataFx ..
  | hello => exact .onMsg fun u _ => .refl u
  | hb => exact .onMsg fun _ _ => evolves_setLink ..
  | realmSync => exact .onMsg fun _ _ => evolves_syncFx ..
  | mirror => exact .onMsg fun _ _ => evolves_mirrorFx ..
  | leave => exact .onMsg fun _ _ => evolves_loseLink ..

/-- Settles O2: each command's operation keeps the part and the queue, and neither time nor the counter of free values goes back
(`Evolves`). -/
theorem commandsKeepQueueAndPart : Obligations.CommandsKeepQueueAndPart := by
  unfold Obligations.CommandsKeepQueueAndPart
  intro c s t h
  obtain ⟨hpart, hqueue, htime, hfree, -⟩ := leads_exec c s t h
  exact ⟨hqueue, hpart, htime, hfree⟩

/-! ### Accesses without the right, and accesses in the reset drain -/

@[simp] theorem deny_tp (s : State) (a : Acc) (we : Bool) : (deny s a we).tp = { id := a.id, data := 0, err := 1 } := rfl

/-- A message to the collector changes nothing but the collector. -/
theorem chaff_only (s : State) (m : ChaffMsg) : chaff s m = { s with chaff := (chaff s m).chaff } := by
  have h := onlyRc_chaff s m
  unfold OnlyRc at h
  rw [chaff_regs] at h
  exact h

/-- A refused access from a port that the configuration does not have is counted nowhere (R9). -/
theorem deny_of_not_portAccepted {s : State} {a : Acc} (we : Bool) (h : portAccepted s a.src = false) :
    deny s a we = { s with tp := (deny s a we).tp, chaff := (deny s a we).chaff } := by
  unfold deny
  simp only [h]
  exact congrArg (respond · a.id 0 1) (chaff_only s _)

theorem tqRead_of_not_permitted {s : State} {a : Acc} (hp : s.phase = .run) (h : permitted s a false = false) :
    tqRead s a = deny s a false := by
  simp [tqRead, hp, h]

theorem tqWrite_of_not_permitted {s : State} {a : Acc} (fx : State → State) (hp : s.phase = .run) (h : permitted s a true = false) :
    tqWrite s a fx = deny s a true := by
  simp [tqWrite, hp, h]

/-- In the reset drain every read but one of SYS.STAT answers NOT_READY (R21). -/
theorem tqRead_drain_of_ne {s : State} {a : Acc} (hp : s.phase = .drain ∨ s.phase = .restart) (h : a.addr ≠ 0xC) :
    tqRead s a = respond s a.id 0 2 := by
  rcases hp with hp | hp <;> simp [tqRead, hp, h]

/-- In the reset drain SYS.STAT is read with the right to it (R21). -/
theorem tqRead_drain_stat {s : State} {src id : Nat} (hp : s.phase = .drain ∨ s.phase = .restart) (h : wordRight s src 0xC false = true) :
    tqRead s { src, id, wide := false, addr := 0xC } = respond s id (wordAt s src 0xC false) 0 := by
  rcases hp with hp | hp <;> simp [tqRead, hp, h]

/-- Port 0 may read SYS.STAT wherever the configuration has that port (R53). -/
theorem wordRight_stat_port_zero {s : State} (h : portAccepted s 0 = true) : wordRight s 0 0xC false = true := by
  simp [wordRight, h, placeOf, pageRight]

/-- Settles O10: a refused access ends in `deny`, and a read in the reset drain in the two answers of `tqRead`. -/
theorem deniedAndDrainedAccesses : Obligations.DeniedAndDrainedAccesses := by
  unfold Obligations.DeniedAndDrainedAccesses
  refine ⟨fun src id wide addr data s hrun => ⟨fun hright => ?_, fun hright => ?_⟩,
    fun src id wide addr s hdrain => ⟨fun hne => ?_, fun hstat hwide haccept _ hsrc => ?_⟩⟩
  · exact ⟨_, congrArg Host.Outcome.next (tqRead_of_not_permitted hrun hright), deny_tp .., fun h => deny_of_not_portAccepted _ h⟩
  · exact ⟨_, congrArg Host.Outcome.next (tqWrite_of_not_permitted _ hrun hright), deny_tp .., fun h => deny_of_not_portAccepted _ h⟩
  · exact congrArg Host.Outcome.next (tqRead_drain_of_ne hdrain hne)
  · subst hwide hsrc
    simp only [exec, execRcRegisterRead, hstat]
    exact congrArg Host.Outcome.next (tqRead_drain_stat hdrain (wordRight_stat_port_zero haccept))

end Sys2Proof.Machine
